-- ==== Sys2Proof/Word.lean ====
section
/-! DEFINITION. The word and register types of the machine and their plainest arithmetic (01 R21, 02 R24). -/

namespace Sys2Proof

/-- A scalar register value or an address being computed: 64 bits (01 R21). -/
abbrev Word := BitVec 64

/-- A byte of memory. -/
abbrev Byte := BitVec 8

/-- A vector register: 16,384 bits (01 R21). -/
abbrev VReg := BitVec 16384

/-- A mask register: 2,048 bits, bit e governs element e (01 R21). -/
abbrev MReg := BitVec 2048

/-- A scale register: 256 bf16 entries (05 R136). -/
abbrev KReg := BitVec 4096

/-- The number of a scalar or vector register (02 R26). -/
abbrev Reg := Fin 32

end Sys2Proof
end

