-- ==== Sys2Proof/Config.lean ====
section
/-! DEFINITION. What an implementation fixes and the free values: values the spec leaves open. A free value is an opaque
constant applied to the model's counter `fresh` (or to the operands it depends on), so no proof can learn it. -/

namespace Sys2Proof.Config

/-- The package's number in its pod (12 R300; log 2, DESIGN CHOICE). -/
def packageNumber : Nat := 0

/-- The packages of the pod beside this one (17 R415: at most 1,024 in all; log 7, a free value). -/
opaque podPeers : Fin 1024

/-- The packages of the pod (17 R415). -/
def podSize : Nat := podPeers.val + 1

/-- The packages of the largest system (17 R417). -/
def systemSize : Nat := 524288

/-- The package time base when an event takes place (16 R392; log 7, a free value). -/
opaque timeBase : Nat → BitVec 64

/-- A timing field of a sample record (16 R400; log 7, a free value). -/
opaque sampleTiming : Nat → BitVec 64

/-- Which of several vstxu elements that write the same byte prevails, outside Calendar mode (06 R162; log 7, a free
value): the number is reduced modulo the number of the elements concerned. -/
opaque unorderedPick : Nat → Nat

/-- A word that the spec does not state: what a report says where no rule gives it (14 R339, R346; log 7, a free value). -/
opaque openWord : Nat → BitVec 64

/-- The span in units of 2^GL elements that Umante chooses in Calendar mode, less 1: a function of N, GL and the number of
issue slots of the partition (14 R342; log 7, a free value). -/
opaque calendarSpan : Nat → Nat → Nat → Nat

/-- The span in units of 2^GL elements that Umante chooses outside Calendar mode, less 1 (14 R342; log 7, a free value). -/
opaque unitSpan : Nat → Nat

/-- The signature of an attestation report, 2,500 bytes long as a number (17 R421; log 7, a free value). -/
opaque attestationSignature : Nat → BitVec 20000

/-- The vendor's public key in the ROM, a root and a seed, and the operator's key as it was provisioned in the SRAM store (17 R419; log 7, free values). -/
opaque vendorKey : BitVec 512
opaque operatorKey : BitVec 512

/-- The version of the boot ROM and the part's identity number (17 R420, R421; log 7, free values). -/
opaque romVersion : BitVec 256
opaque identity : BitVec 64

/-- Whether a write that nothing covers survives a compute-die reset, given the reset and the write's number (13 R316; log 7, a
free value). -/
opaque survives : Nat → Nat → Bool

/-- Whether a range of HBM, given by its first byte and length, has a byte in the stacks of a base die (17 R422; log 7, a
free value): the spec does not say how addresses spread over the stacks. -/
opaque rangeInDie : Nat → Nat → Nat → Bool

/-- The HBM stack and the row region, 1/64 of the stack, that hold a line's copy 0 or 1 (13 R314; 16 R410; log 7, free values): the
spec does not say how addresses spread over the stacks. -/
opaque stackOf : Nat → Nat → Fin 8
opaque rowRegion : Nat → Nat → Fin 64

/-- A byte of a line that holds an uncorrectable error in every copy, as a check of a record finds it (13 R328; log 7, a free
value), given the check and the byte's place. -/
opaque unreadable : Nat → Nat → BitVec 8

/-- A sensor reading (17 R423; log 7, a free value). -/
opaque sensor : Nat → BitVec 64

/-- The page frame of another package's memory to which that package translates an address of a job, from the frame of the
address (11 R283): the page tables of that package are no part of this one (log 7, a free value). -/
opaque remoteFrame : Nat → Nat → Nat → BitVec 40

end Sys2Proof.Config
end

