-- ==== Sys2Proof/Machine/Tab.lean ====
section
/-! DEFINITION. Sparse tables: numbered things held as a list of (number, value) pairs in rising order, with one value for
every number the list leaves out. Registers, slots, cores and the tables of the package are held in this form. -/

namespace Sys2Proof.Machine

/-- A sparse table of values of type `α`. -/
abbrev Tab (α : Type) := List (Nat × α)

/-- The entry at `k`; `d` where the table lists none. -/
def tabGet {α : Type} (d : α) : Tab α → Nat → α
  | [], _ => d
  | (k, v) :: t, n => if n = k then v else tabGet d t n

/-- The table with `v` at `k`. -/
def tabSet {α : Type} : Tab α → Nat → α → Tab α
  | [], n, v => [(n, v)]
  | (k, u) :: t, n, v =>
    if n < k then (n, v) :: (k, u) :: t else if n = k then (n, v) :: t else (k, u) :: tabSet t n v

/-- The table without an entry at `k`. -/
def tabDel {α : Type} : Tab α → Nat → Tab α
  | [], _ => []
  | (k, u) :: t, n => if n = k then tabDel t n else (k, u) :: tabDel t n

/-- The entry at `k` changed by `f`. -/
def tabMod {α : Type} (d : α) (t : Tab α) (k : Nat) (f : α → α) : Tab α := tabSet t k (f (tabGet d t k))

end Sys2Proof.Machine
end

