-- ==== Sys2Proof/Machine/Bits.lean ====
section
/-! DEFINITION. Bit fields, bytes in order, and the elements of a vector register (02 R24; 03 R67; 05 R124; 01 R8). -/

namespace Sys2Proof.Machine

/-- Bits [lo + n - 1 : lo] of a word, as a number. -/
def bitsN {w : Nat} (x : BitVec w) (lo n : Nat) : Nat := x.toNat / 2 ^ lo % 2 ^ n

/-- Bit i of a word. -/
def bitB {w : Nat} (x : BitVec w) (i : Nat) : Bool := x.getLsbD i

/-- The word with bits [lo + n - 1 : lo] replaced by the low n bits of v. -/
def putBits {w : Nat} (x : BitVec w) (lo n v : Nat) : BitVec w :=
  (x &&& ~~~(BitVec.ofNat w (2 ^ n - 1) <<< lo)) ||| (BitVec.ofNat w (v % 2 ^ n) <<< lo)

/-- The word with bit i set to b. -/
def putBit {w : Nat} (x : BitVec w) (i : Nat) (b : Bool) : BitVec w := putBits x i 1 b.toNat

/-- A 0 or 1 word. -/
def boolWord (b : Bool) : Word := if b then 1 else 0

/-- The low n bytes of a number, least significant first. -/
def leBytes : Nat → Nat → List Byte
  | 0, _ => []
  | n + 1, v => BitVec.ofNat 8 v :: leBytes n (v / 256)

/-- The number whose bytes these are, least significant first. -/
def leNat : List Byte → Nat
  | [] => 0
  | b :: bs => b.toNat + 256 * leNat bs

/-- Element e of width w of a register (01 R8, R21). -/
def elem {N : Nat} (w : Nat) (r : BitVec N) (e : Nat) : BitVec w := r.extractLsb' (e * w) w

/-- The register with element e of width w replaced. -/
def setElem {N : Nat} (w : Nat) (r : BitVec N) (e : Nat) (v : BitVec w) : BitVec N :=
  (r &&& ~~~((BitVec.allOnes w).setWidth N <<< (e * w))) ||| (v.setWidth N <<< (e * w))

/-- The register in which each element e below n takes the value that `f` gives it, where it gives one. -/
def setElems {N : Nat} (w : Nat) (r : BitVec N) (f : Nat → Option (BitVec w)) : Nat → BitVec N
  | 0 => r
  | n + 1 =>
    match f n with
    | some v => setElem w (setElems w r f n) n v
    | none => setElems w r f n

/-- Sign-extension of the low n bits of a number to an integer. -/
def toSigned (n v : Nat) : Int := if v % 2 ^ n < 2 ^ (n - 1) then (v % 2 ^ n : Nat) else (v % 2 ^ n : Nat) - (2 ^ n : Nat)

/-- An integer modulo 2^64 as a word. -/
def wordOfInt (i : Int) : Word := BitVec.ofInt 64 i

/-- Quotient rounded up. -/
def ceilDiv (a b : Nat) : Nat := (a + b - 1) / b

end Sys2Proof.Machine
end

