-- ==== Sys2Proof/Machine/Fp.lean ====
section
/-! DEFINITION. Floating-point arithmetic (04 R108 to R112, R116 to R119; 05 R125, R132, R135, R138) and ts8 (05 R126 to
R128, R133). A number is held exactly, as a signed integer times a power of two, and rounded once at the end. Element bits
are natural numbers here. -/

namespace Sys2Proof.Machine

/-! The flags of `fflags` (03 R84): NX, UF, OF, DZ, NV. -/
def fNX : BitVec 5 := 1
def fUF : BitVec 5 := 2
def fOF : BitVec 5 := 4
def fDZ : BitVec 5 := 8
def fNV : BitVec 5 := 16

/-- A floating format: width, and significant bits with the hidden one (05 Table 5.1). -/
structure FFmt where
  w : Nat
  p : Nat
  deriving DecidableEq, Repr

def f16 : FFmt := { w := 16, p := 11 }
def bf16 : FFmt := { w := 16, p := 8 }
def f32 : FFmt := { w := 32, p := 24 }
def f64 : FFmt := { w := 64, p := 53 }

/-- The floating format of a format code (02 Table 2.8). -/
def fmtOf (code : Nat) : Option FFmt :=
  if code = 8 then some f16 else if code = 9 then some bf16 else if code = 10 then some f32
  else if code = 11 then some f64 else none

/-- The bias of the exponent field. -/
def FFmt.bias (f : FFmt) : Nat := 2 ^ (f.w - f.p - 1) - 1

/-- The exponent of the smallest subnormal: 2^qmin. -/
def FFmt.qmin (f : FFmt) : Int := 2 - (f.bias : Int) - f.p

/-- The bits of +infinity, of the canonical NaN, and the sign bit. -/
def FFmt.infBits (f : FFmt) : Nat := (2 ^ (f.w - f.p) - 1) * 2 ^ (f.p - 1)
def FFmt.nanBits (f : FFmt) : Nat := f.infBits + 2 ^ (f.p - 2)
def FFmt.signBit (f : FFmt) : Nat := 2 ^ (f.w - 1)

/-- A floating value: a NaN (signalling or not), an infinity, or (-1)^neg x m x 2^e. -/
inductive FVal where
  | nan (sig : Bool)
  | inf (neg : Bool)
  | fin (neg : Bool) (m : Nat) (e : Int)
  deriving DecidableEq, Repr

/-- The value of element bits (05 R125). -/
def fDecode (f : FFmt) (b : Nat) : FVal :=
  let frac := b % 2 ^ (f.p - 1)
  let ex := b / 2 ^ (f.p - 1) % 2 ^ (f.w - f.p)
  let neg := b / f.signBit % 2 == 1
  if ex = 2 ^ (f.w - f.p) - 1 then
    if frac = 0 then .inf neg else .nan (frac / 2 ^ (f.p - 2) % 2 == 0)
  else if ex = 0 then .fin neg frac f.qmin
  else .fin neg (2 ^ (f.p - 1) + frac) (f.qmin + ex - 1)

/-- Element bits with their flags. -/
abbrev FRes := Nat × BitVec 5

/-- The sign put on element bits. -/
def withSign (f : FFmt) (neg : Bool) (b : Nat) : Nat := if neg then b + f.signBit else b

/-- Whether t + r / 2^s, with a further fraction when `sticky`, rounds up to t + 1 in mode rm (02 Table 2.9). -/
def roundsUp (rm : Nat) (neg : Bool) (t r s : Nat) (sticky : Bool) : Bool :=
  let half := 2 ^ s ≤ 2 * r
  let inexact := r ≠ 0 || sticky
  if rm = 0 then decide half && (decide (2 ^ s < 2 * r) || sticky || t % 2 == 1)
  else if rm = 2 then neg && inexact
  else if rm = 3 then !neg && inexact
  else if rm = 4 then decide half
  else false

/-- m x 2^e rounded to a multiple of 2^q: the multiple, and whether anything was dropped. Where something is sticky, q lies
above e. -/
def roundTo (rm : Nat) (neg : Bool) (m : Nat) (e q : Int) (sticky : Bool) : Nat × Bool :=
  if q ≤ e then (m * 2 ^ (e - q).toNat, sticky)
  else
    let s := (q - e).toNat
    let t := m / 2 ^ s
    let r := m % 2 ^ s
    (if roundsUp rm neg t r s sticky then t + 1 else t, r ≠ 0 || sticky)

/-- The overflowed result of a mode (04 R108). -/
def overflowBits (f : FFmt) (rm : Nat) (neg : Bool) : Nat :=
  let toInf := if rm = 1 then false else if rm = 2 then neg else if rm = 3 then !neg else true
  withSign f neg (if toInf then f.infBits else f.infBits - 1)

/-- A nonzero (-1)^neg x m x 2^e, with a further fraction of 2^e when `sticky`, rounded once (04 R108). -/
def roundFin (f : FFmt) (rm : Nat) (neg : Bool) (m : Nat) (e : Int) (sticky : Bool := false) : FRes :=
  let q0 : Int := e + (Nat.log2 m + 1 : Nat) - f.p
  let q := max q0 f.qmin
  let (t, inexact) := roundTo rm neg m e q sticky
  let bits := (q - f.qmin).toNat * 2 ^ (f.p - 1) + t
  if f.infBits ≤ bits then (overflowBits f rm neg, fOF ||| fNX)
  else
    let tiny := decide (q0 < f.qmin) &&
      !(decide (q0 = f.qmin - 1) && (roundTo rm neg m e q0 sticky).1 == 2 ^ f.p)
    (withSign f neg bits, (if inexact then fNX else 0) ||| (if inexact && tiny then fUF else 0))

/-- The exact integer sum s x 2^e rounded; `negZero` is the sign of an exact zero. -/
def roundSum (f : FFmt) (rm : Nat) (s e : Int) (negZero : Bool) : FRes :=
  if s = 0 then (withSign f negZero 0, 0) else roundFin f rm (decide (s < 0)) s.natAbs e

/-- The canonical NaN, with NV where asked (04 R108). -/
def fNan (f : FFmt) (nv : Bool) : FRes := (f.nanBits, if nv then fNV else 0)

def FVal.isNan : FVal → Bool
  | .nan _ => true
  | _ => false

def FVal.isSig : FVal → Bool
  | .nan s => s
  | _ => false

def FVal.isInf : FVal → Bool
  | .inf _ => true
  | _ => false

def FVal.isZero : FVal → Bool
  | .fin _ m _ => m == 0
  | _ => false

def FVal.isNeg : FVal → Bool
  | .nan _ => false
  | .inf n => n
  | .fin n _ _ => n

/-- A finite value as an integer multiple of 2^q, for q at or below its exponent; 0 otherwise. -/
def FVal.scaled (q : Int) : FVal → Int
  | .fin n m e => (if n then -1 else 1) * ((m * 2 ^ (e - q).toNat : Nat) : Int)
  | _ => 0

def FVal.exp : FVal → Int
  | .fin _ _ e => e
  | _ => 0

def FVal.neg : FVal → FVal
  | .nan s => .nan s
  | .inf n => .inf (!n)
  | .fin n m e => .fin (!n) m e

/-- The sign of an exact zero sum: that of the addends where they agree, else minus only in RDN (IEEE 754; log 16). -/
def zeroSign (rm : Nat) (negs : List Bool) : Bool :=
  if negs.all (fun b => b) then true else if negs.any (fun b => b) then rm == 2 else false

/-- The product of two values that are no NaN; none for infinity times zero. -/
def FVal.mul : FVal → FVal → Option FVal
  | .fin n m e, .fin n' m' e' => some (.fin (n != n') (m * m') (e + e'))
  | .inf n, .inf n' => some (.inf (n != n'))
  | .inf n, .fin n' m' _ => if m' = 0 then none else some (.inf (n != n'))
  | .fin n m _, .inf n' => if m = 0 then none else some (.inf (n != n'))
  | _, _ => none

/-- round(sum of values), no NaN among them: NV for infinities of both signs. -/
def fSum (f : FFmt) (rm : Nat) (l : List FVal) : FRes :=
  let pos := l.any (fun v => v == .inf false)
  let neg := l.any (fun v => v == .inf true)
  if pos && neg then fNan f true
  else if pos then (f.infBits, 0)
  else if neg then (withSign f true f.infBits, 0)
  else
    let q := l.foldl (fun q v => min q v.exp) ((l.map FVal.exp).headD 0)
    roundSum f rm (l.foldl (fun s v => s + v.scaled q) 0) q (zeroSign rm (l.map FVal.isNeg))

/-- The NaN result of operands one of which is a NaN. -/
def fNanOf (f : FFmt) (l : List FVal) : FRes := fNan f (l.any FVal.isSig)

def fAdd (f : FFmt) (rm : Nat) (a b : FVal) : FRes :=
  if a.isNan || b.isNan then fNanOf f [a, b] else fSum f rm [a, b]

/-- The addition in which two addends come from other formats and the result goes to f (04 R113). -/
def fSub (f : FFmt) (rm : Nat) (a b : FVal) : FRes :=
  if a.isNan || b.isNan then fNanOf f [a, b] else fSum f rm [a, b.neg]

/-- One exact value rounded. -/
def fRound (f : FFmt) (rm : Nat) : FVal → FRes
  | .nan s => fNan f s
  | .inf n => (withSign f n f.infBits, 0)
  | .fin n m e => if m = 0 then (withSign f n 0, 0) else roundFin f rm n m e

def fMul (f : FFmt) (rm : Nat) (a b : FVal) : FRes :=
  if a.isNan || b.isNan then fNanOf f [a, b] else
  match a.mul b with
  | none => fNan f true
  | some v => fRound f rm v

/-- round(± a x b ± d), fused; infinity times zero is invalid whatever d is (04 R109). -/
def fFma (f : FFmt) (rm : Nat) (negP negD : Bool) (a b d : FVal) : FRes :=
  if a.isNan || b.isNan then fNanOf f [a, b, d] else
  match a.mul b with
  | none => fNan f true
  | some v =>
    if d.isNan then fNanOf f [d]
    else fSum f rm [if negP then v.neg else v, if negD then d.neg else d]

/-- n / d to at least b significant bits: quotient, exponent, and whether it is inexact. -/
def divBits (n d b : Nat) : Nat × Int × Bool :=
  let k := b + Nat.log2 d + 1 - Nat.log2 n
  ((n * 2 ^ k) / d, -(k : Int), n * 2 ^ k % d != 0)

def fDiv (f : FFmt) (rm : Nat) (a b : FVal) : FRes :=
  match a, b with
  | .nan _, _ => fNanOf f [a, b]
  | _, .nan _ => fNanOf f [a, b]
  | .inf _, .inf _ => fNan f true
  | .inf n, .fin n' _ _ => (withSign f (n != n') f.infBits, 0)
  | .fin n _ _, .inf n' => (withSign f (n != n') 0, 0)
  | .fin n m e, .fin n' m' e' =>
    if m' = 0 then (if m = 0 then fNan f true else (withSign f (n != n') f.infBits, fDZ))
    else if m = 0 then (withSign f (n != n') 0, 0)
    else
      let (q, k, s) := divBits m m' (f.p + 3)
      roundFin f rm (n != n') q (e - e' + k) s

/-- The integer square root below 2^n, found bit by bit. -/
def isqrt (x : Nat) : Nat → Nat → Nat
  | 0, r => r
  | n + 1, r => isqrt x n (if (r + 2 ^ n) * (r + 2 ^ n) ≤ x then r + 2 ^ n else r)

def natSqrt (x : Nat) : Nat := isqrt x (Nat.log2 x / 2 + 1) 0

def fSqrt (f : FFmt) (rm : Nat) : FVal → FRes
  | .nan s => fNan f s
  | .inf n => if n then fNan f true else (f.infBits, 0)
  | .fin n m e =>
    if m = 0 then (withSign f n 0, 0)
    else if n then fNan f true
    else
      let k := 2 * (f.p + 3) + (if e % 2 = 0 then 0 else 1)
      let x := m * 2 ^ k
      let r := natSqrt x
      roundFin f rm false r ((e - k) / 2) (r * r != x)

/-- A nonzero value (with a sticky fraction) rounded to 12 significant bits, RNE, the exponent unbounded: the estimate's
integer and exponent (04 R116). -/
def round12 (m : Nat) (e : Int) (sticky : Bool) : Nat × Int :=
  let q : Int := e + (Nat.log2 m + 1 : Nat) - 12
  ((roundTo 0 false m e q sticky).1, q)

/-- The estimate rounded RNE to the format: only its overflow raises flags (04 R116, R118). -/
def estimate (f : FFmt) (neg : Bool) (m : Nat) (e : Int) (sticky : Bool) : FRes :=
  let (t, q) := round12 m e sticky
  let (b, fl) := roundFin f 0 neg t q
  (b, if fl &&& fOF = 0 then 0 else fOF ||| fNX)

/-- vrcpa of one element (04 R116). -/
def fRcpa (f : FFmt) : FVal → FRes
  | .nan s => fNan f s
  | .inf n => (withSign f n 0, 0)
  | .fin n m e =>
    if m = 0 then (withSign f n f.infBits, fDZ)
    else
      let (q, k, s) := divBits 1 m 16
      estimate f n q (k - e) s

/-- vrsqa of one element (04 R117). -/
def fRsqa (f : FFmt) : FVal → FRes
  | .nan s => fNan f s
  | .inf n => if n then fNan f true else (0, 0)
  | .fin n m e =>
    if m = 0 then (withSign f n f.infBits, fDZ)
    else if n then fNan f true
    else
      let m' := if e % 2 = 0 then m else 2 * m
      let e' := if e % 2 = 0 then e else e - 1
      let k := Nat.log2 m' / 2 + 18
      let r := natSqrt (2 ^ (2 * k) / m')
      estimate f false r (-(e' / 2) - k) (r * r * m' != 2 ^ (2 * k))

/-- vrcps of one element: 2 - a x (04 R119). -/
def fRcps (f : FFmt) (rm : Nat) (a x : FVal) : FRes :=
  if a.isNan || x.isNan then fNanOf f [a, x] else
  match a.mul x with
  | none => fRound f rm (.fin false 2 0)
  | some v => fSum f rm [.fin false 2 0, v.neg]

/-- vrsqs of one element: (3 - a x x) / 2 (04 R119). -/
def fRsqs (f : FFmt) (rm : Nat) (a x : FVal) : FRes :=
  if a.isNan || x.isNan then fNanOf f [a, x] else
  match (x.mul x).bind (fun y => a.mul y) with
  | none => fRound f rm (.fin false 3 (-1))
  | some v =>
    let half : FVal := match v with
      | .fin n m e => .fin n m (e - 1)
      | y => y
    fSum f rm [.fin false 3 (-1), half.neg]

/-- Whether a < b, for values that are no NaN; -0 below +0 when `zeros`. -/
def fLt (zeros : Bool) (a b : FVal) : Bool :=
  match a, b with
  | .inf n, .inf n' => n && !n'
  | .inf n, .fin _ _ _ => n
  | .fin _ _ _, .inf n' => !n'
  | .fin n m e, .fin n' m' e' =>
    let q := min e e'
    let x := FVal.scaled q (.fin n m e)
    let y := FVal.scaled q (.fin n' m' e')
    decide (x < y) || (zeros && m == 0 && m' == 0 && n && !n')
  | _, _ => false

/-- minimumNumber or maximumNumber on element bits (04 R110). -/
def fMinMax (f : FFmt) (mx : Bool) (a b : Nat) : FRes :=
  let x := fDecode f a
  let y := fDecode f b
  let nv : BitVec 5 := if x.isSig || y.isSig then fNV else 0
  if x.isNan && y.isNan then (f.nanBits, nv)
  else if x.isNan then (b, nv)
  else if y.isNan then (a, nv)
  else if mx then (if fLt true x y then b else a, 0)
  else (if fLt true y x then b else a, 0)

/-- An IEEE comparison: eq, ne, lt, le by code (04 R112). -/
def fCmp (f : FFmt) (q : Nat) (a b : Nat) : Bool × BitVec 5 :=
  let x := fDecode f a
  let y := fDecode f b
  if x.isNan || y.isNan then
    (q == 1, if x.isSig || y.isSig || decide (2 ≤ q) then fNV else 0)
  else
    let lt := fLt false x y
    let gt := fLt false y x
    (if q = 0 then !lt && !gt else if q = 1 then lt || gt else if q = 2 then lt else !gt, 0)

/-- vabs.f and vneg.f (04 R111). -/
def fAbs (f : FFmt) (b : Nat) : Nat := if (fDecode f b).isNan then f.nanBits else b % f.signBit
def fNeg (f : FFmt) (b : Nat) : Nat :=
  if (fDecode f b).isNan then f.nanBits else if b / f.signBit % 2 = 1 then b % f.signBit else b + f.signBit

/-- vclass of one element (05 Table 5.5). -/
def fClass (f : FFmt) (b : Nat) : Nat :=
  match fDecode f b with
  | .nan s => if s then 2 ^ 8 else 2 ^ 9
  | .inf n => if n then 2 ^ 0 else 2 ^ 7
  | .fin n m _ =>
    if m = 0 then (if n then 2 ^ 3 else 2 ^ 4)
    else if m < 2 ^ (f.p - 1) then (if n then 2 ^ 2 else 2 ^ 5)
    else (if n then 2 ^ 1 else 2 ^ 6)

/-- A scale entry applied to an exact value (05 R138). -/
def applyScale (f : FFmt) (rm : Nat) (entry : Nat) (a : FVal) : FRes :=
  let s := fDecode bf16 entry
  if s.isZero then (0, 0)
  else if s.isNan || s.isInf then fNan f true
  else fMul f rm a s

/-! ### ts8 -/

/-- One term of a ts8 code: sign and exponent to units of 2^-6 (05 R126). -/
def ts8Term (n : Nat) : Int :=
  let e := n % 8
  let v : Int := if e = 7 then 0 else 2 ^ (6 - e)
  if n / 8 % 2 = 1 then -v else v

/-- The value of a ts8 code in units of 2^-6 (05 Table 5.2). -/
def ts8Units (c : Nat) : Int := ts8Term (c / 16 % 16) + ts8Term (c % 16)

/-- Whether a code is canonical (05 R128). -/
def ts8Canon (c : Nat) : Bool :=
  let s1 := c / 128 % 2
  let e1 := c / 16 % 8
  let s2 := c / 8 % 2
  let e2 := c % 8
  decide (e1 ≤ e2) && (e1 != 7 || s1 == 0) && (e2 != 7 || s2 == 0) &&
  (e1 == 7 || e2 == 7 || e1 != e2 || c == 0x00 || c == 0x88) &&
  (e1 == 7 || e2 == 7 || s1 == s2 || decide (e1 + 3 ≤ e2))

/-- The canonical codes with their values, in rising order of code. -/
def ts8Codes : List (Nat × Int) := ((List.range 256).filter ts8Canon).map (fun c => (c, ts8Units c))

/-- The value of a ts8 code; a zero is +0 (05 R126). -/
def ts8Val (c : Nat) : FVal := .fin (decide (ts8Units c < 0)) (ts8Units c).natAbs (-6)

/-- The nearest canonical code to n / d units of 2^-6 in magnitude, ties to the smaller magnitude, with its value
(05 R133): twice the distance is compared over the common denominator. -/
def ts8Nearest (n : Int) (d : Nat) : Nat × Int :=
  ts8Codes.foldl (fun best c =>
    let db := (best.2 * d - n).natAbs
    let dc := (c.2 * d - n).natAbs
    if dc < db || (dc == db && decide (c.2.natAbs < best.2.natAbs)) then c else best) (0x77, 0)

/-- Conversion into ts8 (05 R133). -/
def toTs8 : FVal → FRes
  | .nan _ => (0x77, fNV)
  | .inf n => (if n then 0x88 else 0x00, fOF ||| fNX)
  | .fin n m e =>
    -- the value is num / den units of 2^-6
    let num : Int := (if n then -1 else 1) * ((if e + 6 < 0 then m else m * 2 ^ (e + 6).toNat : Nat) : Int)
    let den : Nat := if e + 6 < 0 then 2 ^ (-(e + 6)).toNat else 1
    if 128 * den < num.natAbs then (if n then 0x88 else 0x00, fOF ||| fNX)
    else
      let (c, v) := ts8Nearest num den
      let inexact := v * den != num
      (c, (if inexact then fNX else 0) ||| (if v == 0 && inexact then fUF else 0))

/-! ### Conversion (05 R132) -/

/-- The extreme values of an integer format code: i8 to i64, n8 to n64 (02 Table 2.8). -/
def intMin (code : Nat) : Int := if code < 4 then -(2 ^ (8 * 2 ^ code - 1) : Nat) else 0
def intMax (code : Nat) : Int :=
  if code < 4 then ((2 ^ (8 * 2 ^ code - 1) : Nat) : Int) - 1 else ((2 ^ (8 * 2 ^ (code - 4)) : Nat) : Int) - 1

/-- The width of a format code in bits. -/
def codeBits (code : Nat) : Nat :=
  if code < 8 then 8 * 2 ^ (code % 4) else if code < 10 then 16 else if code = 10 then 32 else if code = 11 then 64 else 8

/-- Element bits of an integer format as an integer. -/
def intVal (code b : Nat) : Int := if code < 4 then toSigned (codeBits code) b else ((b % 2 ^ codeBits code : Nat) : Int)

/-- An integer as element bits of width w. -/
def intBits (w : Nat) (i : Int) : Nat := (i % (2 ^ w : Nat)).toNat

/-- A value rounded to an integer of a format (05 R132). -/
def toIntFmt (code rm : Nat) : FVal → FRes
  | .nan _ => (0, fNV)
  | .inf n => (intBits (codeBits code) (if n then intMin code else intMax code), fNV)
  | .fin n m e =>
    let (t, inexact) := roundTo rm n m e 0 false
    let q : Int := if n then -(t : Int) else t
    if q < intMin code || intMax code < q then
      (intBits (codeBits code) (if n then intMin code else intMax code), fNV)
    else (intBits (codeBits code) q, if inexact then fNX else 0)

/-- The exact value of element bits of any format code. -/
def codeVal (code b : Nat) : FVal :=
  if code < 8 then
    let i := intVal code b
    .fin (decide (i < 0)) i.natAbs 0
  else match fmtOf code with
    | some f => fDecode f b
    | none => ts8Val b

/-- `convert` of one element from one format to another (05 Table 5.3). -/
def convert (src dst rm b : Nat) : FRes :=
  if dst = 12 then toTs8 (codeVal src b)
  else match fmtOf dst with
    | some f => fRound f rm (codeVal src b)
    | none =>
      if src < 8 then
        let i := intVal src b
        (intBits (codeBits dst) (max (intMin dst) (min (intMax dst) i)), 0)
      else toIntFmt dst rm (codeVal src b)

end Sys2Proof.Machine
end

