-- ==== Sys2Proof/Machine/Flags.lean ====
section
/-! DEFINITION. The flags of `fflags` that an instruction's elements raise (04 R96, R101, R108). The flags of one element are
computed with its result in Machine/Fp.lean. -/

namespace Sys2Proof.Machine

/-- The flags of results together: every active element ORs its own in (04 R96). -/
def flagsOf (l : List (Nat × FRes)) : BitVec 5 := l.foldl (fun a p => a ||| p.2.2) 0

/-- A result without flags. -/
def plain (b : Nat) : FRes := (b, 0)

end Sys2Proof.Machine
end

