-- ==== Sys2Proof/Syntax.lean ====
section
/-! DEFINITION. The operations of the machine: one constructor of `Instr` per row of spec/opcode_table.json.
An instruction word's fields are the constructor's arguments, in the order of the word from bit 31 down: `st` is the
stall count S, `c` the convoy bit C, `d a b` the register fields (02 R24 to R28, R46). A row that has no word is an
event of the machine (95_what_each_step_holds.md); its arguments say where it takes place and, for an event that
comes from outside the cores, what it carries. -/

namespace Sys2Proof

/-- What a spare replaces (16 R408). -/
inductive Spare where
  | lane (core : Nat)
  | vaultWay (vault : Nat) (way : Nat)
  | hbmRow (stack : Fin 8) (region : Fin 64)
  | linkLane (port : Fin 16)
  | mapOutCore (core : Nat)
  deriving DecidableEq, Repr

/-- A firmware image as the boot ROM and Umante see it: its version, whether it revokes older images, whether it is the application
cores' loader or Umante, its bytes, and its XMSS signature (17 R419, R420; log 35). -/
structure FirmwareImage where
  version : Nat
  revokesOlder : Bool
  loader : Bool
  content : List (BitVec 8)
  signature : List (BitVec 8)
  deriving DecidableEq, Repr

/-- Itrus class 0x01: partitions, contexts and jobs (17 R418; 15 R363; 12 R304; 13 R314; 14 R341). -/
inductive PartitionMsg where
  | createJob (job : Nat) (partition : List Nat) (almanac : List (Nat × Nat)) (spillBlocks : Nat) (saveArea : Word)
  | resizePartition (job : Nat) (partition : List Nat)
  | setCalmode (job : Nat) (value : BitVec 4)
  | destroyJob (job : Nat)
  | createContext (ctx : Fin 16) (job : Nat) (spt : Word) (vwbase : Word) (stvec : Word) (sscratch : Word)
  | setProtmode (ctx : Fin 16) (prot : Bool)
  | setLockstep (ctx : Fin 16) (lockstep : Bool)
  | assignBarrier (cluster : Option Nat) (slot : Fin 64) (ctx : Option (Fin 16))
  | destroyContext (ctx : Fin 16)
  | fullReset
  deriving DecidableEq, Repr

/-- Itrus class 0x02: debug (16 R395; 15 R389). -/
inductive DebugMsg where
  | setControls (lid : Nat) (unit : Nat) (dbgctl : Word) (dbgpc : Word)
  | resume (lid : Nat) (unit : Nat)
  | kill (lid : Nat) (unit : Nat) (cause : Nat) (detail : Nat)
  deriving DecidableEq, Repr

/-- Itrus class 0x03: trace rings and reference tables (16 R391, R393, R405). -/
inductive TraceMsg where
  | setRing (job : Nat) (base : Nat) (trcctl : BitVec 3)
  | removeRing (job : Nat)
  | setReference (job : Nat) (table : List (Nat × Nat × Nat × Word))
  deriving DecidableEq, Repr

/-- Itrus class 0x04: the Annals and the machine-check log (16 R409, R410). -/
inductive AnnalsMsg where
  | readRecord (kind : Nat) (index : Nat)
  | readMachineChecks
  deriving DecidableEq, Repr

/-- Itrus class 0x05: recovery reports and agreement on S (13 R332). -/
inductive RecoveryMsg where
  | report (job : Nat)
  | agree (job : Nat) (seq : Word)
  deriving DecidableEq, Repr

/-- Itrus class 0x08: power caps and sensors (17 R423). -/
inductive PowerMsg where
  | setCap (watts : Nat)
  | readSensors
  deriving DecidableEq, Repr

/-- A TLS connection to the management port (17 R418). -/
inductive ConnectionMsg where
  | openConn (authenticated : Bool)
  | closeConn (ident : Nat)
  deriving DecidableEq, Repr

/-- An access that arrives from another package (12 R303; 11 R283): a read or a write of at most 64 bytes at a physical
address of this package's HBM, from a package. -/
inductive RemoteAccess where
  | load (pkg : Nat) (pa : Nat) (size : Nat)
  | store (pkg : Nat) (pa : Nat) (bytes : List Byte)
  deriving DecidableEq, Repr

/-- The operations: 218 instruction words and 71 events of the machine. -/
inductive Instr where
  /-- ADD (R61). Writes the 64-bit sum of xa and xb to xd. -/
  | add (st : Fin 16) (d : Reg) (a : Reg) (b : Reg)
  /-- SUB (R61). Writes xa minus xb to xd, modulo 2^64. -/
  | sub (st : Fin 16) (d : Reg) (a : Reg) (b : Reg)
  /-- AND (R61). Writes the bitwise AND of xa and xb to xd. -/
  | and (st : Fin 16) (d : Reg) (a : Reg) (b : Reg)
  /-- OR (R61). Writes the bitwise OR of xa and xb to xd. -/
  | or (st : Fin 16) (d : Reg) (a : Reg) (b : Reg)
  /-- XOR (R61). Writes the bitwise XOR of xa and xb to xd. -/
  | xor (st : Fin 16) (d : Reg) (a : Reg) (b : Reg)
  /-- SLL (R61). Shifts xa left by xb[5:0], shifting in zeros. -/
  | sll (st : Fin 16) (d : Reg) (a : Reg) (b : Reg)
  /-- SRL (R61). Shifts xa right logically by xb[5:0]. -/
  | srl (st : Fin 16) (d : Reg) (a : Reg) (b : Reg)
  /-- SRA (R61). Shifts xa right arithmetically by xb[5:0]. -/
  | sra (st : Fin 16) (d : Reg) (a : Reg) (b : Reg)
  /-- SLT (R61). Writes 1 to xd if xa is below xb as signed values, else 0. -/
  | slt (st : Fin 16) (d : Reg) (a : Reg) (b : Reg)
  /-- SLTN (R61). Writes 1 to xd if xa is below xb as unsigned values, else 0. -/
  | sltn (st : Fin 16) (d : Reg) (a : Reg) (b : Reg)
  /-- MIN (R61). Writes the signed minimum of xa and xb to xd. -/
  | min (st : Fin 16) (d : Reg) (a : Reg) (b : Reg)
  /-- MAX (R61). Writes the signed maximum of xa and xb to xd. -/
  | max (st : Fin 16) (d : Reg) (a : Reg) (b : Reg)
  /-- MINN (R61). Writes the unsigned minimum of xa and xb to xd. -/
  | minn (st : Fin 16) (d : Reg) (a : Reg) (b : Reg)
  /-- MAXN (R61). Writes the unsigned maximum of xa and xb to xd. -/
  | maxn (st : Fin 16) (d : Reg) (a : Reg) (b : Reg)
  /-- MUL (R61). Writes the low 64 bits of xa times xb to xd. -/
  | mul (st : Fin 16) (d : Reg) (a : Reg) (b : Reg)
  /-- MULH (R61). Writes the high 64 bits of the signed 128-bit product to xd. -/
  | mulh (st : Fin 16) (d : Reg) (a : Reg) (b : Reg)
  /-- MULHN (R61). Writes the high 64 bits of the unsigned 128-bit product to xd. -/
  | mulhn (st : Fin 16) (d : Reg) (a : Reg) (b : Reg)
  /-- DIV (R62). Writes the signed quotient to xd, with the defined results for division by zero and overflow. -/
  | div (st : Fin 16) (d : Reg) (a : Reg) (b : Reg)
  /-- DIVN (R62). Writes the unsigned quotient to xd. -/
  | divn (st : Fin 16) (d : Reg) (a : Reg) (b : Reg)
  /-- REM (R62). Writes the signed remainder, with the sign of xa, to xd. -/
  | rem (st : Fin 16) (d : Reg) (a : Reg) (b : Reg)
  /-- REMN (R62). Writes the unsigned remainder to xd. -/
  | remn (st : Fin 16) (d : Reg) (a : Reg) (b : Reg)
  /-- BEXT (R63). Extracts the bit field that xb describes from xa, zero-extended, into xd. -/
  | bext (st : Fin 16) (d : Reg) (a : Reg) (b : Reg)
  /-- BINS (R63). Inserts the low bits of xa into the bit field of xd that xb describes. -/
  | bins (st : Fin 16) (d : Reg) (a : Reg) (b : Reg)
  /-- CLZ (R64). Counts the leading zero bits of xa. -/
  | clz (st : Fin 16) (d : Reg) (a : Reg)
  /-- CTZ (R64). Counts the trailing zero bits of xa. -/
  | ctz (st : Fin 16) (d : Reg) (a : Reg)
  /-- POPC (R64). Counts the one bits of xa. -/
  | popc (st : Fin 16) (d : Reg) (a : Reg)
  /-- SLLI (R65). Shifts xa left by an immediate amount from 0 to 63. -/
  | slli (st : Fin 16) (d : Reg) (a : Reg) (n : Fin 32) (h : Bool)
  /-- SRLI (R65). Shifts xa right logically by an immediate amount. -/
  | srli (st : Fin 16) (d : Reg) (a : Reg) (n : Fin 32) (h : Bool)
  /-- SRAI (R65). Shifts xa right arithmetically by an immediate amount. -/
  | srai (st : Fin 16) (d : Reg) (a : Reg) (n : Fin 32) (h : Bool)
  /-- ADDI (R65). Adds the sign-extended IMM11 to xa. -/
  | addi (st : Fin 16) (d : Reg) (a : Reg) (imm : BitVec 11)
  /-- ANDI (R65). ANDs xa with the sign-extended IMM11. -/
  | andi (st : Fin 16) (d : Reg) (a : Reg) (imm : BitVec 11)
  /-- ORI (R65). ORs xa with the sign-extended IMM11. -/
  | ori (st : Fin 16) (d : Reg) (a : Reg) (imm : BitVec 11)
  /-- XORI (R65). XORs xa with the sign-extended IMM11. -/
  | xori (st : Fin 16) (d : Reg) (a : Reg) (imm : BitVec 11)
  /-- LIH (R66). Shifts xd left by 16 and ORs in the zero-extended IMM16. -/
  | lih (st : Fin 16) (d : Reg) (imm : BitVec 16)
  /-- ADPC (R66). Writes its own address plus 4 times the sign-extended IMM16 to xd. -/
  | adpc (st : Fin 16) (d : Reg) (imm : BitVec 16)
  /-- LD8 (R67). Loads one byte, sign-extended, after the checks of R68. -/
  | ld8 (st : Fin 16) (d : Reg) (a : Reg) (off : BitVec 9)
  /-- LD16 (R67). Loads two bytes, sign-extended. -/
  | ld16 (st : Fin 16) (d : Reg) (a : Reg) (off : BitVec 9)
  /-- LD32 (R67). Loads four bytes, sign-extended. -/
  | ld32 (st : Fin 16) (d : Reg) (a : Reg) (off : BitVec 9)
  /-- LD64 (R67). Loads eight bytes. -/
  | ld64 (st : Fin 16) (d : Reg) (a : Reg) (off : BitVec 9)
  /-- LD8_N (R67). Loads one byte, zero-extended. -/
  | ld8N (st : Fin 16) (d : Reg) (a : Reg) (off : BitVec 9)
  /-- LD16_N (R67). Loads two bytes, zero-extended. -/
  | ld16N (st : Fin 16) (d : Reg) (a : Reg) (off : BitVec 9)
  /-- LD32_N (R67). Loads four bytes, zero-extended. -/
  | ld32N (st : Fin 16) (d : Reg) (a : Reg) (off : BitVec 9)
  /-- ST8 (R67). Stores the low byte of xd. -/
  | st8 (st : Fin 16) (d : Reg) (a : Reg) (off : BitVec 9)
  /-- ST16 (R67). Stores the low two bytes of xd. -/
  | st16 (st : Fin 16) (d : Reg) (a : Reg) (off : BitVec 9)
  /-- ST32 (R67). Stores the low four bytes of xd. -/
  | st32 (st : Fin 16) (d : Reg) (a : Reg) (off : BitVec 9)
  /-- ST64 (R67). Stores the eight bytes of xd. -/
  | st64 (st : Fin 16) (d : Reg) (a : Reg) (off : BitVec 9)
  /-- LDL (R70). Loads 64 bits and sets the slot's link to the address and its line. -/
  | ldl (st : Fin 16) (d : Reg) (a : Reg)
  /-- STC (R70). Stores xb only if the link is intact for the address, writes the status to xd and clears the link. -/
  | stc (st : Fin 16) (d : Reg) (a : Reg) (b : Reg)
  /-- JAL (R75). Sets x1 to its address plus 4 and jumps by 4 times OFF21. -/
  | jal (st : Fin 16) (off : BitVec 21)
  /-- BEQ (R74). Branches when xd equals xa. -/
  | beq (st : Fin 16) (d : Reg) (a : Reg) (off : BitVec 9)
  /-- BNE (R74). Branches when xd differs from xa. -/
  | bne (st : Fin 16) (d : Reg) (a : Reg) (off : BitVec 9)
  /-- BLT (R74). Branches when xd is below xa as signed values. -/
  | blt (st : Fin 16) (d : Reg) (a : Reg) (off : BitVec 9)
  /-- BGE (R74). Branches when xd is at or above xa as signed values. -/
  | bge (st : Fin 16) (d : Reg) (a : Reg) (off : BitVec 9)
  /-- BLTN (R74). Branches when xd is below xa as unsigned values. -/
  | bltn (st : Fin 16) (d : Reg) (a : Reg) (off : BitVec 9)
  /-- BGEN (R74). Branches when xd is at or above xa as unsigned values. -/
  | bgen (st : Fin 16) (d : Reg) (a : Reg) (off : BitVec 9)
  /-- JALR (R75). Writes its address plus 4 to xd and jumps to the address in xa. -/
  | jalr (st : Fin 16) (d : Reg) (a : Reg)
  /-- WAIT (R76). Checks the address in xa and waits for the word there to differ from xd, holding the slot. -/
  | wait (st : Fin 16) (d : Reg) (a : Reg)
  /-- SETVL (R78). Grants a strip length from xa; at a strip boundary it handles cancel, pre-emption, divergence, stops and watermarks, then sets vl and advances vcursor and vstripno. -/
  | setvl (st : Fin 16) (d : Reg) (a : Reg)
  /-- SETVT (R80). Writes vtype from xa if it is valid, clamps vl, clears vstart and writes the new VLMAX to xd. -/
  | setvt (st : Fin 16) (d : Reg) (a : Reg)
  /-- NOP (R75). Has no effect other than its stall count. -/
  | nop (st : Fin 16)
  /-- RDC (R81). Reads a control register into xd after all earlier instructions have left their values. -/
  | rdc (st : Fin 16) (d : Reg) (r : Fin 1024)
  /-- WRC (R81). Writes xd to a control register; this row also covers registers that have no row of their own. -/
  | wrc (st : Fin 16) (d : Reg) (r : Fin 1024)
  /-- WRITE_VL (R82). A write of vl clamps the value to VLMAX and is not a strip boundary. -/
  | writeVl (value : Word)
  /-- WRITE_VTYPE (R82). A write of vtype applies the checks and effects of setvt without writing an x register. -/
  | writeVtype (value : Word)
  /-- WRITE_FFLAGS (R82). A write of fflags waits until the flags of earlier vector instructions are accumulated, then replaces fflags. -/
  | writeFflags (value : Word)
  /-- WRITE_WAYPART (R147). A write of waypart waits for copies, writes back and invalidates ways leaving cache, discards and zero-fills other ways, and installs the new codes as one event. -/
  | writeWaypart (value : Word)
  /-- WRITE_VSTATE (R383). A Supervisor write of vstate sets VEN and the dirty bits; clearing VEN first waits for earlier vector instructions to commit. -/
  | writeVstate (value : Word)
  /-- WRITE_TSTATE (R214). A Supervisor write of tstate moves STATE between CLEAN and DIRTY, or sets or clears NR in the owning slot. -/
  | writeTstate (value : Word)
  /-- WRITE_VHOT (R378). A write of vhot sets or clears the hotness counter that vhotsel selects. -/
  | writeVhot (value : Word)
  /-- VADD (R105). Adds integer elements with wrap. -/
  | vadd (st : Fin 16) (c : Bool) (d : Reg) (a : Reg) (b : Reg) (x : Bool)
  /-- VSUB (R105). Subtracts integer elements with wrap. -/
  | vsub (st : Fin 16) (c : Bool) (d : Reg) (a : Reg) (b : Reg) (x : Bool)
  /-- VMIN (R105). Takes the smaller integer element. -/
  | vmin (st : Fin 16) (c : Bool) (d : Reg) (a : Reg) (b : Reg) (x : Bool)
  /-- VMAX (R105). Takes the larger integer element. -/
  | vmax (st : Fin 16) (c : Bool) (d : Reg) (a : Reg) (b : Reg) (x : Bool)
  /-- VADDSAT (R105). Adds integer elements with saturation. -/
  | vaddsat (st : Fin 16) (c : Bool) (d : Reg) (a : Reg) (b : Reg) (x : Bool)
  /-- VSUBSAT (R105). Subtracts integer elements with saturation. -/
  | vsubsat (st : Fin 16) (c : Bool) (d : Reg) (a : Reg) (b : Reg) (x : Bool)
  /-- VABS (R105). Takes the absolute value of integer elements with wrap. -/
  | vabs (st : Fin 16) (c : Bool) (d : Reg) (a : Reg)
  /-- VNEG (R105). Negates integer elements with wrap. -/
  | vneg (st : Fin 16) (c : Bool) (d : Reg) (a : Reg)
  /-- VAND (R105). ANDs the element bits. -/
  | vand (st : Fin 16) (c : Bool) (d : Reg) (a : Reg) (b : Reg) (x : Bool)
  /-- VOR (R105). ORs the element bits. -/
  | vor (st : Fin 16) (c : Bool) (d : Reg) (a : Reg) (b : Reg) (x : Bool)
  /-- VXOR (R105). XORs the element bits. -/
  | vxor (st : Fin 16) (c : Bool) (d : Reg) (a : Reg) (b : Reg) (x : Bool)
  /-- VSLL (R105). Shifts elements left. -/
  | vsll (st : Fin 16) (c : Bool) (d : Reg) (a : Reg) (b : Reg) (x : Bool)
  /-- VSRL (R105). Shifts elements right logically. -/
  | vsrl (st : Fin 16) (c : Bool) (d : Reg) (a : Reg) (b : Reg) (x : Bool)
  /-- VSRA (R105). Shifts elements right arithmetically. -/
  | vsra (st : Fin 16) (c : Bool) (d : Reg) (a : Reg) (b : Reg) (x : Bool)
  /-- VMUL (R105). Multiplies integer elements with wrap. -/
  | vmul (st : Fin 16) (c : Bool) (d : Reg) (a : Reg) (b : Reg) (x : Bool)
  /-- VMULH (R105). Writes the high half of the exact integer products. -/
  | vmulh (st : Fin 16) (c : Bool) (d : Reg) (a : Reg) (b : Reg) (x : Bool)
  /-- VMADD (R105). Computes a times b plus d with wrap. -/
  | vmadd (st : Fin 16) (c : Bool) (d : Reg) (a : Reg) (b : Reg) (x : Bool)
  /-- VMSUB (R105). Computes a times b minus d with wrap. -/
  | vmsub (st : Fin 16) (c : Bool) (d : Reg) (a : Reg) (b : Reg) (x : Bool)
  /-- VNMADD (R105). Computes d minus a times b with wrap. -/
  | vnmadd (st : Fin 16) (c : Bool) (d : Reg) (a : Reg) (b : Reg) (x : Bool)
  /-- VDIV (R106). Divides integer elements as div and divn do. -/
  | vdiv (st : Fin 16) (c : Bool) (d : Reg) (a : Reg) (b : Reg) (x : Bool)
  /-- VWADD (R113). Adds integer elements into a double-width register pair. -/
  | vwadd (st : Fin 16) (c : Bool) (d : Reg) (a : Reg) (b : Reg) (x : Bool)
  /-- VWMUL (R113). Multiplies integer elements into a double-width register pair. -/
  | vwmul (st : Fin 16) (c : Bool) (d : Reg) (a : Reg) (b : Reg) (x : Bool)
  /-- VCMP (R107). Writes mask bits for eq, ne, lt or le integer comparisons. -/
  | vcmp (st : Fin 16) (c : Bool) (d : Reg) (a : Reg) (b : Reg) (x : Bool) (q : Fin 4)
  /-- VSEL (R114). Selects between va and vb per element using the vmsel mask as a selector. -/
  | vsel (st : Fin 16) (c : Bool) (d : Reg) (a : Reg) (b : Reg) (x : Bool)
  /-- VMV (R115). Copies the bits of active elements. -/
  | vmv (st : Fin 16) (c : Bool) (d : Reg) (a : Reg)
  /-- VBCAST (R115). Writes the low bits of xa into each active element. -/
  | vbcast (st : Fin 16) (c : Bool) (d : Reg) (a : Reg)
  /-- VADD_F (R109). Adds floating elements, rounding once. -/
  | vaddF (st : Fin 16) (c : Bool) (d : Reg) (a : Reg) (b : Reg) (x : Bool)
  /-- VSUB_F (R109). Subtracts floating elements, rounding once. -/
  | vsubF (st : Fin 16) (c : Bool) (d : Reg) (a : Reg) (b : Reg) (x : Bool)
  /-- VMIN_F (R110). Takes minimumNumber of floating elements. -/
  | vminF (st : Fin 16) (c : Bool) (d : Reg) (a : Reg) (b : Reg) (x : Bool)
  /-- VMAX_F (R110). Takes maximumNumber of floating elements. -/
  | vmaxF (st : Fin 16) (c : Bool) (d : Reg) (a : Reg) (b : Reg) (x : Bool)
  /-- VABS_F (R111). Clears the sign bit of floating elements. -/
  | vabsF (st : Fin 16) (c : Bool) (d : Reg) (a : Reg)
  /-- VNEG_F (R111). Inverts the sign bit of floating elements. -/
  | vnegF (st : Fin 16) (c : Bool) (d : Reg) (a : Reg)
  /-- VMUL_F (R109). Multiplies floating elements, rounding once. -/
  | vmulF (st : Fin 16) (c : Bool) (d : Reg) (a : Reg) (b : Reg) (x : Bool)
  /-- VMADD_F (R109). Computes a fused a times b plus d. -/
  | vmaddF (st : Fin 16) (c : Bool) (d : Reg) (a : Reg) (b : Reg) (x : Bool)
  /-- VMSUB_F (R109). Computes a fused a times b minus d. -/
  | vmsubF (st : Fin 16) (c : Bool) (d : Reg) (a : Reg) (b : Reg) (x : Bool)
  /-- VNMADD_F (R109). Computes a fused d minus a times b. -/
  | vnmaddF (st : Fin 16) (c : Bool) (d : Reg) (a : Reg) (b : Reg) (x : Bool)
  /-- VDIV_F (R109). Divides floating elements on the SF pipe. -/
  | vdivF (st : Fin 16) (c : Bool) (d : Reg) (a : Reg) (b : Reg) (x : Bool)
  /-- VWADD_F (R113). Adds floating elements into the wide format pair. -/
  | vwaddF (st : Fin 16) (c : Bool) (d : Reg) (a : Reg) (b : Reg) (x : Bool)
  /-- VWMUL_F (R113). Multiplies floating elements exactly into the wide format pair. -/
  | vwmulF (st : Fin 16) (c : Bool) (d : Reg) (a : Reg) (b : Reg) (x : Bool)
  /-- VSQRT (R109). Takes the rounded square root of floating elements. -/
  | vsqrt (st : Fin 16) (c : Bool) (d : Reg) (a : Reg)
  /-- VRCPA (R116). Writes a 12-bit estimate of the reciprocal. -/
  | vrcpa (st : Fin 16) (c : Bool) (d : Reg) (a : Reg)
  /-- VRSQA (R117). Writes a 12-bit estimate of the reciprocal square root. -/
  | vrsqa (st : Fin 16) (c : Bool) (d : Reg) (a : Reg)
  /-- VRCPS (R119). Computes the reciprocal refinement step 2 minus a times x. -/
  | vrcps (st : Fin 16) (c : Bool) (d : Reg) (a : Reg) (b : Reg)
  /-- VRSQS (R119). Computes the reciprocal-square-root refinement step. -/
  | vrsqs (st : Fin 16) (c : Bool) (d : Reg) (a : Reg) (b : Reg)
  /-- VCLASS (R135). Writes a one-hot class code for each floating element. -/
  | vclass (st : Fin 16) (c : Bool) (d : Reg) (a : Reg)
  /-- VCMP_F (R112). Writes mask bits for IEEE comparisons of floating elements. -/
  | vcmpF (st : Fin 16) (c : Bool) (d : Reg) (a : Reg) (b : Reg) (x : Bool) (q : Fin 4)
  /-- VCVT (R130). Converts active elements from vtype.FMT to the format in B with the selected rounding mode. -/
  | vcvt (st : Fin 16) (c : Bool) (d : Reg) (a : Reg) (b : Reg) (m : Fin 8)
  /-- VLDSC (R139). Loads bf16 scale entries into kd with a stride, fault-only-first. -/
  | vldsc (st : Fin 16) (c : Bool) (d : Reg) (a : Reg) (b : Reg)
  /-- VMVSC_TO_SCALE (R140). Moves 256 16-bit elements of va into scale register kd. -/
  | vmvscToScale (st : Fin 16) (c : Bool) (d : Reg) (a : Reg)
  /-- VMVSC_FROM_SCALE (R140). Moves scale register ka into 16-bit elements 0 to 255 of vd. -/
  | vmvscFromScale (st : Fin 16) (c : Bool) (d : Reg) (a : Reg)
  /-- VAPSC (R141). Scales each active element by its block's scale entry. -/
  | vapsc (st : Fin 16) (c : Bool) (d : Reg) (a : Reg) (b : Reg)
  /-- MAND (R120). ANDs mask bits from vstart to vl minus 1. -/
  | mand (st : Fin 16) (c : Bool) (d : Reg) (a : Reg) (b : Reg)
  /-- MOR (R120). ORs mask bits. -/
  | mor (st : Fin 16) (c : Bool) (d : Reg) (a : Reg) (b : Reg)
  /-- MXOR (R120). XORs mask bits. -/
  | mxor (st : Fin 16) (c : Bool) (d : Reg) (a : Reg) (b : Reg)
  /-- MNOT (R120). Complements mask bits. -/
  | mnot (st : Fin 16) (c : Bool) (d : Reg) (a : Reg)
  /-- MSBF (R122). Sets mask bits before the first set active bit. -/
  | msbf (st : Fin 16) (c : Bool) (d : Reg) (a : Reg)
  /-- MSET (R121). Writes a prefix mask of xa ones over all 2,048 bits. -/
  | mset (st : Fin 16) (c : Bool) (d : Reg) (a : Reg)
  /-- MPOPC (R122). Counts set active mask bits into xd. -/
  | mpopc (st : Fin 16) (c : Bool) (d : Reg) (a : Reg)
  /-- MFIRST (R122). Writes the lowest set active element to xd, or all ones. -/
  | mfirst (st : Fin 16) (c : Bool) (d : Reg) (a : Reg)
  /-- VIOTA (R122). Writes the exclusive prefix count of mask bits. -/
  | viota (st : Fin 16) (c : Bool) (d : Reg) (a : Reg)
  /-- VLD (R160). Loads unit-stride elements, fault-only-first. -/
  | vld (st : Fin 16) (c : Bool) (d : Reg) (a : Reg) (o : Bool)
  /-- VLDS (R160). Loads elements with the vstride byte stride. -/
  | vlds (st : Fin 16) (c : Bool) (d : Reg) (a : Reg) (o : Bool)
  /-- VLDX (R160). Loads elements at xa plus per-element indices, with the .b form checking bounds. -/
  | vldx (st : Fin 16) (c : Bool) (d : Reg) (a : Reg) (b : Reg) (o : Bool) (k : Bool)
  /-- VLDT (R166). Loads elements of the tensor that a shape record describes, converting from its memory format. -/
  | vldt (st : Fin 16) (c : Bool) (d : Reg) (a : Reg) (b : Reg) (o : Bool)
  /-- VPF (R163). Prefetches the lines that a vld would read, with no access or fault. -/
  | vpf (st : Fin 16) (c : Bool) (a : Reg) (o : Bool)
  /-- VST (R160). Stores unit-stride elements at commit. -/
  | vst (st : Fin 16) (c : Bool) (d : Reg) (a : Reg) (o : Bool) (n : Bool)
  /-- VSTS (R160). Stores strided elements. -/
  | vsts (st : Fin 16) (c : Bool) (d : Reg) (a : Reg) (o : Bool) (n : Bool)
  /-- VSTX (R160). Stores indexed elements in element order. -/
  | vstx (st : Fin 16) (c : Bool) (d : Reg) (a : Reg) (b : Reg) (o : Bool) (n : Bool) (k : Bool)
  /-- VSTXU (R162). Stores indexed elements with no order among them. -/
  | vstxu (st : Fin 16) (c : Bool) (d : Reg) (a : Reg) (b : Reg) (o : Bool) (n : Bool) (k : Bool)
  /-- VSTT (R166). Stores elements into the tensor that a shape record describes. -/
  | vstt (st : Fin 16) (c : Bool) (d : Reg) (a : Reg) (b : Reg) (o : Bool) (n : Bool)
  /-- VLSEG (R164). Loads records of 2 to 8 fields into consecutive registers. -/
  | vlseg (st : Fin 16) (c : Bool) (d : Reg) (a : Reg) (b : Reg) (o : Bool) (n : Fin 8)
  /-- VSSEG (R164). Stores records of 2 to 8 fields from consecutive registers. -/
  | vsseg (st : Fin 16) (c : Bool) (d : Reg) (a : Reg) (b : Reg) (o : Bool) (t : Bool) (n : Fin 8)
  /-- VBIND (R170). Binds vd to the stream that the record in va describes. -/
  | vbind (st : Fin 16) (c : Bool) (d : Reg) (a : Reg)
  /-- VUNBIND (R170). Removes the binding of vd. -/
  | vunbind (st : Fin 16) (c : Bool) (d : Reg)
  /-- VPERM (R178). Permutes elements of va by the indices in vb. -/
  | vperm (st : Fin 16) (c : Bool) (d : Reg) (a : Reg) (b : Reg)
  /-- VSLU (R178). Slides elements up by xb. -/
  | vslu (st : Fin 16) (c : Bool) (d : Reg) (a : Reg) (b : Reg)
  /-- VSLD (R178). Slides elements down by xb. -/
  | vsld (st : Fin 16) (c : Bool) (d : Reg) (a : Reg) (b : Reg)
  /-- VCOMPRESS (R180). Packs the active elements to the low positions. -/
  | vcompress (st : Fin 16) (c : Bool) (d : Reg) (a : Reg)
  /-- VEXPAND (R180). Spreads consecutive elements to the active positions. -/
  | vexpand (st : Fin 16) (c : Bool) (d : Reg) (a : Reg)
  /-- VRED (R181). Reduces active elements in the fixed lane-tree order into xd. -/
  | vred (st : Fin 16) (c : Bool) (d : Reg) (a : Reg) (b : Reg) (f : Bool) (p : Fin 8)
  /-- VSCAN (R183). Writes the inclusive running result of active elements. -/
  | vscan (st : Fin 16) (c : Bool) (d : Reg) (a : Reg) (b : Reg) (f : Bool) (p : Fin 8)
  /-- VFETCH (R184). Closes open windows, checks the base block and runs an episode of virtual processors. -/
  | vfetch (st : Fin 16) (c : Bool) (a : Reg)
  /-- VPBR (R186). Sends a virtual processor to the block its element selects. -/
  | vpbr (st : Fin 16) (c : Bool) (a : Reg)
  /-- VPEND (R186). Ends a virtual processor's path. -/
  | vpend (st : Fin 16) (c : Bool)
  /-- VPSEND (R186). Appends a value to the ring stream to the next virtual processor. -/
  | vpsend (st : Fin 16) (c : Bool) (a : Reg)
  /-- VPRECV (R186). Receives the next value from the previous virtual processor. -/
  | vprecv (st : Fin 16) (c : Bool) (d : Reg)
  /-- VCONF (R189). Marks the leader of each group of equal keys. -/
  | vconf (st : Fin 16) (c : Bool) (d : Reg) (a : Reg)
  /-- VCOMB (R190). Writes at each leader the sum of the values of its key. -/
  | vcomb (st : Fin 16) (c : Bool) (d : Reg) (a : Reg) (b : Reg)
  /-- VISECT (R191). Writes for each element of va the position of the same value in vb. -/
  | visect (st : Fin 16) (c : Bool) (d : Reg) (a : Reg) (b : Reg)
  /-- CINS (R197). Inserts keys into the coordinate store at the commit point. -/
  | cins (st : Fin 16) (c : Bool) (d : Reg) (a : Reg)
  /-- CLOOK (R198). Looks up keys in the coordinate store. -/
  | clook (st : Fin 16) (c : Bool) (d : Reg) (a : Reg) (b : Reg)
  /-- CACC (R199). Adds values at keys in the coordinate store, inserting absent keys. -/
  | cacc (st : Fin 16) (c : Bool) (a : Reg) (b : Reg)
  /-- CDRAIN (R200). Moves the lowest entries out of the coordinate store and sets vl. -/
  | cdrain (st : Fin 16) (c : Bool) (d : Reg)
  /-- CCLR (R201). Empties the coordinate store. -/
  | cclr (st : Fin 16) (c : Bool)
  /-- VGATHL (R204). Loads indexed elements and sets an element link for each. -/
  | vgathl (st : Fin 16) (c : Bool) (d : Reg) (a : Reg) (b : Reg) (o : Bool)
  /-- VSCATC (R206). Writes each indexed element only if its link is intact and reports success in mk. -/
  | vscatc (st : Fin 16) (c : Bool) (d : Reg) (a : Reg) (b : Reg) (o : Bool) (m : Fin 8)
  /-- FIBDEF (R208). Reads a fibre descriptor and installs the slot's fibre definition. -/
  | fibdef (st : Fin 16) (c : Bool) (a : Reg)
  /-- FIBEND (R210). Removes the slot's fibre definition. -/
  | fibend (st : Fin 16) (c : Bool)
  /-- FIBRE_PREFETCH (R209). The scanner reads schedule entries ahead and fetches fibre lines into fibre-cache ways, evicting by farthest next use. -/
  | fibrePrefetch (slot : Nat)
  /-- TEN (R215). Waits for earlier work and claims the tile group into INIT. -/
  | ten (st : Fin 16)
  /-- TDIS (R215). Waits for the tile unit and sequencer, then discards and releases the tile group. -/
  | tdis (st : Fin 16)
  /-- TZERO (R230). Writes zero to every enabled accumulator of tT. -/
  | tzero (st : Fin 16) (p : Fin 4) (t : Fin 8)
  /-- TMOP (R231). Adds one outer product of va and vb to tT. -/
  | tmop (st : Fin 16) (p : Fin 4) (t : Fin 8) (a : Reg) (b : Reg)
  /-- TMMA (R232). Adds a K-block of 16 to tT from a vector or LSP A operand and a weight-buffer B block. -/
  | tmma (st : Fin 16) (p : Fin 4) (t : Fin 8) (a : Reg) (b : Reg) (l : Bool) (o : Bool)
  /-- TMMS (R251). Adds the N terms per column of an N:16 structured B block to tT. -/
  | tmms (st : Fin 16) (p : Fin 4) (t : Fin 8) (a : Reg) (b : Reg) (l : Bool) (o : Bool)
  /-- TMF64 (R256). Adds a split-precision f64 K-block of 4 into an even tile pair. -/
  | tmf64 (st : Fin 16) (p : Fin 4) (t : Fin 8) (a : Reg) (b : Reg) (l : Bool) (o : Bool)
  /-- TLD (R234). Loads a whole tile from 16 KiB of memory. -/
  | tld (st : Fin 16) (t : Fin 8) (a : Reg) (o : Bool)
  /-- TST (R234). Stores a whole tile to 16 KiB of memory at commit. -/
  | tst (st : Fin 16) (t : Fin 8) (a : Reg) (o : Bool)
  /-- TROWMV (R235). Moves one accumulator row between a tile and a vector register. -/
  | trowmv (st : Fin 16) (t : Fin 8) (a : Reg) (b : Reg) (k : Bool)
  /-- TCOLMV (R235). Moves one accumulator column between a tile and a vector register. -/
  | tcolmv (st : Fin 16) (t : Fin 8) (a : Reg) (b : Reg) (k : Bool)
  /-- TVMV (R236). Moves a whole tile to or from eight vector registers. -/
  | tvmv (st : Fin 16) (t : Fin 8) (a : Reg) (k : Bool)
  /-- WBLD (R250). Copies 2,048 bytes from memory into the weight buffer, all or nothing. -/
  | wbld (st : Fin 16) (a : Reg) (b : Reg)
  /-- WBFMT (R246). Sets the weight format for later tile operations. -/
  | wbfmt (st : Fin 16) (a : Reg)
  /-- TCHK (R258). Enables or disables row checksums for later tile operations. -/
  | tchk (st : Fin 16) (a : Reg)
  /-- TCHKRD (R262). Reads and clears the checksum counters after earlier tile operations. -/
  | tchkrd (st : Fin 16) (a : Reg)
  /-- TILE_OP_COMPLETE (R219). When the last lane arrives, a lane tile operation installs its staging copies, writes vector results and ORs its flags. -/
  | tileOpComplete (core : Nat)
  /-- MATRIX_COMMAND_ACCEPT (R217). The tile unit accepts the queued matrix command at the head of the queue, or discards it if illegal or trapping. -/
  | matrixCommandAccept (core : Nat)
  /-- CPY (R273). Issues a linear copy of p2 bytes to the cluster's copy engine. -/
  | cpy (st : Fin 16) (d : Reg) (a : Reg) (u : Bool) (t : Bool)
  /-- CPY2 (R274). Issues a two-dimensional copy of rows with strides. -/
  | cpy2 (st : Fin 16) (d : Reg) (a : Reg) (u : Bool) (t : Bool)
  /-- CPYT (R275). Issues a copy between a tensor and a linear array. -/
  | cpyt (st : Fin 16) (d : Reg) (a : Reg) (b : Reg) (u : Bool) (t : Bool)
  /-- CPYR (R276). Issues an in-engine addition of a source array into a destination array. -/
  | cpyr (st : Fin 16) (d : Reg) (a : Reg) (u : Bool) (t : Bool)
  /-- CPYM (R280). Issues a copy to a target core followed by a matrix command enqueue. -/
  | cpym (st : Fin 16) (d : Reg) (a : Reg) (u : Bool) (t : Bool)
  /-- CPYX (R283). Issues a copy to or from another package over UALink or Ethernet. -/
  | cpyx (st : Fin 16) (d : Reg) (a : Reg) (u : Bool) (t : Bool)
  /-- CPYFILL (R277). Issues a fill of p2 bytes with a 64-bit pattern. -/
  | cpyfill (st : Fin 16) (d : Reg) (a : Reg) (u : Bool)
  /-- CPYBC (R278). Issues a broadcast copy to several cores of the cluster. -/
  | cpybc (st : Fin 16) (d : Reg) (a : Reg) (u : Bool) (t : Bool)
  /-- COPY_ENGINE_ACCEPT (R264). At the issue point the engine accepts a command, takes ownership of destination lines and starts it. -/
  | copyEngineAccept (cluster : Nat)
  /-- COPY_COMPLETION (R270). The copy reaches its completion point, makes its destination bytes appear at once and writes the token. -/
  | copyCompletion (cluster : Nat) (ident : Nat)
  /-- FENCE (R298). At system scope waits until earlier accesses are performed at their homes; otherwise has no effect. -/
  | fence (st : Fin 16) (k : Fin 8)
  /-- ACQ (R298). At system scope waits for earlier loads before later accesses. -/
  | acq (st : Fin 16) (k : Fin 8)
  /-- REL (R298). At system scope waits cumulatively for earlier writes before later stores. -/
  | rel (st : Fin 16) (k : Fin 8)
  /-- BARINIT (R306). Resets a barrier slot's EXPECT and ARRIVED and advances its generation. -/
  | barinit (st : Fin 16) (a : Reg) (b : Reg) (g : Bool)
  /-- BARARR (R307). Arrives at a barrier slot with the count of set active mask bits and records a ticket. -/
  | bararr (st : Fin 16) (a : Reg) (b : Reg) (g : Bool)
  /-- BARWAIT (R308). Waits until the ticketed generation opens at its slot. -/
  | barwait (st : Fin 16) (a : Reg) (g : Bool)
  /-- WMWAIT (R309). Waits until every inbound watermark passes the element bound in xa. -/
  | wmwait (st : Fin 16) (a : Reg)
  /-- BARWAIT_RELEASE (R308). A waiting barwait is released when its slot's generation changes or EXPECT becomes 0. -/
  | barwaitRelease (slot : Nat)
  /-- WATERMARK_SATISFIED (R78). A waiting setvl or wmwait proceeds when the progress word reaches the need or the producer completes. -/
  | watermarkSatisfied (slot : Nat)
  /-- WAIT_WAKE (R76). A waiting wait ends when the watched word changes or a pre-emption or cancel is pending, and reads the word. -/
  | waitWake (slot : Nat)
  /-- WAIT_TIMEOUT (R76). A wait ends after 65,536 cycles and reads the word. -/
  | waitTimeout (slot : Nat)
  /-- LINK_HOLD_EXPIRY (R72). The home vault stops holding back other agents' writes 128 cycles after a linked read. -/
  | linkHoldExpiry (line : Nat)
  /-- RELRCV (R317). Waits until the thread's covered Almanac writes reach the persistence point. -/
  | relrcv (st : Fin 16)
  /-- CKPBEG (R325). Clears and persists the seal block and opens a checkpoint record. -/
  | ckpbeg (st : Fin 16) (a : Reg) (b : Reg)
  /-- CKPSEAL (R326). Makes the record durable, writes the footprint and hash, then MAGIC last, and closes the record. -/
  | ckpseal (st : Fin 16) (a : Reg)
  /-- CKPVERIFY (R328). Verifies a sealed record and optionally advances the recovery point. -/
  | ckpverify (st : Fin 16) (d : Reg) (a : Reg)
  /-- CKPABORT (R327). Closes an open record without sealing it. -/
  | ckpabort (st : Fin 16)
  /-- RPRD (R331). Reads rpbase, rpseq or rpgen of the slot's context. -/
  | rprd (st : Fin 16) (d : Reg) (b : Reg)
  /-- LAUNCH (R351). Reads and submits a launch packet, raising LAUNCH_OVERFLOW if nothing has room. -/
  | launch (st : Fin 16) (a : Reg)
  /-- LAUNCHN (R351). Submits a launch packet and writes the launch ID, or 0 if nothing has room. -/
  | launchn (st : Fin 16) (d : Reg) (a : Reg)
  /-- CANCEL (R352). Cancels the launch, graph, phase or job entry that encloses a handle. -/
  | cancel (st : Fin 16) (a : Reg) (b : Reg)
  /-- CNTRD (R353). Reads a completion-table entry's count, status and level. -/
  | cntrd (st : Fin 16) (d : Reg) (a : Reg)
  /-- FORK (R354). Starts the matrix and copy sequencers on their programs. -/
  | fork (st : Fin 16) (a : Reg) (b : Reg)
  /-- JOIN (R355). Waits for the sequencers to arrive or stop, clears them and raises any recorded fault. -/
  | join (st : Fin 16)
  /-- SEND (R355). Marks its sequencer as arrived and stops it. -/
  | send (st : Fin 16)
  /-- YIELD (R357). Offers the slot to a waiting unit of equal or higher priority. -/
  | yield (st : Fin 16)
  /-- UEXIT (R356). Ends the unit, which retires once its vector work, copies and sequencers are finished. -/
  | uexit (st : Fin 16)
  /-- NOTIFY (R358). Requests service of a user queue of the unit's job. -/
  | notify (st : Fin 16) (a : Reg)
  /-- TRAP (R389). Takes SVCALL with the code in B, sepc pointing past it. -/
  | trap (st : Fin 16) (b : Reg)
  /-- ERET (R389). Returns from a trap, reopening the window stash and clearing links. -/
  | eret (st : Fin 16)
  /-- MCALL (R381). Calls an Umante service: page request, unit failure or generation read. -/
  | mcall (st : Fin 16)
  /-- HALT (R389). Drains the slot and suspends the unit as halted for a debugger. -/
  | halt (st : Fin 16)
  /-- VPTWR (R378). Writes a vector page table entry of the context in all 48 replicas as one event. -/
  | vptwr (st : Fin 16) (a : Reg) (b : Reg)
  /-- TLBINV (R375). Removes kept scalar translations of the context package-wide. -/
  | tlbinv (st : Fin 16) (a : Reg) (b : Reg)
  /-- CTXSAVE (R386). Writes the selected parts of the slot's context to an image. -/
  | ctxsave (st : Fin 16) (a : Reg)
  /-- CTXREST (R386). Restores the selected parts of a context image into the slot. -/
  | ctxrest (st : Fin 16) (a : Reg)
  /-- BRK (R397). Raises BREAKPOINT, or halts the unit when dbgctl.BH is 1. -/
  | brk (st : Fin 16) (b : Reg)
  /-- TMARK (R394). Writes a mark trace record when enabled. -/
  | tmark (st : Fin 16) (a : Reg)
  /-- SMPL (R399). Arms sampling of the next sampled instruction with a tag. -/
  | smpl (st : Fin 16) (a : Reg)
  /-- VECTOR_COMMIT (R94). When the last lane completes the instruction at the commit point, it commits, moves shadow writes to registers, ORs flags and releases stores. -/
  | vectorCommit (slot : Nat)
  /-- VARIABLE_LATENCY_RESULT (R57). A variable-latency result is written and its register's pending mark clears. -/
  | variableLatencyResult (slot : Nat)
  /-- RENDEZVOUS_ARRIVAL (R175). A lane arrives at a rendezvous, setting its bit of the arrival vector, and stalls. -/
  | rendezvousArrival (slot : Nat) (lane : Fin 16)
  /-- RENDEZVOUS_COMPLETE (R176). After the last arrival, the rendezvous forms and writes its results and commits. -/
  | rendezvousComplete (slot : Nat)
  /-- TRAP_ENTRY (R365). Once the commit point reaches the faulting instruction, the slot undoes later work, records the cause and enters the handler. -/
  | trapEntry (slot : Nat)
  /-- WINDOW_REPLAY (R370). A consumed uncorrectable error or lane mismatch squashes and reissues the slot's uncommitted vector entries. -/
  | windowReplay (slot : Nat)
  /-- LANE_MISMATCH (R406). In protected mode a mismatch between mirrored lanes starts a window replay or, repeated, stops the slot. -/
  | laneMismatch (slot : Nat) (lane : Fin 8)
  /-- LOCKSTEP_MISMATCH (R407). A comparison mismatch between lockstep copies squashes both and replays the window. -/
  | lockstepMismatch (slot : Nat)
  /-- NOTIFY_REGISTER_WRITE (R348). A host write to a notify register requests service of the mapped queue, or sets PEND during unmap. -/
  | notifyRegisterWrite (hwq : Nat)
  /-- SERVE_QUEUE (R348). Horizon reads valid packets of a queue in order, accepts them and clears V and advances RDIDX. -/
  | serveQueue (queue : Nat)
  /-- SPILL_RETURN (R341). Spilled entries return to the store, oldest first, as room appears. -/
  | spillReturn (job : Nat)
  /-- MAP_REQUEST (R349). A host write of a control-block address asks Umante to map a queue whose PEND is set. -/
  | mapRequest (pa : Nat)
  /-- QUEUE_MAP (R349). Umante maps a queue to a hardware slot, clearing PEND and serving it once. -/
  | queueMap (queue : Nat)
  /-- QUEUE_DESTROY (R349). Destroying a queue sets DESTROYED and cancels its accepted launches. -/
  | queueDestroy (queue : Nat)
  /-- COUNTER_CREATE (R413). A read of RESULT creates a graph, phase or job entry and returns its handle. -/
  | counterCreate (appCore : Fin 16) (arg : Word)
  /-- COUNTER_CLOSE (R413). A read of RESULT with CLOSE set closes an entry, completing it if its count is 0. -/
  | counterClose (appCore : Fin 16) (arg : Word)
  /-- HOST_VPT_ENTRY_WRITE (R412). A host write to a vector page table entry changes all replicas as one event. -/
  | hostVptEntryWrite (ctx : Fin 16) (entry : Fin 4096) (value : Word)
  /-- HOST_HOTNESS_CLEAR (R412). A host write to a hotness word clears the counters wholly within it. -/
  | hostHotnessClear (ctx : Fin 16) (word : Fin 6144)
  /-- UMANTE_DISPATCH (R343). Umante binds the next unit of the first ready launch into an idle slot, splitting launches into units. -/
  | umanteDispatch
  /-- BIND (R346). A BIND record with RESUME 0 starts a fresh unit with the state of R17. -/
  | bind (slot : Nat)
  /-- BIND_RESUME (R387). A BIND record with RESUME 1 restores a suspended unit's image, claiming tiles lazily. -/
  | bindResume (slot : Nat)
  /-- PREEMPT (R346). A PREEMPT record moves a running slot to STOP until the pre-emption lands. -/
  | preempt (slot : Nat)
  /-- KILL (R346). A KILL record drops the unit's state and marks its launch FAILED. -/
  | kill (slot : Nat) (cause : Nat)
  /-- UNIT_LOAD_COMPLETE (R346). When loading finishes the slot enters RUN and first issues within 2 cycles. -/
  | unitLoadComplete (slot : Nat)
  /-- PREEMPTION_LANDS (R344). A requested pre-emption lands at an allowed point after the slot drains, and the unit's state is saved. -/
  | preemptionLands (slot : Nat)
  /-- SAVE_COMPLETE (R346). When the image is stored the slot becomes IDLE and the unit is held as suspended. -/
  | saveComplete (slot : Nat)
  /-- UNIT_RETIRE (R356). When draining completes the unit retires, releasing its claims and decrementing its launch. -/
  | unitRetire (slot : Nat)
  /-- LAUNCH_COMPLETION (R339). A completed entry writes its completion block, decrements its parent and is released. -/
  | launchCompletion (index : Nat)
  /-- PAGE_REQUEST_ANSWER (R380). Umante answers a page request with success or failure, resuming the waiter or discarding a stale answer. -/
  | pageRequestAnswer (request : Nat) (generation : Nat) (success : Bool)
  /-- PARTITION_SWAP (R388). After every slot has landed, each core exchanges its live state with its shadow-storage image. -/
  | partitionSwap (job : Nat)
  /-- COMPUTE_DIE_RESET (R316). Containment resets a compute die, losing non-Almanac values of its jobs while controllers drain Almanac writes. -/
  | computeDieReset (die : Fin 4)
  /-- RECOVERY_RESTORE (R332). Umante stops the job, agrees on S, verifies the record, advances rpgen, rebinds resume entries and releases dispatch. -/
  | recoveryRestore (job : Nat) (agreedSeq : Word)
  /-- REMOTE_ACK_TIMEOUT (R409). A remote access unacknowledged for 20 ms marks its package unreachable and kills the issuing unit. -/
  | remoteAckTimeout (slot : Nat) (pkg : Nat) (addr : Word)
  /-- SPARE_SWITCH (R408). Firmware switches in a spare lane, way, row or link lane, or maps out a core. -/
  | spareSwitch (spare : Spare)
  /-- LINK_RETRAIN (R415). A failed link lane is replaced by a spare and the port retrains while traffic moves to other ports. -/
  | linkRetrain (port : Fin 16) (lane : Nat)
  /-- THERMAL_CLOCK_REDUCTION (R423). At 105 °C junction or under the power cap the core clock falls in 100 MHz steps. -/
  | thermalClockReduction
  /-- THERMAL_SHUTDOWN (R423). At 115 °C the part kills all units, logs a machine check and powers off the compute dies. -/
  | thermalShutdown
  /-- POWER_ON_BOOT (R419). The boot ROM verifies and runs Umante, which verifies the loader and starts the application cores. -/
  | powerOnBoot (umante : FirmwareImage) (loader : FirmwareImage)
  /-- ITRUS_PARTITION_CONTROL (R418). A class 0x01 message creates, sizes, configures or destroys partitions, contexts and jobs, or resets the package. -/
  | itrusPartitionControl (msg : PartitionMsg)
  /-- ITRUS_DEBUG (R389). A class 0x02 message sets debug controls or resumes or kills a halted unit. -/
  | itrusDebug (msg : DebugMsg)
  /-- ITRUS_TRACE (R418). A class 0x03 message manages trace rings and reference tables. -/
  | itrusTrace (msg : TraceMsg)
  /-- ITRUS_ANNALS (R410). A class 0x04 message reads the Annals and machine-check records. -/
  | itrusAnnals (msg : AnnalsMsg)
  /-- ITRUS_RECOVERY (R332). A class 0x05 message carries recovery reports and agreement on S. -/
  | itrusRecovery (msg : RecoveryMsg)
  /-- ITRUS_FIRMWARE_UPDATE (R419). A class 0x06 message delivers a firmware image that is verified before use. -/
  | itrusFirmwareUpdate (image : FirmwareImage)
  /-- ITRUS_ATTESTATION (R421). A class 0x07 message returns a signed attestation report or a refusal when the key is exhausted. -/
  | itrusAttestation (nonce : BitVec 256)
  /-- ITRUS_POWER (R423). A class 0x08 message sets power caps or reads sensors. -/
  | itrusPower (msg : PowerMsg)
  /-- REMOTE_ACCESS_ARRIVAL (R303). A load, store or cpyx put arriving over UALink or Ethernet from another package is performed at its home and takes one place in this package's total order. -/
  | remoteAccessArrival (access : RemoteAccess)
  /-- REMOTE_ACKNOWLEDGEMENT (R299). The acknowledgements of outstanding remote accesses, including remote durability acknowledgements, arrive and end system-scope and relrcv waits. -/
  | remoteAcknowledgement (slot : Nat)
  /-- PERSISTENCE_POINT_REACHED (R317). Covered Almanac writes reach the write queues of both memory controllers, which lets a waiting relrcv, ckpbeg or ckpseal proceed. -/
  | persistencePointReached (slot : Nat)
  /-- POWER_LOSS (R422). The whole package loses power, resetting every domain and losing the Almanac domain, while fuses, the Annals and the SRAM key store are kept. -/
  | powerLoss
  /-- BASE_DIE_FAILURE (R422). A base die, or one HBM stack, fails; the Almanac mirror and the other base dies carry on, and jobs with non-Almanac memory in those stacks end. -/
  | baseDieFailure (die : Fin 4)
  /-- QUEUE_UNMAP (R349). Umante unmaps a user queue from its hardware queue slot, and notifies that arrive meanwhile set PEND. -/
  | queueUnmap (queue : Nat)
  /-- ITRUS_CONNECTION (R418). A TLS connection to the management port is opened, authenticated and served, or refused when 8 are already served, or closed. -/
  | itrusConnection (msg : ConnectionMsg)
  /-- ANNALS_OBSERVATION (R410). Every 1 ms the management core records a thermal and a voltage-droop observation per die into the Annals histograms. -/
  | annalsObservation (die : Fin 4) (celsius : Nat) (droopMv : Nat)
  deriving DecidableEq, Repr

end Sys2Proof
end

