-- ==== Sys2Proof/Machine/State.lean ====
section
/-! DEFINITION. The state of the machine: everything 01 R21 and the chapters give it, held as plain data, and the state right
after reset. INVENTORY.md lists each field with its rule and its reset value. -/

namespace Sys2Proof.Machine

/-- Why the machine itself stops. Each stands for an access to an address that the spec says does not exist. -/
inductive Fault where
  /-- A page-table walk reads an entry outside the package's HBM, physical 0 to 0x7F_FFFF_FFFF (15 R427, 17 R411). Raised
  by the walk. Safe: the machine stops where the hardware may go on. -/
  | walkOutsideHbm (pa : Nat)
  /-- A record of the package (a queue control block, a trace ring) named by a physical address lies outside the
  package's HBM (17 R411). Raised by Horizon's and the trace writer's accesses. Safe. -/
  | recordOutsideHbm (pa : Nat)
  deriving DecidableEq, Repr

/-- Why the machine gives an instruction no meaning. -/
inductive Refusal where
  /-- The instruction has no meaning in the model. Raised only by the arms of exec. Safe. -/
  | notModelled (mnemonic : String)
  deriving DecidableEq, Repr

/-- The privilege levels (15 R359). -/
inductive Level where
  | user
  | supervisor
  deriving DecidableEq, Repr

/-- The states of an issue slot (14 Table 14.5). -/
inductive SlotState where
  | idle
  | load
  | run
  | stop
  | drain
  | save
  deriving DecidableEq, Repr

/-- A register and the value it held before a producer wrote it (02 R32, R33). -/
inductive OldReg where
  | x (sup : Bool) (n : Nat) (old : Word)
  | v (n : Nat) (old : VReg)
  | m (n : Nat) (old : MReg)
  | k (n : Nat) (old : KReg)
  deriving DecidableEq, Repr

/-- The open window of a fixed-latency producer: its address, the distance that remains, whether the running convoy
opened it, and the registers it wrote (02 R30, R32, R37). -/
structure Win where
  pc : Word
  rem : Nat
  conv : Bool
  olds : List OldReg
  deriving DecidableEq, Repr

/-- The scalar link (03 R70, R71). `line` is the number of the 64-byte line in the model's byte space. -/
structure ScalarLink where
  addr : Word
  line : Nat
  intact : Bool
  deriving DecidableEq, Repr

/-- A binding record of the slot's binding table, with its position P (06 R169, R170). -/
structure Binding where
  reg : Nat
  base : Word
  stride : Word
  cfg : Word
  sbase : Word
  sstride : Word
  count : Word
  pos : Nat
  deriving DecidableEq, Repr

/-- A fibre definition: its descriptor's address, the six words of the descriptor, and the position (08 R208, R209). -/
structure Fibre where
  desc : Word
  words : List Word
  pos : Nat
  deriving DecidableEq, Repr

/-- The states of an engine sequencer (14 R354, R355; 09 R240). -/
inductive SeqState where
  | idle
  | running
  | arrived
  | stopped
  deriving DecidableEq, Repr

/-- A register of a sequencer that awaits a copy's token: the copy's number (11 R287). -/
structure SeqPend where
  reg : Nat
  ident : Nat
  deriving DecidableEq, Repr

/-- A matrix or copy sequencer: its registers y0 to y7 or z0 to z7, what `fork` captured, why it stopped, and what it
waits for (09 R239, R240; 11 R287, R288; 14 R354). -/
structure Sequencer where
  st : SeqState
  pc : Word
  r : Tab Word
  fmt : BitVec 4
  slc : BitVec 4
  rm : BitVec 3
  sup : Bool
  cause : Nat
  stval : Word
  pend : List SeqPend
  deriving DecidableEq, Repr

def Sequencer.reset : Sequencer :=
  { st := .idle, pc := 0, r := [], fmt := 0, slc := 0, rm := 0, sup := false, cause := 0, stval := 0, pend := [] }

/-- An inbound watermark of a unit, resolved at acceptance (14 R336; 03 R78). `producer` is the index of the producer's
entry while it is held; none is a stale producer. -/
structure Watermark where
  producer : Option Nat
  rnum : Nat
  rden : Nat
  offset : Int
  addr : Word
  deriving DecidableEq, Repr

/-- What a slot that holds waits for (03 R59); `barrier` carries the generation that a `barwait` without a ticket read (12
R308); `landing` is a pre-emption that lands before the slot goes on (14 R344), `tileOrder` an earlier tile operation (09
R217). -/
inductive Waiting where
  | token
  | ownedLine
  | heldLine
  | copyEngine
  | watch
  | watermark
  | barrier (target : Option (BitVec 32))
  | sequencer
  | remote
  | lost (pkg : Nat) (addr : Word)
  | persist
  | pageRequest
  | queueRoom
  | landing
  | tileOrder
  deriving DecidableEq, Repr

/-- A copy token that an x register of the slot awaits (11 R267). -/
structure PendTok where
  sup : Bool
  reg : Nat
  ident : Nat
  deriving DecidableEq, Repr

/-- A failed copy whose token no instruction has read (11 R284); `seq` where the register is the copy sequencer's, `overwritten`
where an instruction has overwritten the token since. -/
structure FailedCopy where
  seq : Bool
  sup : Bool
  reg : Nat
  pc : Word
  addr : Word
  token : Word
  overwritten : Bool
  deriving DecidableEq, Repr

/-- The open checkpoint record of a unit (13 R319, R322). The footprint holds the lines' virtual addresses, ascending, each
with the place of its line; `listed` counts the lines of the list that a `ckpseal` under way has written (13 R326). -/
structure OpenRecord where
  hdr : Word
  seq : Word
  gen : BitVec 32
  ovf : Bool
  cerr : Bool
  listed : Nat
  lines : Tab Nat
  deriving DecidableEq, Repr


/-- The registers of a slot (01 R21, R17; 15 R359). `x` holds x1 to x31, `sx` the supervisor bank. -/
structure SlotRegs where
  x : Tab Word
  sx : Tab Word
  v : Tab VReg
  m : Tab MReg
  k : Tab KReg
  pc : Word
  level : Level
  deriving DecidableEq, Repr

def SlotRegs.reset : SlotRegs := { x := [], sx := [], v := [], m := [], k := [], pc := 0, level := .user }

/-- The unit-level control registers (03 R83 to R86; 06 R167; 12 R305; 15 R383). -/
structure SlotCtl where
  vl : BitVec 12
  fmt : BitVec 4
  blk : BitVec 3
  slc : BitVec 4
  vstart : BitVec 11
  vstride : Word
  msel : BitVec 3
  mall : Bool
  rm : BitVec 3
  fflags : BitVec 5
  chkStall : Bool
  vwbase : Word
  vcursor : Word
  vstripno : BitVec 32
  vprog : Word
  barseq : Word
  vstate : Word
  deriving DecidableEq, Repr

def SlotCtl.reset : SlotCtl :=
  { vl := 0, fmt := 10, blk := 5, slc := 7, vstart := 0, vstride := 0, msel := 0, mall := true, rm := 0, fflags := 0,
    chkStall := false, vwbase := 0, vcursor := 0, vstripno := 0, vprog := 0, barseq := 0, vstate := 1 }

/-- The Supervisor registers of a slot (15 R362, R363, R378; 16 R393, R395, R398). -/
structure SlotSup where
  spp : Bool
  intrap : Bool
  scause : Word
  sepc : Word
  stval : Word
  stvec : Word
  sscratch : Word
  simg : Word
  vhotsel : Word
  dbgctl : Word
  dbgpc : Word
  trcctl : Word
  smplctl : Word
  smplTag : Word
  deriving DecidableEq, Repr

def SlotSup.reset : SlotSup :=
  { spp := false, intrap := false, scause := 0, sepc := 0, stval := 0, stvec := 0, sscratch := 0, simg := 0,
    vhotsel := 0, dbgctl := 0, dbgpc := 0, trcctl := 0, smplctl := 0, smplTag := 0 }

/-- What the lanes produce of an instruction: the registers that it writes with their new values, the flags of its active
elements, and the dirty bits that it sets in `vstate` when it commits (04 R95, R96; 15 R383). -/
structure FlightResult where
  writes : List OldReg
  flags : BitVec 5
  dirty : Word
  deriving DecidableEq, Repr

/-- An entry of a slot's replay queue: an instruction that has issued, with what it captured at issue (the control registers
and the binding records of 03 R58, and the open windows, which fix the write that each source tag names, 04 R89), its place in
the thread (its pc, the rest of its convoy, its instruction sequence, the run of 03 R72), the number of the first copy issued after
it, the lines of copies that have failed since then (09 R227; 10 R245), the arrival vector of a rendezvous (07 R175), the lanes that have completed it (04 R94), the uncorrectable errors that
it has consumed, each with its `stval` and the element, and whether a lane mismatch has replayed it (15 R370; 16 R406). `result` is
what the lanes produce of it, none while that rests on an exchange or on an earlier entry's result; `undo` holds what the x
registers that a scalar entry wrote held before. A lane that completed an entry while an older one had not committed holds the writes of
`result` in its shadow write buffer until the entry commits: `shadow` (04 R95). -/
structure InFlight where
  instr : Instr
  ctl : SlotCtl
  binds : List Binding
  wins : List Win
  pc : Word
  convoy : List Nat
  iseq : Word
  linkRun : Option Nat
  since : Nat
  lost : List Nat
  arrivals : BitVec 16
  lanes : BitVec 16
  shadow : BitVec 16
  consumed : List (Word × Nat)
  mismatched : Bool
  result : Option FlightResult
  undo : List OldReg
  deriving DecidableEq, Repr

/-- What the thread of a slot carries beside its registers: links, bindings, windows, tokens, the vector queue window
(03 R70; 08 R203; 06 R170; 02 R32, R33; 11 R267, R284; 15 R370; 16 R402, R404). `stashRun` is the place of the trapped member
of a convoy and the members left from it on (02 R37); `window` is the replay queue, oldest first; `linkRun` counts the
instructions since the linked read of a sequence that may still be constrained (03 R72; 08 R207). -/
structure SlotThread where
  link : Option ScalarLink
  elinks : Tab (List Nat)
  linkRun : Option Nat
  binds : List Binding
  fibre : Option Fibre
  wins : List Win
  stash : List Win
  stashRun : Option (Word × Nat)
  convoy : List Nat
  pend : List PendTok
  failed : List FailedCopy
  window : List InFlight
  sig : Word
  iseq : Word
  deriving DecidableEq, Repr

def SlotThread.reset : SlotThread :=
  { link := none, elinks := [], linkRun := none, binds := [], fibre := none, wins := [], stash := [], stashRun := none, convoy := [],
    pend := [], failed := [], window := [], sig := 0xFFFFFFFFFFFFFFFF, iseq := 0 }

/-- The unit that a slot runs and the bind record that put it there (14 R345, R346). `held` is the instruction that waits;
`since` is the number of the first copy after it began to wait, `lost` the lines of the copies that failed while it waited
(09 R227; 10 R245), `stage` the writes that a checkpoint instruction has made (13 R325, R326); `byCall` says that `mcall` posted the page
request `request` (15 R382), `halted` that the unit halts (15 R389); `avoid` are the cores that it is not bound to again
(16 R406, R407), `saveArea` the area that Umante has assigned to its image (15 R387). -/
structure SlotUnit where
  st : SlotState
  cmd : Nat
  result : Nat
  ctx : Nat
  clsp : Bool
  ccs : Bool
  resume : Bool
  lid : Nat
  unit : Nat
  ord : Nat
  start : Word
  stop : Word
  cause : Nat
  waiting : Option Waiting
  held : Option Instr
  since : Nat
  lost : List Nat
  stage : Nat
  discard : Bool
  exitAt : Option Word
  wms : List Watermark
  cpyms : Nat
  record : Option OpenRecord
  remoteOut : Nat
  notDurable : List Nat
  request : Option Nat
  byCall : Bool
  halted : Bool
  avoid : List Nat
  saveArea : Option Word
  deriving DecidableEq, Repr

def SlotUnit.reset : SlotUnit :=
  { st := .idle, cmd := 0, result := 0, ctx := 0, clsp := false, ccs := false, resume := false, lid := 0, unit := 0,
    ord := 0, start := 0, stop := 0, cause := 0, waiting := none, held := none, since := 0, lost := [], stage := 0, discard := false, exitAt := none, wms := [], cpyms := 0,
    record := none, remoteOut := 0, notDurable := [], request := none, byCall := false, halted := false,
    avoid := [], saveArea := none }

/-- An issue slot. -/
structure Slot where
  regs : SlotRegs
  ctl : SlotCtl
  sup : SlotSup
  thr : SlotThread
  unit : SlotUnit
  mseq : Sequencer
  cseq : Sequencer
  deriving DecidableEq, Repr

def Slot.reset : Slot :=
  { regs := .reset, ctl := .reset, sup := .reset, thr := .reset, unit := .reset, mseq := .reset, cseq := .reset }

/-- A tile register: accumulator (row, col) is element row x 64 + col of 32 bits (09 R212). -/
abbrev TReg := BitVec 131072

/-- A queued matrix command (09 R241, R242). -/
structure MatrixCommand where
  word : Nat
  opa : Word
  opb : Word
  ksteps : Nat
  deriving DecidableEq, Repr

/-- What a tile operation took at its acceptance: the A element type, the slice count, the rounding mode, the values of its A and
B registers, the number of the first copy issued after it, and the lines of copies that failed while it waited (09 R222, R227,
R239, R241; 10 R245); `own` says that it is the control thread's. -/
structure TileSrc where
  own : Bool
  fmt : Nat
  slc : Nat
  rm : Nat
  opa : Word
  opb : Word
  since : Nat
  lost : List Nat
  deriving DecidableEq, Repr

/-- An operation that the tile unit has accepted from the matrix sequencer (`bySeq`) or the command queue and that has not
completed: its instruction and word, what it took, its k-steps, the lanes that have arrived at it, whether a lane mismatch has
replayed it, the addresses of the uncorrectable errors that it has consumed (09 R217 to R219, R233, R238, R242). `after` is its place
among the owner's instructions: those with a lower instruction sequence had issued when it was accepted, and stand before it. Whatever
changes the weight format, CEN or a mask after that stands behind it, so that it meets those of its acceptance (09 R222, R226). -/
structure TileOp where
  bySeq : Bool
  instr : Instr
  word : Nat
  src : TileSrc
  ksteps : Nat
  arrivals : BitVec 16
  mismatched : Bool
  consumed : List Word
  after : Nat
  deriving DecidableEq, Repr

/-- An operation of the tile unit at its place in tile order: its instruction, the values of its A and B registers, and the number of the
first copy issued after its acceptance (09 R217; 10 R245). -/
structure Accepted where
  instr : Instr
  opa : Word
  opb : Word
  since : Nat
  deriving DecidableEq, Repr

def TileOp.accepted (op : TileOp) : Accepted := { instr := op.instr, opa := op.src.opa, opb := op.src.opb, since := op.src.since }

/-- A weight format: ELT, CMP and NSEL of 10 Table 10.1. -/
structure WeightFormat where
  elt : Nat
  cmp : Nat
  nsel : Nat
  deriving DecidableEq, Repr

/-- The owned state of a core: tile group, weight buffer control, matrix command queue, coordinate store (09 R213, R242;
10 R244, R247, R262; 08 R193, R195). `owner` is the slot number of the tile group's owner, `claim` the
number of claims so far, `nrElt` the weight format of a tile state that stands in its unit's image (09 R222; 15 R387). `tileOps`
are the operations that the tile unit has accepted, in tile order; `upset` are the rows of the coming checked operations in which a lane errs (10
R261; the model's own input, log 54). -/
structure Core where
  owner : Option Nat
  claim : Nat
  tstate : Nat
  nr : Bool
  nrElt : Option Nat
  t : Tab TReg
  marks : List Nat
  elt : Nat
  cmp : Nat
  nsel : Nat
  cen : Bool
  mcqErr : Bool
  mcqCause : Nat
  mcqDone : Nat
  queue : List MatrixCommand
  tileOps : List TileOp
  upset : List Nat
  unchk : Nat
  rpl : Nat
  fail : Nat
  store : Tab (Option (Word × Word))
  full : Bool
  drops : Nat
  deriving DecidableEq, Repr

def Core.reset : Core :=
  { owner := none, claim := 0, tstate := 0, nr := false, nrElt := none, t := [], marks := [], elt := 0, cmp := 0, nsel := 0, cen := false,
    mcqErr := false, mcqCause := 0, mcqDone := 0, queue := [], tileOps := [], upset := [], unchk := 0, rpl := 0, fail := 0, store := [],
    full := false, drops := 0 }

/-- What belongs to the place of a core and no swap moves: the spare lane in use, the mapping out (16 R408), and the slot that
issued in the most recent tie of its two slots (01 R7). -/
structure CoreSite where
  spareUsed : Bool
  mappedOut : Bool
  lastTie : Option Nat
  deriving DecidableEq, Repr

def CoreSite.reset : CoreSite := { spareUsed := false, mappedOut := false, lastTie := none }

/-- The image of a core in shadow storage, beside the bytes of its LSP and weight buffer, which the model's byte space
holds (01 R14; 15 R388). -/
structure CoreImage where
  core : Core
  s0 : Slot
  s1 : Slot
  deriving DecidableEq, Repr

def CoreImage.reset : CoreImage := { core := .reset, s0 := .reset, s1 := .reset }

/-- A vault: the codes of its 16 ways, the lines its fibre-cache ways hold with the next use that each slot's definition
recorded, and the ways that a spare
replaces (06 R145; 08 R209; 16 R408). -/
structure Vault where
  waypart : BitVec 32
  fibreLines : Tab (Tab Nat)
  spareWays : List Nat
  deriving DecidableEq, Repr

def Vault.reset : Vault := { waypart := 0, fibreLines := [], spareWays := [] }

/-- Which register a copy's token goes to: an x register of a slot, a z register of a slot's copy sequencer, the same of a slot in
shadow storage, or none any more, where only saved images await it (11 R267, R286, R287). -/
inductive TokenHome where
  | slot (n : Nat)
  | sequencer (n : Nat)
  | shadow (seq : Bool) (n : Nat)
  | gone
  deriving DecidableEq, Repr

/-- A copy command in a copy engine (11 R264 to R289): what it captured at issue (the parameters, the shape record of
`cpyt`, the orientations, the rounding mode, the matrix command of `cpym`), who issued it, where its token goes, the images
that await the token, the destination lines that it owns (`lines`) and those that it has still to take (`wants`), the places of
the destination bytes (`placed`, piece by piece, as they were found at the issue point; empty where they have none yet), whether the engine has accepted
it (it owns every line), the target core and the k-steps of a `cpym`, and the page request it waits for. Copies are numbered
(`ident`) in the order of their issue points; `seqNo` is the instruction sequence of the issuing instruction. `unplaced` says that
a destination byte has no place yet; `asked` is the offset and the address of the byte whose page was asked for; `owners` are the
owners of the target cores' resources at the issue point, `doomed` the failure that the check there found, with the byte offset; `joined` says that
`join` has cleared the sequencer whose register awaited the token (11 R269 to R271, R279; 14 R355). -/
structure Copy where
  ident : Nat
  seqNo : Nat
  code : Nat
  params : List Word
  shape : List Word
  od : Bool
  os : Bool
  rm : BitVec 3
  word : Nat
  opa : Word
  opb : Word
  slot : Nat
  ctx : Nat
  lid : Nat
  unit : Nat
  pc : Word
  sup : Bool
  treg : Nat
  home : TokenHome
  bySeq : Bool
  images : List Word
  accepted : Bool
  lines : List Nat
  wants : List Nat
  placed : List (List Nat)
  early : List (Nat × Byte)
  target : Option Nat
  ksteps : Nat
  cancelled : Bool
  request : Option Nat
  failedReq : Bool
  unplaced : Bool
  asked : Nat × Word
  owners : List (Option (Nat × Nat × Nat × Nat))
  doomed : Option (Nat × Nat × Nat)
  joined : Bool
  deriving DecidableEq, Repr

/-- A copy engine (11 R264). -/
structure Engine where
  cmds : List Copy
  deriving DecidableEq, Repr

def Engine.reset : Engine := { cmds := [] }

/-- A barrier slot (12 R304). `ctx` is the context it is assigned to. -/
structure Barrier where
  expect : BitVec 32
  arrived : BitVec 32
  gen : BitVec 32
  ctx : Option Nat
  deriving DecidableEq, Repr

def Barrier.reset : Barrier := { expect := 0, arrived := 0, gen := 0, ctx := none }

/-- A resident context (15 R360, R363, R376, R379; 06 R172; 13 R330; 17 R414; 16 R407). -/
structure Context where
  resident : Bool
  job : Nat
  gen : Nat
  spt : Word
  prot : Bool
  lockstep : Bool
  vwbase : Word
  stvec : Word
  sscratch : Word
  route : BitVec 16
  ckpctl : BitVec 2
  rpbase : Word
  rpseq : Word
  rpgen : BitVec 32
  vpt : Tab Word
  hot : Tab Nat
  deriving DecidableEq, Repr

def Context.reset : Context :=
  { resident := false, job := 0, gen := 0, spt := 0, prot := false, lockstep := false, vwbase := 0, stvec := 0,
    sscratch := 0, route := 0, ckpctl := 0, rpbase := 0, rpseq := 0, rpgen := 0, vpt := [], hot := [] }

/-- A job (15 R363; 14 R341, R343; 13 R314, R332; 16 R391, R393, R402, R405). `handle` is the index of its job entry. -/
structure Job where
  live : Bool
  calmode : BitVec 4
  partition : List Nat
  trcctl : BitVec 3
  ring : Option Nat
  reference : List (Nat × Nat × Nat × Word)
  spillBlocks : Nat
  almanac : List (Nat × Nat)
  saveArea : Word
  accepted : Nat
  stopped : Bool
  ignored : Nat
  failedRestore : Bool
  agreed : Option Word
  deriving DecidableEq, Repr

def Job.reset : Job :=
  { live := false, calmode := 0, partition := [], trcctl := 0, ring := none, reference := [], spillBlocks := 0,
    almanac := [], saveArea := 0, accepted := 0, stopped := false, ignored := 0, failedRestore := false, agreed := none }

/-- What a completion block says of the first failure (14 Table 14.3). -/
structure Failure where
  cause : Nat
  detail : Nat
  pc : Word
  addr : Word
  unit : Nat
  treg : Nat
  token : Word
  deriving DecidableEq, Repr

/-- An entry of the completion table (14 R335, R338). `status`: 1 open, 2 COMPLETE, 3 FAILED, 4 CANCELLED; `held` is the
number of bound watermarks that hold it; `released` says that its index is free; `request` is the page request that its
completion block waits for, `reqFailed` that it was answered with failure (14 R339). -/
structure Entry where
  serial : Nat
  job : Nat
  ctx : Nat
  level : Nat
  count : Nat
  status : Nat
  closed : Bool
  parent : Option Nat
  cancelled : Bool
  failed : Bool
  failure : Option Failure
  target : Word
  prog : Word
  held : Nat
  written : Bool
  released : Bool
  request : Option Nat
  reqFailed : Bool
  deriving DecidableEq, Repr

def Entry.reset : Entry :=
  { serial := 0, job := 0, ctx := 0, level := 0, count := 0, status := 0, closed := true, parent := none,
    cancelled := false, failed := false, failure := none, target := 0, prog := 0, held := 0, written := false,
    released := true, request := none, reqFailed := false }

/-- An accepted launch (14 R334, R336, R340, R342). `span` is Q once Umante has split the launch; `next` the next unit; `spilled` the job in whose spill area it stands;
`again` the units, cursors and ordinals that a recovery binds instead of the rest (13 R332); `back` those that a refused BIND record has
given back; `bound` says that a unit of it has been bound (14 R343, R346). -/
structure Launch where
  lid : Nat
  job : Nat
  ctx : Nat
  age : Nat
  prio : Nat
  entry : Word
  count : Nat
  prog : Word
  args : List Word
  gl : Nat
  clsp : Bool
  ccs : Bool
  wms : List Watermark
  span : Option Nat
  next : Nat
  spilled : Option Nat
  dropped : Bool
  queue : Option Nat
  jseq : Nat
  again : Option (List (Nat × Word × Nat))
  back : List (Nat × Word × Nat)
  bound : Bool
  deriving DecidableEq, Repr

/-- A suspended or halted unit: what Umante holds of it beside the image in memory (14 R344; 15 R382, R387, R389). `ended` says
that it is cancelled or failed, and only waits for its copies to end (14 R339). -/
structure Suspended where
  slot : Slot
  image : Word
  hasTile : Bool
  request : Option Nat
  answered : Bool
  success : Bool
  halted : Bool
  resuming : Option Nat
  ended : Bool
  deriving DecidableEq, Repr

/-- A user queue that Umante knows: the physical address of its control block, its job and number in the job, the
hardware queue slot it is mapped to, whether it is being unmapped or no longer served, and the cause of an ERROR whose write waits for
a line of the block (14 R347 to R349; 11 R270). -/
structure Queue where
  pa : Nat
  job : Nat
  num : Nat
  hwq : Option Nat
  unmapping : Bool
  dead : Bool
  notified : Bool
  failing : Option Nat
  deriving DecidableEq, Repr

/-- A page request that waits for its answer (15 R379, R380): the context and its generation, the launch, the unit and the slot,
for a copy its number and the token that stands for it, and the address, the cause and ACC. -/
structure PageRequest where
  num : Nat
  ctx : Nat
  gen : Nat
  lid : Nat
  unit : Nat
  slot : Option Nat
  ident : Option Nat
  token : Option Nat
  addr : Word
  cause : Nat
  acc : Nat
  deriving DecidableEq, Repr

/-- A machine-check record (16 R409). -/
structure MachineCheck where
  kind : Nat
  place : Nat
  pc : Word
  lid : Nat
  unit : Nat
  time : Word
  deriving DecidableEq, Repr

/-- The counters and histograms of the Annals, by record and granule (16 Table 16.8). -/
inductive AnnalsKey where
  | corrected (stack : Nat) (region : Nat)
  | uncorrectableStack (stack : Nat)
  | uncorrectableVault (vault : Nat)
  | laneMismatch (core : Nat) (lane : Nat)
  | windowReplay (core : Nat)
  | checksumReplay (core : Nat)
  | checksumFail (core : Nat)
  | lockstepDivergence (pair : Nat)
  | sparesCore (core : Nat)
  | sparesVault (vault : Nat)
  | sparesStack (stack : Nat)
  | sparesLink (port : Nat)
  | retrain (port : Nat)
  | thermal (die : Nat) (bin : Nat)
  | droop (die : Nat) (bin : Nat)
  deriving DecidableEq, Repr

/-- The header of a response to an Itrus request: the connection, the request's number, the class, whether STATUS is 0, and LENGTH
in bytes (17 R418). Another STATUS names a refusal, with no code that the spec gives. -/
structure ItrusReply where
  conn : Nat
  number : Word
  cls : Nat
  success : Bool
  length : Nat
  deriving DecidableEq, Repr

/-- The management core as the spec shows it; `loader` is the application cores' loader that it has been given, `vendorKey` the key in the ROM, `operatorKey` the key in
the SRAM store, `replies` the headers of the responses sent; `response` is the body of the last Itrus response with STATUS 0, none after a
refusal (16 R409, R410; 17 R418 to R423). `stage`: 0 off, 1 ROM waits for an image, 2
Umante runs, 3 the application cores run. -/
structure Mgmt where
  stage : Nat
  version : Nat
  log : List (BitVec 256)
  fuse : Nat
  keyIndex : Nat
  conns : List (Nat × Bool)
  nextConn : Nat
  powerCap : Nat
  clock : Nat
  annals : List (AnnalsKey × Nat)
  machineChecks : List MachineCheck
  reports : List Word
  response : Option (List Word)
  loader : Option FirmwareImage
  vendorKey : BitVec 512
  operatorKey : BitVec 512
  replies : List ItrusReply
  deriving DecidableEq, Repr

def Mgmt.reset : Mgmt :=
  { stage := 0, version := 0, log := [], fuse := 0, keyIndex := 0, conns := [], nextConn := 0, powerCap := 3000,
    clock := 4000, annals := [], machineChecks := [], reports := [], response := none, loader := none,
    vendorKey := Config.vendorKey, operatorKey := Config.operatorKey, replies := [] }

/-- The scheduling state of Umante and Horizon (14 R335, R338 to R349; 15 R379, R380; 17 R413, R414). `records`
holds the launch records of completed launches (13 R332), `controls` the
`dbgctl` and `dbgpc` that a debugger set for a unit, by launch and unit (16 R395). -/
structure Sched where
  entries : Tab Entry
  fresh : Nat
  freed : List Nat
  launches : List Launch
  records : List Launch
  ages : Nat
  suspended : List Suspended
  queues : Tab Queue
  reading : Bool
  requests : List PageRequest
  nextRequest : Nat
  stale : Nat
  counterArg : Tab (Option Word)
  counterResult : Tab Word
  hostReply : Tab (Option Word)
  interrupts : List (Nat × Nat)
  lostBlocks : List Nat
  controls : List ((Nat × Nat) × Word × Word)
  deriving DecidableEq, Repr

def Sched.reset : Sched :=
  { entries := [], fresh := 0, freed := [], launches := [], records := [], ages := 0, suspended := [], queues := [],
    reading := true, requests := [], nextRequest := 1, stale := 0, counterArg := [], counterResult := [], hostReply := [],
    interrupts := [], lostBlocks := [], controls := [] }

/-- A write of an Almanac byte that is not covered yet: `ident` is shared by the bytes of one single-copy atomic write, `lid`
and `unit` name the unit that made it (12 R293; 13 R315, R316). -/
structure AlmanacWrite where
  ident : Nat
  lid : Nat
  unit : Nat
  value : Byte
  deriving DecidableEq, Repr

/-- The values that an Almanac byte may take at a compute-die reset: the last covered value, then the writes since (13 R315,
R316). -/
structure Unsettled where
  covered : Byte
  writes : List AlmanacWrite
  deriving DecidableEq, Repr

/-- What an image means beyond its bytes, by context and image address (log 9): the `cstat` of part C, and of the stash the
trapped member of a convoy with the members left from it on, which of its windows members of that convoy opened, and the registers
of each window that a later result has reached; of part T the k-steps of its queued commands. -/
structure ImageSide where
  ctx : Nat
  base : Nat
  cstat : Word
  run : Option (Word × Nat)
  conv : List Bool
  holes : List (List Nat)
  ksteps : List Nat
  deriving DecidableEq, Repr

/-- The package-wide remainder: links, holds, poison, unreachable packages, dies (03 R72; 06 R156; 13 R314; 16 R408, R409;
17 R415, R422). `poison` lists (line, copy) of the lines that hold an uncorrectable error; `sides`
what images mean beyond their bytes (log 9); `spareLanes` the ports whose spare lane is in use; `podSize` is the number of packages
of the pod, which no step changes. -/
structure Pkg where
  holds : List (Nat × Nat)
  poison : List (Nat × Nat)
  unreachable : List Nat
  badLanes : List (Nat × Nat)
  spareRows : List (Nat × Nat)
  spareLanes : List Nat
  diesOff : List Nat
  basesFailed : List Nat
  nextCopy : Nat
  nextWrite : Nat
  remoteReply : List Byte
  sides : List ImageSide
  unsettled : Tab Unsettled
  podSize : Nat
  deriving DecidableEq, Repr

def Pkg.reset : Pkg :=
  { holds := [], poison := [], unreachable := [], badLanes := [], spareRows := [], spareLanes := [], diesOff := [],
    basesFailed := [], nextCopy := 0, nextWrite := 0, remoteReply := [], sides := [], unsettled := [], podSize := Config.podSize }

/-- An access that an instruction has made: the places of its bytes, and what it has read or written there (12 R293). -/
structure Made where
  write : Bool
  locs : List Nat
  bytes : List Byte
  deriving DecidableEq, Repr

/-- An instruction of a slot, or an operation of a tile unit, in the middle of its accesses (12 R290, R291): those that it has made so
far, in its own order. Nothing else of it has taken effect yet. -/
structure Half where
  instr : Instr
  made : List Made
  deriving DecidableEq, Repr

/-- A load that has issued and is not yet performed (12 R301): the registers, control registers and windows with which it issued, and
the places that it reads. -/
structure LateLoad where
  instr : Instr
  regs : SlotRegs
  ctl : SlotCtl
  wins : List Win
  locs : List Nat
  deriving DecidableEq, Repr

/-- An access that a thread still owes: bytes to be stored as one access, or a load to be performed. -/
inductive Owed where
  | store (cells : List Host.Cell)
  | load (l : LateLoad)
  deriving DecidableEq, Repr

/-- What a thread has under way between two steps: an instruction in the middle of its accesses (12 R290); bytes of remote memory read
at their home for loads to come; and the accesses of instructions that have completed and are still to be performed, in program
order (12 R301). It is settled before a turn that needs it so (log 4). -/
structure Part where
  half : Option Half
  seen : List Host.Cell
  owed : List Owed
  deriving DecidableEq, Repr

def Part.reset : Part := { half := none, seen := [], owed := [] }

/-- An access of an application core to the host interface window: an offset, a width in bytes, and for a write a value (17 R412). -/
inductive HostAccess where
  | read (off : Nat) (size : Nat)
  | write (off : Nat) (size : Nat) (value : Word)
  deriving DecidableEq, Repr

/-- What takes the next turn (log 4, the model's own): an application core's access to the host interface window; an Itrus request with
its connection, its number and the LENGTH of its body; a slot; a slot, or 384 + c for the tile unit of core c, for the next k accesses
of its instruction alone; a slot whose stores stay to be performed and whose remote loads may have been performed earlier; the early
read of eight bytes of remote memory for a slot, and the performance of what it owes at a place; a slot whose load is performed
later; the read of a line of a copy's source ahead of its completion; the front end of a slot that issues ahead of
its commit point, a lane of a slot that completes an entry of its queue, an event, a sequencer; or a lane of a core errs in a row of
its next checked operation (log 54). -/
inductive Turn where
  | slot (n : Nat)
  | part (n : Nat) (k : Nat)
  | loose (n : Nat)
  | sight (n : Nat) (loc : Nat)
  | arrive (n : Nat) (loc : Nat)
  | late (n : Nat)
  | gather (cluster : Nat) (ident : Nat) (loc : Nat)
  | ahead (n : Nat)
  | lane (n : Nat) (k : Nat)
  | event (i : Instr)
  | host (appCore : Fin 16) (access : HostAccess)
  | request (conn : Nat) (number : Word) (length : Nat) (i : Instr)
  | upset (core row : Nat)
  | matrixSequencer (n : Nat)
  | copySequencer (n : Nat)
  deriving DecidableEq, Repr

/-- Everything but the bytes of memory. `cur` is the issue slot that runs when the agenda is empty; `agenda` and `cur`
(log 4) and `fresh`, the counter of the free values (log 7), are the model's own; `parts` holds what threads have under way
between two steps (log 4). -/
structure Mach where
  slots : Tab Slot
  cores : Tab Core
  sites : Tab CoreSite
  shadow : Tab CoreImage
  vaults : Tab Vault
  engines : Tab Engine
  barriers : Tab Barrier
  contexts : Tab Context
  jobs : Tab Job
  sched : Sched
  pkg : Pkg
  mgmt : Mgmt
  agenda : List Turn
  parts : Tab Part
  cur : Nat
  fresh : Nat
  deriving DecidableEq, Repr

def Mach.reset : Mach :=
  { slots := [], cores := [], sites := [], shadow := [], vaults := [], engines := [], barriers := [], contexts := [], jobs := [],
    sched := .reset, pkg := .reset, mgmt := .reset, agenda := [], parts := [], cur := 0, fresh := 0 }

/-- The state of the machine. `mem` holds every byte that the machine stores: HBM, vault ways, LSPs, weight buffers,
shadow storage and the pod's remote memory, each at its place in the model's byte space (Machine/Mem.lean), in canonical
form: addresses rising, no byte listed that is 0, which an unlisted byte reads as (log 1). -/
structure State extends Mach where
  mem : List Host.Cell
  deriving DecidableEq, Repr

/-- The machine right after reset (01 R17; 17 R422; logs 1, 2). -/
def State.reset : State := { Mach.reset with mem := [] }

end Sys2Proof.Machine
end

