-- ==== Sys2Proof/Machine/Work.lean ====
section
/-! DEFINITION. The working state of one step: the machine without its bytes, the bytes as they stood, and the byte writes
made so far; the ways a step can stop; and the registers of the running slot as an instruction reads and writes them
(02 R30 to R32, R37; 15 R359, R383). -/

namespace Sys2Proof.Machine

/-- A write to the model's byte space: one byte, or a run of zero bytes. -/
inductive Wr where
  | put (loc : Nat) (b : Byte)
  | clear (loc : Nat) (len : Nat)
  deriving DecidableEq, Repr

/-- A trap on its way: the cause code, ACC and the value for `stval` (15 R362, R364). -/
structure Trap where
  cause : Nat
  acc : Nat
  stval : Word
  deriving DecidableEq, Repr

/-- A strip that an instruction has read from a stream-bound register: the flags that decoding raised, by element, and the
hotness counters of the pages that it accessed. They count when the instruction completes (04 R96; 06 R171, R172). -/
structure Strip where
  flags : List (Nat × BitVec 5)
  keys : List Nat
  deriving DecidableEq, Repr

/-- The working state of a step. `ws` lists the byte writes made so far, newest first; `npc` is where the thread goes on;
`strips` are the strips that the instruction has read; `spent` counts the oldest writes that have broken the links on their lines
already. `made` are the accesses that the instruction made in earlier turns, and, where `limit` is given, in this one; `pos` is the
number of its next access; with a limit it stops before the access of that number (12 R290). -/
structure Work where
  m : Mach
  base : List Host.Cell
  ws : List Wr
  npc : Word
  strips : List Strip := []
  spent : Nat := 0
  made : List Made := []
  pos : Nat := 0
  limit : Option Nat := none
  deriving DecidableEq, Repr

/-- How an instruction stops short: it traps (with the effects that the trap leaves), it waits with no effect, it pauses between two
accesses, or the machine stops. -/
inductive Stop where
  | trap (w : Work) (t : Trap)
  | wait (why : Waiting)
  | pause (w : Work)
  | fault (f : Fault)
  deriving DecidableEq, Repr

/-- The result of a part of an instruction. -/
abbrev M (α : Type) := Except Stop α

/-! ### Bytes -/

/-- The byte at a location; 0 where none is listed (log 1). -/
def memGet : List Host.Cell → Nat → Byte
  | [], _ => 0
  | (k, v) :: t, n => if n = k then v else memGet t n

/-- Memory with a byte written, in canonical form. -/
def memPut : List Host.Cell → Nat → Byte → List Host.Cell
  | [], n, v => if v = 0 then [] else [(n, v)]
  | (k, u) :: t, n, v =>
    if n < k then (if v = 0 then (k, u) :: t else (n, v) :: (k, u) :: t)
    else if n = k then (if v = 0 then t else (n, v) :: t)
    else (k, u) :: memPut t n v

/-- Memory with a run of bytes cleared. -/
def memClear (t : List Host.Cell) (loc len : Nat) : List Host.Cell :=
  t.filter (fun c => decide (c.1 < loc) || decide (loc + len ≤ c.1))

/-- Memory with one write applied. -/
def applyWr (t : List Host.Cell) : Wr → List Host.Cell
  | .put loc b => memPut t loc b
  | .clear loc len => memClear t loc len

/-- Memory with writes applied, the list's last first. -/
def applyWrs (t : List Host.Cell) : List Wr → List Host.Cell
  | [] => t
  | w :: ws => applyWr (applyWrs t ws) w

/-- The byte at a location after the writes, newest first, over memory. -/
def viewGet (t : List Host.Cell) : List Wr → Nat → Byte
  | [], n => memGet t n
  | .put loc b :: ws, n => if n = loc then b else viewGet t ws n
  | .clear loc len :: ws, n => if loc ≤ n ∧ n < loc + len then 0 else viewGet t ws n

/-- The canonical form of memory: addresses strictly rising, no byte listed that is 0. -/
def Memory.wf : List Host.Cell → Bool
  | [] => true
  | (_, v) :: [] => v != 0
  | (k, v) :: (k', v') :: t => v != 0 && decide (k < k') && Memory.wf ((k', v') :: t)

/-- The working state in which a step begins. -/
def State.work (s : State) : Work :=
  { m := s.toMach, base := s.mem, ws := [], npc := 0 }

/-- The byte at a location, as the step sees it. -/
def Work.byte (w : Work) (loc : Nat) : Byte := viewGet w.base w.ws loc

/-- n bytes from a location. -/
def Work.bytes (w : Work) (loc : Nat) : Nat → List Byte
  | 0 => []
  | n + 1 => w.byte loc :: w.bytes (loc + 1) n

/-- The number held in n bytes, least significant first. -/
def Work.num (w : Work) (loc n : Nat) : Nat := leNat (w.bytes loc n)

def Work.putByte (w : Work) (loc : Nat) (b : Byte) : Work := { w with ws := .put loc b :: w.ws }

/-- Bytes written from a location upward. -/
def Work.putBytes (w : Work) (loc : Nat) : List Byte → Work
  | [] => w
  | b :: bs => (w.putByte loc b).putBytes (loc + 1) bs

/-- A number written in n bytes, least significant first. -/
def Work.putNum (w : Work) (loc n v : Nat) : Work := w.putBytes loc (leBytes n v)

def Work.clearBytes (w : Work) (loc len : Nat) : Work := { w with ws := .clear loc len :: w.ws }

/-! ### Slots, cores and their places (01 R5, R7; 16 R392) -/

/-- Slot n. -/
def Mach.slot (m : Mach) (n : Nat) : Slot := tabGet Slot.reset m.slots n

def Mach.setSlot (m : Mach) (n : Nat) (s : Slot) : Mach := { m with slots := tabSet m.slots n s }

/-- The core of a slot: slot = core x 2 + S (16 R392). -/
def coreOf (slot : Nat) : Nat := slot / 2

/-- The other slot of the same core. -/
def otherSlot (slot : Nat) : Nat := if slot % 2 = 0 then slot + 1 else slot - 1

/-- The cluster of a slot, as its vault number 12 x quadrant + cluster; four cores each (01 R5). -/
def clusterOf (slot : Nat) : Nat := slot / 8

/-- The compute die of a slot: 12 clusters each (01 R5). -/
def dieOf (slot : Nat) : Nat := slot / 96

def Mach.core (m : Mach) (n : Nat) : Core := tabGet Core.reset m.cores n
def Mach.setCore (m : Mach) (n : Nat) (c : Core) : Mach := { m with cores := tabSet m.cores n c }
def Mach.site (m : Mach) (n : Nat) : CoreSite := tabGet CoreSite.reset m.sites n
def Mach.setSite (m : Mach) (n : Nat) (c : CoreSite) : Mach := { m with sites := tabSet m.sites n c }
def Mach.vault (m : Mach) (n : Nat) : Vault := tabGet Vault.reset m.vaults n
def Mach.setVault (m : Mach) (n : Nat) (v : Vault) : Mach := { m with vaults := tabSet m.vaults n v }
def Mach.engine (m : Mach) (n : Nat) : Engine := tabGet Engine.reset m.engines n
def Mach.setEngine (m : Mach) (n : Nat) (e : Engine) : Mach := { m with engines := tabSet m.engines n e }
def Mach.context (m : Mach) (n : Nat) : Context := tabGet Context.reset m.contexts n
def Mach.setContext (m : Mach) (n : Nat) (c : Context) : Mach := { m with contexts := tabSet m.contexts n c }
def Mach.job (m : Mach) (n : Nat) : Job := tabGet Job.reset m.jobs n
def Mach.setJob (m : Mach) (n : Nat) (j : Job) : Mach := { m with jobs := tabSet m.jobs n j }

/-- Barrier slots: cluster c's slot s, and package slot s (12 R304). -/
def barrierIx (pkg : Bool) (cluster s : Nat) : Nat := if pkg then 48 * 64 + s else cluster * 64 + s

def Mach.barrier (m : Mach) (n : Nat) : Barrier := tabGet Barrier.reset m.barriers n
def Mach.setBarrier (m : Mach) (n : Nat) (b : Barrier) : Mach := { m with barriers := tabSet m.barriers n b }

/-- The running slot. -/
def Work.s (w : Work) : Slot := w.m.slot w.m.cur

def Work.setS (w : Work) (s : Slot) : Work := { w with m := w.m.setSlot w.m.cur s }

/-- The context of the running slot. -/
def Work.ctx (w : Work) : Context := w.m.context w.s.unit.ctx

def Work.setCtx (w : Work) (c : Context) : Work := { w with m := w.m.setContext w.s.unit.ctx c }

/-- The job of the running slot. -/
def Work.job (w : Work) : Job := w.m.job w.ctx.job

/-- The core of the running slot. -/
def Work.core (w : Work) : Core := w.m.core (coreOf w.m.cur)

def Work.setCore (w : Work) (c : Core) : Work := { w with m := w.m.setCore (coreOf w.m.cur) c }

def Work.mapRegs (w : Work) (f : SlotRegs → SlotRegs) : Work := w.setS { w.s with regs := f w.s.regs }
def Work.mapCtl (w : Work) (f : SlotCtl → SlotCtl) : Work := w.setS { w.s with ctl := f w.s.ctl }
def Work.mapSup (w : Work) (f : SlotSup → SlotSup) : Work := w.setS { w.s with sup := f w.s.sup }
def Work.mapThr (w : Work) (f : SlotThread → SlotThread) : Work := w.setS { w.s with thr := f w.s.thr }
def Work.mapUnit (w : Work) (f : SlotUnit → SlotUnit) : Work := w.setS { w.s with unit := f w.s.unit }

/-- Calendar mode of the running job (16 R402). -/
def Work.calendar (w : Work) : Bool := bitB w.job.calmode 0

/-- Protected mode of the running context (15 R363). -/
def Work.prot (w : Work) : Bool := w.ctx.prot

/-- A free value's argument: the model's counter, which the use advances (log 7). -/
def Work.draw (w : Work) : Nat × Work := (w.m.fresh, { w with m := { w.m with fresh := w.m.fresh + 1 } })

/-! ### Traps -/

/-- `raise(CAUSE, detail)` (00 R4): the trap leaves the working state as it stands. -/
def raise {α : Type} (w : Work) (cause : Nat) (stval : Word) (acc : Nat := 0) : M α :=
  .error (.trap w { cause := cause, acc := acc, stval := stval })

/-- `stval` of a fault that carries a detail code in bits 63 to 57 and an address below (15 Table 15.2). -/
def detailAddr (detail : Nat) (a : Word) : Word := BitVec.ofNat 64 (detail * 2 ^ 57 + a.toNat % 2 ^ 57)

/-! The cause codes of 15 Table 15.2. -/
def cILLEGAL : Nat := 0x01
def cPRIVILEGED : Nat := 0x02
def cSTALL_SHORT : Nat := 0x03
def cCONVOY_CONFLICT : Nat := 0x04
def cVECTOR_DISABLED : Nat := 0x05
def cTILE_DISABLED : Nat := 0x06
def cMISALIGNED : Nat := 0x07
def cPAGE_FAULT : Nat := 0x08
def cVPAGE_FAULT : Nat := 0x09
def cACCESS_VIOLATION : Nat := 0x0A
def cVAULT_RANGE : Nat := 0x0B
def cORIENTATION_INVALID : Nat := 0x0C
def cBINDING_FAULT : Nat := 0x0D
def cSHAPE_INVALID : Nat := 0x0E
def cBOUNDS : Nat := 0x0F
def cMEMORY_POISON : Nat := 0x10
def cCHECKSUM_FAIL : Nat := 0x11
def cTOKEN_ERROR : Nat := 0x12
def cLAUNCH_OVERFLOW : Nat := 0x13
def cBREAKPOINT : Nat := 0x14
def cSTRIP_STOP : Nat := 0x15
def cREPLAY_DIVERGE : Nat := 0x16
def cSVCALL : Nat := 0x17
def cRECOVERY_FAULT : Nat := 0x18
def cCANCELLED : Nat := 0x19
def cWB_RANGE : Nat := 0x1A

/-! ### Registers of the running slot -/

/-- Whether register number n names the supervisor bank at this level (15 R359). -/
def inBank (l : Level) (n : Nat) : Bool := l == .supervisor && decide (24 ≤ n)

/-- The register itself; x0 reads zero (01 R21). -/
def SlotRegs.getX (r : SlotRegs) (bank : Bool) (n : Nat) : Word :=
  if n = 0 then 0 else tabGet 0 (if bank then r.sx else r.x) n

/-- A register written; a write to x0 is discarded (01 R21; 03 R60). -/
def SlotRegs.setX (r : SlotRegs) (bank : Bool) (n : Nat) (v : Word) : SlotRegs :=
  if n = 0 then r else if bank then { r with sx := tabSet r.sx n v } else { r with x := tabSet r.x n v }

def SlotRegs.getV (r : SlotRegs) (n : Nat) : VReg := tabGet 0 r.v n
def SlotRegs.getM (r : SlotRegs) (n : Nat) : MReg := tabGet 0 r.m n
def SlotRegs.getK (r : SlotRegs) (n : Nat) : KReg := tabGet 0 r.k n

/-- The value that the earliest open window keeps for a register, where no member of the running convoy has written it
(02 R32, R37). -/
def oldValue {α : Type} (pick : OldReg → Option α) (ws : List Win) : Option α :=
  if ws.any (fun w => w.conv && w.olds.any (fun o => (pick o).isSome)) then none
  else ws.findSome? (fun w => w.olds.findSome? pick)

def pickX (bank : Bool) (n : Nat) : OldReg → Option Word
  | .x b k o => if b = bank ∧ k = n then some o else none
  | _ => none

def pickV (n : Nat) : OldReg → Option VReg
  | .v k o => if k = n then some o else none
  | _ => none

def pickM (n : Nat) : OldReg → Option MReg
  | .m k o => if k = n then some o else none
  | _ => none

def pickK (n : Nat) : OldReg → Option KReg
  | .k k o => if k = n then some o else none
  | _ => none

/-- Register xn as an instruction of the slot reads it: the stale value while a window is open (02 R30); x0 reads zero (01
R21). -/
def Slot.readX (s : Slot) (n : Nat) : Word :=
  let bank := inBank s.regs.level n
  if n = 0 then 0 else (oldValue (pickX bank n) s.thr.wins).getD (s.regs.getX bank n)

def Slot.readV (s : Slot) (n : Nat) : VReg := (oldValue (pickV n) s.thr.wins).getD (s.regs.getV n)
def Slot.readM (s : Slot) (n : Nat) : MReg := (oldValue (pickM n) s.thr.wins).getD (s.regs.getM n)
def Slot.readK (s : Slot) (n : Nat) : KReg := (oldValue (pickK n) s.thr.wins).getD (s.regs.getK n)

/-- X[n], V[n], M[n] and K[n] as the running instruction reads them through its fields. -/
def Work.x (w : Work) (n : Nat) : Word := w.s.readX n
def Work.v (w : Work) (n : Nat) : VReg := w.s.readV n
def Work.mr (w : Work) (n : Nat) : MReg := w.s.readM n
def Work.k (w : Work) (n : Nat) : KReg := w.s.readK n

/-- X[n] := v. -/
def Work.setX (w : Work) (n : Nat) (v : Word) : Work :=
  w.mapRegs (fun r => r.setX (inBank r.level n) n v)

/-- The dirty bits that a write sets in `vstate` (15 R383). -/
def Work.markDirty (w : Work) (bits : Word) : Work := w.mapCtl (fun c => { c with vstate := c.vstate ||| bits })

/-- The binding of a register removed, if it has one (06 R170). -/
def Work.unbind (w : Work) (n : Nat) : Work :=
  if w.s.thr.binds.any (fun b => b.reg = n) then
    (w.mapThr (fun t => { t with binds := t.binds.filter (fun b => b.reg ≠ n) })).markDirty 16
  else w

/-- The contents of V[n] changed, leaving its binding (06 R171). -/
def Work.loadV (w : Work) (n : Nat) (v : VReg) : Work :=
  (w.mapRegs (fun r => { r with v := tabSet r.v n v })).markDirty (2 ||| (1 <<< (32 + n)))

/-- V[n] := v as a destination: it is unbound and marked dirty. -/
def Work.setV (w : Work) (n : Nat) (v : VReg) : Work := (w.unbind n).loadV n v

/-- M[n] := v. -/
def Work.setM (w : Work) (n : Nat) (v : MReg) : Work :=
  (w.mapRegs (fun r => { r with m := tabSet r.m n v })).markDirty 4

/-- K[n] := v. -/
def Work.setK (w : Work) (n : Nat) (v : KReg) : Work :=
  (w.mapRegs (fun r => { r with k := tabSet r.k n v })).markDirty 8

/-- Flags ORed into `fflags` (04 R96). -/
def Work.orFlags (w : Work) (f : BitVec 5) : Work := w.mapCtl (fun c => { c with fflags := c.fflags ||| f })

/-- `vstart` := n. The 11-bit register takes n modulo 2,048: the e + 1 of a poisoned element 2,047 of `vgathl` becomes 0 (08 R205;
DESIGN CHOICE, log 53: no rule says what then stands there). -/
def Work.setVstart (w : Work) (n : Nat) : Work := w.mapCtl (fun c => { c with vstart := BitVec.ofNat 11 n })

/-- The element width of a format code in bits (02 Table 2.8; 03 R77). -/
def fmtBits (f : BitVec 4) : Nat :=
  match f.toNat with
  | 0 => 8 | 1 => 16 | 2 => 32 | 3 => 64 | 4 => 8 | 5 => 16 | 6 => 32 | 7 => 64 | 8 => 16 | 9 => 16 | 10 => 32 | 11 => 64
  | 12 => 8
  | _ => 8

/-- VLMAX at an element width and mode (03 R77). -/
def vlmaxBits (w : Nat) (prot : Bool) : Nat := if prot then 16384 / w / 2 else 16384 / w

/-- VLMAX of the running slot (03 R77). -/
def Work.vlmax (w : Work) : Nat := vlmaxBits (fmtBits w.s.ctl.fmt) w.prot

end Sys2Proof.Machine
end

