-- ==== Sys2Proof/Machine/Mem.lean ====
section
/-! DEFINITION. Where bytes live and how an address reaches them: the model's byte space, the local region (06 R142 to R150),
the scalar page tables (15 R371 to R373, R427), the vector page table (06 R152; 15 R376, R377), what makes an access wait
(11 R270; 03 R72), uncorrectable errors (03 R68; 06 R156; 13 R314) and what every store leaves behind (13 R319; 16 R404). -/

namespace Sys2Proof.Machine

/-! ### The model's byte space (log 1) -/

/-- The package's HBM ends below this physical address (17 R411). -/
def hbmEnd : Nat := 2 ^ 39

/-- The place of an HBM byte is its physical address. -/
def hbmLoc (pa : Nat) : Nat := pa

/-- The place of a byte of way `way` of vault `v`. -/
def vaultLoc (v way off : Nat) : Nat := 2 ^ 40 + v * 2 ^ 24 + way * 2 ^ 20 + off

/-- The place of a byte of a core's LSP. -/
def lspLoc (core off : Nat) : Nat := 2 ^ 41 + core * 2 ^ 20 + off

/-- The place of a byte of a core's weight buffer. -/
def wbLoc (core off : Nat) : Nat := 2 ^ 42 + core * 2 ^ 18 + off

/-- The place of a byte of a core's shadow-storage image: the LSP first, then the weight buffer. -/
def shadowLoc (core off : Nat) : Nat := 2 ^ 43 + core * 2 ^ 21 + off

/-- The place of a byte of another package's memory. -/
def remoteLoc (pkg pa : Nat) : Nat := 2 ^ 64 + pkg * 2 ^ 52 + pa

/-- Whether a place is in another package. -/
def isRemote (loc : Nat) : Bool := decide (2 ^ 64 ≤ loc)

/-- Which other package. -/
def remotePkg (loc : Nat) : Nat := (loc - 2 ^ 64) / 2 ^ 52

/-- The 64-byte line of a place. -/
def lineOf (loc : Nat) : Nat := loc / 64

/-! ### Why an access does not take place -/

/-- An access that does not take place: a trap cause with its detail, the same found by a walk that has read table entries at the
places `reads`, a wait, or a stop of the model. -/
inductive Miss where
  | flt (cause detail : Nat)
  | walk (cause detail : Nat) (reads : List Nat)
  | hold (why : Waiting)
  | lost (pkg : Nat)
  | stop (f : Fault)
  deriving DecidableEq, Repr

/-- The `stval` of a memory fault (06 Table 6.2; 15 Table 15.2). -/
def missVal (cause detail : Nat) (a : Word) : Word :=
  if cause = cPAGE_FAULT ∨ cause = cVPAGE_FAULT ∨ cause = cACCESS_VIOLATION then detailAddr detail a else a

/-! ### The local region -/

/-- The local region is the top 4 GiB of the 57-bit space (06 R142). -/
def localBase : Nat := 0x1FFFFFF00000000

def inLocal (a : Nat) : Bool := decide (localBase ≤ a) && decide (a < 2 ^ 57)

/-- The local addresses of the weight buffer and of the LSP of the executing core (06 Table 6.1). -/
def wbBase : Nat := localBase + 0xFFE00000
def lspBase : Nat := localBase + 0xFFF00000

/-- The code of way n of a vault (06 R145). -/
def wayCode (waypart : BitVec 32) (n : Nat) : Nat := bitsN waypart (2 * n) 2

/-- The ways coded as scratchpad, in rising order (06 R146). -/
def spWays (waypart : BitVec 32) : List Nat := (List.range 16).filter (fun n => wayCode waypart n == 1)

/-- The current scratchpad size in MiB (06 R145). -/
def spMib (waypart : BitVec 32) : Nat := (spWays waypart).length

/-- The byte that a local address names for slot n (06 R142, R143, R146; 01 R11, R12). -/
def localPlace (m : Mach) (n : Nat) (a : Nat) : Except Miss Nat :=
  let off := a - localBase
  if off < 48 * 2 ^ 24 then
    let v := off / 2 ^ 24
    let o := off % 2 ^ 24
    match (spWays (m.vault v).waypart)[o / 2 ^ 20]? with
    | some way => .ok (vaultLoc v way (o % 2 ^ 20))
    | none => .error (.flt cVAULT_RANGE 0)
  else if off < 0xFFF00000 then .error (.flt cACCESS_VIOLATION 2)
  else
    let o := off - 0xFFF00000
    if o < 0xF0000 then
      if (m.slot n).unit.clsp then .ok (lspLoc (coreOf n) o) else .error (.flt cACCESS_VIOLATION 3)
    else if (o - 0xF0000) / 0x8000 = n % 2 then .ok (lspLoc (coreOf n) o)
    else .error (.flt cACCESS_VIOLATION 4)

/-- T of the column orientation: a byte of the column image to the byte of the panel (06 R149). -/
def colMap (a : Nat) : Nat :=
  let pbase := a - a % 0x4000
  let cidx := a % 0x4000 / 4
  pbase + (cidx % 64) * 256 + (cidx / 64) * 4 + a % 4

/-- The address of a byte under an orientation. -/
def orient (col : Bool) (a : Nat) : Nat := if col then colMap a else a

/-! ### The Annals (16 R410) -/

/-- A counter of the Annals raised, saturating at 32 bits. -/
def Mach.countAnnals (m : Mach) (k : AnnalsKey) : Mach :=
  let old := ((m.mgmt.annals.find? (fun e => e.1 = k)).map (fun e => e.2)).getD 0
  { m with mgmt := { m.mgmt with
      annals := (k, min (2 ^ 32 - 1) (old + 1)) :: m.mgmt.annals.filter (fun e => e.1 ≠ k) } }

/-! ### Almanac writes (13 R314 to R316) -/

/-- Whether a place is an Almanac byte of a job (13 R314). -/
def Mach.almanac (m : Mach) (loc : Nat) : Bool :=
  m.jobs.any (fun j => j.2.live && j.2.almanac.any (fun r => decide (r.1 ≤ loc) && decide (loc < r.1 + r.2)))

/-- Whether a run of bytes has an Almanac byte. -/
def Mach.almanacTouched (m : Mach) (loc len : Nat) : Bool :=
  m.jobs.any (fun j => j.2.live && j.2.almanac.any (fun r => decide (r.1 < loc + len) && decide (loc < r.1 + r.2)))

/-- Whether a byte stood in the stacks or the vaults of a base die that has failed (17 R422; log 58). -/
def Mach.lostWithBase (m : Mach) (loc : Nat) : Bool :=
  m.pkg.basesFailed.any (fun d => (decide (loc < hbmEnd) && Config.rangeInDie loc 1 d) ||
    (decide (2 ^ 40 ≤ loc) && decide (loc < 2 ^ 40 + 48 * 2 ^ 24) && (loc - 2 ^ 40) / 2 ^ 24 / 12 == d))

/-- Whether one copy of an Almanac line cannot be read: it holds an uncorrectable error, or stood in the stacks of a base die that has
failed, two of the eight to each (13 R314; 17 R422). -/
def Mach.badCopy (m : Mach) (line k : Nat) : Bool :=
  m.pkg.poison.contains (line, k) || m.pkg.basesFailed.contains ((Config.stackOf line k).val / 2)

/-- Whether a read of the line consumes an uncorrectable error: for an Almanac line only when both copies hold one (06 R156; 13
R314). So does a read of what a failed base die held (DESIGN CHOICE, log 58: 17 R422 gives no reads of it). -/
def Mach.poisoned (m : Mach) (loc : Nat) : Bool :=
  let l := lineOf loc
  if m.almanac loc then m.badCopy l 0 && m.badCopy l 1
  else m.pkg.poison.any (fun p => p.1 = l) || m.lostWithBase loc

/-- A read of an Almanac line with one bad copy writes the good copy back over it; the Annals count it as a corrected error of the
bad copy's stack and row region (13 R314; 16 R410; log 25). -/
def Work.scrub (w : Work) (loc : Nat) : Work :=
  let l := lineOf loc
  if w.m.almanac loc && !w.m.poisoned loc && w.m.pkg.poison.any (fun p => p.1 = l) then
    let m := (w.m.pkg.poison.filter (fun p => p.1 = l)).foldl
      (fun m p => m.countAnnals (.corrected (Config.stackOf l p.2).val (Config.rowRegion l p.2).val)) w.m
    { w with m := { m with pkg := { m.pkg with poison := m.pkg.poison.filter (fun p => p.1 ≠ l) } } }
  else w

/-- The vault that holds a place. -/
def vaultOf (loc : Nat) : Option Nat := if 2 ^ 40 ≤ loc ∧ loc < 2 ^ 41 then some ((loc - 2 ^ 40) / 2 ^ 24) else none

/-- The first place of a read that consumes an uncorrectable error counted in the Annals: for the stack of each bad copy, or for the
vault. It counts once, where the error is reported, not at the replay before it (16 R410; log 25). -/
def Work.countBad (w : Work) (locs : List Nat) : Work :=
  match locs.find? w.m.poisoned with
  | none => w
  | some loc =>
    match vaultOf loc with
    | some v => { w with m := w.m.countAnnals (.uncorrectableVault v) }
    | none =>
      if loc < hbmEnd then
        let bad := w.m.pkg.poison.filter (fun p => p.1 = lineOf loc)
        { w with m := bad.foldl (fun m p => m.countAnnals (.uncorrectableStack (Config.stackOf (lineOf loc) p.2).val)) w.m }
      else w

/-- What a miss leaves of its reads: the entries of a walk that ends in a fault have one bad Almanac copy written back, and an
uncorrectable error among them is counted (13 R314; 16 R410). -/
def Work.noteMiss (w : Work) : Miss → Work
  | .walk c _ reads =>
    let w := reads.foldl (fun w x => w.scrub x) w
    if c = cMEMORY_POISON then w.countBad reads else w
  | _ => w

/-- A working state whose attempt `tried` had no effect: only the errors that its reads corrected and counted stay (13 R314; 16 R410). -/
def Work.corrected (w tried : Work) : Work :=
  { w with m := { w.m with
      pkg := { w.m.pkg with poison := tried.m.pkg.poison }, mgmt := { w.m.mgmt with annals := tried.m.mgmt.annals } } }

/-- A miss as the stop of an instruction at address a. -/
def Miss.toM {α : Type} (w : Work) (a : Word) (acc : Nat) : Miss → M α
  | .flt c d => raise w c (missVal c d a) acc
  | .walk c d reads => raise (w.noteMiss (.walk c d reads)) c (missVal c d a) acc
  | .hold why => .error (.wait why)
  | .lost pkg => .error (.wait (.lost pkg a))
  | .stop f => .error (.fault f)

/-- The result of an access that may miss, in an instruction. -/
def liftMiss {α : Type} (w : Work) (a : Word) (acc : Nat) : Except Miss α → M α
  | .ok x => .ok x
  | .error e => e.toM w a acc

/-- A write of an Almanac byte that is not yet at the persistence point (13 R315, R316). -/
def Pkg.noteByte (p : Pkg) (x : AlmanacWrite) (loc : Nat) (old : Byte) : Pkg :=
  let u := tabGet { covered := old, writes := [] } p.unsettled loc
  { p with unsettled := tabSet p.unsettled loc { u with writes := u.writes ++ [x] } }

/-- The writes from the last one that a unit made on; none where it made none. -/
def fromLast (lid unit : Nat) : List AlmanacWrite → Option (AlmanacWrite × List AlmanacWrite)
  | [] => none
  | x :: xs =>
    match fromLast lid unit xs with
    | some r => some r
    | none => if x.lid = lid ∧ x.unit = unit then some (x, xs) else none

/-- A unit's writes to lines stand at the persistence point: the earlier values of their bytes cannot come back
(13 R315, R316). -/
def Pkg.settleLines (p : Pkg) (lid unit : Nat) (lines : List Nat) : Pkg :=
  { p with unsettled := p.unsettled.filterMap (fun e =>
      if !lines.contains (lineOf e.1) then some e else
      match fromLast lid unit e.2.writes with
      | none => some e
      | some (b, rest) => if rest = [] then none else some (e.1, { covered := b.value, writes := rest })) }

/-- Almanac bytes written, place and value, by a unit: one single-copy atomic write where `whole`, else a write each (12
R293). -/
def Work.noteBytes (w : Work) (lid unit : Nat) (whole : Bool) (l : List (Nat × Byte)) : Work :=
  let first := w.m.pkg.nextWrite
  let one (p : Pkg) (x : (Nat × Byte) × Nat) : Pkg :=
    if w.m.almanac x.1.1 then
      p.noteByte { ident := first + (if whole then 0 else x.2), lid := lid, unit := unit, value := x.1.2 } x.1.1 (w.byte x.1.1)
    else p
  let p := l.zipIdx.foldl one w.m.pkg
  { w with m := { w.m with pkg := { p with nextWrite := first + (if whole then 1 else l.length) } } }

/-- Bytes written from a place up as one write, noted where it is an Almanac write (12 R293; 13 R316). -/
def Work.putNoted (w : Work) (lid unit loc : Nat) (data : List Byte) : Work :=
  (if w.m.almanacTouched loc data.length then w.noteBytes lid unit true (data.zipIdx.map (fun p => (loc + p.2, p.1))) else w).putBytes
    loc data

/-! ### The scalar page tables -/

/-- Fields of a page-table entry (15 Table 15.3). -/
def pteValid (e : Nat) : Bool := e % 2 == 1
def ptePerm (e : Nat) : Nat := e / 2 % 8
def pteU (e : Nat) : Bool := e / 16 % 2 == 1
def pteCT (e : Nat) : Bool := e / 256 % 2 == 1
def pteRM (e : Nat) : Bool := e / 512 % 2 == 1
def ptePpn (e : Nat) : Nat := e / 4096 % 2 ^ 40
def ptePkg (e : Nat) : Nat := e / 2 ^ 52 % 1024
def pteReserved (e : Nat) : Bool := e / 1024 % 4 != 0 || e / 2 ^ 62 % 4 != 0

/-- What the members of a contiguous group share: R, W, X, U, A, D, RM and PKG (15 R372). -/
def pteShared (e : Nat) : Nat × Bool × Nat × Bool × Nat := (ptePerm e, pteU e, e / 64 % 4, pteRM e, ptePkg e)

/-- A malformed entry at a level, 0 the lowest (15 R372, R427 step 2). -/
def pteMalformed (level e : Nat) : Bool :=
  pteReserved e || (level == 0 && ptePerm e == 0) || (level == 1 && pteCT e) || (decide (3 ≤ level) && ptePerm e != 0)

/-- What a walk finds: the leaf entry, where it stands and its level. -/
structure Leaf where
  entry : Nat
  at_ : Nat
  level : Nat
  deriving DecidableEq, Repr

/-- Whether a linked read of another slot holds the line: one whose sequence may still be constrained (03 R72; 08 R207). -/
def Mach.heldFor (m : Mach) (slot line : Nat) : Bool :=
  m.pkg.holds.any (fun h => h.1 = line && h.2 != slot && (m.slot h.2).thr.linkRun.isSome)

/-- Whether a linked read of the slot itself holds the line (03 R72; 08 R207). -/
def Mach.heldBy (m : Mach) (slot line : Nat) : Bool :=
  m.pkg.holds.any (fun h => h.1 = line && h.2 == slot && (m.slot h.2).thr.linkRun.isSome)

/-- Whether a copy owns the line or has it still to take (11 R270). -/
def Copy.claims (c : Copy) (line : Nat) : Bool := c.lines.contains line || c.wants.contains line

/-- Whether an access of an agent, a slot or 384 for any other, waits for a copy's line: one that a copy owns, or has still to
take, unless the agent's own linked read holds it, which is why the copy has not taken it (11 R270; 03 R72). -/
def Mach.ownedFor (m : Mach) (who line : Nat) : Bool :=
  m.engines.any (fun e => e.2.cmds.any (fun c => c.lines.contains line || (c.wants.contains line && !m.heldBy who line)))

/-- The same for the running slot. -/
def Mach.owned (m : Mach) (line : Nat) : Bool := m.ownedFor m.cur line

/-- Whether Horizon, an engine or the trace writer must still wait before it writes a line (03 R72; 11 R270). -/
def Mach.busyLine (m : Mach) (loc : Nat) : Bool := m.ownedFor 384 (lineOf loc) || m.heldFor 384 (lineOf loc)

/-- The eight bytes of a table entry, read as one access for an agent: it waits for a copy that owns the line (11 R270; 15
R373). An uncorrectable error that it consumes is the translated access's MEMORY_POISON (DESIGN CHOICE, log 56: a walk read is an
access, and no rule names what its error raises). -/
def readEntry (w : Work) (who pa : Nat) : Except Miss Nat :=
  if hbmEnd < pa + 8 then .error (.stop (.walkOutsideHbm pa))
  else if w.m.ownedFor who (lineOf (hbmLoc pa)) then .error (.hold .ownedLine)
  else if w.m.poisoned (hbmLoc pa) then .error (.flt cMEMORY_POISON 0)
  else .ok (w.num (hbmLoc pa) 8)

/-- The walk from a table at a level down (15 R371, R427 step 2). -/
def walkFrom (w : Work) (who va : Nat) : Nat → Nat → Except Miss Leaf
  | 0, table => do
    let pa := table + 8 * (va / 2 ^ 12 % 512)
    let e ← readEntry w who pa
    if !pteValid e then .error (.flt cPAGE_FAULT 0)
    else if pteMalformed 0 e then .error (.flt cPAGE_FAULT 2)
    else .ok { entry := e, at_ := pa, level := 0 }
  | n + 1, table => do
    let pa := table + 8 * (va / 2 ^ (12 + 9 * (n + 1)) % 512)
    let e ← readEntry w who pa
    if !pteValid e then .error (.flt cPAGE_FAULT 0)
    else if pteMalformed (n + 1) e then .error (.flt cPAGE_FAULT 2)
    else if ptePerm e = 0 then walkFrom w who va n (ptePpn e * 4096)
    else .ok { entry := e, at_ := pa, level := n + 1 }

/-- The places of the entries that a walk reads, from a table at a level down, to the one at which it ends. -/
def walkReads (w : Work) (va : Nat) : Nat → Nat → List Nat
  | 0, table => [hbmLoc (table + 8 * (va / 2 ^ 12 % 512))]
  | n + 1, table =>
    let pa := table + 8 * (va / 2 ^ (12 + 9 * (n + 1)) % 512)
    let e := w.num (hbmLoc pa) 8
    let on := pteValid e && !pteMalformed (n + 1) e && ptePerm e == 0 && !w.m.poisoned (hbmLoc pa) && decide (pa + 8 ≤ hbmEnd)
    hbmLoc pa :: (if on then walkReads w va n (ptePpn e * 4096) else [])

/-- The entries of the leaf's group: 16 at level 0 and 64 at level 2 with CT, else the leaf alone (15 R372). -/
def groupSize (l : Leaf) : Nat := if pteCT l.entry then (if l.level = 0 then 16 else 64) else 1

/-- Whether member i of a group agrees with the leaf (15 R372, R427 step 4). -/
def memberOk (l : Leaf) (base i e : Nat) : Bool :=
  pteValid e && !pteMalformed l.level e && pteCT e && pteShared e == pteShared l.entry &&
  ptePpn e * 4096 == base + i * 2 ^ (12 + 9 * l.level)

/-- The other members checked, from number i up, `k` of them left. -/
def checkMembers (w : Work) (who : Nat) (l : Leaf) (base first : Nat) : Nat → Nat → Except Miss Unit
  | _, 0 => .ok ()
  | i, k + 1 => do
    let e ← readEntry w who (first + 8 * i)
    if memberOk l base i e then checkMembers w who l base first (i + 1) k else .error (.flt cPAGE_FAULT 3)

/-- The places of the members that this check reads, to the one at which it ends. -/
def memberReads (w : Work) (l : Leaf) (base first : Nat) : Nat → Nat → List Nat
  | _, 0 => []
  | i, k + 1 =>
    let pa := hbmLoc (first + 8 * i)
    pa :: (if !w.m.poisoned pa && memberOk l base i (w.num pa 8) then memberReads w l base first (i + 1) k else [])

/-- How much address space an entry at the leaf's level covers (15 R371). -/
def Leaf.span (l : Leaf) : Nat := 2 ^ (12 + 9 * l.level)

/-- The number of the leaf's entry for an address among its group (15 R372). -/
def Leaf.index (l : Leaf) (va : Nat) : Nat := va / l.span % 512 % groupSize l

/-- The physical address at which the leaf's group starts. -/
def Leaf.base (l : Leaf) (va : Nat) : Nat := ptePpn l.entry * 4096 - l.index va * l.span

/-- The place of the group's first entry. -/
def Leaf.first (l : Leaf) (va : Nat) : Nat := l.at_ - 8 * l.index va

/-- Whether the leaf names this package's memory. An entry with RM = 1 that names this package itself is taken as one with RM = 0, range
check and all (DESIGN CHOICE, log 56: R427 step 3 names RM = 0 alone, and R300 calls such an access not remote). -/
def Leaf.here (l : Leaf) : Bool := !pteRM l.entry || ptePkg l.entry == Config.packageNumber

/-- Whether the group's frame is aligned and inside the HBM (15 R372, R427 step 3). -/
def Leaf.fits (l : Leaf) (va : Nat) : Bool :=
  let size := groupSize l * l.span
  !(ptePpn l.entry * 4096 < l.index va * l.span || l.base va % size != 0 || (l.here && decide (hbmEnd < l.base va + size)))

/-- The byte that the leaf names for an address. -/
def Leaf.place (l : Leaf) (va : Nat) : Nat :=
  let pa := l.base va + va % (groupSize l * l.span)
  if l.here then hbmLoc pa else remoteLoc (ptePkg l.entry) pa

/-- The level at which a walk starts, and the table there (15 R371). -/
def walkTop (spt : Word) : Nat := if bitB spt 0 then 4 else 3
def walkRoot (spt : Word) : Nat := bitsN spt 12 40 * 4096

/-- The places of all the entries that a walk of an address reads, the members of the leaf's group among them (15 R372, R427). -/
def walkTouched (w : Work) (who : Nat) (spt : Word) (va : Nat) : List Nat :=
  if 2 ^ (12 + 9 * (walkTop spt + 1)) ≤ va then [] else
  walkReads w va (walkTop spt) (walkRoot spt) ++
  (match walkFrom w who va (walkTop spt) (walkRoot spt) with
   | .ok l => if groupSize l ≠ 1 ∧ l.fits va then memberReads w l (l.base va) (l.first va) 0 (groupSize l) else []
   | .error _ => [])

/-- The reads of a walk write a good Almanac copy back over a bad one (13 R314). -/
def Work.scrubWalk (w : Work) (who : Nat) (spt : Word) (va : Nat) : Work :=
  if inLocal va then w else (walkTouched w who spt va).foldl (fun w x => w.scrub x) w

/-- A and D written into every member of the leaf's group, from the entry at `first` (15 R373). -/
def setAD (w : Work) (first : Nat) (bits : Nat) : Nat → Work
  | 0 => w
  | k + 1 =>
    let pa := first + 8 * k
    let e := w.num (hbmLoc pa) 8
    setAD (w.putNoted 0 0 (hbmLoc pa) (leBytes 8 (e ||| bits))) first bits k

/-- The leaf of an address outside the local region, through a context's page tables, checked for an access (0 read, 1 write, 2 fetch)
of an agent at a level (15 R371, R372, R427; 12 R300). -/
def walkLeaf (w : Work) (who : Nat) (spt : Word) (sup : Bool) (va acc : Nat) : Except Miss Leaf := do
  if 2 ^ (12 + 9 * (walkTop spt + 1)) ≤ va then .error (.flt cPAGE_FAULT 4) else
  let l ← walkFrom w who va (walkTop spt) (walkRoot spt)
  if !l.fits va then .error (.flt cPAGE_FAULT 2) else
  if groupSize l ≠ 1 then checkMembers w who l (l.base va) (l.first va) 0 (groupSize l) else .ok ()
  let need := if acc = 0 then 1 else if acc = 1 then 2 else 4
  if ptePerm l.entry / need % 2 = 0 || (!sup && !pteU l.entry) || (sup && acc == 2 && pteU l.entry) then
    .error (.flt cPAGE_FAULT 1) else
  if pteRM l.entry && decide (w.m.pkg.podSize ≤ ptePkg l.entry) then .error (.flt cACCESS_VIOLATION 9) else .ok l

/-- The byte that the address names for that access; A and D are set as the walk does, once no linked read holds their lines back
(15 R373; 03 R72). The walk's reads write a good Almanac copy back over a bad one (13 R314). -/
def walkPlace (w : Work) (who : Nat) (spt : Word) (sup : Bool) (va acc : Nat) : Except Miss (Nat × Work) :=
  match walkLeaf w who spt sup va acc with
  | .error (.flt c d) => .error (.walk c d (walkTouched w who spt va))
  | .error e => .error e
  | .ok l =>
    let n := groupSize l
    let first := l.first va
    let bits := if acc = 1 then 0xC0 else 0x40
    let unset := l.entry &&& bits != bits
    if unset && (List.range n).any (fun k => w.m.heldFor who (lineOf (hbmLoc (first + 8 * k)))) then .error (.hold .heldLine) else
    let w := w.scrubWalk who spt va
    .ok (l.place va, if unset then setAD w first bits n else w)

/-- Where an address outside the local region lies through a context's page tables, whatever access they allow and whoever holds or
owns their lines; none where they name no place. -/
def Work.translated (w : Work) (spt : Word) (va : Nat) : Option Nat :=
  let free : Work := { w with m := { w.m with engines := [] } }
  if 2 ^ (12 + 9 * (walkTop spt + 1)) ≤ va then none else
  match walkFrom free 384 va (walkTop spt) (walkRoot spt) with
  | .ok l => if l.fits va then some (l.place va) else none
  | .error _ => none

/-- The byte that an address names for a scalar access, an engine or a sequencer of slot n: the local region, or the page
tables of a context (03 R68; 15 R371). -/
def scalarPlace (w : Work) (n : Nat) (spt : Word) (sup : Bool) (a : Word) (acc : Nat) : Except Miss (Nat × Work) :=
  if inLocal a.toNat then (localPlace w.m n a.toNat).map (fun l => (l, w))
  else walkPlace w n spt sup a.toNat acc

/-! ### The vector page table -/

/-- The granule in bytes: GR of `vwbase` (03 R86). -/
def granule (vwbase : Word) : Nat := 2 ^ (30 + 2 * bitsN vwbase 0 2)

/-- The base of the vector window: the bits below 4,096 x G read as zero (03 R86). -/
def windowBase (vwbase : Word) : Nat :=
  let b := bitsN vwbase 30 27 * 2 ^ 30
  b - b % (4096 * granule vwbase)

/-- The entry of the vector page table that an address selects, if it lies in the window (06 R143, R152). -/
def vptIndex (vwbase : Word) (a : Nat) : Option Nat :=
  let b := windowBase vwbase
  if b ≤ a ∧ a < b + 4096 * granule vwbase then some ((a - b) / granule vwbase) else none

/-- The byte that an entry of the vector page table names for an access at an address in the window (06 R152; 15 R377; 12 R300). -/
def vptPlace (m : Mach) (vwbase : Word) (e a : Nat) (write : Bool) : Except Miss Nat :=
  let g := granule vwbase
  let pa := e / 2 ^ 30 % 2 ^ 22 * 2 ^ 30
  let rm := e / 4 % 2 == 1
  if e % 2 = 0 then .error (.flt cVPAGE_FAULT 0)
  else if e / 8 % 2 ^ 27 ≠ 0 || e / 2 ^ 62 ≠ 0 || pa % g ≠ 0 || decide (hbmEnd < pa + g) then
    .error (.flt cVPAGE_FAULT 1)
  else if write && e / 2 % 2 = 0 then .error (.flt cACCESS_VIOLATION 5)
  else if rm && decide (m.pkg.podSize ≤ e / 2 ^ 52 % 1024) then .error (.flt cACCESS_VIOLATION 9)
  else
    let p := pa + (a - windowBase vwbase) % g
    .ok (if rm && e / 2 ^ 52 % 1024 != Config.packageNumber then remoteLoc (e / 2 ^ 52 % 1024) p else hbmLoc p)

/-- The byte that an address names for a vector element access: checks 3 to 6 of 06 R153, at orientation `col` (06 R143,
R150, R152; 15 R377; 12 R300). -/
def vectorPlace (m : Mach) (n : Nat) (a : Word) (write col : Bool) : Except Miss Nat :=
  if inLocal a.toNat then do
    let _ ← localPlace m n a.toNat
    localPlace m n (orient col a.toNat)
  else
    let s := m.slot n
    match vptIndex s.ctl.vwbase a.toNat with
    | none => .error (.flt cACCESS_VIOLATION 1)
    | some ix =>
      if col then .error (.flt cORIENTATION_INVALID 0)
      else vptPlace m s.ctl.vwbase (tabGet 0 (m.context s.unit.ctx).vpt ix).toNat a.toNat write

/-- Vector page-table entry of a vector address, for the hotness counters (06 R172). -/
def hotIndex (s : Slot) (a : Word) : Option Nat :=
  if inLocal a.toNat then none else vptIndex s.ctl.vwbase a.toNat

/-! ### Waiting, errors and reads -/

/-- Whether a copy that reached its issue point earlier owns the line or has it still to take (11 R271). -/
def Mach.ownedBefore (m : Mach) (ident line : Nat) : Bool :=
  m.engines.any (fun e => e.2.cmds.any (fun c => decide (c.ident < ident) && c.claims line))

/-- The lines of a run of bytes that have one good copy scrubbed (13 R314). -/
def Work.scrubRange (w : Work) (loc len : Nat) : Work :=
  (w.m.pkg.poison.filter (fun p => decide (loc < 64 * p.1 + 64) && decide (64 * p.1 < loc + len))).foldl
    (fun w p => w.scrub (64 * p.1)) w

/-- The package of a place that is marked unreachable (16 R409). -/
def Mach.lostAt (m : Mach) (loc : Nat) : Option Nat :=
  if isRemote loc && m.pkg.unreachable.contains (remotePkg loc) then some (remotePkg loc) else none

/-- The checks that let a read of the bytes at these places take place now: no line owned by a copy, no unreachable package
(11 R270; 16 R409). -/
def readable (m : Mach) (locs : List Nat) : Except Miss Unit :=
  if locs.any (fun l => m.owned (lineOf l)) then .error (.hold .ownedLine)
  else match locs.findSome? m.lostAt with
    | some pkg => .error (.lost pkg)
    | none => .ok ()

/-- The same for a write, which a linked read's hold also keeps back (03 R72). -/
def writable (m : Mach) (slot : Nat) (locs : List Nat) : Except Miss Unit := do
  readable m locs
  if locs.any (fun l => m.heldFor slot (lineOf l)) then .error (.hold .heldLine) else .ok ()

/-- n places from one upward. -/
def span (loc n : Nat) : List Nat := (List.range n).map (fun i => loc + i)

/-- A remote access counted as outstanding until it is acknowledged (12 R299, R301). -/
def Work.countRemote (w : Work) (locs : List Nat) : Work :=
  if locs.any isRemote then w.mapUnit (fun u => { u with remoteOut := u.remoteOut + 1 }) else w

/-! ### What a store leaves behind -/

/-- One byte fed to a CRC-64 with polynomial 0x42F0_E1EB_A9EA_3693, bits least significant first: the shift register runs
with the polynomial reflected (16 R404). -/
def crcBit (c : Word) : Nat → Word
  | 0 => c
  | n + 1 => crcBit (if c.getLsbD 0 then (c >>> 1) ^^^ 0xC96C5795D7870F42 else c >>> 1) n

def crcByte (c : Word) (b : Byte) : Word := crcBit (c ^^^ b.setWidth 64) 8

def crcBytes (c : Word) : List Byte → Word
  | [] => c
  | b :: bs => crcBytes (crcByte c b) bs

/-- A committed write fed to the slot's strip signature: address, size, data (16 R404). -/
def Work.feedWrite (w : Work) (a : Word) (data : List Byte) : Work :=
  w.mapThr (fun t => { t with
    sig := crcBytes t.sig (leBytes 8 a.toNat ++ leBytes 1 data.length ++ data) })

/-- A line number put into a rising list. -/
def insertLine (l : Nat) : List Nat → List Nat
  | [] => [l]
  | x :: xs => if l < x then l :: x :: xs else if l = x then x :: xs else x :: insertLine l xs

/-- The line of a virtual address enters the open record's footprint, which holds at most 262,144 lines (13 R319). -/
def OpenRecord.touch (r : OpenRecord) (a loc : Nat) : OpenRecord :=
  let l := a / 64 * 64
  if r.lines.any (fun e => e.1 = l) then r
  else if 262144 ≤ r.lines.length then { r with ovf := true }
  else { r with lines := tabSet r.lines l (loc / 64 * 64) }

/-- An Almanac write: not yet at the persistence point, and part of the open record (13 R317, R319). -/
def SlotUnit.noteAlmanac (u : SlotUnit) (a loc : Nat) : SlotUnit :=
  { u with notDurable := insertLine (lineOf loc) u.notDurable, record := u.record.map (fun r => r.touch a loc) }

/-- What a write of the running slot at virtual address a leaves behind beside its bytes: the footprint and the remote count. -/
def Work.storeMarks (w : Work) (a : Word) (locs : List Nat) : Work :=
  (if locs.any (fun l => w.m.almanac l) then
    w.mapUnit (fun u => locs.foldl (fun u l => if w.m.almanac l then u.noteAlmanac a.toNat l else u) u) else w).countRemote locs

/-- The byte writes of one access of the running slot at virtual address a, places given byte by byte, with what they leave behind. -/
def Work.storeBytes (w : Work) (a : Word) (locs : List Nat) (data : List Byte) : Work :=
  let w := if locs.any (fun l => w.m.almanac l) then w.noteBytes w.s.unit.lid w.s.unit.unit true (locs.zip data) else w
  ((locs.zip data).foldl (fun w p => w.putByte p.1 p.2) w).storeMarks a locs

/-! ### The accesses of an instruction, one by one (12 R290 to R293) -/

/-- How many accesses from the next one on were made in earlier turns. -/
def Work.past (w : Work) : Nat := w.made.length - w.pos

/-- Whether the instruction makes all its accesses in this turn. -/
def Work.whole (w : Work) : Bool := w.limit.isNone && w.made == []

/-- An access made now: it is listed where accesses are counted. -/
def Work.log (w : Work) (x : Made) : Work :=
  if w.limit.isSome then { w with made := w.made ++ [x], pos := w.pos + 1 } else w

/-- Whether the instruction pauses before its next access. -/
def Work.pauses (w : Work) : Bool := match w.limit with | some n => decide (n ≤ w.pos) | none => false

/-- One read of the bytes at some places: what it read in an earlier turn, or the bytes as they stand, with a good Almanac copy
written back over a bad one (13 R314). `note` is what the read does beside that, once. -/
def Work.read (w : Work) (locs : List Nat) (note : Work → Work := id) : M (List Byte × Work) :=
  match w.made[w.pos]? with
  | some x => .ok (x.bytes, { w with pos := w.pos + 1 })
  | none =>
    if w.pauses then .error (.pause w)
    else .ok (locs.map w.byte, note ((locs.foldl (fun w l => w.scrub l) w).log { write := false, locs := locs, bytes := locs.map w.byte }))

/-- One write of the running slot at virtual address a: its bytes, where no earlier turn has written them, and what it leaves. -/
def Work.write (w : Work) (a : Word) (locs : List Nat) (data : List Byte) : M Work :=
  match w.made[w.pos]? with
  | some _ => .ok (({ w with pos := w.pos + 1 } : Work).storeMarks a locs)
  | none =>
    if w.pauses then .error (.pause w)
    else .ok ((w.log { write := true, locs := locs, bytes := data }).storeBytes a locs data)

/-- One store of the running slot: its bytes, which enter the strip signature too (16 R404). -/
def Work.store (w : Work) (a : Word) (locs : List Nat) (data : List Byte) : M Work :=
  (w.write a locs data).map (fun w => w.feedWrite a data)

/-- Bytes at consecutive places read one after another (12 R293). -/
def Work.readRun (w : Work) : List Nat → M (List Byte × Work)
  | [] => .ok ([], w)
  | l :: ls => do
    let (b, w) ← w.read [l]
    let (bs, w) ← w.readRun ls
    .ok (b ++ bs, w)

/-- How many of n accesses may be made now, after those of earlier turns. -/
def Work.room (w : Work) (n : Nat) : Nat := match w.limit with | some k => min n (k - w.pos - w.past) | none => n

/-- Single bytes read or written, the first after those of earlier turns: they are listed where accesses are counted. -/
def Work.logBytes (w : Work) (past : Nat) (l : List Made) : Work :=
  if w.limit.isSome then { w with made := w.made ++ l, pos := w.pos + past + l.length } else { w with pos := w.pos + past }

/-- Bytes read one after another, each for itself (12 R293), and found so by what follows: those that earlier turns read stand as they
were then. -/
def Work.readApart (w : Work) (locs : Unit → List Nat) : M Work :=
  if w.whole then .ok w else
  let locs := locs ()
  let past := min w.past locs.length
  let left := locs.drop past
  let now := (left.take (w.room left.length)).map (fun l => (l, w.byte l))
  let seen := (locs.take past).zip ((w.made.drop w.pos).map (fun x => x.bytes.headD 0))
  let w1 := w.logBytes past (now.map (fun c => { write := false, locs := [c.1], bytes := [c.2] }))
  if now.length < left.length then .error (.pause w1)
  else .ok { w1 with base := applyWrs w.base ((seen ++ now).reverse.map (fun c => .put c.1 c.2)) }

/-- Bytes written one after another, each for itself (12 R293), by a unit: `all` is the work that all of them leave. -/
def Work.writeApart (w all : Work) (lid unit : Nat) (locs : Unit → List Nat) : M Work :=
  if w.whole then .ok all else
  let locs := locs ()
  let past := min w.past locs.length
  let left := locs.drop past
  let now := (left.take (w.room left.length)).map (fun l => (l, all.byte l))
  let w1 := w.logBytes past (now.map (fun c => { write := true, locs := [c.1], bytes := [c.2] }))
  let w1 := now.foldl (fun w c => (if w.m.almanac c.1 then w.noteBytes lid unit false [c] else w).putByte c.1 c.2) w1
  let pkg (p : Pkg) : Pkg := { p with unsettled := w1.m.pkg.unsettled, nextWrite := w1.m.pkg.nextWrite }
  if now.length < left.length then .error (.pause w1)
  else .ok { all with ws := w1.ws, made := w1.made, pos := w1.pos, m := { all.m with pkg := pkg all.m.pkg } }

/-- Whether a list of writes touches a line. -/
def wroteLine (ws : List Wr) (line : Nat) : Bool :=
  ws.any (fun x => match x with
    | .put loc _ => lineOf loc == line
    | .clear loc len => decide (lineOf loc ≤ line) && decide (line < lineOf (loc + len + 63)))

/-- Every link on one of the lines that `hit` names broken, in a slot (03 R71; 08 R203). -/
def Slot.breakLinks (s : Slot) (hit : Nat → Bool) : Slot :=
  { s with thr := { s.thr with
      link := s.thr.link.map (fun l => if hit l.line then { l with intact := false } else l)
      elinks := s.thr.elinks.filter (fun e => !e.2.any hit) } }

/-- Whether a slot holds a link on one of the lines. -/
def Slot.linked (s : Slot) (hit : Nat → Bool) : Bool :=
  (match s.thr.link with | some l => hit l.line | none => false) || s.thr.elinks.any (fun e => e.2.any hit)

/-- Every link on the lines broken, in every slot. -/
def Mach.breakLinks (m : Mach) (hit : Nat → Bool) : Mach :=
  { m with slots := m.slots.map (fun p => if p.2.linked hit then (p.1, p.2.breakLinks hit) else p) }

/-- The machine after writes: every link on a line that they touch broken. -/
def Mach.wrote (m : Mach) (ws : List Wr) : Mach := if ws = [] then m else m.breakLinks (wroteLine ws)

/-- The links of a slot cleared: a trap, `eret`, pre-emption, the start of a unit (03 R71; 08 R203). -/
def Slot.clearLinks (s : Slot) : Slot := { s with thr := { s.thr with link := none, elinks := [], linkRun := none } }

/-- The writes that have not broken links yet. -/
def Work.unspent (w : Work) : List Wr := w.ws.take (w.ws.length - w.spent)

/-- The links on the lines written so far broken now: a link that is set after these writes is not broken by them (03 R71; 08 R203). -/
def Work.spend (w : Work) : Work := { w with m := w.m.wrote w.unspent, spent := w.ws.length }

/-- The state that a working state leaves: its writes applied, every link on a written line broken. -/
def Work.finish (w : Work) (s : State) : State :=
  { toMach := w.m.wrote w.unspent, mem := applyWrs s.mem w.ws }

/-! ### Scalar accesses of the running slot -/

/-- The place of a scalar access of the running slot, after the checks 1 to 3 of 03 R68. -/
def Work.scalar (w : Work) (a : Word) (size acc : Nat) : M (Nat × Work) :=
  if a.toNat % size ≠ 0 then raise w cMISALIGNED a acc
  else liftMiss w a acc (scalarPlace w w.m.cur w.ctx.spt (w.s.regs.level == .supervisor) a acc)

/-- A scalar read of `size` bytes, checked as 03 R68: the number read. -/
def Work.load (w : Work) (a : Word) (size : Nat) : M (Nat × Nat × Work) := do
  let (loc, w) ← w.scalar a size 0
  if w.past = 0 then do
    liftMiss w a 0 (readable w.m [loc])
    if w.m.poisoned loc then raise (w.countBad [loc]) cMEMORY_POISON a 0 else .ok ()
  else .ok ()
  let (b, w) ← w.read (span loc size)
  .ok (leNat b, loc, w.countRemote [loc])

/-- A run of bytes read through the scalar page tables at a level as one access within one page, checked as 03 R68. -/
def Work.loadRunAs (w : Work) (sup : Bool) (a : Word) (len : Nat) : M (List Byte × Work) := do
  let (loc, w) ← liftMiss w a 0 (scalarPlace w w.m.cur w.ctx.spt sup a 0)
  let locs := span loc len
  let left := locs.drop w.past
  liftMiss w a 0 (readable w.m left)
  match left.findIdx? (fun l => w.m.poisoned l) with
  | some i => raise (w.countBad left) cMEMORY_POISON (a + BitVec.ofNat 64 (w.past + i)) 0
  | none => do
    let (bs, w) ← w.readRun locs
    .ok (bs, w.countRemote locs)

/-- The same at the level of the running slot. -/
def Work.loadRun (w : Work) (a : Word) (len : Nat) : M (List Byte × Work) := w.loadRunAs (w.s.regs.level == .supervisor) a len

/-- A scalar write of `size` bytes, checked as 03 R68. -/
def Work.storeScalar (w : Work) (a : Word) (size v : Nat) : M Work := do
  let (loc, w) ← w.scalar a size 1
  let locs := span loc size
  if w.past = 0 then liftMiss w a 1 (writable w.m w.m.cur locs) else .ok ()
  w.store a locs (leBytes size v)

/-- The bytes of a whole line written by a copy: poison cleared (12 R313). -/
def Mach.clearPoison (m : Mach) (line : Nat) : Mach :=
  { m with pkg := { m.pkg with poison := m.pkg.poison.filter (fun p => p.1 ≠ line) } }

end Sys2Proof.Machine
end

