-- ==== Sys2Proof/Machine/Regs.lean ====
section
/-! DEFINITION. The values of the control registers as a read returns them (03 R83 to R86; 06 R145, R167; 08 R195; 09 R213,
R242; 10 R247, R262; 12 R305; 13 R322, R330; 15 R362, R363, R378, R383; 18 R424). -/

namespace Sys2Proof.Machine

/-- The number of cleared bits below each field is part of the shift: a field placed at a bit. -/
def at_ (lo v : Nat) : Nat := v * 2 ^ lo

def vtypeWord (c : SlotCtl) (prot : Bool) : Word :=
  BitVec.ofNat 64 (c.fmt.toNat + at_ 4 c.blk.toNat + at_ 8 c.slc.toNat + at_ 12 prot.toNat)

def vmselWord (c : SlotCtl) : Word := BitVec.ofNat 64 (c.msel.toNat + at_ 3 c.mall.toNat)

/-- `tstate` as slot n sees it (09 R213). -/
def tstateWord (m : Mach) (n : Nat) : Word :=
  let c := m.core (coreOf n)
  if c.owner = some n then BitVec.ofNat 64 (c.tstate + 4 + at_ 4 c.nr.toNat)
  else if c.owner = some (otherSlot n) then 8 else 0

/-- COUNT of the coordinate store (08 R195). -/
def storeCount (c : Core) : Nat := (c.store.filter (fun e => e.2.isSome)).length

def cstatOf (c : Core) : Word := BitVec.ofNat 64 (storeCount c + at_ 16 c.full.toNat + at_ 32 c.drops)

/-- `cstat`: 0 in a slot that does not own the store (08 R194). -/
def cstatWord (m : Mach) (n : Nat) : Word := if (m.slot n).unit.ccs then cstatOf (m.core (coreOf n)) else 0

/-- KSTEPS, saturating at 1,023 (09 R242; 10 R254). -/
def kstepsOf (c : Core) : Nat :=
  min 1023 (c.queue.foldl (fun a q => a + q.ksteps) (c.tileOps.foldl (fun a op => a + op.ksteps) 0))

def mcqOf (c : Core) : Word :=
  BitVec.ofNat 64 (c.queue.length + at_ 6 (kstepsOf c) + at_ 16 c.mcqErr.toNat + at_ 24 c.mcqCause + at_ 32 c.mcqDone)

def mcqWord (m : Mach) (n : Nat) : Word :=
  let c := m.core (coreOf n)
  if c.owner = some n then mcqOf c else 0

def wbctlOf (c : Core) : Word := BitVec.ofNat 64 (c.elt + at_ 2 c.cmp + at_ 4 c.nsel + at_ 8 c.cen.toNat)

def wbctlWord (m : Mach) (n : Nat) : Word :=
  let c := m.core (coreOf n)
  if c.owner = some n then wbctlOf c else 0

/-- The checksum counters and CEN in the format of 10 Table 10.3. -/
def tchkWord (c : Core) : Word :=
  BitVec.ofNat 64 (c.unchk + at_ 16 c.rpl + at_ 32 c.fail + at_ 63 c.cen.toNat)

/-- `ckpopen` (13 R322). -/
def ckpopenWord (u : SlotUnit) : Word :=
  match u.record with
  | none => 0
  | some r => BitVec.ofNat 64 (1 + at_ 1 r.ovf.toNat + at_ 2 r.cerr.toNat + r.hdr.toNat / 128 % 2 ^ 50 * 128)

/-- `coreid` of a slot's place (18 R424). -/
def coreidWord (n : Nat) : Word :=
  BitVec.ofNat 64 (coreOf n % 4 + at_ 2 (clusterOf n % 12) + at_ 6 (dieOf n))

/-- `vwbase`: the base bits below 4,096 x G read as zero (03 R86). -/
def vwbaseWord (v : Word) : Word := BitVec.ofNat 64 (windowBase v + bitsN v 0 2)

/-- The unit-level control registers 0x000 to 0x014 of slot n (03 Table 3.8). -/
def unitCsr (m : Mach) (n : Nat) (num : Nat) : Word :=
  let s := m.slot n
  let c := s.ctl
  let prot := (m.context s.unit.ctx).prot
  match num with
  | 0x00 => c.vl.setWidth 64
  | 0x01 => vtypeWord c prot
  | 0x02 => c.vstart.setWidth 64
  | 0x03 => c.vstride
  | 0x04 => vmselWord c
  | 0x05 => BitVec.ofNat 64 (vlmaxBits (fmtBits c.fmt) prot)
  | 0x06 => c.rm.setWidth 64
  | 0x07 => c.fflags.setWidth 64
  | 0x08 => c.vstate
  | 0x09 => tstateWord m n
  | 0x0A => boolWord c.chkStall
  | 0x0B => vwbaseWord c.vwbase
  | 0x0C => c.vcursor
  | 0x0D => c.vstripno.setWidth 64
  | 0x0E => c.vprog
  | 0x0F => cstatWord m n
  | 0x10 => mcqWord m n
  | 0x11 => wbctlWord m n
  | 0x12 => c.barseq
  | 0x13 => ckpopenWord s.unit
  | 0x14 => coreidWord n
  | _ => 0

def sstatusWord (p : SlotSup) : Word := BitVec.ofNat 64 (p.spp.toNat + at_ 1 p.intrap.toNat)

/-- The number of a hotness counter in its context's table: entry and class (06 R172; 15 R378). -/
def hotKey (entry cls : Nat) : Nat := 3 * entry + cls

/-- The counter that `vhotsel` selects; CLASS 3 selects none (15 R378). -/
def vhotKey (sel : Word) : Option Nat :=
  if bitsN sel 12 2 = 3 then none else some (hotKey (bitsN sel 0 12) (bitsN sel 12 2))

/-- The Supervisor control registers 0x100 to 0x167 of slot n (15 Table 15.1). -/
def supCsr (m : Mach) (n : Nat) (num : Nat) : Word :=
  let s := m.slot n
  let p := s.sup
  let x := m.context s.unit.ctx
  match num with
  | 0x100 => sstatusWord p
  | 0x101 => p.scause
  | 0x102 => p.sepc
  | 0x103 => p.stval
  | 0x104 => p.stvec
  | 0x105 => p.sscratch
  | 0x110 =>
    let wp := (m.vault (clusterOf n)).waypart
    BitVec.ofNat 64 (wp.toNat + at_ 32 (spMib wp))
  | 0x120 => boolWord x.prot
  | 0x130 => (m.job x.job).calmode.setWidth 64
  | 0x140 => x.ckpctl.setWidth 64
  | 0x150 => x.rpbase
  | 0x151 => x.rpseq
  | 0x152 => x.rpgen.setWidth 64
  | 0x160 => x.spt
  | 0x161 => p.vhotsel
  | 0x162 => match vhotKey p.vhotsel with
    | none => 0
    | some k => BitVec.ofNat 64 (tabGet 0 x.hot k)
  | 0x163 => p.simg
  | 0x164 => p.dbgctl
  | 0x165 => p.dbgpc
  | 0x166 => p.trcctl
  | 0x167 => p.smplctl
  | _ => 0

/-- Bits [hi:lo] of a word kept, the rest 0. -/
def keepBits (x : Word) (lo n : Nat) : Word := BitVec.ofNat 64 (bitsN x lo n * 2 ^ lo)

/-! The bits of control registers that hold a field; every other bit reads as zero (00 R3). -/

/-- `vstate`: VEN, the dirty bits, VMAP (15 R383). -/
def vstateBits : Word := 0xFFFFFFFF0000001F

/-- `barseq`: SLOT, G, VALID, CLID, GEN (12 R305). -/
def barseqBits : Word := 0xFFFFFFFF00003FFF

/-- `stvec`: MODE and BASE (15 R362). -/
def stvecBits : Word := 0x01FFFFFFFFFFFFC1

/-- `dbgctl`: the stop controls and ORD (16 R395). -/
def dbgctlBits : Word := 0xFFFFFFFF0000001F

/-- `smplctl`: PERIOD, ARM, CNT (16 R398). -/
def smplctlBits : Word := 0xFFFFFFFF001FFFFF

end Sys2Proof.Machine
end

