-- ==== Sys2Proof/Machine/Fibre.lean ====
section
/-! DEFINITION. Fibre definitions: the descriptor's fields, the lines of a fibre and the scanner's position (08 R208, R209).
The scanner's reads are prefetches: they raise nothing and leave nothing in the page tables. -/

namespace Sys2Proof.Machine

/-- Word i of the descriptor. -/
def Fibre.word (f : Fibre) (i : Nat) : Word := f.words.getD i 0

/-- SLEN, and the widths of row pointers, index entries and value entries in bytes (08 Table 8.4). -/
def Fibre.slen (f : Fibre) : Nat := bitsN (f.word 4) 0 32
def Fibre.rpw (f : Fibre) : Nat := if bitsN (f.word 4) 32 2 = 0 then 4 else 8
def Fibre.idw (f : Fibre) : Nat := 2 * 2 ^ bitsN (f.word 4) 34 2
def Fibre.vlw (f : Fibre) : Nat := 2 ^ bitsN (f.word 4) 36 3

/-- A descriptor with a reserved code or bit installs an inert definition (08 R208). -/
def Fibre.inert (f : Fibre) : Bool :=
  decide (f.words.length < 6) || decide (2 ≤ bitsN (f.word 4) 32 2) || bitsN (f.word 4) 34 2 == 3 ||
  decide (4 ≤ bitsN (f.word 4) 36 3) || bitsN (f.word 4) 39 25 != 0 || f.word 5 != 0

/-- The place of a byte for slot n's scanner; none where it fails translation or lies in the local region. The reads translate
at the slot's present level through the context's scalar page tables, and a misaligned SCHED entry or row pointer is skipped
(DESIGN CHOICE, log 53: no rule says). -/
def quietPlace (w : Work) (n : Nat) (a : Word) : Option Nat :=
  let s := w.m.slot n
  if inLocal a.toNat then none else
  match scalarPlace w n (w.m.context s.unit.ctx).spt (s.regs.level == .supervisor) a 0 with
  | .ok (loc, _) => some loc
  | .error _ => none

/-- A number that the scanner reads. -/
def quietNum (w : Work) (n : Nat) (a : Word) (size : Nat) : Option Nat :=
  if a.toNat % size ≠ 0 then none else (quietPlace w n a).map (fun l => w.num l size)

/-- The places of the lines of a run of bytes. -/
def runLines (w : Work) (n : Nat) (a : Word) (len : Nat) : List Nat :=
  if len = 0 then [] else
  let first := a.toNat / 64
  let last := (a.toNat + len - 1) / 64
  (List.range (last + 1 - first)).filterMap (fun i => (quietPlace w n (BitVec.ofNat 64 ((first + i) * 64))).map lineOf)

/-- The lines of the fibre that schedule entry p names, for slot n. -/
def Fibre.lines (f : Fibre) (w : Work) (n p : Nat) : List Nat :=
  if f.inert || decide (f.slen ≤ p) then [] else
  match quietNum w n (f.word 3 + BitVec.ofNat 64 (4 * p)) 4 with
  | none => []
  | some r =>
    match quietNum w n (f.word 0 + BitVec.ofNat 64 (r * f.rpw)) f.rpw,
          quietNum w n (f.word 0 + BitVec.ofNat 64 ((r + 1) * f.rpw)) f.rpw with
    | some lo, some hi =>
      runLines w n (f.word 1 + BitVec.ofNat 64 (lo * f.idw)) ((hi - lo) * f.idw) ++
      (if f.word 2 = 0 then [] else runLines w n (f.word 2 + BitVec.ofNat 64 (lo * f.vlw)) ((hi - lo) * f.vlw))
    | _, _ => []

/-- A touch of a line moves the position past schedule entry p where it is a line of fibre p + 1 (08 R209). -/
def Fibre.touch (f : Fibre) (w : Work) (n line : Nat) : Fibre :=
  if (f.lines w n (f.pos + 1)).contains line then { f with pos := f.pos + 1 } else f

/-- A vector load of the running slot touches the lines of some places, in order; each line counts once (08 R209). -/
def Work.touchFibre (w : Work) (locs : List Nat) : Work :=
  match w.s.thr.fibre with
  | none => w
  | some f =>
    let moved := (locs.map lineOf).eraseDups.foldl (fun f l => f.touch w w.m.cur l) f
    w.mapThr (fun t => { t with fibre := some moved })

/-- How far ahead a cached line is used next: the nearest of the uses that definitions recorded, each counted from its own
position; none where none is recorded. That the nearest of several definitions' uses decides is the model's choice (DESIGN CHOICE, log 58:
08 R209 speaks of one position p). -/
def useAhead (pos : Nat → Nat) (uses : Tab Nat) : Option Nat := (uses.map (fun u => u.2 - pos u.1)).min?

/-- Which line goes first: one with no recorded next use, then the farthest next use, then the lowest address (08 R209). -/
def evictBefore (a b : Nat × Option Nat) : Bool :=
  match a.2, b.2 with
  | none, none => decide (a.1 < b.1)
  | none, some _ => true
  | some _, none => false
  | some x, some y => decide (y < x) || (x == y && decide (a.1 < b.1))

/-- The line to replace. -/
def evictee (pos : Nat → Nat) : Tab (Tab Nat) → Option (Nat × Option Nat)
  | [] => none
  | (l, uses) :: t =>
    let e := (l, useAhead pos uses)
    match evictee pos t with
    | none => some e
    | some b => if evictBefore e b then some e else some b

/-- A line of the fibre at position p of slot n's definition fetched into ways of `room` lines. Where every cached line's next use is as
near or nearer, none is given up and the line is not fetched (DESIGN CHOICE, log 58: 08 R209 says which line goes when one must be
replaced, and not whether one must). -/
def fetchLine (pos : Nat → Nat) (room n p : Nat) (t : Tab (Tab Nat)) (line : Nat) : Tab (Tab Nat) :=
  if t.any (fun e => e.1 = line) then
    tabMod [] t line (fun uses => if uses.any (fun u => u.1 = n) then uses else tabSet uses n p)
  else if t.length < room then tabSet t line [(n, p)]
  else match evictee pos t with
    | none => t
    | some (l, u) =>
      if (match u with | some d => decide (d ≤ p - pos n) | none => false) then t
      else tabSet (tabDel t l) line [(n, p)]

/-- What the scanner reads ahead for slot n: up to 4,096 schedule entries from its position (08 R209). -/
def Work.prefetchFibres (w : Work) (n : Nat) (f : Fibre) : Work :=
  let k := clusterOf n
  let v := w.m.vault k
  let room := ((List.range 16).filter (fun i => wayCode v.waypart i == 2)).length * 16384
  let pos (k : Nat) : Nat := match (w.m.slot k).thr.fibre with | some g => g.pos | none => 0
  let live (u : Nat × Nat) : Bool := u.1 != n && (w.m.slot u.1).thr.fibre.isSome && decide (pos u.1 ≤ u.2)
  let kept := v.fibreLines.map (fun e => (e.1, e.2.filter live))
  let lines := (List.range (min 4096 (f.slen - f.pos))).foldl (fun t i =>
    (f.lines w n (f.pos + i)).foldl (fetchLine pos room n (f.pos + i)) t) kept
  { w with m := w.m.setVault k { v with fibreLines := lines } }

end Sys2Proof.Machine
end

