-- ==== Sys2Proof/WellFormed.lean ====
section
/-! DEFINITION. Which instructions are well formed: the checks on a word that its fields alone decide (02 R26, R40 and the
encoding rules of the instruction entries). A word that fails one raises ILLEGAL_INSTRUCTION. Checks that depend on
`vtype` or on where the word stands are made when the instruction runs. For an event, the check says that it names a
slot, core or cluster that the part has (01 R5). -/

namespace Sys2Proof

/-- The control-register numbers that 03 Table 3.8 and 15 Table 15.1 assign (02 R26, 15 R361). -/
def csrAssigned (n : Nat) : Bool :=
  n <= 0x014 || (0x100 <= n && n <= 0x105) || n == 0x110 || n == 0x120 || n == 0x130 || n == 0x140 ||
  (0x150 <= n && n <= 0x152) || (0x160 <= n && n <= 0x167)

/-- The static encoding checks: 02 R26 (register kinds, blocks, reserved codes), 04 R113, 05 R130, 06 R164, 07 R182,
08 R200, 09 R237, 10 R255 and R263, 11 R265, 12 R299 and R311, 13 R323, 14 R350. -/
def Instr.wf : Instr → Bool
  | .add _ _ _ _ => true
  | .sub _ _ _ _ => true
  | .and _ _ _ _ => true
  | .or _ _ _ _ => true
  | .xor _ _ _ _ => true
  | .sll _ _ _ _ => true
  | .srl _ _ _ _ => true
  | .sra _ _ _ _ => true
  | .slt _ _ _ _ => true
  | .sltn _ _ _ _ => true
  | .min _ _ _ _ => true
  | .max _ _ _ _ => true
  | .minn _ _ _ _ => true
  | .maxn _ _ _ _ => true
  | .mul _ _ _ _ => true
  | .mulh _ _ _ _ => true
  | .mulhn _ _ _ _ => true
  | .div _ _ _ _ => true
  | .divn _ _ _ _ => true
  | .rem _ _ _ _ => true
  | .remn _ _ _ _ => true
  | .bext _ _ _ _ => true
  | .bins _ _ _ _ => true
  | .clz _ _ _ => true
  | .ctz _ _ _ => true
  | .popc _ _ _ => true
  | .slli _ _ _ _ _ => true
  | .srli _ _ _ _ _ => true
  | .srai _ _ _ _ _ => true
  | .addi _ _ _ _ => true
  | .andi _ _ _ _ => true
  | .ori _ _ _ _ => true
  | .xori _ _ _ _ => true
  | .lih _ _ _ => true
  | .adpc _ _ _ => true
  | .ld8 _ _ _ _ => true
  | .ld16 _ _ _ _ => true
  | .ld32 _ _ _ _ => true
  | .ld64 _ _ _ _ => true
  | .ld8N _ _ _ _ => true
  | .ld16N _ _ _ _ => true
  | .ld32N _ _ _ _ => true
  | .st8 _ _ _ _ => true
  | .st16 _ _ _ _ => true
  | .st32 _ _ _ _ => true
  | .st64 _ _ _ _ => true
  | .ldl _ _ _ => true
  | .stc _ _ _ _ => true
  | .jal _ _ => true
  | .beq _ _ _ _ => true
  | .bne _ _ _ _ => true
  | .blt _ _ _ _ => true
  | .bge _ _ _ _ => true
  | .bltn _ _ _ _ => true
  | .bgen _ _ _ _ => true
  | .jalr _ _ _ => true
  | .wait _ _ _ => true
  | .setvl _ _ _ => true
  | .setvt _ _ _ => true
  | .nop _ => true
  | .rdc _ _ r => csrAssigned r.val
  | .wrc _ _ r => csrAssigned r.val
  | .writeVl _ => true
  | .writeVtype _ => true
  | .writeFflags _ => true
  | .writeWaypart _ => true
  | .writeVstate _ => true
  | .writeTstate _ => true
  | .writeVhot _ => true
  | .vadd _ _ _ _ _ _ => true
  | .vsub _ _ _ _ _ _ => true
  | .vmin _ _ _ _ _ _ => true
  | .vmax _ _ _ _ _ _ => true
  | .vaddsat _ _ _ _ _ _ => true
  | .vsubsat _ _ _ _ _ _ => true
  | .vabs _ _ _ _ => true
  | .vneg _ _ _ _ => true
  | .vand _ _ _ _ _ _ => true
  | .vor _ _ _ _ _ _ => true
  | .vxor _ _ _ _ _ _ => true
  | .vsll _ _ _ _ _ _ => true
  | .vsrl _ _ _ _ _ _ => true
  | .vsra _ _ _ _ _ _ => true
  | .vmul _ _ _ _ _ _ => true
  | .vmulh _ _ _ _ _ _ => true
  | .vmadd _ _ _ _ _ _ => true
  | .vmsub _ _ _ _ _ _ => true
  | .vnmadd _ _ _ _ _ _ => true
  | .vdiv _ _ _ _ _ _ => true
  | .vwadd _ _ d a b x => d.val % 2 == 0 && a.val / 2 != d.val / 2 && (x || b.val / 2 != d.val / 2)
  | .vwmul _ _ d a b x => d.val % 2 == 0 && a.val / 2 != d.val / 2 && (x || b.val / 2 != d.val / 2)
  | .vcmp _ _ d _ _ _ _ => d.val < 8
  | .vsel _ _ _ _ _ _ => true
  | .vmv _ _ _ _ => true
  | .vbcast _ _ _ _ => true
  | .vaddF _ _ _ _ _ _ => true
  | .vsubF _ _ _ _ _ _ => true
  | .vminF _ _ _ _ _ _ => true
  | .vmaxF _ _ _ _ _ _ => true
  | .vabsF _ _ _ _ => true
  | .vnegF _ _ _ _ => true
  | .vmulF _ _ _ _ _ _ => true
  | .vmaddF _ _ _ _ _ _ => true
  | .vmsubF _ _ _ _ _ _ => true
  | .vnmaddF _ _ _ _ _ _ => true
  | .vdivF _ _ _ _ _ _ => true
  | .vwaddF _ _ d a b x => d.val % 2 == 0 && a.val / 2 != d.val / 2 && (x || b.val / 2 != d.val / 2)
  | .vwmulF _ _ d a b x => d.val % 2 == 0 && a.val / 2 != d.val / 2 && (x || b.val / 2 != d.val / 2)
  | .vsqrt _ _ _ _ => true
  | .vrcpa _ _ _ _ => true
  | .vrsqa _ _ _ _ => true
  | .vrcps _ _ _ _ _ => true
  | .vrsqs _ _ _ _ _ => true
  | .vclass _ _ _ _ => true
  | .vcmpF _ _ d _ _ _ _ => d.val < 8
  | .vcvt _ _ _ _ b m => b.val < 13 && m.val < 6
  | .vldsc _ _ d _ _ => d.val < 8
  | .vmvscToScale _ _ d _ => d.val < 8
  | .vmvscFromScale _ _ _ a => a.val < 8
  | .vapsc _ _ _ _ b => b.val < 8
  | .mand _ _ d a b => d.val < 8 && a.val < 8 && b.val < 8
  | .mor _ _ d a b => d.val < 8 && a.val < 8 && b.val < 8
  | .mxor _ _ d a b => d.val < 8 && a.val < 8 && b.val < 8
  | .mnot _ _ d a => d.val < 8 && a.val < 8
  | .msbf _ _ d a => d.val < 8 && a.val < 8
  | .mset _ _ d _ => d.val < 8
  | .mpopc _ _ _ a => a.val < 8
  | .mfirst _ _ _ a => a.val < 8
  | .viota _ _ _ a => a.val < 8
  | .vld _ _ _ _ _ => true
  | .vlds _ _ _ _ _ => true
  | .vldx _ _ _ _ _ _ _ => true
  | .vldt _ _ _ _ _ _ => true
  | .vpf _ _ _ _ => true
  | .vst _ _ _ _ _ _ => true
  | .vsts _ _ _ _ _ _ => true
  | .vstx _ _ _ _ _ _ _ _ => true
  | .vstxu _ _ _ _ _ _ _ _ => true
  | .vstt _ _ _ _ _ _ _ => true
  | .vlseg _ _ d _ b _ n => n.val != 0 && b.val < 13 && d.val + n.val < 32
  | .vsseg _ _ d _ b _ _ n => n.val != 0 && b.val < 13 && d.val + n.val < 32
  | .vbind _ _ _ _ => true
  | .vunbind _ _ _ => true
  | .vperm _ _ _ _ _ => true
  | .vslu _ _ _ _ _ => true
  | .vsld _ _ _ _ _ => true
  | .vcompress _ _ _ _ => true
  | .vexpand _ _ _ _ => true
  | .vred _ _ _ _ _ f p => p.val < 5 && (!f || p.val < 3)
  | .vscan _ _ _ _ _ _ p => p.val < 2
  | .vfetch _ _ _ => true
  | .vpbr _ _ _ => true
  | .vpend _ _ => true
  | .vpsend _ _ _ => true
  | .vprecv _ _ _ => true
  | .vconf _ _ d _ => d.val < 8
  | .vcomb _ _ _ _ _ => true
  | .visect _ _ _ _ _ => true
  | .cins _ _ d _ => d.val < 8
  | .clook _ _ _ _ b => b.val < 8
  | .cacc _ _ _ _ => true
  | .cdrain _ _ d => d.val != 31
  | .cclr _ _ => true
  | .vgathl _ _ _ _ _ _ => true
  | .vscatc _ _ _ _ _ _ _ => true
  | .fibdef _ _ _ => true
  | .fibend _ _ => true
  | .fibrePrefetch slot => slot < 384
  | .ten _ => true
  | .tdis _ => true
  | .tzero _ _ _ => true
  | .tmop _ _ _ _ _ => true
  | .tmma _ _ _ _ _ l o => !o || l
  | .tmms _ _ _ _ _ l o => !o || l
  | .tmf64 _ _ t _ _ l o => (!o || l) && t.val % 2 == 0
  | .tld _ _ _ _ => true
  | .tst _ _ _ _ => true
  | .trowmv _ _ _ _ _ => true
  | .tcolmv _ _ _ _ _ => true
  | .tvmv _ _ a _ => a.val % 8 == 0
  | .wbld _ _ _ => true
  | .wbfmt _ _ => true
  | .tchk _ _ => true
  | .tchkrd _ _ => true
  | .tileOpComplete core => core < 192
  | .matrixCommandAccept core => core < 192
  | .cpy _ d a _ _ => d.val != 0 && a.val + 3 <= 32
  | .cpy2 _ d a _ _ => d.val != 0 && a.val + 6 <= 32
  | .cpyt _ d a _ _ _ => d.val != 0 && a.val + 2 <= 32
  | .cpyr _ d a _ _ => d.val != 0 && a.val + 3 <= 32
  | .cpym _ d a _ _ => d.val != 0 && a.val + 4 <= 32
  | .cpyx _ d a _ _ => d.val != 0 && a.val + 4 <= 32
  | .cpyfill _ d a _ => d.val != 0 && a.val + 3 <= 32
  | .cpybc _ d a _ _ => d.val != 0 && a.val + 4 <= 32
  | .copyEngineAccept cluster => cluster < 48
  | .copyCompletion cluster _ => cluster < 48
  | .fence _ k => k.val < 4
  | .acq _ k => k.val < 4
  | .rel _ k => k.val < 4
  | .barinit _ _ _ _ => true
  | .bararr _ _ b _ => b.val < 8
  | .barwait _ _ _ => true
  | .wmwait _ _ => true
  | .barwaitRelease slot => slot < 384
  | .watermarkSatisfied slot => slot < 384
  | .waitWake slot => slot < 384
  | .waitTimeout slot => slot < 384
  | .linkHoldExpiry _ => true
  | .relrcv _ => true
  | .ckpbeg _ _ _ => true
  | .ckpseal _ _ => true
  | .ckpverify _ _ _ => true
  | .ckpabort _ => true
  | .rprd _ _ b => b.val < 3
  | .launch _ _ => true
  | .launchn _ _ _ => true
  | .cancel _ _ b => b.val < 4
  | .cntrd _ _ _ => true
  | .fork _ _ _ => true
  | .join _ => true
  | .send _ => true
  | .yield _ => true
  | .uexit _ => true
  | .notify _ _ => true
  | .trap _ _ => true
  | .eret _ => true
  | .mcall _ => true
  | .halt _ => true
  | .vptwr _ _ _ => true
  | .tlbinv _ _ _ => true
  | .ctxsave _ _ => true
  | .ctxrest _ _ => true
  | .brk _ _ => true
  | .tmark _ _ => true
  | .smpl _ _ => true
  | .vectorCommit slot => slot < 384
  | .variableLatencyResult slot => slot < 384
  | .rendezvousArrival slot _ => slot < 384
  | .rendezvousComplete slot => slot < 384
  | .trapEntry slot => slot < 384
  | .windowReplay slot => slot < 384
  | .laneMismatch slot _ => slot < 384
  | .lockstepMismatch slot => slot < 384
  | .notifyRegisterWrite _ => true
  | .serveQueue _ => true
  | .spillReturn _ => true
  | .mapRequest _ => true
  | .queueMap _ => true
  | .queueDestroy _ => true
  | .counterCreate _ _ => true
  | .counterClose _ _ => true
  | .hostVptEntryWrite _ _ _ => true
  | .hostHotnessClear _ _ => true
  | .umanteDispatch => true
  | .bind slot => slot < 384
  | .bindResume slot => slot < 384
  | .preempt slot => slot < 384
  | .kill slot _ => slot < 384
  | .unitLoadComplete slot => slot < 384
  | .preemptionLands slot => slot < 384
  | .saveComplete slot => slot < 384
  | .unitRetire slot => slot < 384
  | .launchCompletion _ => true
  | .pageRequestAnswer _ _ _ => true
  | .partitionSwap _ => true
  | .computeDieReset _ => true
  | .recoveryRestore _ _ => true
  | .remoteAckTimeout slot _ _ => slot < 384
  | .spareSwitch _ => true
  | .linkRetrain _ _ => true
  | .thermalClockReduction => true
  | .thermalShutdown => true
  | .powerOnBoot _ _ => true
  | .itrusPartitionControl _ => true
  | .itrusDebug _ => true
  | .itrusTrace _ => true
  | .itrusAnnals _ => true
  | .itrusRecovery _ => true
  | .itrusFirmwareUpdate _ => true
  | .itrusAttestation _ => true
  | .itrusPower _ => true
  | .remoteAccessArrival _ => true
  | .remoteAcknowledgement slot => slot < 384
  | .persistencePointReached slot => slot < 385
  | .powerLoss => true
  | .baseDieFailure _ => true
  | .queueUnmap _ => true
  | .itrusConnection _ => true
  | .annalsObservation _ _ _ => true

/-- Whether the row has an instruction word; the others are events of the machine. -/
def Instr.isWord : Instr → Bool
  | .add _ _ _ _ => true
  | .sub _ _ _ _ => true
  | .and _ _ _ _ => true
  | .or _ _ _ _ => true
  | .xor _ _ _ _ => true
  | .sll _ _ _ _ => true
  | .srl _ _ _ _ => true
  | .sra _ _ _ _ => true
  | .slt _ _ _ _ => true
  | .sltn _ _ _ _ => true
  | .min _ _ _ _ => true
  | .max _ _ _ _ => true
  | .minn _ _ _ _ => true
  | .maxn _ _ _ _ => true
  | .mul _ _ _ _ => true
  | .mulh _ _ _ _ => true
  | .mulhn _ _ _ _ => true
  | .div _ _ _ _ => true
  | .divn _ _ _ _ => true
  | .rem _ _ _ _ => true
  | .remn _ _ _ _ => true
  | .bext _ _ _ _ => true
  | .bins _ _ _ _ => true
  | .clz _ _ _ => true
  | .ctz _ _ _ => true
  | .popc _ _ _ => true
  | .slli _ _ _ _ _ => true
  | .srli _ _ _ _ _ => true
  | .srai _ _ _ _ _ => true
  | .addi _ _ _ _ => true
  | .andi _ _ _ _ => true
  | .ori _ _ _ _ => true
  | .xori _ _ _ _ => true
  | .lih _ _ _ => true
  | .adpc _ _ _ => true
  | .ld8 _ _ _ _ => true
  | .ld16 _ _ _ _ => true
  | .ld32 _ _ _ _ => true
  | .ld64 _ _ _ _ => true
  | .ld8N _ _ _ _ => true
  | .ld16N _ _ _ _ => true
  | .ld32N _ _ _ _ => true
  | .st8 _ _ _ _ => true
  | .st16 _ _ _ _ => true
  | .st32 _ _ _ _ => true
  | .st64 _ _ _ _ => true
  | .ldl _ _ _ => true
  | .stc _ _ _ _ => true
  | .jal _ _ => true
  | .beq _ _ _ _ => true
  | .bne _ _ _ _ => true
  | .blt _ _ _ _ => true
  | .bge _ _ _ _ => true
  | .bltn _ _ _ _ => true
  | .bgen _ _ _ _ => true
  | .jalr _ _ _ => true
  | .wait _ _ _ => true
  | .setvl _ _ _ => true
  | .setvt _ _ _ => true
  | .nop _ => true
  | .rdc _ _ _ => true
  | .wrc _ _ _ => true
  | .writeVl _ => false
  | .writeVtype _ => false
  | .writeFflags _ => false
  | .writeWaypart _ => false
  | .writeVstate _ => false
  | .writeTstate _ => false
  | .writeVhot _ => false
  | .vadd _ _ _ _ _ _ => true
  | .vsub _ _ _ _ _ _ => true
  | .vmin _ _ _ _ _ _ => true
  | .vmax _ _ _ _ _ _ => true
  | .vaddsat _ _ _ _ _ _ => true
  | .vsubsat _ _ _ _ _ _ => true
  | .vabs _ _ _ _ => true
  | .vneg _ _ _ _ => true
  | .vand _ _ _ _ _ _ => true
  | .vor _ _ _ _ _ _ => true
  | .vxor _ _ _ _ _ _ => true
  | .vsll _ _ _ _ _ _ => true
  | .vsrl _ _ _ _ _ _ => true
  | .vsra _ _ _ _ _ _ => true
  | .vmul _ _ _ _ _ _ => true
  | .vmulh _ _ _ _ _ _ => true
  | .vmadd _ _ _ _ _ _ => true
  | .vmsub _ _ _ _ _ _ => true
  | .vnmadd _ _ _ _ _ _ => true
  | .vdiv _ _ _ _ _ _ => true
  | .vwadd _ _ _ _ _ _ => true
  | .vwmul _ _ _ _ _ _ => true
  | .vcmp _ _ _ _ _ _ _ => true
  | .vsel _ _ _ _ _ _ => true
  | .vmv _ _ _ _ => true
  | .vbcast _ _ _ _ => true
  | .vaddF _ _ _ _ _ _ => true
  | .vsubF _ _ _ _ _ _ => true
  | .vminF _ _ _ _ _ _ => true
  | .vmaxF _ _ _ _ _ _ => true
  | .vabsF _ _ _ _ => true
  | .vnegF _ _ _ _ => true
  | .vmulF _ _ _ _ _ _ => true
  | .vmaddF _ _ _ _ _ _ => true
  | .vmsubF _ _ _ _ _ _ => true
  | .vnmaddF _ _ _ _ _ _ => true
  | .vdivF _ _ _ _ _ _ => true
  | .vwaddF _ _ _ _ _ _ => true
  | .vwmulF _ _ _ _ _ _ => true
  | .vsqrt _ _ _ _ => true
  | .vrcpa _ _ _ _ => true
  | .vrsqa _ _ _ _ => true
  | .vrcps _ _ _ _ _ => true
  | .vrsqs _ _ _ _ _ => true
  | .vclass _ _ _ _ => true
  | .vcmpF _ _ _ _ _ _ _ => true
  | .vcvt _ _ _ _ _ _ => true
  | .vldsc _ _ _ _ _ => true
  | .vmvscToScale _ _ _ _ => true
  | .vmvscFromScale _ _ _ _ => true
  | .vapsc _ _ _ _ _ => true
  | .mand _ _ _ _ _ => true
  | .mor _ _ _ _ _ => true
  | .mxor _ _ _ _ _ => true
  | .mnot _ _ _ _ => true
  | .msbf _ _ _ _ => true
  | .mset _ _ _ _ => true
  | .mpopc _ _ _ _ => true
  | .mfirst _ _ _ _ => true
  | .viota _ _ _ _ => true
  | .vld _ _ _ _ _ => true
  | .vlds _ _ _ _ _ => true
  | .vldx _ _ _ _ _ _ _ => true
  | .vldt _ _ _ _ _ _ => true
  | .vpf _ _ _ _ => true
  | .vst _ _ _ _ _ _ => true
  | .vsts _ _ _ _ _ _ => true
  | .vstx _ _ _ _ _ _ _ _ => true
  | .vstxu _ _ _ _ _ _ _ _ => true
  | .vstt _ _ _ _ _ _ _ => true
  | .vlseg _ _ _ _ _ _ _ => true
  | .vsseg _ _ _ _ _ _ _ _ => true
  | .vbind _ _ _ _ => true
  | .vunbind _ _ _ => true
  | .vperm _ _ _ _ _ => true
  | .vslu _ _ _ _ _ => true
  | .vsld _ _ _ _ _ => true
  | .vcompress _ _ _ _ => true
  | .vexpand _ _ _ _ => true
  | .vred _ _ _ _ _ _ _ => true
  | .vscan _ _ _ _ _ _ _ => true
  | .vfetch _ _ _ => true
  | .vpbr _ _ _ => true
  | .vpend _ _ => true
  | .vpsend _ _ _ => true
  | .vprecv _ _ _ => true
  | .vconf _ _ _ _ => true
  | .vcomb _ _ _ _ _ => true
  | .visect _ _ _ _ _ => true
  | .cins _ _ _ _ => true
  | .clook _ _ _ _ _ => true
  | .cacc _ _ _ _ => true
  | .cdrain _ _ _ => true
  | .cclr _ _ => true
  | .vgathl _ _ _ _ _ _ => true
  | .vscatc _ _ _ _ _ _ _ => true
  | .fibdef _ _ _ => true
  | .fibend _ _ => true
  | .fibrePrefetch _ => false
  | .ten _ => true
  | .tdis _ => true
  | .tzero _ _ _ => true
  | .tmop _ _ _ _ _ => true
  | .tmma _ _ _ _ _ _ _ => true
  | .tmms _ _ _ _ _ _ _ => true
  | .tmf64 _ _ _ _ _ _ _ => true
  | .tld _ _ _ _ => true
  | .tst _ _ _ _ => true
  | .trowmv _ _ _ _ _ => true
  | .tcolmv _ _ _ _ _ => true
  | .tvmv _ _ _ _ => true
  | .wbld _ _ _ => true
  | .wbfmt _ _ => true
  | .tchk _ _ => true
  | .tchkrd _ _ => true
  | .tileOpComplete _ => false
  | .matrixCommandAccept _ => false
  | .cpy _ _ _ _ _ => true
  | .cpy2 _ _ _ _ _ => true
  | .cpyt _ _ _ _ _ _ => true
  | .cpyr _ _ _ _ _ => true
  | .cpym _ _ _ _ _ => true
  | .cpyx _ _ _ _ _ => true
  | .cpyfill _ _ _ _ => true
  | .cpybc _ _ _ _ _ => true
  | .copyEngineAccept _ => false
  | .copyCompletion _ _ => false
  | .fence _ _ => true
  | .acq _ _ => true
  | .rel _ _ => true
  | .barinit _ _ _ _ => true
  | .bararr _ _ _ _ => true
  | .barwait _ _ _ => true
  | .wmwait _ _ => true
  | .barwaitRelease _ => false
  | .watermarkSatisfied _ => false
  | .waitWake _ => false
  | .waitTimeout _ => false
  | .linkHoldExpiry _ => false
  | .relrcv _ => true
  | .ckpbeg _ _ _ => true
  | .ckpseal _ _ => true
  | .ckpverify _ _ _ => true
  | .ckpabort _ => true
  | .rprd _ _ _ => true
  | .launch _ _ => true
  | .launchn _ _ _ => true
  | .cancel _ _ _ => true
  | .cntrd _ _ _ => true
  | .fork _ _ _ => true
  | .join _ => true
  | .send _ => true
  | .yield _ => true
  | .uexit _ => true
  | .notify _ _ => true
  | .trap _ _ => true
  | .eret _ => true
  | .mcall _ => true
  | .halt _ => true
  | .vptwr _ _ _ => true
  | .tlbinv _ _ _ => true
  | .ctxsave _ _ => true
  | .ctxrest _ _ => true
  | .brk _ _ => true
  | .tmark _ _ => true
  | .smpl _ _ => true
  | .vectorCommit _ => false
  | .variableLatencyResult _ => false
  | .rendezvousArrival _ _ => false
  | .rendezvousComplete _ => false
  | .trapEntry _ => false
  | .windowReplay _ => false
  | .laneMismatch _ _ => false
  | .lockstepMismatch _ => false
  | .notifyRegisterWrite _ => false
  | .serveQueue _ => false
  | .spillReturn _ => false
  | .mapRequest _ => false
  | .queueMap _ => false
  | .queueDestroy _ => false
  | .counterCreate _ _ => false
  | .counterClose _ _ => false
  | .hostVptEntryWrite _ _ _ => false
  | .hostHotnessClear _ _ => false
  | .umanteDispatch => false
  | .bind _ => false
  | .bindResume _ => false
  | .preempt _ => false
  | .kill _ _ => false
  | .unitLoadComplete _ => false
  | .preemptionLands _ => false
  | .saveComplete _ => false
  | .unitRetire _ => false
  | .launchCompletion _ => false
  | .pageRequestAnswer _ _ _ => false
  | .partitionSwap _ => false
  | .computeDieReset _ => false
  | .recoveryRestore _ _ => false
  | .remoteAckTimeout _ _ _ => false
  | .spareSwitch _ => false
  | .linkRetrain _ _ => false
  | .thermalClockReduction => false
  | .thermalShutdown => false
  | .powerOnBoot _ _ => false
  | .itrusPartitionControl _ => false
  | .itrusDebug _ => false
  | .itrusTrace _ => false
  | .itrusAnnals _ => false
  | .itrusRecovery _ => false
  | .itrusFirmwareUpdate _ => false
  | .itrusAttestation _ => false
  | .itrusPower _ => false
  | .remoteAccessArrival _ => false
  | .remoteAcknowledgement _ => false
  | .persistencePointReached _ => false
  | .powerLoss => false
  | .baseDieFailure _ => false
  | .queueUnmap _ => false
  | .itrusConnection _ => false
  | .annalsObservation _ _ _ => false

end Sys2Proof
end

