-- ==== Sys2Proof/Machine/Meta.lean ====
section
/-! DEFINITION. What the issue logic knows of each instruction before it runs: its stall count and convoy bit, its class and
latency (02 Table 2.10), the registers that its fields name or imply (02 R26, R30, R35), whether it needs vector state or
the tile group (15 R383; 09 R216), the formats in which it is legal (04 Table 4.3 and the entries) and its privilege (02
R41). -/

namespace Sys2Proof.Machine

/-- The convoy classes of 02 Table 2.10. -/
inductive Cls where
  | scalar
  | va
  | va0
  | sf
  | ld
  | st
  | xl
  | none
  deriving DecidableEq, Repr

/-- A register that an instruction's field names or implies. -/
inductive RegName where
  | x (n : Fin 32)
  | v (n : Fin 32)
  | m (n : Fin 32)
  | k (n : Fin 32)
  deriving DecidableEq, Repr

/-- What issue needs to know: S, C, class, fixed latency (none where it is variable), registers read and written, and
whether the instruction needs vector state and the tile group. -/
structure Info where
  st : Nat
  conv : Bool
  cls : Cls
  lat : Option Nat
  rd : List RegName
  wr : List RegName
  vec : Bool
  tile : Bool
  deriving DecidableEq, Repr

def Info.event : Info :=
  { st := 0, conv := false, cls := .scalar, lat := none, rd := [], wr := [], vec := false, tile := false }

/-- Register d and the n - 1 after it. -/
def block (d : Reg) (n : Nat) : List RegName := (List.range n).map (fun i => .v (Fin.ofNat 32 (d.val + i)))

/-- The scalar registers of a copy's parameter block (11 Table 2.17). -/
def params (a : Reg) (n : Nat) : List RegName := (List.range n).map (fun i => .x (Fin.ofNat 32 (a.val + i)))

/-- The B operand: a scalar register under SX, else a vector register (02 R46). -/
def xOrV (sx : Bool) (b : Reg) : RegName := if sx then .x b else .v b

/-- A mask register named by a three-bit field. -/
def mField (m : Fin 8) : RegName := .m (Fin.ofNat 32 m.val)

/-- The width of a format code (02 Table 2.8). -/
def codeWidth (n : Nat) : Nat :=
  match n with
  | 0 => 8 | 1 => 16 | 2 => 32 | 3 => 64 | 4 => 8 | 5 => 16 | 6 => 32 | 7 => 64 | 8 => 16 | 9 => 16 | 10 => 32 | 11 => 64
  | _ => 8

/-- The registers that a vcvt writes: f where the destination is f times as wide, else one (05 R130, R131). -/
def cvtBlock (f : BitVec 4) (b : Reg) : Nat := max 1 (codeWidth b.val / codeWidth f.toNat)

def isInt (f : BitVec 4) : Bool := decide (f.toNat < 8)
def isFlt (f : BitVec 4) : Bool := decide (8 ≤ f.toNat) && decide (f.toNat < 12)

/-- The block rules of vcvt (05 R130). -/
def cvtOk (f : BitVec 4) (d a b : Reg) : Bool :=
  let n := cvtBlock f b
  decide (n ≤ 1) || (d.val % n == 0 && !(decide (d.val ≤ a.val) && decide (a.val < d.val + n)))

/-- What issue knows of an instruction while FMT is f. -/
def infoOf (f : BitVec 4) : Instr → Info
  | .add st d a b
  | .sub st d a b
  | .and st d a b
  | .or st d a b
  | .xor st d a b
  | .sll st d a b
  | .srl st d a b
  | .sra st d a b
  | .slt st d a b
  | .sltn st d a b
  | .min st d a b
  | .max st d a b
  | .minn st d a b
  | .maxn st d a b =>
    { st := st.val, conv := false, cls := .scalar, lat := some 1,
      rd := [.x a, .x b], wr := [.x d], vec := false, tile := false }
  | .mul st d a b
  | .mulh st d a b
  | .mulhn st d a b =>
    { st := st.val, conv := false, cls := .scalar, lat := some 3,
      rd := [.x a, .x b], wr := [.x d], vec := false, tile := false }
  | .div st d a b
  | .divn st d a b
  | .rem st d a b
  | .remn st d a b
  | .stc st d a b =>
    { st := st.val, conv := false, cls := .scalar, lat := none,
      rd := [.x a, .x b], wr := [.x d], vec := false, tile := false }
  | .bext st d a b =>
    { st := st.val, conv := false, cls := .scalar, lat := some 2,
      rd := [.x a, .x b], wr := [.x d], vec := false, tile := false }
  | .bins st d a b =>
    { st := st.val, conv := false, cls := .scalar, lat := some 2,
      rd := [.x a, .x b, .x d], wr := [.x d], vec := false, tile := false }
  | .clz st d a
  | .ctz st d a
  | .popc st d a =>
    { st := st.val, conv := false, cls := .scalar, lat := some 2,
      rd := [.x a], wr := [.x d], vec := false, tile := false }
  | .slli st d a _ _
  | .srli st d a _ _
  | .srai st d a _ _
  | .addi st d a _
  | .andi st d a _
  | .ori st d a _
  | .xori st d a _
  | .jalr st d a =>
    { st := st.val, conv := false, cls := .scalar, lat := some 1,
      rd := [.x a], wr := [.x d], vec := false, tile := false }
  | .lih st d _ =>
    { st := st.val, conv := false, cls := .scalar, lat := some 1,
      rd := [.x d], wr := [.x d], vec := false, tile := false }
  | .adpc st d _ =>
    { st := st.val, conv := false, cls := .scalar, lat := some 1,
      rd := [], wr := [.x d], vec := false, tile := false }
  | .ld8 st d a _
  | .ld16 st d a _
  | .ld32 st d a _
  | .ld64 st d a _
  | .ld8N st d a _
  | .ld16N st d a _
  | .ld32N st d a _
  | .ldl st d a
  | .setvl st d a
  | .setvt st d a
  | .ckpverify st d a
  | .launchn st d a
  | .cntrd st d a =>
    { st := st.val, conv := false, cls := .scalar, lat := none,
      rd := [.x a], wr := [.x d], vec := false, tile := false }
  | .st8 st d a _
  | .st16 st d a _
  | .st32 st d a _
  | .st64 st d a _ =>
    { st := st.val, conv := false, cls := .scalar, lat := none,
      rd := [.x a, .x d], wr := [], vec := false, tile := false }
  | .jal st _ =>
    { st := st.val, conv := false, cls := .scalar, lat := some 1,
      rd := [], wr := [.x 1], vec := false, tile := false }
  | .beq st d a _
  | .bne st d a _
  | .blt st d a _
  | .bge st d a _
  | .bltn st d a _
  | .bgen st d a _ =>
    { st := st.val, conv := false, cls := .scalar, lat := none,
      rd := [.x d, .x a], wr := [], vec := false, tile := false }
  | .wait st d a =>
    { st := st.val, conv := false, cls := .scalar, lat := none,
      rd := [.x d, .x a], wr := [.x d], vec := false, tile := false }
  | .nop st
  | .ten st
  | .tdis st
  | .fence st _
  | .acq st _
  | .rel st _
  | .relrcv st
  | .ckpabort st
  | .join st
  | .send st
  | .yield st
  | .uexit st
  | .trap st _
  | .eret st
  | .halt st
  | .brk st _ =>
    { st := st.val, conv := false, cls := .scalar, lat := none,
      rd := [], wr := [], vec := false, tile := false }
  | .rdc st d _ =>
    { st := st.val, conv := false, cls := .scalar, lat := some 2,
      rd := [], wr := [.x d], vec := false, tile := false }
  | .wrc st d _ =>
    { st := st.val, conv := false, cls := .scalar, lat := none,
      rd := [.x d], wr := [], vec := false, tile := false }
  | .writeVl _
  | .writeVtype _
  | .writeFflags _
  | .writeWaypart _
  | .writeVstate _
  | .writeTstate _
  | .writeVhot _
  | .fibrePrefetch _
  | .tileOpComplete _
  | .matrixCommandAccept _
  | .copyEngineAccept _
  | .copyCompletion _ _
  | .barwaitRelease _
  | .watermarkSatisfied _
  | .waitWake _
  | .waitTimeout _
  | .linkHoldExpiry _
  | .vectorCommit _
  | .variableLatencyResult _
  | .rendezvousArrival _ _
  | .rendezvousComplete _
  | .trapEntry _
  | .windowReplay _
  | .laneMismatch _ _
  | .lockstepMismatch _
  | .notifyRegisterWrite _
  | .serveQueue _
  | .spillReturn _
  | .mapRequest _
  | .queueMap _
  | .queueDestroy _
  | .counterCreate _ _
  | .counterClose _ _
  | .hostVptEntryWrite _ _ _
  | .hostHotnessClear _ _
  | .umanteDispatch
  | .bind _
  | .bindResume _
  | .preempt _
  | .kill _ _
  | .unitLoadComplete _
  | .preemptionLands _
  | .saveComplete _
  | .unitRetire _
  | .launchCompletion _
  | .pageRequestAnswer _ _ _
  | .partitionSwap _
  | .computeDieReset _
  | .recoveryRestore _ _
  | .remoteAckTimeout _ _ _
  | .spareSwitch _
  | .linkRetrain _ _
  | .thermalClockReduction
  | .thermalShutdown
  | .powerOnBoot _ _
  | .itrusPartitionControl _
  | .itrusDebug _
  | .itrusTrace _
  | .itrusAnnals _
  | .itrusRecovery _
  | .itrusFirmwareUpdate _
  | .itrusAttestation _
  | .itrusPower _
  | .remoteAccessArrival _
  | .remoteAcknowledgement _
  | .persistencePointReached _
  | .powerLoss
  | .baseDieFailure _
  | .queueUnmap _
  | .itrusConnection _
  | .annalsObservation _ _ _ =>
    Info.event
  | .vadd st c d a b x
  | .vsub st c d a b x
  | .vmin st c d a b x
  | .vmax st c d a b x
  | .vaddsat st c d a b x
  | .vsubsat st c d a b x
  | .vand st c d a b x
  | .vor st c d a b x
  | .vxor st c d a b x
  | .vsll st c d a b x
  | .vsrl st c d a b x
  | .vsra st c d a b x
  | .vsel st c d a b x =>
    { st := st.val, conv := c, cls := .va, lat := some 2,
      rd := [.v a, xOrV x b], wr := [.v d], vec := true, tile := false }
  | .vabs st c d a
  | .vneg st c d a
  | .vmv st c d a =>
    { st := st.val, conv := c, cls := .va, lat := some 2,
      rd := [.v a], wr := [.v d], vec := true, tile := false }
  | .vmul st c d a b x
  | .vmulh st c d a b x =>
    { st := st.val, conv := c, cls := .va0, lat := some 4,
      rd := [.v a, xOrV x b], wr := [.v d], vec := true, tile := false }
  | .vmadd st c d a b x
  | .vmsub st c d a b x
  | .vnmadd st c d a b x =>
    { st := st.val, conv := c, cls := .va0, lat := some 4,
      rd := [.v a, xOrV x b, .v d], wr := [.v d], vec := true, tile := false }
  | .vdiv st c d a b x
  | .vdivF st c d a b x =>
    { st := st.val, conv := c, cls := .sf, lat := none,
      rd := [.v a, xOrV x b], wr := [.v d], vec := true, tile := false }
  | .vwadd st c d a b x =>
    { st := st.val, conv := c, cls := .va, lat := some 3,
      rd := [.v a, xOrV x b], wr := block d 2, vec := true, tile := false }
  | .vwmul st c d a b x =>
    { st := st.val, conv := c, cls := .va0, lat := some 4,
      rd := [.v a, xOrV x b], wr := block d 2, vec := true, tile := false }
  | .vcmp st c d a b x _ =>
    { st := st.val, conv := c, cls := .va, lat := some 2,
      rd := [.v a, xOrV x b], wr := [.m d], vec := true, tile := false }
  | .vbcast st c d a =>
    { st := st.val, conv := c, cls := .va, lat := some 2,
      rd := [.x a], wr := [.v d], vec := true, tile := false }
  | .vaddF st c d a b x
  | .vsubF st c d a b x
  | .vminF st c d a b x
  | .vmaxF st c d a b x =>
    { st := st.val, conv := c, cls := .va, lat := some 4,
      rd := [.v a, xOrV x b], wr := [.v d], vec := true, tile := false }
  | .vabsF st c d a
  | .vnegF st c d a =>
    { st := st.val, conv := c, cls := .va, lat := some 4,
      rd := [.v a], wr := [.v d], vec := true, tile := false }
  | .vmulF st c d a b x =>
    { st := st.val, conv := c, cls := .va0, lat := some 5,
      rd := [.v a, xOrV x b], wr := [.v d], vec := true, tile := false }
  | .vmaddF st c d a b x
  | .vmsubF st c d a b x
  | .vnmaddF st c d a b x =>
    { st := st.val, conv := c, cls := .va0, lat := some 5,
      rd := [.v a, xOrV x b, .v d], wr := [.v d], vec := true, tile := false }
  | .vwaddF st c d a b x =>
    { st := st.val, conv := c, cls := .va, lat := some 4,
      rd := [.v a, xOrV x b], wr := block d 2, vec := true, tile := false }
  | .vwmulF st c d a b x =>
    { st := st.val, conv := c, cls := .va0, lat := some 5,
      rd := [.v a, xOrV x b], wr := block d 2, vec := true, tile := false }
  | .vsqrt st c d a =>
    { st := st.val, conv := c, cls := .sf, lat := none,
      rd := [.v a], wr := [.v d], vec := true, tile := false }
  | .vrcpa st c d a
  | .vrsqa st c d a
  | .vclass st c d a =>
    { st := st.val, conv := c, cls := .sf, lat := some 6,
      rd := [.v a], wr := [.v d], vec := true, tile := false }
  | .vrcps st c d a b
  | .vrsqs st c d a b =>
    { st := st.val, conv := c, cls := .va0, lat := some 5,
      rd := [.v a, .v b], wr := [.v d], vec := true, tile := false }
  | .vcmpF st c d a b x _ =>
    { st := st.val, conv := c, cls := .va, lat := some 4,
      rd := [.v a, xOrV x b], wr := [.m d], vec := true, tile := false }
  | .vcvt st c d a b _ =>
    { st := st.val, conv := c, cls := .sf, lat := some 6,
      rd := [.v a], wr := block d (cvtBlock f b), vec := true, tile := false }
  | .vldsc st c d a b =>
    { st := st.val, conv := c, cls := .ld, lat := none,
      rd := [.x a, .x b], wr := [.k d], vec := true, tile := false }
  | .vmvscToScale st c d a =>
    { st := st.val, conv := c, cls := .va, lat := some 2,
      rd := [.v a], wr := [.k d], vec := true, tile := false }
  | .vmvscFromScale st c d a =>
    { st := st.val, conv := c, cls := .va, lat := some 2,
      rd := [.k a], wr := [.v d], vec := true, tile := false }
  | .vapsc st c d a b =>
    { st := st.val, conv := c, cls := .va0, lat := some 5,
      rd := [.v a, .k b], wr := [.v d], vec := true, tile := false }
  | .mand st c d a b
  | .mor st c d a b
  | .mxor st c d a b =>
    { st := st.val, conv := c, cls := .va, lat := some 2,
      rd := [.m a, .m b], wr := [.m d], vec := true, tile := false }
  | .mnot st c d a =>
    { st := st.val, conv := c, cls := .va, lat := some 2,
      rd := [.m a], wr := [.m d], vec := true, tile := false }
  | .msbf st c d a =>
    { st := st.val, conv := c, cls := .xl, lat := none,
      rd := [.m a], wr := [.m d], vec := true, tile := false }
  | .mset st c d a =>
    { st := st.val, conv := c, cls := .va, lat := some 2,
      rd := [.x a], wr := [.m d], vec := true, tile := false }
  | .mpopc st c d a
  | .mfirst st c d a =>
    { st := st.val, conv := c, cls := .xl, lat := none,
      rd := [.m a], wr := [.x d], vec := true, tile := false }
  | .viota st c d a =>
    { st := st.val, conv := c, cls := .xl, lat := none,
      rd := [.m a], wr := [.v d], vec := true, tile := false }
  | .vld st c d a _
  | .vlds st c d a _ =>
    { st := st.val, conv := c, cls := .ld, lat := none,
      rd := [.x a], wr := [.v d], vec := true, tile := false }
  | .vldx st c d a b _ k =>
    { st := st.val, conv := c, cls := .ld, lat := none,
      rd := [.x a, .v b] ++ (if k then [.x b] else []), wr := [.v d], vec := true, tile := false }
  | .vldt st c d a b _ =>
    { st := st.val, conv := c, cls := .ld, lat := none,
      rd := [.v a, .x b], wr := [.v d], vec := true, tile := false }
  | .vpf st c a _ =>
    { st := st.val, conv := c, cls := .ld, lat := none,
      rd := [.x a], wr := [], vec := true, tile := false }
  | .vst st c d a _ _
  | .vsts st c d a _ _ =>
    { st := st.val, conv := c, cls := .st, lat := none,
      rd := [.v d, .x a], wr := [], vec := true, tile := false }
  | .vstx st c d a b _ _ k
  | .vstxu st c d a b _ _ k =>
    { st := st.val, conv := c, cls := .st, lat := none,
      rd := [.v d, .x a, .v b] ++ (if k then [.x b] else []), wr := [], vec := true, tile := false }
  | .vstt st c d a b _ _ =>
    { st := st.val, conv := c, cls := .st, lat := none,
      rd := [.v d, .v a, .x b], wr := [], vec := true, tile := false }
  | .vlseg st c d a _ _ n =>
    { st := st.val, conv := c, cls := .ld, lat := none,
      rd := [.x a], wr := block d (n.val + 1), vec := true, tile := false }
  | .vsseg st c d a _ _ _ n =>
    { st := st.val, conv := c, cls := .st, lat := none,
      rd := [.x a] ++ block d (n.val + 1), wr := [], vec := true, tile := false }
  | .vbind st c _ a
  | .vpbr st c a =>
    { st := st.val, conv := c, cls := .none, lat := none,
      rd := [.v a], wr := [], vec := true, tile := false }
  | .vunbind st c _
  | .vpend st c =>
    { st := st.val, conv := c, cls := .none, lat := none,
      rd := [], wr := [], vec := true, tile := false }
  | .vperm st c d a b
  | .vcomb st c d a b
  | .visect st c d a b =>
    { st := st.val, conv := c, cls := .xl, lat := none,
      rd := [.v a, .v b], wr := [.v d], vec := true, tile := false }
  | .vslu st c d a b
  | .vsld st c d a b
  | .vscan st c d a b _ _ =>
    { st := st.val, conv := c, cls := .xl, lat := none,
      rd := [.v a, .x b], wr := [.v d], vec := true, tile := false }
  | .vcompress st c d a
  | .vexpand st c d a =>
    { st := st.val, conv := c, cls := .xl, lat := none,
      rd := [.v a], wr := [.v d], vec := true, tile := false }
  | .vred st c d a b _ _ =>
    { st := st.val, conv := c, cls := .xl, lat := none,
      rd := [.v a, .x b], wr := [.x d], vec := true, tile := false }
  | .vfetch st c a =>
    { st := st.val, conv := c, cls := .none, lat := none,
      rd := [.x a], wr := [], vec := true, tile := false }
  | .vpsend st c a =>
    { st := st.val, conv := c, cls := .xl, lat := none,
      rd := [.v a], wr := [], vec := true, tile := false }
  | .vprecv st c d =>
    { st := st.val, conv := c, cls := .xl, lat := none,
      rd := [], wr := [.v d], vec := true, tile := false }
  | .vconf st c d a =>
    { st := st.val, conv := c, cls := .xl, lat := none,
      rd := [.v a], wr := [.m d], vec := true, tile := false }
  | .cins st c d a =>
    { st := st.val, conv := c, cls := .none, lat := none,
      rd := [.v a], wr := [.m d], vec := true, tile := false }
  | .clook st c d a b =>
    { st := st.val, conv := c, cls := .ld, lat := none,
      rd := [.v a], wr := [.v d, .m b], vec := true, tile := false }
  | .cacc st c a b =>
    { st := st.val, conv := c, cls := .none, lat := none,
      rd := [.v a, .v b], wr := [], vec := true, tile := false }
  | .cdrain st c d =>
    { st := st.val, conv := c, cls := .none, lat := none,
      rd := [], wr := block d 2, vec := true, tile := false }
  | .cclr st c
  | .fibend st c =>
    { st := st.val, conv := c, cls := .none, lat := none,
      rd := [], wr := [], vec := false, tile := false }
  | .vgathl st c d a b _ =>
    { st := st.val, conv := c, cls := .ld, lat := none,
      rd := [.x a, .v b], wr := [.v d], vec := true, tile := false }
  | .vscatc st c d a b _ m =>
    { st := st.val, conv := c, cls := .st, lat := none,
      rd := [.v d, .x a, .v b], wr := [mField m], vec := true, tile := false }
  | .fibdef st c a =>
    { st := st.val, conv := c, cls := .none, lat := none,
      rd := [.x a], wr := [], vec := false, tile := false }
  | .tzero st p _ =>
    { st := st.val, conv := false, cls := .scalar, lat := none,
      rd := [], wr := [], vec := p != 0, tile := true }
  | .tmop st _ _ a b =>
    { st := st.val, conv := false, cls := .scalar, lat := none,
      rd := [.v a, .v b], wr := [], vec := true, tile := true }
  | .tmma st p _ a b l _
  | .tmms st p _ a b l _
  | .tmf64 st p _ a b l _ =>
    { st := st.val, conv := false, cls := .scalar, lat := none,
      rd := [(if l then .x a else .v a), .x b], wr := [], vec := !l || p != 0, tile := true }
  | .tld st _ a _
  | .tst st _ a _
  | .wbfmt st a
  | .tchk st a =>
    { st := st.val, conv := false, cls := .scalar, lat := none,
      rd := [.x a], wr := [], vec := false, tile := true }
  | .trowmv st _ a b k
  | .tcolmv st _ a b k =>
    { st := st.val, conv := false, cls := .scalar, lat := none,
      rd := [.x b] ++ (if k then [.v a] else []), wr := (if k then [] else [.v a]), vec := true, tile := true }
  | .tvmv st _ a k =>
    { st := st.val, conv := false, cls := .scalar, lat := none,
      rd := (if k then block a 8 else []), wr := (if k then [] else block a 8), vec := true, tile := true }
  | .wbld st a b =>
    { st := st.val, conv := false, cls := .scalar, lat := none,
      rd := [.x a, .x b], wr := [], vec := false, tile := true }
  | .tchkrd st a =>
    { st := st.val, conv := false, cls := .scalar, lat := none,
      rd := [], wr := [.x a], vec := false, tile := true }
  | .cpy st d a _ _
  | .cpyr st d a _ _
  | .cpyfill st d a _ =>
    { st := st.val, conv := false, cls := .scalar, lat := none,
      rd := params a 3, wr := [.x d], vec := false, tile := false }
  | .cpy2 st d a _ _ =>
    { st := st.val, conv := false, cls := .scalar, lat := none,
      rd := params a 6, wr := [.x d], vec := false, tile := false }
  | .cpyt st d a b _ _ =>
    { st := st.val, conv := false, cls := .scalar, lat := none,
      rd := [.v b] ++ params a 2, wr := [.x d], vec := true, tile := false }
  | .cpym st d a _ _
  | .cpyx st d a _ _
  | .cpybc st d a _ _ =>
    { st := st.val, conv := false, cls := .scalar, lat := none,
      rd := params a 4, wr := [.x d], vec := false, tile := false }
  | .barinit st a b _
  | .ckpbeg st a b
  | .vptwr st a b
  | .tlbinv st a b =>
    { st := st.val, conv := false, cls := .scalar, lat := none,
      rd := [.x a, .x b], wr := [], vec := false, tile := false }
  -- `fork` reads x17 to x23 and x25 to x31 as well (14 R354)
  | .fork st a b =>
    { st := st.val, conv := false, cls := .scalar, lat := none,
      rd := [.x a, .x b] ++ params 17 7 ++ params 25 7, wr := [], vec := false, tile := false }
  | .bararr st a _ _ =>
    { st := st.val, conv := false, cls := .scalar, lat := none,
      rd := [.x a], wr := [], vec := true, tile := false }
  | .barwait st a _
  | .wmwait st a
  | .ckpseal st a
  | .launch st a
  | .cancel st a _
  | .notify st a
  | .ctxsave st a
  | .ctxrest st a
  | .tmark st a
  | .smpl st a =>
    { st := st.val, conv := false, cls := .scalar, lat := none,
      rd := [.x a], wr := [], vec := false, tile := false }
  | .rprd st d _ =>
    { st := st.val, conv := false, cls := .scalar, lat := none,
      rd := [], wr := [.x d], vec := false, tile := false }
  | .mcall st =>
    { st := st.val, conv := false, cls := .scalar, lat := none,
      rd := [.x 24, .x 25, .x 26, .x 27], wr := [.x 24], vec := false, tile := false }

/-- Whether an instruction is legal while FMT is f (04 R103; 05 R130, R135, R141; 07 R182; 08 R190, R191, R198 to R200; 09
R222; 10 R255). -/
def fmtOk (f : BitVec 4) : Instr → Bool
  | .add _ _ _ _
  | .sub _ _ _ _
  | .and _ _ _ _
  | .or _ _ _ _
  | .xor _ _ _ _
  | .sll _ _ _ _
  | .srl _ _ _ _
  | .sra _ _ _ _
  | .slt _ _ _ _
  | .sltn _ _ _ _
  | .min _ _ _ _
  | .max _ _ _ _
  | .minn _ _ _ _
  | .maxn _ _ _ _
  | .mul _ _ _ _
  | .mulh _ _ _ _
  | .mulhn _ _ _ _
  | .div _ _ _ _
  | .divn _ _ _ _
  | .rem _ _ _ _
  | .remn _ _ _ _
  | .bext _ _ _ _
  | .bins _ _ _ _
  | .clz _ _ _
  | .ctz _ _ _
  | .popc _ _ _
  | .slli _ _ _ _ _
  | .srli _ _ _ _ _
  | .srai _ _ _ _ _
  | .addi _ _ _ _
  | .andi _ _ _ _
  | .ori _ _ _ _
  | .xori _ _ _ _
  | .lih _ _ _
  | .adpc _ _ _
  | .ld8 _ _ _ _
  | .ld16 _ _ _ _
  | .ld32 _ _ _ _
  | .ld64 _ _ _ _
  | .ld8N _ _ _ _
  | .ld16N _ _ _ _
  | .ld32N _ _ _ _
  | .st8 _ _ _ _
  | .st16 _ _ _ _
  | .st32 _ _ _ _
  | .st64 _ _ _ _
  | .ldl _ _ _
  | .stc _ _ _ _
  | .jal _ _
  | .beq _ _ _ _
  | .bne _ _ _ _
  | .blt _ _ _ _
  | .bge _ _ _ _
  | .bltn _ _ _ _
  | .bgen _ _ _ _
  | .jalr _ _ _
  | .wait _ _ _
  | .setvl _ _ _
  | .setvt _ _ _
  | .nop _
  | .rdc _ _ _
  | .wrc _ _ _
  | .writeVl _
  | .writeVtype _
  | .writeFflags _
  | .writeWaypart _
  | .writeVstate _
  | .writeTstate _
  | .writeVhot _
  | .vand _ _ _ _ _ _
  | .vor _ _ _ _ _ _
  | .vxor _ _ _ _ _ _
  | .vsel _ _ _ _ _ _
  | .vmv _ _ _ _
  | .vbcast _ _ _ _
  | .vldsc _ _ _ _ _
  | .vmvscToScale _ _ _ _
  | .vmvscFromScale _ _ _ _
  | .mand _ _ _ _ _
  | .mor _ _ _ _ _
  | .mxor _ _ _ _ _
  | .mnot _ _ _ _
  | .msbf _ _ _ _
  | .mset _ _ _ _
  | .mpopc _ _ _ _
  | .mfirst _ _ _ _
  | .vld _ _ _ _ _
  | .vlds _ _ _ _ _
  | .vldx _ _ _ _ _ _ _
  | .vldt _ _ _ _ _ _
  | .vpf _ _ _ _
  | .vst _ _ _ _ _ _
  | .vsts _ _ _ _ _ _
  | .vstx _ _ _ _ _ _ _ _
  | .vstxu _ _ _ _ _ _ _ _
  | .vstt _ _ _ _ _ _ _
  | .vlseg _ _ _ _ _ _ _
  | .vsseg _ _ _ _ _ _ _ _
  | .vbind _ _ _ _
  | .vunbind _ _ _
  | .vperm _ _ _ _ _
  | .vslu _ _ _ _ _
  | .vsld _ _ _ _ _
  | .vcompress _ _ _ _
  | .vexpand _ _ _ _
  | .vfetch _ _ _
  | .vpbr _ _ _
  | .vpend _ _
  | .vpsend _ _ _
  | .vprecv _ _ _
  | .vconf _ _ _ _
  | .cins _ _ _ _
  | .cclr _ _
  | .vgathl _ _ _ _ _ _
  | .vscatc _ _ _ _ _ _ _
  | .fibdef _ _ _
  | .fibend _ _
  | .fibrePrefetch _
  | .ten _
  | .tdis _
  | .tzero _ _ _
  | .tmma _ _ _ _ _ _ _
  | .tmms _ _ _ _ _ _ _
  | .tld _ _ _ _
  | .tst _ _ _ _
  | .trowmv _ _ _ _ _
  | .tcolmv _ _ _ _ _
  | .tvmv _ _ _ _
  | .wbld _ _ _
  | .wbfmt _ _
  | .tchk _ _
  | .tchkrd _ _
  | .tileOpComplete _
  | .matrixCommandAccept _
  | .cpy _ _ _ _ _
  | .cpy2 _ _ _ _ _
  | .cpyt _ _ _ _ _ _
  | .cpyr _ _ _ _ _
  | .cpym _ _ _ _ _
  | .cpyx _ _ _ _ _
  | .cpyfill _ _ _ _
  | .cpybc _ _ _ _ _
  | .copyEngineAccept _
  | .copyCompletion _ _
  | .fence _ _
  | .acq _ _
  | .rel _ _
  | .barinit _ _ _ _
  | .bararr _ _ _ _
  | .barwait _ _ _
  | .wmwait _ _
  | .barwaitRelease _
  | .watermarkSatisfied _
  | .waitWake _
  | .waitTimeout _
  | .linkHoldExpiry _
  | .relrcv _
  | .ckpbeg _ _ _
  | .ckpseal _ _
  | .ckpverify _ _ _
  | .ckpabort _
  | .rprd _ _ _
  | .launch _ _
  | .launchn _ _ _
  | .cancel _ _ _
  | .cntrd _ _ _
  | .fork _ _ _
  | .join _
  | .send _
  | .yield _
  | .uexit _
  | .notify _ _
  | .trap _ _
  | .eret _
  | .mcall _
  | .halt _
  | .vptwr _ _ _
  | .tlbinv _ _ _
  | .ctxsave _ _
  | .ctxrest _ _
  | .brk _ _
  | .tmark _ _
  | .smpl _ _
  | .vectorCommit _
  | .variableLatencyResult _
  | .rendezvousArrival _ _
  | .rendezvousComplete _
  | .trapEntry _
  | .windowReplay _
  | .laneMismatch _ _
  | .lockstepMismatch _
  | .notifyRegisterWrite _
  | .serveQueue _
  | .spillReturn _
  | .mapRequest _
  | .queueMap _
  | .queueDestroy _
  | .counterCreate _ _
  | .counterClose _ _
  | .hostVptEntryWrite _ _ _
  | .hostHotnessClear _ _
  | .umanteDispatch
  | .bind _
  | .bindResume _
  | .preempt _
  | .kill _ _
  | .unitLoadComplete _
  | .preemptionLands _
  | .saveComplete _
  | .unitRetire _
  | .launchCompletion _
  | .pageRequestAnswer _ _ _
  | .partitionSwap _
  | .computeDieReset _
  | .recoveryRestore _ _
  | .remoteAckTimeout _ _ _
  | .spareSwitch _
  | .linkRetrain _ _
  | .thermalClockReduction
  | .thermalShutdown
  | .powerOnBoot _ _
  | .itrusPartitionControl _
  | .itrusDebug _
  | .itrusTrace _
  | .itrusAnnals _
  | .itrusRecovery _
  | .itrusFirmwareUpdate _
  | .itrusAttestation _
  | .itrusPower _
  | .remoteAccessArrival _
  | .remoteAcknowledgement _
  | .persistencePointReached _
  | .powerLoss
  | .baseDieFailure _
  | .queueUnmap _
  | .itrusConnection _
  | .annalsObservation _ _ _ => true
  | .vadd _ _ _ _ _ _
  | .vsub _ _ _ _ _ _
  | .vmin _ _ _ _ _ _
  | .vmax _ _ _ _ _ _
  | .vaddsat _ _ _ _ _ _
  | .vsubsat _ _ _ _ _ _
  | .vabs _ _ _ _
  | .vneg _ _ _ _
  | .vsll _ _ _ _ _ _
  | .vsrl _ _ _ _ _ _
  | .vsra _ _ _ _ _ _
  | .vmul _ _ _ _ _ _
  | .vmulh _ _ _ _ _ _
  | .vmadd _ _ _ _ _ _
  | .vmsub _ _ _ _ _ _
  | .vnmadd _ _ _ _ _ _
  | .vdiv _ _ _ _ _ _
  | .vcmp _ _ _ _ _ _ _
  | .viota _ _ _ _ => isInt f
  | .vwadd _ _ _ _ _ _
  | .vwmul _ _ _ _ _ _ => isInt f && f.toNat % 4 != 3
  | .vaddF _ _ _ _ _ _
  | .vsubF _ _ _ _ _ _
  | .vminF _ _ _ _ _ _
  | .vmaxF _ _ _ _ _ _
  | .vabsF _ _ _ _
  | .vnegF _ _ _ _
  | .vmulF _ _ _ _ _ _
  | .vmaddF _ _ _ _ _ _
  | .vmsubF _ _ _ _ _ _
  | .vnmaddF _ _ _ _ _ _
  | .vdivF _ _ _ _ _ _
  | .vsqrt _ _ _ _
  | .vrcpa _ _ _ _
  | .vrsqa _ _ _ _
  | .vrcps _ _ _ _ _
  | .vrsqs _ _ _ _ _
  | .vclass _ _ _ _
  | .vcmpF _ _ _ _ _ _ _
  | .vapsc _ _ _ _ _ => isFlt f
  | .vwaddF _ _ _ _ _ _
  | .vwmulF _ _ _ _ _ _ => isFlt f && f != 11
  | .vcvt _ _ d a b _ => cvtOk f d a b
  | .vred _ _ _ _ _ fl p => if fl then isFlt f else decide (3 <= p.val) || isInt f
  | .vscan _ _ _ _ _ fl _ => if fl then isFlt f else isInt f
  | .vcomb _ _ _ _ _
  | .clook _ _ _ _ _
  | .cacc _ _ _ _ => f != 12
  | .visect _ _ _ _ _ => isInt f && f.toNat % 4 != 0
  | .cdrain _ _ _ => f == 3 || f == 7 || f == 11
  | .tmop _ _ _ _ _ => f == 9 || f == 12 || f == 0
  | .tmf64 _ _ _ _ _ _ _ => f == 11

/-- The instructions that raise PRIVILEGED at User level (02 R41). -/
def supervisorOnly : Instr → Bool
  | .eret _
  | .mcall _
  | .halt _
  | .vptwr _ _ _
  | .tlbinv _ _ _
  | .ctxsave _ _
  | .ctxrest _ _ => true
  | .add _ _ _ _
  | .sub _ _ _ _
  | .and _ _ _ _
  | .or _ _ _ _
  | .xor _ _ _ _
  | .sll _ _ _ _
  | .srl _ _ _ _
  | .sra _ _ _ _
  | .slt _ _ _ _
  | .sltn _ _ _ _
  | .min _ _ _ _
  | .max _ _ _ _
  | .minn _ _ _ _
  | .maxn _ _ _ _
  | .mul _ _ _ _
  | .mulh _ _ _ _
  | .mulhn _ _ _ _
  | .div _ _ _ _
  | .divn _ _ _ _
  | .rem _ _ _ _
  | .remn _ _ _ _
  | .bext _ _ _ _
  | .bins _ _ _ _
  | .clz _ _ _
  | .ctz _ _ _
  | .popc _ _ _
  | .slli _ _ _ _ _
  | .srli _ _ _ _ _
  | .srai _ _ _ _ _
  | .addi _ _ _ _
  | .andi _ _ _ _
  | .ori _ _ _ _
  | .xori _ _ _ _
  | .lih _ _ _
  | .adpc _ _ _
  | .ld8 _ _ _ _
  | .ld16 _ _ _ _
  | .ld32 _ _ _ _
  | .ld64 _ _ _ _
  | .ld8N _ _ _ _
  | .ld16N _ _ _ _
  | .ld32N _ _ _ _
  | .st8 _ _ _ _
  | .st16 _ _ _ _
  | .st32 _ _ _ _
  | .st64 _ _ _ _
  | .ldl _ _ _
  | .stc _ _ _ _
  | .jal _ _
  | .beq _ _ _ _
  | .bne _ _ _ _
  | .blt _ _ _ _
  | .bge _ _ _ _
  | .bltn _ _ _ _
  | .bgen _ _ _ _
  | .jalr _ _ _
  | .wait _ _ _
  | .setvl _ _ _
  | .setvt _ _ _
  | .nop _
  | .writeVl _
  | .writeVtype _
  | .writeFflags _
  | .writeWaypart _
  | .writeVstate _
  | .writeTstate _
  | .writeVhot _
  | .vadd _ _ _ _ _ _
  | .vsub _ _ _ _ _ _
  | .vmin _ _ _ _ _ _
  | .vmax _ _ _ _ _ _
  | .vaddsat _ _ _ _ _ _
  | .vsubsat _ _ _ _ _ _
  | .vabs _ _ _ _
  | .vneg _ _ _ _
  | .vand _ _ _ _ _ _
  | .vor _ _ _ _ _ _
  | .vxor _ _ _ _ _ _
  | .vsll _ _ _ _ _ _
  | .vsrl _ _ _ _ _ _
  | .vsra _ _ _ _ _ _
  | .vmul _ _ _ _ _ _
  | .vmulh _ _ _ _ _ _
  | .vmadd _ _ _ _ _ _
  | .vmsub _ _ _ _ _ _
  | .vnmadd _ _ _ _ _ _
  | .vdiv _ _ _ _ _ _
  | .vwadd _ _ _ _ _ _
  | .vwmul _ _ _ _ _ _
  | .vcmp _ _ _ _ _ _ _
  | .vsel _ _ _ _ _ _
  | .vmv _ _ _ _
  | .vbcast _ _ _ _
  | .vaddF _ _ _ _ _ _
  | .vsubF _ _ _ _ _ _
  | .vminF _ _ _ _ _ _
  | .vmaxF _ _ _ _ _ _
  | .vabsF _ _ _ _
  | .vnegF _ _ _ _
  | .vmulF _ _ _ _ _ _
  | .vmaddF _ _ _ _ _ _
  | .vmsubF _ _ _ _ _ _
  | .vnmaddF _ _ _ _ _ _
  | .vdivF _ _ _ _ _ _
  | .vwaddF _ _ _ _ _ _
  | .vwmulF _ _ _ _ _ _
  | .vsqrt _ _ _ _
  | .vrcpa _ _ _ _
  | .vrsqa _ _ _ _
  | .vrcps _ _ _ _ _
  | .vrsqs _ _ _ _ _
  | .vclass _ _ _ _
  | .vcmpF _ _ _ _ _ _ _
  | .vcvt _ _ _ _ _ _
  | .vldsc _ _ _ _ _
  | .vmvscToScale _ _ _ _
  | .vmvscFromScale _ _ _ _
  | .vapsc _ _ _ _ _
  | .mand _ _ _ _ _
  | .mor _ _ _ _ _
  | .mxor _ _ _ _ _
  | .mnot _ _ _ _
  | .msbf _ _ _ _
  | .mset _ _ _ _
  | .mpopc _ _ _ _
  | .mfirst _ _ _ _
  | .viota _ _ _ _
  | .vld _ _ _ _ _
  | .vlds _ _ _ _ _
  | .vldx _ _ _ _ _ _ _
  | .vldt _ _ _ _ _ _
  | .vpf _ _ _ _
  | .vst _ _ _ _ _ _
  | .vsts _ _ _ _ _ _
  | .vstx _ _ _ _ _ _ _ _
  | .vstxu _ _ _ _ _ _ _ _
  | .vstt _ _ _ _ _ _ _
  | .vlseg _ _ _ _ _ _ _
  | .vsseg _ _ _ _ _ _ _ _
  | .vbind _ _ _ _
  | .vunbind _ _ _
  | .vperm _ _ _ _ _
  | .vslu _ _ _ _ _
  | .vsld _ _ _ _ _
  | .vcompress _ _ _ _
  | .vexpand _ _ _ _
  | .vred _ _ _ _ _ _ _
  | .vscan _ _ _ _ _ _ _
  | .vfetch _ _ _
  | .vpbr _ _ _
  | .vpend _ _
  | .vpsend _ _ _
  | .vprecv _ _ _
  | .vconf _ _ _ _
  | .vcomb _ _ _ _ _
  | .visect _ _ _ _ _
  | .cins _ _ _ _
  | .clook _ _ _ _ _
  | .cacc _ _ _ _
  | .cdrain _ _ _
  | .cclr _ _
  | .vgathl _ _ _ _ _ _
  | .vscatc _ _ _ _ _ _ _
  | .fibdef _ _ _
  | .fibend _ _
  | .fibrePrefetch _
  | .ten _
  | .tdis _
  | .tzero _ _ _
  | .tmop _ _ _ _ _
  | .tmma _ _ _ _ _ _ _
  | .tmms _ _ _ _ _ _ _
  | .tmf64 _ _ _ _ _ _ _
  | .tld _ _ _ _
  | .tst _ _ _ _
  | .trowmv _ _ _ _ _
  | .tcolmv _ _ _ _ _
  | .tvmv _ _ _ _
  | .wbld _ _ _
  | .wbfmt _ _
  | .tchk _ _
  | .tchkrd _ _
  | .tileOpComplete _
  | .matrixCommandAccept _
  | .cpy _ _ _ _ _
  | .cpy2 _ _ _ _ _
  | .cpyt _ _ _ _ _ _
  | .cpyr _ _ _ _ _
  | .cpym _ _ _ _ _
  | .cpyx _ _ _ _ _
  | .cpyfill _ _ _ _
  | .cpybc _ _ _ _ _
  | .copyEngineAccept _
  | .copyCompletion _ _
  | .fence _ _
  | .acq _ _
  | .rel _ _
  | .barinit _ _ _ _
  | .bararr _ _ _ _
  | .barwait _ _ _
  | .wmwait _ _
  | .barwaitRelease _
  | .watermarkSatisfied _
  | .waitWake _
  | .waitTimeout _
  | .linkHoldExpiry _
  | .relrcv _
  | .ckpbeg _ _ _
  | .ckpseal _ _
  | .ckpverify _ _ _
  | .ckpabort _
  | .rprd _ _ _
  | .launch _ _
  | .launchn _ _ _
  | .cancel _ _ _
  | .cntrd _ _ _
  | .fork _ _ _
  | .join _
  | .send _
  | .yield _
  | .uexit _
  | .notify _ _
  | .trap _ _
  | .brk _ _
  | .tmark _ _
  | .smpl _ _
  | .vectorCommit _
  | .variableLatencyResult _
  | .rendezvousArrival _ _
  | .rendezvousComplete _
  | .trapEntry _
  | .windowReplay _
  | .laneMismatch _ _
  | .lockstepMismatch _
  | .notifyRegisterWrite _
  | .serveQueue _
  | .spillReturn _
  | .mapRequest _
  | .queueMap _
  | .queueDestroy _
  | .counterCreate _ _
  | .counterClose _ _
  | .hostVptEntryWrite _ _ _
  | .hostHotnessClear _ _
  | .umanteDispatch
  | .bind _
  | .bindResume _
  | .preempt _
  | .kill _ _
  | .unitLoadComplete _
  | .preemptionLands _
  | .saveComplete _
  | .unitRetire _
  | .launchCompletion _
  | .pageRequestAnswer _ _ _
  | .partitionSwap _
  | .computeDieReset _
  | .recoveryRestore _ _
  | .remoteAckTimeout _ _ _
  | .spareSwitch _
  | .linkRetrain _ _
  | .thermalClockReduction
  | .thermalShutdown
  | .powerOnBoot _ _
  | .itrusPartitionControl _
  | .itrusDebug _
  | .itrusTrace _
  | .itrusAnnals _
  | .itrusRecovery _
  | .itrusFirmwareUpdate _
  | .itrusAttestation _
  | .itrusPower _
  | .remoteAccessArrival _
  | .remoteAcknowledgement _
  | .persistencePointReached _
  | .powerLoss
  | .baseDieFailure _
  | .queueUnmap _
  | .itrusConnection _
  | .annalsObservation _ _ _ => false
  | .rdc _ _ r => decide (0x100 ≤ r.val)
  | .wrc _ _ r => decide (0x100 ≤ r.val)

/-- The instructions that are illegal in a control thread: the episode-only ones and `send` (02 R41; 07 R186). -/
def notInMain : Instr → Bool
  | .vpbr _ _ _
  | .vpend _ _
  | .vpsend _ _ _
  | .vprecv _ _ _
  | .send _ => true
  | .add _ _ _ _
  | .sub _ _ _ _
  | .and _ _ _ _
  | .or _ _ _ _
  | .xor _ _ _ _
  | .sll _ _ _ _
  | .srl _ _ _ _
  | .sra _ _ _ _
  | .slt _ _ _ _
  | .sltn _ _ _ _
  | .min _ _ _ _
  | .max _ _ _ _
  | .minn _ _ _ _
  | .maxn _ _ _ _
  | .mul _ _ _ _
  | .mulh _ _ _ _
  | .mulhn _ _ _ _
  | .div _ _ _ _
  | .divn _ _ _ _
  | .rem _ _ _ _
  | .remn _ _ _ _
  | .bext _ _ _ _
  | .bins _ _ _ _
  | .clz _ _ _
  | .ctz _ _ _
  | .popc _ _ _
  | .slli _ _ _ _ _
  | .srli _ _ _ _ _
  | .srai _ _ _ _ _
  | .addi _ _ _ _
  | .andi _ _ _ _
  | .ori _ _ _ _
  | .xori _ _ _ _
  | .lih _ _ _
  | .adpc _ _ _
  | .ld8 _ _ _ _
  | .ld16 _ _ _ _
  | .ld32 _ _ _ _
  | .ld64 _ _ _ _
  | .ld8N _ _ _ _
  | .ld16N _ _ _ _
  | .ld32N _ _ _ _
  | .st8 _ _ _ _
  | .st16 _ _ _ _
  | .st32 _ _ _ _
  | .st64 _ _ _ _
  | .ldl _ _ _
  | .stc _ _ _ _
  | .jal _ _
  | .beq _ _ _ _
  | .bne _ _ _ _
  | .blt _ _ _ _
  | .bge _ _ _ _
  | .bltn _ _ _ _
  | .bgen _ _ _ _
  | .jalr _ _ _
  | .wait _ _ _
  | .setvl _ _ _
  | .setvt _ _ _
  | .nop _
  | .rdc _ _ _
  | .wrc _ _ _
  | .writeVl _
  | .writeVtype _
  | .writeFflags _
  | .writeWaypart _
  | .writeVstate _
  | .writeTstate _
  | .writeVhot _
  | .vadd _ _ _ _ _ _
  | .vsub _ _ _ _ _ _
  | .vmin _ _ _ _ _ _
  | .vmax _ _ _ _ _ _
  | .vaddsat _ _ _ _ _ _
  | .vsubsat _ _ _ _ _ _
  | .vabs _ _ _ _
  | .vneg _ _ _ _
  | .vand _ _ _ _ _ _
  | .vor _ _ _ _ _ _
  | .vxor _ _ _ _ _ _
  | .vsll _ _ _ _ _ _
  | .vsrl _ _ _ _ _ _
  | .vsra _ _ _ _ _ _
  | .vmul _ _ _ _ _ _
  | .vmulh _ _ _ _ _ _
  | .vmadd _ _ _ _ _ _
  | .vmsub _ _ _ _ _ _
  | .vnmadd _ _ _ _ _ _
  | .vdiv _ _ _ _ _ _
  | .vwadd _ _ _ _ _ _
  | .vwmul _ _ _ _ _ _
  | .vcmp _ _ _ _ _ _ _
  | .vsel _ _ _ _ _ _
  | .vmv _ _ _ _
  | .vbcast _ _ _ _
  | .vaddF _ _ _ _ _ _
  | .vsubF _ _ _ _ _ _
  | .vminF _ _ _ _ _ _
  | .vmaxF _ _ _ _ _ _
  | .vabsF _ _ _ _
  | .vnegF _ _ _ _
  | .vmulF _ _ _ _ _ _
  | .vmaddF _ _ _ _ _ _
  | .vmsubF _ _ _ _ _ _
  | .vnmaddF _ _ _ _ _ _
  | .vdivF _ _ _ _ _ _
  | .vwaddF _ _ _ _ _ _
  | .vwmulF _ _ _ _ _ _
  | .vsqrt _ _ _ _
  | .vrcpa _ _ _ _
  | .vrsqa _ _ _ _
  | .vrcps _ _ _ _ _
  | .vrsqs _ _ _ _ _
  | .vclass _ _ _ _
  | .vcmpF _ _ _ _ _ _ _
  | .vcvt _ _ _ _ _ _
  | .vldsc _ _ _ _ _
  | .vmvscToScale _ _ _ _
  | .vmvscFromScale _ _ _ _
  | .vapsc _ _ _ _ _
  | .mand _ _ _ _ _
  | .mor _ _ _ _ _
  | .mxor _ _ _ _ _
  | .mnot _ _ _ _
  | .msbf _ _ _ _
  | .mset _ _ _ _
  | .mpopc _ _ _ _
  | .mfirst _ _ _ _
  | .viota _ _ _ _
  | .vld _ _ _ _ _
  | .vlds _ _ _ _ _
  | .vldx _ _ _ _ _ _ _
  | .vldt _ _ _ _ _ _
  | .vpf _ _ _ _
  | .vst _ _ _ _ _ _
  | .vsts _ _ _ _ _ _
  | .vstx _ _ _ _ _ _ _ _
  | .vstxu _ _ _ _ _ _ _ _
  | .vstt _ _ _ _ _ _ _
  | .vlseg _ _ _ _ _ _ _
  | .vsseg _ _ _ _ _ _ _ _
  | .vbind _ _ _ _
  | .vunbind _ _ _
  | .vperm _ _ _ _ _
  | .vslu _ _ _ _ _
  | .vsld _ _ _ _ _
  | .vcompress _ _ _ _
  | .vexpand _ _ _ _
  | .vred _ _ _ _ _ _ _
  | .vscan _ _ _ _ _ _ _
  | .vfetch _ _ _
  | .vconf _ _ _ _
  | .vcomb _ _ _ _ _
  | .visect _ _ _ _ _
  | .cins _ _ _ _
  | .clook _ _ _ _ _
  | .cacc _ _ _ _
  | .cdrain _ _ _
  | .cclr _ _
  | .vgathl _ _ _ _ _ _
  | .vscatc _ _ _ _ _ _ _
  | .fibdef _ _ _
  | .fibend _ _
  | .fibrePrefetch _
  | .ten _
  | .tdis _
  | .tzero _ _ _
  | .tmop _ _ _ _ _
  | .tmma _ _ _ _ _ _ _
  | .tmms _ _ _ _ _ _ _
  | .tmf64 _ _ _ _ _ _ _
  | .tld _ _ _ _
  | .tst _ _ _ _
  | .trowmv _ _ _ _ _
  | .tcolmv _ _ _ _ _
  | .tvmv _ _ _ _
  | .wbld _ _ _
  | .wbfmt _ _
  | .tchk _ _
  | .tchkrd _ _
  | .tileOpComplete _
  | .matrixCommandAccept _
  | .cpy _ _ _ _ _
  | .cpy2 _ _ _ _ _
  | .cpyt _ _ _ _ _ _
  | .cpyr _ _ _ _ _
  | .cpym _ _ _ _ _
  | .cpyx _ _ _ _ _
  | .cpyfill _ _ _ _
  | .cpybc _ _ _ _ _
  | .copyEngineAccept _
  | .copyCompletion _ _
  | .fence _ _
  | .acq _ _
  | .rel _ _
  | .barinit _ _ _ _
  | .bararr _ _ _ _
  | .barwait _ _ _
  | .wmwait _ _
  | .barwaitRelease _
  | .watermarkSatisfied _
  | .waitWake _
  | .waitTimeout _
  | .linkHoldExpiry _
  | .relrcv _
  | .ckpbeg _ _ _
  | .ckpseal _ _
  | .ckpverify _ _ _
  | .ckpabort _
  | .rprd _ _ _
  | .launch _ _
  | .launchn _ _ _
  | .cancel _ _ _
  | .cntrd _ _ _
  | .fork _ _ _
  | .join _
  | .yield _
  | .uexit _
  | .notify _ _
  | .trap _ _
  | .eret _
  | .mcall _
  | .halt _
  | .vptwr _ _ _
  | .tlbinv _ _ _
  | .ctxsave _ _
  | .ctxrest _ _
  | .brk _ _
  | .tmark _ _
  | .smpl _ _
  | .vectorCommit _
  | .variableLatencyResult _
  | .rendezvousArrival _ _
  | .rendezvousComplete _
  | .trapEntry _
  | .windowReplay _
  | .laneMismatch _ _
  | .lockstepMismatch _
  | .notifyRegisterWrite _
  | .serveQueue _
  | .spillReturn _
  | .mapRequest _
  | .queueMap _
  | .queueDestroy _
  | .counterCreate _ _
  | .counterClose _ _
  | .hostVptEntryWrite _ _ _
  | .hostHotnessClear _ _
  | .umanteDispatch
  | .bind _
  | .bindResume _
  | .preempt _
  | .kill _ _
  | .unitLoadComplete _
  | .preemptionLands _
  | .saveComplete _
  | .unitRetire _
  | .launchCompletion _
  | .pageRequestAnswer _ _ _
  | .partitionSwap _
  | .computeDieReset _
  | .recoveryRestore _ _
  | .remoteAckTimeout _ _ _
  | .spareSwitch _
  | .linkRetrain _ _
  | .thermalClockReduction
  | .thermalShutdown
  | .powerOnBoot _ _
  | .itrusPartitionControl _
  | .itrusDebug _
  | .itrusTrace _
  | .itrusAnnals _
  | .itrusRecovery _
  | .itrusFirmwareUpdate _
  | .itrusAttestation _
  | .itrusPower _
  | .remoteAccessArrival _
  | .remoteAcknowledgement _
  | .persistencePointReached _
  | .powerLoss
  | .baseDieFailure _
  | .queueUnmap _
  | .itrusConnection _
  | .annalsObservation _ _ _ => false

end Sys2Proof.Machine
end

