-- ==== Sys2Proof/Machine/Access.lean ====
section
/-! DEFINITION. The element accesses of vector memory instructions: checks (06 R153), fault-only-first loads (06 R155, R156),
stores (06 R157), the page counters (06 R172; 19 R426), sampling (16 R398 to R400), trace records (16 R391, R392), and the
strips of stream-bound registers (06 R171). -/

namespace Sys2Proof.Machine

/-! ### Trace records -/

/-- A record written whole to the job's trace ring, or dropped, once no copy owns the lines (16 R391, R392; 11 R270). The words are those at offsets 40, 48, 56. -/
def Work.trace (w : Work) (kind ord : Nat) (pc data : Word) (p40 p48 p56 : Nat) : M Work :=
  match w.job.ring with
  | none => .ok w
  | some b =>
    let wr := w.num (hbmLoc b) 8
    let rd := w.num (hbmLoc (b + 8)) 8
    let size := 2 ^ (w.num (hbmLoc (b + 16)) 1 % 32)
    if hbmEnd < b + 64 + 64 * size then .error (.fault (.recordOutsideHbm b))
    else if w.m.busyLine (hbmLoc b) || w.m.busyLine (hbmLoc (b + 64 + 64 * (wr % size))) then .error (.wait .ownedLine)
    else if (wr + 2 ^ 64 - rd) % 2 ^ 64 = size then
      .ok (w.putNum (hbmLoc (b + 24)) 8 (min (2 ^ 64 - 1) (w.num (hbmLoc (b + 24)) 8 + 1)))
    else
      let (i, w) := w.draw
      let u := w.s.unit
      let at_ := hbmLoc (b + 64 + 64 * (wr % size))
      let words := [kind + w.m.cur * 2 ^ 4 + u.lid * 2 ^ 16, u.unit % 2 ^ 32 + ord % 2 ^ 32 * 2 ^ 32,
        pc.toNat % 2 ^ 57, data.toNat, (Config.timeBase i).toNat, p40, p48, p56]
      let w := words.zipIdx.foldl (fun w p => w.putNum (at_ + 8 * p.2) 8 p.1) w
      .ok (w.putNum (hbmLoc b) 8 (wr + 1))

/-! ### Elements -/

/-- The active elements from `vstart` to `vl` - 1, ascending (00 R4). -/
def Work.active (w : Work) : List Nat :=
  let c := w.s.ctl
  let mask := w.s.regs.getM c.msel.toNat
  ((List.range c.vl.toNat).filter (fun e => decide (c.vstart.toNat ≤ e) && (c.mall || bitB mask e)))

/-- One access of an element: its address and the places of its bytes. -/
structure Req where
  a : Word
  locs : List Nat
  deriving DecidableEq, Repr

/-- Why an element fails its checks 1 to 6: a trap (a BOUNDS fault is never trimmed), or a stop of the model. -/
inductive EFault where
  | flt (cause : Nat) (stval : Word)
  | stop (s : Stop)
  deriving DecidableEq, Repr

/-- The places of an element's bytes after the checks 1 and 3 to 6 of 06 R153. -/
def elemLocs (m : Mach) (n : Nat) (a : Word) (size : Nat) (write col : Bool) : Except Miss (List Nat) :=
  if a.toNat % size ≠ 0 then .error (.flt cMISALIGNED 0)
  else if col && inLocal a.toNat then
    (List.range size).mapM (fun i => vectorPlace m n (a + BitVec.ofNat 64 i) write true)
  else (vectorPlace m n a write col).map (fun l => span l size)

/-- `stval` of an element's fault (06 Table 6.2). -/
def elemVal (cause detail : Nat) (a : Word) : Word :=
  if cause = cVPAGE_FAULT ∨ cause = cACCESS_VIOLATION then detailAddr detail a else keepBits a 0 57

def Miss.toE (a : Word) : Miss → EFault
  | .flt c d => .flt c (elemVal c d a)
  | .walk c d _ => .flt c (elemVal c d a)
  | .hold why => .stop (.wait why)
  | .lost pkg => .stop (.wait (.lost pkg a))
  | .stop f => .stop (.fault f)

/-- One access of the running slot checked. -/
def Work.req (w : Work) (a : Word) (size : Nat) (write col : Bool) : Except EFault Req :=
  match elemLocs w.m w.m.cur a size write col with
  | .ok l => .ok { a := a, locs := l }
  | .error e => .error (e.toE a)

/-- The elements that pass their checks, in order, and the first that fails. -/
def planAll (plan : Nat → Except EFault (List Req)) : List Nat → List (Nat × List Req) × Option (Nat × EFault)
  | [] => ([], none)
  | e :: es =>
    match plan e with
    | .error f => ([], some (e, f))
    | .ok rs =>
      let (l, f) := planAll plan es
      ((e, rs) :: l, f)

/-- The first element that consumes an uncorrectable error, with the failing address (06 R156). -/
def firstPoison (m : Mach) (l : List (Nat × List Req)) : Option (Nat × Word) :=
  l.findSome? (fun p => p.2.findSome? (fun r => if r.locs.any m.poisoned then some (p.1, r.a) else none))

/-- The bits of an access. -/
def Work.reqBits (w : Work) (r : Req) : Nat := leNat (r.locs.map w.byte)

/-- The accesses of a plan that no earlier turn has made (12 R290). -/
def Work.ahead (w : Work) (l : List (Nat × List Req)) : List (Nat × List Req) :=
  if w.past = 0 then l else (l.flatMap (fun p => p.2.map (fun r => (p.1, [r])))).drop w.past

/-- The accesses of an element read one after another; `note` is what each read does beside that. -/
def Work.readReqs (w : Work) (note : Req → Work → Work) : List Req → M (List Nat × Work)
  | [] => .ok ([], w)
  | r :: rs => do
    let (b, w) ← w.read r.locs (note r)
    let (l, w) ← w.readReqs note rs
    .ok (leNat b :: l, w)

/-- The accesses of a plan read in element order: the bits that each element's accesses read (12 R290, R291). -/
def Work.readPlan (w : Work) (note : Nat → Req → Work → Work) : List (Nat × List Req) → M (List (Nat × List Nat) × Work)
  | [] => .ok ([], w)
  | p :: ps => do
    let (v, w) ← w.readReqs (note p.1) p.2
    let (l, w) ← w.readPlan note ps
    .ok ((p.1, v) :: l, w)

/-- Nothing beside the read. -/
def noNote (_ : Nat) (_ : Req) (w : Work) : Work := w

/-- The places of a plan's accesses. -/
def planLocs (l : List (Nat × List Req)) : List Nat := l.flatMap (fun p => p.2.flatMap (fun r => r.locs))

/-- A counter of the context's page table raised by one, saturating (06 R172). -/
def Context.count (x : Context) (k : Nat) : Context := { x with hot := tabSet x.hot k (min (2 ^ 32 - 1) (tabGet 0 x.hot k + 1)) }

/-- The hotness counters of a plan: one count for each page that an element accessed (06 R172; 19 R426). -/
def Work.hotKeys (w : Work) (cls : Nat) (l : List (Nat × List Req)) : List Nat :=
  (l.flatMap (fun p => (p.2.filterMap (fun r => hotIndex w.s r.a)).eraseDups)).map (fun e => hotKey e cls)

/-- Hotness counters raised. -/
def Work.countKeys (w : Work) (keys : List Nat) : Work :=
  if keys = [] then w else w.setCtx (keys.foldl Context.count w.ctx)

/-- The hotness counts of a plan. -/
def Work.countHot (w : Work) (cls : Nat) (l : List (Nat × List Req)) : Work := w.countKeys (w.hotKeys cls l)

/-! ### Sampling -/

/-- A sampled instruction that commits: it is counted, and the sample that falls due is written (16 R398, R400). -/
def Work.sample (w : Work) (cls : Nat) (col store : Bool) (l : List (Nat × List Req)) (np : Nat) : M Work := do
  let c := w.s.sup.smplctl
  let period := bitsN c 0 20
  let arm := bitB c 20
  let cnt := bitsN c 32 32
  let due := period ≠ 0 ∧ cnt + 1 = period
  let tag := if arm then w.s.sup.smplTag else 0
  let c := putBit c 20 false
  let c := putBits c 32 32 (if due then 0 else cnt + 1)
  let w := w.mapSup (fun p => { p with smplctl := c, smplTag := if arm then 0 else p.smplTag })
  if (arm || decide due) && bitB w.s.sup.trcctl 2 then
    let els := (l.filter (fun p => p.2 ≠ [])).length
    let rs := l.flatMap (fun p => p.2)
    let lines := ((rs.flatMap (fun r => r.locs)).map lineOf).eraseDups.length
    let pages := (rs.map (fun r => match hotIndex w.s r.a with
      | some e => e
      | none => 2 ^ 20 + r.a.toNat / 2 ^ 20)).eraseDups.length
    let local_ := rs.all (fun r => inLocal r.a.toNat) && rs ≠ []
    let (i, w) := w.draw
    let t := (Config.sampleTiming i).toNat
    let sat (n v : Nat) : Nat := min (2 ^ n - 1) v
    let p40 := (if local_ then 3 else cls) + at_ 2 col.toNat + at_ 3 store.toNat + at_ 4 (sat 12 els) +
      at_ 16 (t % 2 ^ 16) + at_ 32 (t / 2 ^ 16 % 2 ^ 16) + at_ 48 (sat 16 lines)
    let p48 := sat 16 pages + at_ 16 (sat 16 np) + at_ 32 (t / 2 ^ 32 % 2 ^ 32)
    let (j, w) := w.draw
    w.trace 3 (w.s.ctl.vstripno.toNat + 2 ^ 32 - 1) w.s.regs.pc tag p40 p48 (Config.sampleTiming j).toNat
  else .ok w

/-- How a vector memory instruction counts: its hotness class, its orientation, and whether it is a sampled one. -/
structure Kind where
  cls : Nat
  col : Bool
  sampled : Bool
  deriving DecidableEq, Repr

/-- Whether a fault is a page-table entry found not present. -/
def EFault.notPresent : EFault → Bool
  | .flt c v => c == cVPAGE_FAULT && bitsN v 57 7 == 0
  | .stop _ => false

/-- The elements whose checks find a page-table entry not present (16 R400). -/
def absentElems (plan : Nat → Except EFault (List Req)) (l : List Nat) : Nat :=
  (l.filter (fun e => match plan e with | .error f => f.notPresent | .ok _ => false)).length

/-- The address of a plan's first access to an unreachable package. -/
def lostReq (m : Mach) (l : List (Nat × List Req)) : Word :=
  (l.findSome? (fun p => p.2.findSome? (fun r => if r.locs.any (fun x => (m.lostAt x).isSome) then some r.a else none))).getD 0

/-- The reads of a plan may take place now. -/
def Work.mayRead (w : Work) (l : List (Nat × List Req)) : M Unit := liftMiss w (lostReq w.m l) 0 (readable w.m (planLocs l))

/-- The writes of a plan may take place now. -/
def Work.mayWrite (w : Work) (l : List (Nat × List Req)) : M Unit :=
  liftMiss w (lostReq w.m l) 1 (writable w.m w.m.cur (planLocs l))

/-! ### Loads and stores -/

/-- A trap at element e of a vector instruction: `vstart` := e (01 R19). -/
def raiseAt {α : Type} (w : Work) (e cause : Nat) (stval : Word) (acc : Nat := 0) : M α :=
  raise (w.setVstart e) cause stval acc

/-- A fault-only-first load (06 R155, R156): `plan` gives an element's accesses after its checks, `put` writes elements from
the bits that their accesses read. A load that takes MEMORY_POISON at its first active element, with nothing written, unbinds a
bound destination all the same (DESIGN CHOICE, log 53: no rule says). One that takes it at a later element counts the elements below in
the hotness counters, as a load that ends at BOUNDS does (DESIGN CHOICE, log 58: 06 R172 and 19 R426 do not name this trap). `note` is
what an element's access does beside its read. -/
def Work.vload (w : Work) (k : Kind) (plan : Nat → Except EFault (List Req))
    (put : Work → List (Nat × List Nat) → Work) (note : Nat → Req → Work → Work := noNote) : M Work := do
  let (good, bad) := planAll plan w.active
  match bad with
  | some (_, .stop s) => .error s
  | _ =>
    let first := w.active.headD 0
    match bad with
    | some (e, .flt c v) => if e = first then raiseAt w e c v else .ok ()
    | _ => .ok ()
    let left := w.ahead good
    w.mayRead left
    let part (l : List (Nat × List Req)) : M Work := do
      let (vals, w1) ← w.readPlan note l
      .ok ((((put w1 vals).countHot k.cls l).countRemote (planLocs l)).touchFibre (planLocs l))
    match firstPoison w.m left with
    | some (e, a) => do
      let w1 ← part (good.filter (fun p => p.1 < e))
      raiseAt (w1.countBad (planLocs left)) e cMEMORY_POISON (keepBits a 0 57)
    | none => do
      let w1 ← part good
      match bad with
      | some (e, .flt c v) =>
        if c = cBOUNDS then raiseAt w1 e c v
        else
          let w2 := w1.mapCtl (fun x => { x with vl := BitVec.ofNat 12 e })
          if k.sampled then w2.sample k.cls k.col false good (absentElems plan w.active) else .ok w2
      | _ => if k.sampled then w1.sample k.cls k.col false good 0 else .ok w1

/-- The byte writes of one element's access, of `bits`. -/
def Work.putReq (w : Work) (r : Req) (bits : Nat) : M Work := w.store r.a r.locs (leBytes r.locs.length bits)

/-- The writes of an element, each with its flags. -/
def Work.putReqs (w : Work) : List (Req × FRes) → M Work
  | [] => .ok w
  | x :: xs => do
    let w ← w.putReq x.1 x.2.1
    (w.orFlags x.2.2).putReqs xs

/-- The writes of a plan in element order; `bits` gives what an element's accesses write, with the flags (12 R290, R291). -/
def Work.putPlan (w : Work) (bits : Nat → List FRes) : List (Nat × List Req) → M Work
  | [] => .ok w
  | p :: ps => do
    let w ← w.putReqs (p.2.zip (bits p.1))
    w.putPlan bits ps

/-- The progress word of a notify store: its place, checked before any element (06 R168). -/
def Work.progress (w : Work) (nt : Bool) : M (Option (List Nat) × Work) := do
  let a := keepBits w.s.ctl.vprog 3 54
  if !nt || a = 0 then .ok (none, w)
  else
    let (loc, w) ← w.scalar a 8 1
    liftMiss w a 1 (writable w.m w.m.cur (span loc 8))
    .ok (some (span loc 8), w)

/-- The count of a notify store added to its progress word, in one access (06 R168). It is no write of the strip signature (16 R404). An
addition of 0, where no element was written, is an access too (DESIGN CHOICE, log 53: no rule leaves it out). -/
def Work.addProgress (w : Work) (p : Option (List Nat)) (n : Nat) : M Work :=
  match p with
  | none => .ok w
  | some locs =>
    let v := leNat (locs.map w.byte)
    w.write (keepBits w.s.ctl.vprog 3 54) locs (leBytes 8 (v + n))

/-- A vector store (06 R157): `plan` gives an element's accesses after its checks, `bits` what each writes and its flags; `fix`
settles bytes that several elements wrote (06 R162). -/
def Work.vstore (w : Work) (k : Kind) (nt : Bool) (plan : Nat → Except EFault (List Req)) (bits : Nat → List FRes)
    (fix : Work → List (Nat × List Req) → Work) : M Work := do
  let (prog, w) ← w.progress nt
  let (good, bad) := planAll plan w.active
  match bad with
  | some (_, .stop s) => .error s
  | _ =>
    w.mayWrite (w.ahead good)
    let w' ← w.putPlan bits good
    let w' ← (fix w' good).addProgress prog (good.filter (fun p => p.2 ≠ [])).length
    let w' := w'.countHot k.cls good
    match bad with
    | some (e, .flt c v) => raiseAt w' e c v 1
    | _ => if k.sampled then w'.sample k.cls k.col true good 0 else .ok w'

/-! ### Streams (06 R171) -/

/-- The element memory size of a format code in bytes. -/
def codeBytes (c : Nat) : Nat := codeWidth c / 8

/-- A strip of a bound register: its decoded elements and flags, with the accesses made. Any failure is raised with
`vstart` := 0 and nothing written. Of several failures the lowest position's failing check is raised before any poisoned position, also
a lower one, and of several bound sources the first one's (DESIGN CHOICE, log 58: 06 R171 says that any failure raises its fault and
gives no order). -/
def Work.streamStrip (w : Work) (b : Binding) :
    M ((List (Nat × Nat) × List (Nat × BitVec 5) × List (Nat × List Req)) × Work) := do
  let c := w.s.ctl
  let mf := bitsN b.cfg 0 4
  let sc := bitB b.cfg 4
  let sblk := bitsN b.cfg 8 3
  let col := bitB b.cfg 11
  let plan (e : Nat) : Except EFault (List Req) := do
    let q := b.pos + e
    if b.count.toNat ≤ q then .ok [] else
    let d ← w.req (b.base + b.stride * BitVec.ofNat 64 q) (codeBytes mf) false col
    if sc then
      let s ← w.req (b.sbase + b.sstride * BitVec.ofNat 64 (q / 2 ^ sblk)) 2 false col
      .ok [d, s]
    else .ok [d]
  let (good, bad) := planAll plan (List.range c.vl.toNat)
  match bad with
  | some (_, .stop s) => .error s
  | some (_, .flt cause v) => raiseAt w 0 cause v
  | none =>
    let left := w.ahead good
    w.mayRead left
    match firstPoison w.m left with
    | some (_, a) => raiseAt (w.countBad (planLocs left)) 0 cMEMORY_POISON (keepBits a 0 57)
    | none => do
      let (vals, w1) ← w.readPlan noNote good
      let fmt := c.fmt.toNat
      let rm := c.rm.toNat
      let one (v : List Nat) : FRes :=
        match v with
        | [d] => convert mf fmt rm d
        | [d, s] =>
          let x := codeVal mf d
          let k := fDecode bf16 s
          -- R138 applied to the exact value, rounded once to FMT
          match fmtOf fmt with
          | some f => applyScale f rm s x
          | none =>
            if k.isZero then (if fmt = 12 then (0x77, 0) else (0, 0))
            else if k.isNan || k.isInf then (if fmt = 12 then 0x77 else 0, fNV)
            else match x.mul k with
              | some v => if fmt = 12 then toTs8 v else toIntFmt fmt rm v
              | none => (if fmt = 12 then 0x77 else 0, fNV)
        | _ => (if fmt = 12 then 0x77 else 0, 0)
      let rs := vals.map (fun p => (p.1, one p.2))
      .ok ((rs.map (fun p => (p.1, p.2.1)), rs.map (fun p => (p.1, p.2.2)), good), w1)

end Sys2Proof.Machine
end

