-- ==== Sys2Proof/Decode.lean ====
section
/-! DEFINITION. The decoder of instruction words, total on every word, and the encoder of well-formed instructions, both
from the layouts of 02 Tables 2.1 to 2.7 and the opcode map of 02 Tables 2.13 to 2.17 (02 R24, R25, R46, R47). -/

namespace Sys2Proof

/-- Why a word is no instruction. Every one raises ILLEGAL_INSTRUCTION (02 R40). -/
inductive DecodeError where
  /-- The OP is unassigned or reserved (02 R39, R40). -/
  | reservedOp (op : Nat)
  /-- The OP and function combination is unassigned, or a field that must be zero is not (02 R26, R40, R46). -/
  | unassigned (op : Nat)
  /-- A field holds a value the instruction does not allow (02 R26 and the instruction entries). -/
  | illFormed (i : Instr)
  deriving DecidableEq, Repr

/-- Bits [lo + n - 1 : lo] of a word. -/
def fld (w lo n : Nat) : Nat := w / 2 ^ lo % 2 ^ n

/-- A one-bit field of a word. -/
def flag (w lo : Nat) : Bool := fld w lo 1 == 1

/-- The words of OP 0x01 (02 R46). -/
def decodeOp01 (w : Nat) : Option Instr :=
  if fld w 0 6 == 0 && fld w 27 1 == 0 then
    some (.add (Fin.ofNat 16 (fld w 28 4)) (Fin.ofNat 32 (fld w 16 5)) (Fin.ofNat 32 (fld w 11 5)) (Fin.ofNat 32 (fld w 6 5))) else
  if fld w 0 6 == 1 && fld w 27 1 == 0 then
    some (.sub (Fin.ofNat 16 (fld w 28 4)) (Fin.ofNat 32 (fld w 16 5)) (Fin.ofNat 32 (fld w 11 5)) (Fin.ofNat 32 (fld w 6 5))) else
  if fld w 0 6 == 2 && fld w 27 1 == 0 then
    some (.and (Fin.ofNat 16 (fld w 28 4)) (Fin.ofNat 32 (fld w 16 5)) (Fin.ofNat 32 (fld w 11 5)) (Fin.ofNat 32 (fld w 6 5))) else
  if fld w 0 6 == 3 && fld w 27 1 == 0 then
    some (.or (Fin.ofNat 16 (fld w 28 4)) (Fin.ofNat 32 (fld w 16 5)) (Fin.ofNat 32 (fld w 11 5)) (Fin.ofNat 32 (fld w 6 5))) else
  if fld w 0 6 == 4 && fld w 27 1 == 0 then
    some (.xor (Fin.ofNat 16 (fld w 28 4)) (Fin.ofNat 32 (fld w 16 5)) (Fin.ofNat 32 (fld w 11 5)) (Fin.ofNat 32 (fld w 6 5))) else
  if fld w 0 6 == 5 && fld w 27 1 == 0 then
    some (.sll (Fin.ofNat 16 (fld w 28 4)) (Fin.ofNat 32 (fld w 16 5)) (Fin.ofNat 32 (fld w 11 5)) (Fin.ofNat 32 (fld w 6 5))) else
  if fld w 0 6 == 6 && fld w 27 1 == 0 then
    some (.srl (Fin.ofNat 16 (fld w 28 4)) (Fin.ofNat 32 (fld w 16 5)) (Fin.ofNat 32 (fld w 11 5)) (Fin.ofNat 32 (fld w 6 5))) else
  if fld w 0 6 == 7 && fld w 27 1 == 0 then
    some (.sra (Fin.ofNat 16 (fld w 28 4)) (Fin.ofNat 32 (fld w 16 5)) (Fin.ofNat 32 (fld w 11 5)) (Fin.ofNat 32 (fld w 6 5))) else
  if fld w 0 6 == 8 && fld w 27 1 == 0 then
    some (.slt (Fin.ofNat 16 (fld w 28 4)) (Fin.ofNat 32 (fld w 16 5)) (Fin.ofNat 32 (fld w 11 5)) (Fin.ofNat 32 (fld w 6 5))) else
  if fld w 0 6 == 9 && fld w 27 1 == 0 then
    some (.sltn (Fin.ofNat 16 (fld w 28 4)) (Fin.ofNat 32 (fld w 16 5)) (Fin.ofNat 32 (fld w 11 5)) (Fin.ofNat 32 (fld w 6 5))) else
  if fld w 0 6 == 10 && fld w 27 1 == 0 then
    some (.min (Fin.ofNat 16 (fld w 28 4)) (Fin.ofNat 32 (fld w 16 5)) (Fin.ofNat 32 (fld w 11 5)) (Fin.ofNat 32 (fld w 6 5))) else
  if fld w 0 6 == 11 && fld w 27 1 == 0 then
    some (.max (Fin.ofNat 16 (fld w 28 4)) (Fin.ofNat 32 (fld w 16 5)) (Fin.ofNat 32 (fld w 11 5)) (Fin.ofNat 32 (fld w 6 5))) else
  if fld w 0 6 == 12 && fld w 27 1 == 0 then
    some (.minn (Fin.ofNat 16 (fld w 28 4)) (Fin.ofNat 32 (fld w 16 5)) (Fin.ofNat 32 (fld w 11 5)) (Fin.ofNat 32 (fld w 6 5))) else
  if fld w 0 6 == 13 && fld w 27 1 == 0 then
    some (.maxn (Fin.ofNat 16 (fld w 28 4)) (Fin.ofNat 32 (fld w 16 5)) (Fin.ofNat 32 (fld w 11 5)) (Fin.ofNat 32 (fld w 6 5))) else
  if fld w 0 6 == 16 && fld w 27 1 == 0 then
    some (.mul (Fin.ofNat 16 (fld w 28 4)) (Fin.ofNat 32 (fld w 16 5)) (Fin.ofNat 32 (fld w 11 5)) (Fin.ofNat 32 (fld w 6 5))) else
  if fld w 0 6 == 17 && fld w 27 1 == 0 then
    some (.mulh (Fin.ofNat 16 (fld w 28 4)) (Fin.ofNat 32 (fld w 16 5)) (Fin.ofNat 32 (fld w 11 5)) (Fin.ofNat 32 (fld w 6 5))) else
  if fld w 0 6 == 18 && fld w 27 1 == 0 then
    some (.mulhn (Fin.ofNat 16 (fld w 28 4)) (Fin.ofNat 32 (fld w 16 5)) (Fin.ofNat 32 (fld w 11 5)) (Fin.ofNat 32 (fld w 6 5))) else
  if fld w 0 6 == 19 && fld w 27 1 == 0 then
    some (.div (Fin.ofNat 16 (fld w 28 4)) (Fin.ofNat 32 (fld w 16 5)) (Fin.ofNat 32 (fld w 11 5)) (Fin.ofNat 32 (fld w 6 5))) else
  if fld w 0 6 == 20 && fld w 27 1 == 0 then
    some (.divn (Fin.ofNat 16 (fld w 28 4)) (Fin.ofNat 32 (fld w 16 5)) (Fin.ofNat 32 (fld w 11 5)) (Fin.ofNat 32 (fld w 6 5))) else
  if fld w 0 6 == 21 && fld w 27 1 == 0 then
    some (.rem (Fin.ofNat 16 (fld w 28 4)) (Fin.ofNat 32 (fld w 16 5)) (Fin.ofNat 32 (fld w 11 5)) (Fin.ofNat 32 (fld w 6 5))) else
  if fld w 0 6 == 22 && fld w 27 1 == 0 then
    some (.remn (Fin.ofNat 16 (fld w 28 4)) (Fin.ofNat 32 (fld w 16 5)) (Fin.ofNat 32 (fld w 11 5)) (Fin.ofNat 32 (fld w 6 5))) else
  if fld w 0 6 == 27 && fld w 27 1 == 0 then
    some (.bext (Fin.ofNat 16 (fld w 28 4)) (Fin.ofNat 32 (fld w 16 5)) (Fin.ofNat 32 (fld w 11 5)) (Fin.ofNat 32 (fld w 6 5))) else
  if fld w 0 6 == 28 && fld w 27 1 == 0 then
    some (.bins (Fin.ofNat 16 (fld w 28 4)) (Fin.ofNat 32 (fld w 16 5)) (Fin.ofNat 32 (fld w 11 5)) (Fin.ofNat 32 (fld w 6 5))) else
  if fld w 0 6 == 24 && fld w 6 5 == 0 && fld w 27 1 == 0 then
    some (.clz (Fin.ofNat 16 (fld w 28 4)) (Fin.ofNat 32 (fld w 16 5)) (Fin.ofNat 32 (fld w 11 5))) else
  if fld w 0 6 == 25 && fld w 6 5 == 0 && fld w 27 1 == 0 then
    some (.ctz (Fin.ofNat 16 (fld w 28 4)) (Fin.ofNat 32 (fld w 16 5)) (Fin.ofNat 32 (fld w 11 5))) else
  if fld w 0 6 == 26 && fld w 6 5 == 0 && fld w 27 1 == 0 then
    some (.popc (Fin.ofNat 16 (fld w 28 4)) (Fin.ofNat 32 (fld w 16 5)) (Fin.ofNat 32 (fld w 11 5))) else
  if fld w 1 5 == 16 && fld w 27 1 == 0 then
    some (.slli (Fin.ofNat 16 (fld w 28 4)) (Fin.ofNat 32 (fld w 16 5)) (Fin.ofNat 32 (fld w 11 5)) (Fin.ofNat 32 (fld w 6 5)) (flag w 0)) else
  if fld w 1 5 == 17 && fld w 27 1 == 0 then
    some (.srli (Fin.ofNat 16 (fld w 28 4)) (Fin.ofNat 32 (fld w 16 5)) (Fin.ofNat 32 (fld w 11 5)) (Fin.ofNat 32 (fld w 6 5)) (flag w 0)) else
  if fld w 1 5 == 18 && fld w 27 1 == 0 then
    some (.srai (Fin.ofNat 16 (fld w 28 4)) (Fin.ofNat 32 (fld w 16 5)) (Fin.ofNat 32 (fld w 11 5)) (Fin.ofNat 32 (fld w 6 5)) (flag w 0)) else
  none

/-- The words of OP 0x02 (02 R46). -/
def decodeOp02 (w : Nat) : Option Instr :=
  if fld w 27 1 == 0 then
    some (.addi (Fin.ofNat 16 (fld w 28 4)) (Fin.ofNat 32 (fld w 16 5)) (Fin.ofNat 32 (fld w 11 5)) (BitVec.ofNat 11 (fld w 0 11))) else
  none

/-- The words of OP 0x03 (02 R46). -/
def decodeOp03 (w : Nat) : Option Instr :=
  if fld w 27 1 == 0 then
    some (.andi (Fin.ofNat 16 (fld w 28 4)) (Fin.ofNat 32 (fld w 16 5)) (Fin.ofNat 32 (fld w 11 5)) (BitVec.ofNat 11 (fld w 0 11))) else
  none

/-- The words of OP 0x04 (02 R46). -/
def decodeOp04 (w : Nat) : Option Instr :=
  if fld w 27 1 == 0 then
    some (.ori (Fin.ofNat 16 (fld w 28 4)) (Fin.ofNat 32 (fld w 16 5)) (Fin.ofNat 32 (fld w 11 5)) (BitVec.ofNat 11 (fld w 0 11))) else
  none

/-- The words of OP 0x05 (02 R46). -/
def decodeOp05 (w : Nat) : Option Instr :=
  if fld w 27 1 == 0 then
    some (.xori (Fin.ofNat 16 (fld w 28 4)) (Fin.ofNat 32 (fld w 16 5)) (Fin.ofNat 32 (fld w 11 5)) (BitVec.ofNat 11 (fld w 0 11))) else
  none

/-- The words of OP 0x06 (02 R46). -/
def decodeOp06 (w : Nat) : Option Instr :=
  if fld w 27 1 == 0 then
    some (.lih (Fin.ofNat 16 (fld w 28 4)) (Fin.ofNat 32 (fld w 16 5)) (BitVec.ofNat 16 (fld w 0 16))) else
  none

/-- The words of OP 0x07 (02 R46). -/
def decodeOp07 (w : Nat) : Option Instr :=
  if fld w 27 1 == 0 then
    some (.adpc (Fin.ofNat 16 (fld w 28 4)) (Fin.ofNat 32 (fld w 16 5)) (BitVec.ofNat 16 (fld w 0 16))) else
  none

/-- The words of OP 0x08 (02 R46). -/
def decodeOp08 (w : Nat) : Option Instr :=
  if fld w 9 2 == 0 && fld w 27 1 == 0 then
    some (.ld8 (Fin.ofNat 16 (fld w 28 4)) (Fin.ofNat 32 (fld w 16 5)) (Fin.ofNat 32 (fld w 11 5)) (BitVec.ofNat 9 (fld w 0 9))) else
  if fld w 9 2 == 1 && fld w 27 1 == 0 then
    some (.ld16 (Fin.ofNat 16 (fld w 28 4)) (Fin.ofNat 32 (fld w 16 5)) (Fin.ofNat 32 (fld w 11 5)) (BitVec.ofNat 9 (fld w 0 9))) else
  if fld w 9 2 == 2 && fld w 27 1 == 0 then
    some (.ld32 (Fin.ofNat 16 (fld w 28 4)) (Fin.ofNat 32 (fld w 16 5)) (Fin.ofNat 32 (fld w 11 5)) (BitVec.ofNat 9 (fld w 0 9))) else
  if fld w 9 2 == 3 && fld w 27 1 == 0 then
    some (.ld64 (Fin.ofNat 16 (fld w 28 4)) (Fin.ofNat 32 (fld w 16 5)) (Fin.ofNat 32 (fld w 11 5)) (BitVec.ofNat 9 (fld w 0 9))) else
  none

/-- The words of OP 0x09 (02 R46). -/
def decodeOp09 (w : Nat) : Option Instr :=
  if fld w 9 2 == 0 && fld w 27 1 == 0 then
    some (.ld8N (Fin.ofNat 16 (fld w 28 4)) (Fin.ofNat 32 (fld w 16 5)) (Fin.ofNat 32 (fld w 11 5)) (BitVec.ofNat 9 (fld w 0 9))) else
  if fld w 9 2 == 1 && fld w 27 1 == 0 then
    some (.ld16N (Fin.ofNat 16 (fld w 28 4)) (Fin.ofNat 32 (fld w 16 5)) (Fin.ofNat 32 (fld w 11 5)) (BitVec.ofNat 9 (fld w 0 9))) else
  if fld w 9 2 == 2 && fld w 27 1 == 0 then
    some (.ld32N (Fin.ofNat 16 (fld w 28 4)) (Fin.ofNat 32 (fld w 16 5)) (Fin.ofNat 32 (fld w 11 5)) (BitVec.ofNat 9 (fld w 0 9))) else
  none

/-- The words of OP 0x0a (02 R46). -/
def decodeOp0A (w : Nat) : Option Instr :=
  if fld w 9 2 == 0 && fld w 27 1 == 0 then
    some (.st8 (Fin.ofNat 16 (fld w 28 4)) (Fin.ofNat 32 (fld w 16 5)) (Fin.ofNat 32 (fld w 11 5)) (BitVec.ofNat 9 (fld w 0 9))) else
  if fld w 9 2 == 1 && fld w 27 1 == 0 then
    some (.st16 (Fin.ofNat 16 (fld w 28 4)) (Fin.ofNat 32 (fld w 16 5)) (Fin.ofNat 32 (fld w 11 5)) (BitVec.ofNat 9 (fld w 0 9))) else
  if fld w 9 2 == 2 && fld w 27 1 == 0 then
    some (.st32 (Fin.ofNat 16 (fld w 28 4)) (Fin.ofNat 32 (fld w 16 5)) (Fin.ofNat 32 (fld w 11 5)) (BitVec.ofNat 9 (fld w 0 9))) else
  if fld w 9 2 == 3 && fld w 27 1 == 0 then
    some (.st64 (Fin.ofNat 16 (fld w 28 4)) (Fin.ofNat 32 (fld w 16 5)) (Fin.ofNat 32 (fld w 11 5)) (BitVec.ofNat 9 (fld w 0 9))) else
  none

/-- The words of OP 0x0b (02 R46). -/
def decodeOp0B (w : Nat) : Option Instr :=
  if fld w 0 6 == 0 && fld w 6 5 == 0 && fld w 27 1 == 0 then
    some (.ldl (Fin.ofNat 16 (fld w 28 4)) (Fin.ofNat 32 (fld w 16 5)) (Fin.ofNat 32 (fld w 11 5))) else
  if fld w 0 6 == 1 && fld w 27 1 == 0 then
    some (.stc (Fin.ofNat 16 (fld w 28 4)) (Fin.ofNat 32 (fld w 16 5)) (Fin.ofNat 32 (fld w 11 5)) (Fin.ofNat 32 (fld w 6 5))) else
  none

/-- The words of OP 0x0c (02 R46). -/
def decodeOp0C (w : Nat) : Option Instr :=
  if fld w 27 1 == 0 then
    some (.jal (Fin.ofNat 16 (fld w 28 4)) (BitVec.ofNat 21 (fld w 0 21))) else
  none

/-- The words of OP 0x0d (02 R46). -/
def decodeOp0D (w : Nat) : Option Instr :=
  if fld w 9 2 == 0 && fld w 27 1 == 0 then
    some (.beq (Fin.ofNat 16 (fld w 28 4)) (Fin.ofNat 32 (fld w 16 5)) (Fin.ofNat 32 (fld w 11 5)) (BitVec.ofNat 9 (fld w 0 9))) else
  if fld w 9 2 == 1 && fld w 27 1 == 0 then
    some (.bne (Fin.ofNat 16 (fld w 28 4)) (Fin.ofNat 32 (fld w 16 5)) (Fin.ofNat 32 (fld w 11 5)) (BitVec.ofNat 9 (fld w 0 9))) else
  if fld w 9 2 == 2 && fld w 27 1 == 0 then
    some (.blt (Fin.ofNat 16 (fld w 28 4)) (Fin.ofNat 32 (fld w 16 5)) (Fin.ofNat 32 (fld w 11 5)) (BitVec.ofNat 9 (fld w 0 9))) else
  if fld w 9 2 == 3 && fld w 27 1 == 0 then
    some (.bge (Fin.ofNat 16 (fld w 28 4)) (Fin.ofNat 32 (fld w 16 5)) (Fin.ofNat 32 (fld w 11 5)) (BitVec.ofNat 9 (fld w 0 9))) else
  none

/-- The words of OP 0x0e (02 R46). -/
def decodeOp0E (w : Nat) : Option Instr :=
  if fld w 9 2 == 0 && fld w 27 1 == 0 then
    some (.bltn (Fin.ofNat 16 (fld w 28 4)) (Fin.ofNat 32 (fld w 16 5)) (Fin.ofNat 32 (fld w 11 5)) (BitVec.ofNat 9 (fld w 0 9))) else
  if fld w 9 2 == 1 && fld w 27 1 == 0 then
    some (.bgen (Fin.ofNat 16 (fld w 28 4)) (Fin.ofNat 32 (fld w 16 5)) (Fin.ofNat 32 (fld w 11 5)) (BitVec.ofNat 9 (fld w 0 9))) else
  none

/-- The words of OP 0x0f (02 R46). -/
def decodeOp0F (w : Nat) : Option Instr :=
  if fld w 0 6 == 0 && fld w 6 5 == 0 && fld w 27 1 == 0 then
    some (.jalr (Fin.ofNat 16 (fld w 28 4)) (Fin.ofNat 32 (fld w 16 5)) (Fin.ofNat 32 (fld w 11 5))) else
  if fld w 0 6 == 1 && fld w 6 5 == 0 && fld w 27 1 == 0 then
    some (.wait (Fin.ofNat 16 (fld w 28 4)) (Fin.ofNat 32 (fld w 16 5)) (Fin.ofNat 32 (fld w 11 5))) else
  if fld w 0 6 == 2 && fld w 6 5 == 0 && fld w 27 1 == 0 then
    some (.setvl (Fin.ofNat 16 (fld w 28 4)) (Fin.ofNat 32 (fld w 16 5)) (Fin.ofNat 32 (fld w 11 5))) else
  if fld w 0 6 == 3 && fld w 6 5 == 0 && fld w 27 1 == 0 then
    some (.setvt (Fin.ofNat 16 (fld w 28 4)) (Fin.ofNat 32 (fld w 16 5)) (Fin.ofNat 32 (fld w 11 5))) else
  if fld w 0 6 == 4 && fld w 6 5 == 0 && fld w 11 5 == 0 && fld w 16 5 == 0 && fld w 27 1 == 0 then
    some (.nop (Fin.ofNat 16 (fld w 28 4))) else
  if fld w 0 6 == 8 && fld w 27 1 == 0 then
    some (.rdc (Fin.ofNat 16 (fld w 28 4)) (Fin.ofNat 32 (fld w 16 5)) (Fin.ofNat 1024 (fld w 6 10))) else
  if fld w 0 6 == 9 && fld w 27 1 == 0 then
    some (.wrc (Fin.ofNat 16 (fld w 28 4)) (Fin.ofNat 32 (fld w 16 5)) (Fin.ofNat 1024 (fld w 6 10))) else
  none

/-- The words of OP 0x10 (02 R46). -/
def decodeOp10 (w : Nat) : Option Instr :=
  if fld w 0 5 == 0 then
    some (.vadd (Fin.ofNat 16 (fld w 28 4)) (flag w 27) (Fin.ofNat 32 (fld w 16 5)) (Fin.ofNat 32 (fld w 11 5)) (Fin.ofNat 32 (fld w 6 5)) (flag w 5)) else
  if fld w 0 5 == 1 then
    some (.vsub (Fin.ofNat 16 (fld w 28 4)) (flag w 27) (Fin.ofNat 32 (fld w 16 5)) (Fin.ofNat 32 (fld w 11 5)) (Fin.ofNat 32 (fld w 6 5)) (flag w 5)) else
  if fld w 0 5 == 2 then
    some (.vmin (Fin.ofNat 16 (fld w 28 4)) (flag w 27) (Fin.ofNat 32 (fld w 16 5)) (Fin.ofNat 32 (fld w 11 5)) (Fin.ofNat 32 (fld w 6 5)) (flag w 5)) else
  if fld w 0 5 == 3 then
    some (.vmax (Fin.ofNat 16 (fld w 28 4)) (flag w 27) (Fin.ofNat 32 (fld w 16 5)) (Fin.ofNat 32 (fld w 11 5)) (Fin.ofNat 32 (fld w 6 5)) (flag w 5)) else
  if fld w 0 5 == 4 then
    some (.vaddsat (Fin.ofNat 16 (fld w 28 4)) (flag w 27) (Fin.ofNat 32 (fld w 16 5)) (Fin.ofNat 32 (fld w 11 5)) (Fin.ofNat 32 (fld w 6 5)) (flag w 5)) else
  if fld w 0 5 == 5 then
    some (.vsubsat (Fin.ofNat 16 (fld w 28 4)) (flag w 27) (Fin.ofNat 32 (fld w 16 5)) (Fin.ofNat 32 (fld w 11 5)) (Fin.ofNat 32 (fld w 6 5)) (flag w 5)) else
  if fld w 0 6 == 6 && fld w 6 5 == 0 then
    some (.vabs (Fin.ofNat 16 (fld w 28 4)) (flag w 27) (Fin.ofNat 32 (fld w 16 5)) (Fin.ofNat 32 (fld w 11 5))) else
  if fld w 0 6 == 7 && fld w 6 5 == 0 then
    some (.vneg (Fin.ofNat 16 (fld w 28 4)) (flag w 27) (Fin.ofNat 32 (fld w 16 5)) (Fin.ofNat 32 (fld w 11 5))) else
  none

/-- The words of OP 0x11 (02 R46). -/
def decodeOp11 (w : Nat) : Option Instr :=
  if fld w 0 5 == 0 then
    some (.vand (Fin.ofNat 16 (fld w 28 4)) (flag w 27) (Fin.ofNat 32 (fld w 16 5)) (Fin.ofNat 32 (fld w 11 5)) (Fin.ofNat 32 (fld w 6 5)) (flag w 5)) else
  if fld w 0 5 == 1 then
    some (.vor (Fin.ofNat 16 (fld w 28 4)) (flag w 27) (Fin.ofNat 32 (fld w 16 5)) (Fin.ofNat 32 (fld w 11 5)) (Fin.ofNat 32 (fld w 6 5)) (flag w 5)) else
  if fld w 0 5 == 2 then
    some (.vxor (Fin.ofNat 16 (fld w 28 4)) (flag w 27) (Fin.ofNat 32 (fld w 16 5)) (Fin.ofNat 32 (fld w 11 5)) (Fin.ofNat 32 (fld w 6 5)) (flag w 5)) else
  if fld w 0 5 == 3 then
    some (.vsll (Fin.ofNat 16 (fld w 28 4)) (flag w 27) (Fin.ofNat 32 (fld w 16 5)) (Fin.ofNat 32 (fld w 11 5)) (Fin.ofNat 32 (fld w 6 5)) (flag w 5)) else
  if fld w 0 5 == 4 then
    some (.vsrl (Fin.ofNat 16 (fld w 28 4)) (flag w 27) (Fin.ofNat 32 (fld w 16 5)) (Fin.ofNat 32 (fld w 11 5)) (Fin.ofNat 32 (fld w 6 5)) (flag w 5)) else
  if fld w 0 5 == 5 then
    some (.vsra (Fin.ofNat 16 (fld w 28 4)) (flag w 27) (Fin.ofNat 32 (fld w 16 5)) (Fin.ofNat 32 (fld w 11 5)) (Fin.ofNat 32 (fld w 6 5)) (flag w 5)) else
  none

/-- The words of OP 0x12 (02 R46). -/
def decodeOp12 (w : Nat) : Option Instr :=
  if fld w 0 5 == 0 then
    some (.vmul (Fin.ofNat 16 (fld w 28 4)) (flag w 27) (Fin.ofNat 32 (fld w 16 5)) (Fin.ofNat 32 (fld w 11 5)) (Fin.ofNat 32 (fld w 6 5)) (flag w 5)) else
  if fld w 0 5 == 1 then
    some (.vmulh (Fin.ofNat 16 (fld w 28 4)) (flag w 27) (Fin.ofNat 32 (fld w 16 5)) (Fin.ofNat 32 (fld w 11 5)) (Fin.ofNat 32 (fld w 6 5)) (flag w 5)) else
  if fld w 0 5 == 2 then
    some (.vmadd (Fin.ofNat 16 (fld w 28 4)) (flag w 27) (Fin.ofNat 32 (fld w 16 5)) (Fin.ofNat 32 (fld w 11 5)) (Fin.ofNat 32 (fld w 6 5)) (flag w 5)) else
  if fld w 0 5 == 3 then
    some (.vmsub (Fin.ofNat 16 (fld w 28 4)) (flag w 27) (Fin.ofNat 32 (fld w 16 5)) (Fin.ofNat 32 (fld w 11 5)) (Fin.ofNat 32 (fld w 6 5)) (flag w 5)) else
  if fld w 0 5 == 4 then
    some (.vnmadd (Fin.ofNat 16 (fld w 28 4)) (flag w 27) (Fin.ofNat 32 (fld w 16 5)) (Fin.ofNat 32 (fld w 11 5)) (Fin.ofNat 32 (fld w 6 5)) (flag w 5)) else
  if fld w 0 5 == 5 then
    some (.vdiv (Fin.ofNat 16 (fld w 28 4)) (flag w 27) (Fin.ofNat 32 (fld w 16 5)) (Fin.ofNat 32 (fld w 11 5)) (Fin.ofNat 32 (fld w 6 5)) (flag w 5)) else
  if fld w 0 5 == 6 then
    some (.vwadd (Fin.ofNat 16 (fld w 28 4)) (flag w 27) (Fin.ofNat 32 (fld w 16 5)) (Fin.ofNat 32 (fld w 11 5)) (Fin.ofNat 32 (fld w 6 5)) (flag w 5)) else
  if fld w 0 5 == 7 then
    some (.vwmul (Fin.ofNat 16 (fld w 28 4)) (flag w 27) (Fin.ofNat 32 (fld w 16 5)) (Fin.ofNat 32 (fld w 11 5)) (Fin.ofNat 32 (fld w 6 5)) (flag w 5)) else
  none

/-- The words of OP 0x13 (02 R46). -/
def decodeOp13 (w : Nat) : Option Instr :=
  if fld w 2 3 == 0 then
    some (.vcmp (Fin.ofNat 16 (fld w 28 4)) (flag w 27) (Fin.ofNat 32 (fld w 16 5)) (Fin.ofNat 32 (fld w 11 5)) (Fin.ofNat 32 (fld w 6 5)) (flag w 5) (Fin.ofNat 4 (fld w 0 2))) else
  none

/-- The words of OP 0x14 (02 R46). -/
def decodeOp14 (w : Nat) : Option Instr :=
  if fld w 0 5 == 0 then
    some (.vsel (Fin.ofNat 16 (fld w 28 4)) (flag w 27) (Fin.ofNat 32 (fld w 16 5)) (Fin.ofNat 32 (fld w 11 5)) (Fin.ofNat 32 (fld w 6 5)) (flag w 5)) else
  if fld w 0 6 == 1 && fld w 6 5 == 0 then
    some (.vmv (Fin.ofNat 16 (fld w 28 4)) (flag w 27) (Fin.ofNat 32 (fld w 16 5)) (Fin.ofNat 32 (fld w 11 5))) else
  if fld w 0 6 == 2 && fld w 6 5 == 0 then
    some (.vbcast (Fin.ofNat 16 (fld w 28 4)) (flag w 27) (Fin.ofNat 32 (fld w 16 5)) (Fin.ofNat 32 (fld w 11 5))) else
  none

/-- The words of OP 0x18 (02 R46). -/
def decodeOp18 (w : Nat) : Option Instr :=
  if fld w 0 5 == 0 then
    some (.vaddF (Fin.ofNat 16 (fld w 28 4)) (flag w 27) (Fin.ofNat 32 (fld w 16 5)) (Fin.ofNat 32 (fld w 11 5)) (Fin.ofNat 32 (fld w 6 5)) (flag w 5)) else
  if fld w 0 5 == 1 then
    some (.vsubF (Fin.ofNat 16 (fld w 28 4)) (flag w 27) (Fin.ofNat 32 (fld w 16 5)) (Fin.ofNat 32 (fld w 11 5)) (Fin.ofNat 32 (fld w 6 5)) (flag w 5)) else
  if fld w 0 5 == 2 then
    some (.vminF (Fin.ofNat 16 (fld w 28 4)) (flag w 27) (Fin.ofNat 32 (fld w 16 5)) (Fin.ofNat 32 (fld w 11 5)) (Fin.ofNat 32 (fld w 6 5)) (flag w 5)) else
  if fld w 0 5 == 3 then
    some (.vmaxF (Fin.ofNat 16 (fld w 28 4)) (flag w 27) (Fin.ofNat 32 (fld w 16 5)) (Fin.ofNat 32 (fld w 11 5)) (Fin.ofNat 32 (fld w 6 5)) (flag w 5)) else
  if fld w 0 6 == 6 && fld w 6 5 == 0 then
    some (.vabsF (Fin.ofNat 16 (fld w 28 4)) (flag w 27) (Fin.ofNat 32 (fld w 16 5)) (Fin.ofNat 32 (fld w 11 5))) else
  if fld w 0 6 == 7 && fld w 6 5 == 0 then
    some (.vnegF (Fin.ofNat 16 (fld w 28 4)) (flag w 27) (Fin.ofNat 32 (fld w 16 5)) (Fin.ofNat 32 (fld w 11 5))) else
  none

/-- The words of OP 0x19 (02 R46). -/
def decodeOp19 (w : Nat) : Option Instr :=
  if fld w 0 5 == 0 then
    some (.vmulF (Fin.ofNat 16 (fld w 28 4)) (flag w 27) (Fin.ofNat 32 (fld w 16 5)) (Fin.ofNat 32 (fld w 11 5)) (Fin.ofNat 32 (fld w 6 5)) (flag w 5)) else
  if fld w 0 5 == 2 then
    some (.vmaddF (Fin.ofNat 16 (fld w 28 4)) (flag w 27) (Fin.ofNat 32 (fld w 16 5)) (Fin.ofNat 32 (fld w 11 5)) (Fin.ofNat 32 (fld w 6 5)) (flag w 5)) else
  if fld w 0 5 == 3 then
    some (.vmsubF (Fin.ofNat 16 (fld w 28 4)) (flag w 27) (Fin.ofNat 32 (fld w 16 5)) (Fin.ofNat 32 (fld w 11 5)) (Fin.ofNat 32 (fld w 6 5)) (flag w 5)) else
  if fld w 0 5 == 4 then
    some (.vnmaddF (Fin.ofNat 16 (fld w 28 4)) (flag w 27) (Fin.ofNat 32 (fld w 16 5)) (Fin.ofNat 32 (fld w 11 5)) (Fin.ofNat 32 (fld w 6 5)) (flag w 5)) else
  if fld w 0 5 == 5 then
    some (.vdivF (Fin.ofNat 16 (fld w 28 4)) (flag w 27) (Fin.ofNat 32 (fld w 16 5)) (Fin.ofNat 32 (fld w 11 5)) (Fin.ofNat 32 (fld w 6 5)) (flag w 5)) else
  if fld w 0 5 == 6 then
    some (.vwaddF (Fin.ofNat 16 (fld w 28 4)) (flag w 27) (Fin.ofNat 32 (fld w 16 5)) (Fin.ofNat 32 (fld w 11 5)) (Fin.ofNat 32 (fld w 6 5)) (flag w 5)) else
  if fld w 0 5 == 7 then
    some (.vwmulF (Fin.ofNat 16 (fld w 28 4)) (flag w 27) (Fin.ofNat 32 (fld w 16 5)) (Fin.ofNat 32 (fld w 11 5)) (Fin.ofNat 32 (fld w 6 5)) (flag w 5)) else
  none

/-- The words of OP 0x1a (02 R46). -/
def decodeOp1A (w : Nat) : Option Instr :=
  if fld w 0 6 == 0 && fld w 6 5 == 0 then
    some (.vsqrt (Fin.ofNat 16 (fld w 28 4)) (flag w 27) (Fin.ofNat 32 (fld w 16 5)) (Fin.ofNat 32 (fld w 11 5))) else
  if fld w 0 6 == 1 && fld w 6 5 == 0 then
    some (.vrcpa (Fin.ofNat 16 (fld w 28 4)) (flag w 27) (Fin.ofNat 32 (fld w 16 5)) (Fin.ofNat 32 (fld w 11 5))) else
  if fld w 0 6 == 2 && fld w 6 5 == 0 then
    some (.vrsqa (Fin.ofNat 16 (fld w 28 4)) (flag w 27) (Fin.ofNat 32 (fld w 16 5)) (Fin.ofNat 32 (fld w 11 5))) else
  if fld w 0 6 == 3 then
    some (.vrcps (Fin.ofNat 16 (fld w 28 4)) (flag w 27) (Fin.ofNat 32 (fld w 16 5)) (Fin.ofNat 32 (fld w 11 5)) (Fin.ofNat 32 (fld w 6 5))) else
  if fld w 0 6 == 4 then
    some (.vrsqs (Fin.ofNat 16 (fld w 28 4)) (flag w 27) (Fin.ofNat 32 (fld w 16 5)) (Fin.ofNat 32 (fld w 11 5)) (Fin.ofNat 32 (fld w 6 5))) else
  if fld w 0 6 == 5 && fld w 6 5 == 0 then
    some (.vclass (Fin.ofNat 16 (fld w 28 4)) (flag w 27) (Fin.ofNat 32 (fld w 16 5)) (Fin.ofNat 32 (fld w 11 5))) else
  none

/-- The words of OP 0x1b (02 R46). -/
def decodeOp1B (w : Nat) : Option Instr :=
  if fld w 2 3 == 0 then
    some (.vcmpF (Fin.ofNat 16 (fld w 28 4)) (flag w 27) (Fin.ofNat 32 (fld w 16 5)) (Fin.ofNat 32 (fld w 11 5)) (Fin.ofNat 32 (fld w 6 5)) (flag w 5) (Fin.ofNat 4 (fld w 0 2))) else
  none

/-- The words of OP 0x1c (02 R46). -/
def decodeOp1C (w : Nat) : Option Instr :=
  if fld w 0 3 == 0 then
    some (.vcvt (Fin.ofNat 16 (fld w 28 4)) (flag w 27) (Fin.ofNat 32 (fld w 16 5)) (Fin.ofNat 32 (fld w 11 5)) (Fin.ofNat 32 (fld w 6 5)) (Fin.ofNat 8 (fld w 3 3))) else
  none

/-- The words of OP 0x1d (02 R46). -/
def decodeOp1D (w : Nat) : Option Instr :=
  if fld w 0 6 == 0 then
    some (.vldsc (Fin.ofNat 16 (fld w 28 4)) (flag w 27) (Fin.ofNat 32 (fld w 16 5)) (Fin.ofNat 32 (fld w 11 5)) (Fin.ofNat 32 (fld w 6 5))) else
  if fld w 0 6 == 1 && fld w 6 5 == 0 then
    some (.vmvscToScale (Fin.ofNat 16 (fld w 28 4)) (flag w 27) (Fin.ofNat 32 (fld w 16 5)) (Fin.ofNat 32 (fld w 11 5))) else
  if fld w 0 6 == 2 && fld w 6 5 == 0 then
    some (.vmvscFromScale (Fin.ofNat 16 (fld w 28 4)) (flag w 27) (Fin.ofNat 32 (fld w 16 5)) (Fin.ofNat 32 (fld w 11 5))) else
  if fld w 0 6 == 3 then
    some (.vapsc (Fin.ofNat 16 (fld w 28 4)) (flag w 27) (Fin.ofNat 32 (fld w 16 5)) (Fin.ofNat 32 (fld w 11 5)) (Fin.ofNat 32 (fld w 6 5))) else
  none

/-- The words of OP 0x1e (02 R46). -/
def decodeOp1E (w : Nat) : Option Instr :=
  if fld w 0 6 == 0 then
    some (.mand (Fin.ofNat 16 (fld w 28 4)) (flag w 27) (Fin.ofNat 32 (fld w 16 5)) (Fin.ofNat 32 (fld w 11 5)) (Fin.ofNat 32 (fld w 6 5))) else
  if fld w 0 6 == 1 then
    some (.mor (Fin.ofNat 16 (fld w 28 4)) (flag w 27) (Fin.ofNat 32 (fld w 16 5)) (Fin.ofNat 32 (fld w 11 5)) (Fin.ofNat 32 (fld w 6 5))) else
  if fld w 0 6 == 2 then
    some (.mxor (Fin.ofNat 16 (fld w 28 4)) (flag w 27) (Fin.ofNat 32 (fld w 16 5)) (Fin.ofNat 32 (fld w 11 5)) (Fin.ofNat 32 (fld w 6 5))) else
  if fld w 0 6 == 3 && fld w 6 5 == 0 then
    some (.mnot (Fin.ofNat 16 (fld w 28 4)) (flag w 27) (Fin.ofNat 32 (fld w 16 5)) (Fin.ofNat 32 (fld w 11 5))) else
  if fld w 0 6 == 4 && fld w 6 5 == 0 then
    some (.msbf (Fin.ofNat 16 (fld w 28 4)) (flag w 27) (Fin.ofNat 32 (fld w 16 5)) (Fin.ofNat 32 (fld w 11 5))) else
  if fld w 0 6 == 5 && fld w 6 5 == 0 then
    some (.mset (Fin.ofNat 16 (fld w 28 4)) (flag w 27) (Fin.ofNat 32 (fld w 16 5)) (Fin.ofNat 32 (fld w 11 5))) else
  none

/-- The words of OP 0x1f (02 R46). -/
def decodeOp1F (w : Nat) : Option Instr :=
  if fld w 0 6 == 0 && fld w 6 5 == 0 then
    some (.mpopc (Fin.ofNat 16 (fld w 28 4)) (flag w 27) (Fin.ofNat 32 (fld w 16 5)) (Fin.ofNat 32 (fld w 11 5))) else
  if fld w 0 6 == 1 && fld w 6 5 == 0 then
    some (.mfirst (Fin.ofNat 16 (fld w 28 4)) (flag w 27) (Fin.ofNat 32 (fld w 16 5)) (Fin.ofNat 32 (fld w 11 5))) else
  if fld w 0 6 == 2 && fld w 6 5 == 0 then
    some (.viota (Fin.ofNat 16 (fld w 28 4)) (flag w 27) (Fin.ofNat 32 (fld w 16 5)) (Fin.ofNat 32 (fld w 11 5))) else
  none

/-- The words of OP 0x20 (02 R46). -/
def decodeOp20 (w : Nat) : Option Instr :=
  if fld w 0 5 == 0 && fld w 6 5 == 0 then
    some (.vld (Fin.ofNat 16 (fld w 28 4)) (flag w 27) (Fin.ofNat 32 (fld w 16 5)) (Fin.ofNat 32 (fld w 11 5)) (flag w 5)) else
  if fld w 0 5 == 1 && fld w 6 5 == 0 then
    some (.vlds (Fin.ofNat 16 (fld w 28 4)) (flag w 27) (Fin.ofNat 32 (fld w 16 5)) (Fin.ofNat 32 (fld w 11 5)) (flag w 5)) else
  if fld w 0 3 == 2 && fld w 4 1 == 0 then
    some (.vldx (Fin.ofNat 16 (fld w 28 4)) (flag w 27) (Fin.ofNat 32 (fld w 16 5)) (Fin.ofNat 32 (fld w 11 5)) (Fin.ofNat 32 (fld w 6 5)) (flag w 5) (flag w 3)) else
  if fld w 0 5 == 3 then
    some (.vldt (Fin.ofNat 16 (fld w 28 4)) (flag w 27) (Fin.ofNat 32 (fld w 16 5)) (Fin.ofNat 32 (fld w 11 5)) (Fin.ofNat 32 (fld w 6 5)) (flag w 5)) else
  if fld w 0 5 == 4 && fld w 6 5 == 0 && fld w 16 5 == 0 then
    some (.vpf (Fin.ofNat 16 (fld w 28 4)) (flag w 27) (Fin.ofNat 32 (fld w 11 5)) (flag w 5)) else
  none

/-- The words of OP 0x21 (02 R46). -/
def decodeOp21 (w : Nat) : Option Instr :=
  if fld w 0 4 == 0 && fld w 6 5 == 0 then
    some (.vst (Fin.ofNat 16 (fld w 28 4)) (flag w 27) (Fin.ofNat 32 (fld w 16 5)) (Fin.ofNat 32 (fld w 11 5)) (flag w 5) (flag w 4)) else
  if fld w 0 4 == 1 && fld w 6 5 == 0 then
    some (.vsts (Fin.ofNat 16 (fld w 28 4)) (flag w 27) (Fin.ofNat 32 (fld w 16 5)) (Fin.ofNat 32 (fld w 11 5)) (flag w 5) (flag w 4)) else
  if fld w 0 3 == 2 then
    some (.vstx (Fin.ofNat 16 (fld w 28 4)) (flag w 27) (Fin.ofNat 32 (fld w 16 5)) (Fin.ofNat 32 (fld w 11 5)) (Fin.ofNat 32 (fld w 6 5)) (flag w 5) (flag w 4) (flag w 3)) else
  if fld w 0 3 == 3 then
    some (.vstxu (Fin.ofNat 16 (fld w 28 4)) (flag w 27) (Fin.ofNat 32 (fld w 16 5)) (Fin.ofNat 32 (fld w 11 5)) (Fin.ofNat 32 (fld w 6 5)) (flag w 5) (flag w 4) (flag w 3)) else
  if fld w 0 4 == 4 then
    some (.vstt (Fin.ofNat 16 (fld w 28 4)) (flag w 27) (Fin.ofNat 32 (fld w 16 5)) (Fin.ofNat 32 (fld w 11 5)) (Fin.ofNat 32 (fld w 6 5)) (flag w 5) (flag w 4)) else
  none

/-- The words of OP 0x22 (02 R46). -/
def decodeOp22 (w : Nat) : Option Instr :=
  if fld w 3 2 == 0 then
    some (.vlseg (Fin.ofNat 16 (fld w 28 4)) (flag w 27) (Fin.ofNat 32 (fld w 16 5)) (Fin.ofNat 32 (fld w 11 5)) (Fin.ofNat 32 (fld w 6 5)) (flag w 5) (Fin.ofNat 8 (fld w 0 3))) else
  if fld w 3 1 == 1 then
    some (.vsseg (Fin.ofNat 16 (fld w 28 4)) (flag w 27) (Fin.ofNat 32 (fld w 16 5)) (Fin.ofNat 32 (fld w 11 5)) (Fin.ofNat 32 (fld w 6 5)) (flag w 5) (flag w 4) (Fin.ofNat 8 (fld w 0 3))) else
  none

/-- The words of OP 0x23 (02 R46). -/
def decodeOp23 (w : Nat) : Option Instr :=
  if fld w 0 6 == 0 && fld w 6 5 == 0 then
    some (.vbind (Fin.ofNat 16 (fld w 28 4)) (flag w 27) (Fin.ofNat 32 (fld w 16 5)) (Fin.ofNat 32 (fld w 11 5))) else
  if fld w 0 6 == 1 && fld w 6 5 == 0 && fld w 11 5 == 0 then
    some (.vunbind (Fin.ofNat 16 (fld w 28 4)) (flag w 27) (Fin.ofNat 32 (fld w 16 5))) else
  none

/-- The words of OP 0x26 (02 R46). -/
def decodeOp26 (w : Nat) : Option Instr :=
  if fld w 0 6 == 0 then
    some (.vperm (Fin.ofNat 16 (fld w 28 4)) (flag w 27) (Fin.ofNat 32 (fld w 16 5)) (Fin.ofNat 32 (fld w 11 5)) (Fin.ofNat 32 (fld w 6 5))) else
  if fld w 0 6 == 1 then
    some (.vslu (Fin.ofNat 16 (fld w 28 4)) (flag w 27) (Fin.ofNat 32 (fld w 16 5)) (Fin.ofNat 32 (fld w 11 5)) (Fin.ofNat 32 (fld w 6 5))) else
  if fld w 0 6 == 2 then
    some (.vsld (Fin.ofNat 16 (fld w 28 4)) (flag w 27) (Fin.ofNat 32 (fld w 16 5)) (Fin.ofNat 32 (fld w 11 5)) (Fin.ofNat 32 (fld w 6 5))) else
  if fld w 0 6 == 3 && fld w 6 5 == 0 then
    some (.vcompress (Fin.ofNat 16 (fld w 28 4)) (flag w 27) (Fin.ofNat 32 (fld w 16 5)) (Fin.ofNat 32 (fld w 11 5))) else
  if fld w 0 6 == 4 && fld w 6 5 == 0 then
    some (.vexpand (Fin.ofNat 16 (fld w 28 4)) (flag w 27) (Fin.ofNat 32 (fld w 16 5)) (Fin.ofNat 32 (fld w 11 5))) else
  none

/-- The words of OP 0x27 (02 R46). -/
def decodeOp27 (w : Nat) : Option Instr :=
  if fld w 4 2 == 0 then
    some (.vred (Fin.ofNat 16 (fld w 28 4)) (flag w 27) (Fin.ofNat 32 (fld w 16 5)) (Fin.ofNat 32 (fld w 11 5)) (Fin.ofNat 32 (fld w 6 5)) (flag w 3) (Fin.ofNat 8 (fld w 0 3))) else
  if fld w 4 2 == 1 then
    some (.vscan (Fin.ofNat 16 (fld w 28 4)) (flag w 27) (Fin.ofNat 32 (fld w 16 5)) (Fin.ofNat 32 (fld w 11 5)) (Fin.ofNat 32 (fld w 6 5)) (flag w 3) (Fin.ofNat 8 (fld w 0 3))) else
  none

/-- The words of OP 0x28 (02 R46). -/
def decodeOp28 (w : Nat) : Option Instr :=
  if fld w 0 6 == 0 && fld w 6 5 == 0 && fld w 16 5 == 0 then
    some (.vfetch (Fin.ofNat 16 (fld w 28 4)) (flag w 27) (Fin.ofNat 32 (fld w 11 5))) else
  if fld w 0 6 == 1 && fld w 6 5 == 0 && fld w 16 5 == 0 then
    some (.vpbr (Fin.ofNat 16 (fld w 28 4)) (flag w 27) (Fin.ofNat 32 (fld w 11 5))) else
  if fld w 0 6 == 2 && fld w 6 5 == 0 && fld w 11 5 == 0 && fld w 16 5 == 0 then
    some (.vpend (Fin.ofNat 16 (fld w 28 4)) (flag w 27)) else
  if fld w 0 6 == 3 && fld w 6 5 == 0 && fld w 16 5 == 0 then
    some (.vpsend (Fin.ofNat 16 (fld w 28 4)) (flag w 27) (Fin.ofNat 32 (fld w 11 5))) else
  if fld w 0 6 == 4 && fld w 6 5 == 0 && fld w 11 5 == 0 then
    some (.vprecv (Fin.ofNat 16 (fld w 28 4)) (flag w 27) (Fin.ofNat 32 (fld w 16 5))) else
  none

/-- The words of OP 0x2a (02 R46). -/
def decodeOp2A (w : Nat) : Option Instr :=
  if fld w 0 6 == 0 && fld w 6 5 == 0 then
    some (.vconf (Fin.ofNat 16 (fld w 28 4)) (flag w 27) (Fin.ofNat 32 (fld w 16 5)) (Fin.ofNat 32 (fld w 11 5))) else
  if fld w 0 6 == 1 then
    some (.vcomb (Fin.ofNat 16 (fld w 28 4)) (flag w 27) (Fin.ofNat 32 (fld w 16 5)) (Fin.ofNat 32 (fld w 11 5)) (Fin.ofNat 32 (fld w 6 5))) else
  if fld w 0 6 == 2 then
    some (.visect (Fin.ofNat 16 (fld w 28 4)) (flag w 27) (Fin.ofNat 32 (fld w 16 5)) (Fin.ofNat 32 (fld w 11 5)) (Fin.ofNat 32 (fld w 6 5))) else
  none

/-- The words of OP 0x2b (02 R46). -/
def decodeOp2B (w : Nat) : Option Instr :=
  if fld w 0 6 == 0 && fld w 6 5 == 0 then
    some (.cins (Fin.ofNat 16 (fld w 28 4)) (flag w 27) (Fin.ofNat 32 (fld w 16 5)) (Fin.ofNat 32 (fld w 11 5))) else
  if fld w 0 6 == 1 then
    some (.clook (Fin.ofNat 16 (fld w 28 4)) (flag w 27) (Fin.ofNat 32 (fld w 16 5)) (Fin.ofNat 32 (fld w 11 5)) (Fin.ofNat 32 (fld w 6 5))) else
  if fld w 0 6 == 2 && fld w 16 5 == 0 then
    some (.cacc (Fin.ofNat 16 (fld w 28 4)) (flag w 27) (Fin.ofNat 32 (fld w 11 5)) (Fin.ofNat 32 (fld w 6 5))) else
  if fld w 0 6 == 3 && fld w 6 5 == 0 && fld w 11 5 == 0 then
    some (.cdrain (Fin.ofNat 16 (fld w 28 4)) (flag w 27) (Fin.ofNat 32 (fld w 16 5))) else
  if fld w 0 6 == 4 && fld w 6 5 == 0 && fld w 11 5 == 0 && fld w 16 5 == 0 then
    some (.cclr (Fin.ofNat 16 (fld w 28 4)) (flag w 27)) else
  none

/-- The words of OP 0x2c (02 R46). -/
def decodeOp2C (w : Nat) : Option Instr :=
  if fld w 0 5 == 0 then
    some (.vgathl (Fin.ofNat 16 (fld w 28 4)) (flag w 27) (Fin.ofNat 32 (fld w 16 5)) (Fin.ofNat 32 (fld w 11 5)) (Fin.ofNat 32 (fld w 6 5)) (flag w 5)) else
  if fld w 0 2 == 1 then
    some (.vscatc (Fin.ofNat 16 (fld w 28 4)) (flag w 27) (Fin.ofNat 32 (fld w 16 5)) (Fin.ofNat 32 (fld w 11 5)) (Fin.ofNat 32 (fld w 6 5)) (flag w 5) (Fin.ofNat 8 (fld w 2 3))) else
  if fld w 0 6 == 2 && fld w 6 5 == 0 && fld w 16 5 == 0 then
    some (.fibdef (Fin.ofNat 16 (fld w 28 4)) (flag w 27) (Fin.ofNat 32 (fld w 11 5))) else
  if fld w 0 6 == 3 && fld w 6 5 == 0 && fld w 11 5 == 0 && fld w 16 5 == 0 then
    some (.fibend (Fin.ofNat 16 (fld w 28 4)) (flag w 27)) else
  none

/-- The words of OP 0x2d (02 R46). -/
def decodeOp2D (w : Nat) : Option Instr :=
  if fld w 0 6 == 0 && fld w 6 5 == 0 && fld w 11 5 == 0 && fld w 16 5 == 0 && fld w 27 1 == 0 then
    some (.ten (Fin.ofNat 16 (fld w 28 4))) else
  if fld w 0 6 == 1 && fld w 6 5 == 0 && fld w 11 5 == 0 && fld w 16 5 == 0 && fld w 27 1 == 0 then
    some (.tdis (Fin.ofNat 16 (fld w 28 4))) else
  if fld w 0 6 == 2 && fld w 6 5 == 0 && fld w 11 5 == 0 && fld w 27 1 == 0 then
    some (.tzero (Fin.ofNat 16 (fld w 28 4)) (Fin.ofNat 4 (fld w 19 2)) (Fin.ofNat 8 (fld w 16 3))) else
  none

/-- The words of OP 0x2e (02 R46). -/
def decodeOp2E (w : Nat) : Option Instr :=
  if fld w 0 6 == 0 && fld w 27 1 == 0 then
    some (.tmop (Fin.ofNat 16 (fld w 28 4)) (Fin.ofNat 4 (fld w 19 2)) (Fin.ofNat 8 (fld w 16 3)) (Fin.ofNat 32 (fld w 11 5)) (Fin.ofNat 32 (fld w 6 5))) else
  if fld w 0 4 == 1 && fld w 27 1 == 0 then
    some (.tmma (Fin.ofNat 16 (fld w 28 4)) (Fin.ofNat 4 (fld w 19 2)) (Fin.ofNat 8 (fld w 16 3)) (Fin.ofNat 32 (fld w 11 5)) (Fin.ofNat 32 (fld w 6 5)) (flag w 5) (flag w 4)) else
  none

/-- The words of OP 0x2f (02 R46). -/
def decodeOp2F (w : Nat) : Option Instr :=
  if fld w 0 4 == 0 && fld w 27 1 == 0 then
    some (.tmms (Fin.ofNat 16 (fld w 28 4)) (Fin.ofNat 4 (fld w 19 2)) (Fin.ofNat 8 (fld w 16 3)) (Fin.ofNat 32 (fld w 11 5)) (Fin.ofNat 32 (fld w 6 5)) (flag w 5) (flag w 4)) else
  if fld w 0 4 == 1 && fld w 27 1 == 0 then
    some (.tmf64 (Fin.ofNat 16 (fld w 28 4)) (Fin.ofNat 4 (fld w 19 2)) (Fin.ofNat 8 (fld w 16 3)) (Fin.ofNat 32 (fld w 11 5)) (Fin.ofNat 32 (fld w 6 5)) (flag w 5) (flag w 4)) else
  none

/-- The words of OP 0x30 (02 R46). -/
def decodeOp30 (w : Nat) : Option Instr :=
  if fld w 0 5 == 0 && fld w 6 5 == 0 && fld w 19 2 == 0 && fld w 27 1 == 0 then
    some (.tld (Fin.ofNat 16 (fld w 28 4)) (Fin.ofNat 8 (fld w 16 3)) (Fin.ofNat 32 (fld w 11 5)) (flag w 5)) else
  if fld w 0 5 == 1 && fld w 6 5 == 0 && fld w 19 2 == 0 && fld w 27 1 == 0 then
    some (.tst (Fin.ofNat 16 (fld w 28 4)) (Fin.ofNat 8 (fld w 16 3)) (Fin.ofNat 32 (fld w 11 5)) (flag w 5)) else
  none

/-- The words of OP 0x31 (02 R46). -/
def decodeOp31 (w : Nat) : Option Instr :=
  if fld w 0 4 == 0 && fld w 5 1 == 0 && fld w 19 2 == 0 && fld w 27 1 == 0 then
    some (.trowmv (Fin.ofNat 16 (fld w 28 4)) (Fin.ofNat 8 (fld w 16 3)) (Fin.ofNat 32 (fld w 11 5)) (Fin.ofNat 32 (fld w 6 5)) (flag w 4)) else
  if fld w 0 4 == 1 && fld w 5 1 == 0 && fld w 19 2 == 0 && fld w 27 1 == 0 then
    some (.tcolmv (Fin.ofNat 16 (fld w 28 4)) (Fin.ofNat 8 (fld w 16 3)) (Fin.ofNat 32 (fld w 11 5)) (Fin.ofNat 32 (fld w 6 5)) (flag w 4)) else
  if fld w 0 4 == 2 && fld w 5 1 == 0 && fld w 6 5 == 0 && fld w 19 2 == 0 && fld w 27 1 == 0 then
    some (.tvmv (Fin.ofNat 16 (fld w 28 4)) (Fin.ofNat 8 (fld w 16 3)) (Fin.ofNat 32 (fld w 11 5)) (flag w 4)) else
  none

/-- The words of OP 0x32 (02 R46). -/
def decodeOp32 (w : Nat) : Option Instr :=
  if fld w 0 6 == 0 && fld w 16 5 == 0 && fld w 27 1 == 0 then
    some (.wbld (Fin.ofNat 16 (fld w 28 4)) (Fin.ofNat 32 (fld w 11 5)) (Fin.ofNat 32 (fld w 6 5))) else
  if fld w 0 6 == 1 && fld w 6 5 == 0 && fld w 16 5 == 0 && fld w 27 1 == 0 then
    some (.wbfmt (Fin.ofNat 16 (fld w 28 4)) (Fin.ofNat 32 (fld w 11 5))) else
  if fld w 0 6 == 2 && fld w 6 5 == 0 && fld w 16 5 == 0 && fld w 27 1 == 0 then
    some (.tchk (Fin.ofNat 16 (fld w 28 4)) (Fin.ofNat 32 (fld w 11 5))) else
  if fld w 0 6 == 3 && fld w 6 5 == 0 && fld w 16 5 == 0 && fld w 27 1 == 0 then
    some (.tchkrd (Fin.ofNat 16 (fld w 28 4)) (Fin.ofNat 32 (fld w 11 5))) else
  none

/-- The words of OP 0x33 (02 R46). -/
def decodeOp33 (w : Nat) : Option Instr :=
  if fld w 0 4 == 0 && fld w 6 5 == 0 && fld w 27 1 == 0 then
    some (.cpy (Fin.ofNat 16 (fld w 28 4)) (Fin.ofNat 32 (fld w 16 5)) (Fin.ofNat 32 (fld w 11 5)) (flag w 5) (flag w 4)) else
  if fld w 0 4 == 1 && fld w 6 5 == 0 && fld w 27 1 == 0 then
    some (.cpy2 (Fin.ofNat 16 (fld w 28 4)) (Fin.ofNat 32 (fld w 16 5)) (Fin.ofNat 32 (fld w 11 5)) (flag w 5) (flag w 4)) else
  if fld w 0 4 == 2 && fld w 27 1 == 0 then
    some (.cpyt (Fin.ofNat 16 (fld w 28 4)) (Fin.ofNat 32 (fld w 16 5)) (Fin.ofNat 32 (fld w 11 5)) (Fin.ofNat 32 (fld w 6 5)) (flag w 5) (flag w 4)) else
  if fld w 0 4 == 3 && fld w 6 5 == 0 && fld w 27 1 == 0 then
    some (.cpyr (Fin.ofNat 16 (fld w 28 4)) (Fin.ofNat 32 (fld w 16 5)) (Fin.ofNat 32 (fld w 11 5)) (flag w 5) (flag w 4)) else
  if fld w 0 4 == 4 && fld w 6 5 == 0 && fld w 27 1 == 0 then
    some (.cpym (Fin.ofNat 16 (fld w 28 4)) (Fin.ofNat 32 (fld w 16 5)) (Fin.ofNat 32 (fld w 11 5)) (flag w 5) (flag w 4)) else
  if fld w 0 4 == 5 && fld w 6 5 == 0 && fld w 27 1 == 0 then
    some (.cpyx (Fin.ofNat 16 (fld w 28 4)) (Fin.ofNat 32 (fld w 16 5)) (Fin.ofNat 32 (fld w 11 5)) (flag w 5) (flag w 4)) else
  if fld w 0 5 == 6 && fld w 6 5 == 0 && fld w 27 1 == 0 then
    some (.cpyfill (Fin.ofNat 16 (fld w 28 4)) (Fin.ofNat 32 (fld w 16 5)) (Fin.ofNat 32 (fld w 11 5)) (flag w 5)) else
  if fld w 0 4 == 7 && fld w 6 5 == 0 && fld w 27 1 == 0 then
    some (.cpybc (Fin.ofNat 16 (fld w 28 4)) (Fin.ofNat 32 (fld w 16 5)) (Fin.ofNat 32 (fld w 11 5)) (flag w 5) (flag w 4)) else
  none

/-- The words of OP 0x36 (02 R46). -/
def decodeOp36 (w : Nat) : Option Instr :=
  if fld w 0 3 == 0 && fld w 6 5 == 0 && fld w 11 5 == 0 && fld w 16 5 == 0 && fld w 27 1 == 0 then
    some (.fence (Fin.ofNat 16 (fld w 28 4)) (Fin.ofNat 8 (fld w 3 3))) else
  if fld w 0 3 == 1 && fld w 6 5 == 0 && fld w 11 5 == 0 && fld w 16 5 == 0 && fld w 27 1 == 0 then
    some (.acq (Fin.ofNat 16 (fld w 28 4)) (Fin.ofNat 8 (fld w 3 3))) else
  if fld w 0 3 == 2 && fld w 6 5 == 0 && fld w 11 5 == 0 && fld w 16 5 == 0 && fld w 27 1 == 0 then
    some (.rel (Fin.ofNat 16 (fld w 28 4)) (Fin.ofNat 8 (fld w 3 3))) else
  none

/-- The words of OP 0x37 (02 R46). -/
def decodeOp37 (w : Nat) : Option Instr :=
  if fld w 0 5 == 0 && fld w 16 5 == 0 && fld w 27 1 == 0 then
    some (.barinit (Fin.ofNat 16 (fld w 28 4)) (Fin.ofNat 32 (fld w 11 5)) (Fin.ofNat 32 (fld w 6 5)) (flag w 5)) else
  if fld w 0 5 == 1 && fld w 16 5 == 0 && fld w 27 1 == 0 then
    some (.bararr (Fin.ofNat 16 (fld w 28 4)) (Fin.ofNat 32 (fld w 11 5)) (Fin.ofNat 32 (fld w 6 5)) (flag w 5)) else
  if fld w 0 5 == 2 && fld w 6 5 == 0 && fld w 16 5 == 0 && fld w 27 1 == 0 then
    some (.barwait (Fin.ofNat 16 (fld w 28 4)) (Fin.ofNat 32 (fld w 11 5)) (flag w 5)) else
  if fld w 0 6 == 3 && fld w 6 5 == 0 && fld w 16 5 == 0 && fld w 27 1 == 0 then
    some (.wmwait (Fin.ofNat 16 (fld w 28 4)) (Fin.ofNat 32 (fld w 11 5))) else
  none

/-- The words of OP 0x39 (02 R46). -/
def decodeOp39 (w : Nat) : Option Instr :=
  if fld w 0 6 == 0 && fld w 6 5 == 0 && fld w 11 5 == 0 && fld w 16 5 == 0 && fld w 27 1 == 0 then
    some (.relrcv (Fin.ofNat 16 (fld w 28 4))) else
  if fld w 0 6 == 1 && fld w 16 5 == 0 && fld w 27 1 == 0 then
    some (.ckpbeg (Fin.ofNat 16 (fld w 28 4)) (Fin.ofNat 32 (fld w 11 5)) (Fin.ofNat 32 (fld w 6 5))) else
  if fld w 0 6 == 2 && fld w 6 5 == 0 && fld w 16 5 == 0 && fld w 27 1 == 0 then
    some (.ckpseal (Fin.ofNat 16 (fld w 28 4)) (Fin.ofNat 32 (fld w 11 5))) else
  if fld w 0 6 == 3 && fld w 6 5 == 0 && fld w 27 1 == 0 then
    some (.ckpverify (Fin.ofNat 16 (fld w 28 4)) (Fin.ofNat 32 (fld w 16 5)) (Fin.ofNat 32 (fld w 11 5))) else
  if fld w 0 6 == 4 && fld w 6 5 == 0 && fld w 11 5 == 0 && fld w 16 5 == 0 && fld w 27 1 == 0 then
    some (.ckpabort (Fin.ofNat 16 (fld w 28 4))) else
  if fld w 0 6 == 5 && fld w 11 5 == 0 && fld w 27 1 == 0 then
    some (.rprd (Fin.ofNat 16 (fld w 28 4)) (Fin.ofNat 32 (fld w 16 5)) (Fin.ofNat 32 (fld w 6 5))) else
  none

/-- The words of OP 0x3a (02 R46). -/
def decodeOp3A (w : Nat) : Option Instr :=
  if fld w 0 6 == 0 && fld w 6 5 == 0 && fld w 16 5 == 0 && fld w 27 1 == 0 then
    some (.launch (Fin.ofNat 16 (fld w 28 4)) (Fin.ofNat 32 (fld w 11 5))) else
  if fld w 0 6 == 1 && fld w 6 5 == 0 && fld w 27 1 == 0 then
    some (.launchn (Fin.ofNat 16 (fld w 28 4)) (Fin.ofNat 32 (fld w 16 5)) (Fin.ofNat 32 (fld w 11 5))) else
  if fld w 0 6 == 2 && fld w 16 5 == 0 && fld w 27 1 == 0 then
    some (.cancel (Fin.ofNat 16 (fld w 28 4)) (Fin.ofNat 32 (fld w 11 5)) (Fin.ofNat 32 (fld w 6 5))) else
  if fld w 0 6 == 3 && fld w 6 5 == 0 && fld w 27 1 == 0 then
    some (.cntrd (Fin.ofNat 16 (fld w 28 4)) (Fin.ofNat 32 (fld w 16 5)) (Fin.ofNat 32 (fld w 11 5))) else
  none

/-- The words of OP 0x3b (02 R46). -/
def decodeOp3B (w : Nat) : Option Instr :=
  if fld w 0 6 == 0 && fld w 16 5 == 0 && fld w 27 1 == 0 then
    some (.fork (Fin.ofNat 16 (fld w 28 4)) (Fin.ofNat 32 (fld w 11 5)) (Fin.ofNat 32 (fld w 6 5))) else
  if fld w 0 6 == 1 && fld w 6 5 == 0 && fld w 11 5 == 0 && fld w 16 5 == 0 && fld w 27 1 == 0 then
    some (.join (Fin.ofNat 16 (fld w 28 4))) else
  if fld w 0 6 == 2 && fld w 6 5 == 0 && fld w 11 5 == 0 && fld w 16 5 == 0 && fld w 27 1 == 0 then
    some (.send (Fin.ofNat 16 (fld w 28 4))) else
  if fld w 0 6 == 3 && fld w 6 5 == 0 && fld w 11 5 == 0 && fld w 16 5 == 0 && fld w 27 1 == 0 then
    some (.yield (Fin.ofNat 16 (fld w 28 4))) else
  if fld w 0 6 == 4 && fld w 6 5 == 0 && fld w 11 5 == 0 && fld w 16 5 == 0 && fld w 27 1 == 0 then
    some (.uexit (Fin.ofNat 16 (fld w 28 4))) else
  if fld w 0 6 == 5 && fld w 6 5 == 0 && fld w 16 5 == 0 && fld w 27 1 == 0 then
    some (.notify (Fin.ofNat 16 (fld w 28 4)) (Fin.ofNat 32 (fld w 11 5))) else
  none

/-- The words of OP 0x3c (02 R46). -/
def decodeOp3C (w : Nat) : Option Instr :=
  if fld w 0 6 == 0 && fld w 11 5 == 0 && fld w 16 5 == 0 && fld w 27 1 == 0 then
    some (.trap (Fin.ofNat 16 (fld w 28 4)) (Fin.ofNat 32 (fld w 6 5))) else
  if fld w 0 6 == 1 && fld w 6 5 == 0 && fld w 11 5 == 0 && fld w 16 5 == 0 && fld w 27 1 == 0 then
    some (.eret (Fin.ofNat 16 (fld w 28 4))) else
  if fld w 0 6 == 2 && fld w 6 5 == 0 && fld w 11 5 == 0 && fld w 16 5 == 0 && fld w 27 1 == 0 then
    some (.mcall (Fin.ofNat 16 (fld w 28 4))) else
  if fld w 0 6 == 3 && fld w 6 5 == 0 && fld w 11 5 == 0 && fld w 16 5 == 0 && fld w 27 1 == 0 then
    some (.halt (Fin.ofNat 16 (fld w 28 4))) else
  none

/-- The words of OP 0x3d (02 R46). -/
def decodeOp3D (w : Nat) : Option Instr :=
  if fld w 0 6 == 0 && fld w 16 5 == 0 && fld w 27 1 == 0 then
    some (.vptwr (Fin.ofNat 16 (fld w 28 4)) (Fin.ofNat 32 (fld w 11 5)) (Fin.ofNat 32 (fld w 6 5))) else
  if fld w 0 6 == 1 && fld w 16 5 == 0 && fld w 27 1 == 0 then
    some (.tlbinv (Fin.ofNat 16 (fld w 28 4)) (Fin.ofNat 32 (fld w 11 5)) (Fin.ofNat 32 (fld w 6 5))) else
  if fld w 0 6 == 2 && fld w 6 5 == 0 && fld w 16 5 == 0 && fld w 27 1 == 0 then
    some (.ctxsave (Fin.ofNat 16 (fld w 28 4)) (Fin.ofNat 32 (fld w 11 5))) else
  if fld w 0 6 == 3 && fld w 6 5 == 0 && fld w 16 5 == 0 && fld w 27 1 == 0 then
    some (.ctxrest (Fin.ofNat 16 (fld w 28 4)) (Fin.ofNat 32 (fld w 11 5))) else
  none

/-- The words of OP 0x3e (02 R46). -/
def decodeOp3E (w : Nat) : Option Instr :=
  if fld w 0 6 == 0 && fld w 11 5 == 0 && fld w 16 5 == 0 && fld w 27 1 == 0 then
    some (.brk (Fin.ofNat 16 (fld w 28 4)) (Fin.ofNat 32 (fld w 6 5))) else
  if fld w 0 6 == 1 && fld w 6 5 == 0 && fld w 16 5 == 0 && fld w 27 1 == 0 then
    some (.tmark (Fin.ofNat 16 (fld w 28 4)) (Fin.ofNat 32 (fld w 11 5))) else
  if fld w 0 6 == 2 && fld w 6 5 == 0 && fld w 16 5 == 0 && fld w 27 1 == 0 then
    some (.smpl (Fin.ofNat 16 (fld w 28 4)) (Fin.ofNat 32 (fld w 11 5))) else
  none

/-- The row of the opcode map that a word belongs to, before the checks of `Instr.wf`. -/
def decodeRow (w : Nat) : Except DecodeError Instr :=
  let pick (o : Option Instr) : Except DecodeError Instr :=
    match o with
    | some i => .ok i
    | none => .error (.unassigned (fld w 21 6))
  match fld w 21 6 with
  | 0x01 => pick (decodeOp01 w)
  | 0x02 => pick (decodeOp02 w)
  | 0x03 => pick (decodeOp03 w)
  | 0x04 => pick (decodeOp04 w)
  | 0x05 => pick (decodeOp05 w)
  | 0x06 => pick (decodeOp06 w)
  | 0x07 => pick (decodeOp07 w)
  | 0x08 => pick (decodeOp08 w)
  | 0x09 => pick (decodeOp09 w)
  | 0x0a => pick (decodeOp0A w)
  | 0x0b => pick (decodeOp0B w)
  | 0x0c => pick (decodeOp0C w)
  | 0x0d => pick (decodeOp0D w)
  | 0x0e => pick (decodeOp0E w)
  | 0x0f => pick (decodeOp0F w)
  | 0x10 => pick (decodeOp10 w)
  | 0x11 => pick (decodeOp11 w)
  | 0x12 => pick (decodeOp12 w)
  | 0x13 => pick (decodeOp13 w)
  | 0x14 => pick (decodeOp14 w)
  | 0x18 => pick (decodeOp18 w)
  | 0x19 => pick (decodeOp19 w)
  | 0x1a => pick (decodeOp1A w)
  | 0x1b => pick (decodeOp1B w)
  | 0x1c => pick (decodeOp1C w)
  | 0x1d => pick (decodeOp1D w)
  | 0x1e => pick (decodeOp1E w)
  | 0x1f => pick (decodeOp1F w)
  | 0x20 => pick (decodeOp20 w)
  | 0x21 => pick (decodeOp21 w)
  | 0x22 => pick (decodeOp22 w)
  | 0x23 => pick (decodeOp23 w)
  | 0x26 => pick (decodeOp26 w)
  | 0x27 => pick (decodeOp27 w)
  | 0x28 => pick (decodeOp28 w)
  | 0x2a => pick (decodeOp2A w)
  | 0x2b => pick (decodeOp2B w)
  | 0x2c => pick (decodeOp2C w)
  | 0x2d => pick (decodeOp2D w)
  | 0x2e => pick (decodeOp2E w)
  | 0x2f => pick (decodeOp2F w)
  | 0x30 => pick (decodeOp30 w)
  | 0x31 => pick (decodeOp31 w)
  | 0x32 => pick (decodeOp32 w)
  | 0x33 => pick (decodeOp33 w)
  | 0x36 => pick (decodeOp36 w)
  | 0x37 => pick (decodeOp37 w)
  | 0x39 => pick (decodeOp39 w)
  | 0x3a => pick (decodeOp3A w)
  | 0x3b => pick (decodeOp3B w)
  | 0x3c => pick (decodeOp3C w)
  | 0x3d => pick (decodeOp3D w)
  | 0x3e => pick (decodeOp3E w)
  | op => .error (.reservedOp op)

/-- The instruction of a 32-bit word (02 R24, R40). -/
def decodeWord (w : Nat) : Except DecodeError Instr :=
  match decodeRow w with
  | .error e => .error e
  | .ok i => if i.wf then .ok i else .error (.illFormed i)

/-- The word in the four bytes at an instruction's address, least significant byte first (02 R24). -/
def wordOfBytes (bs : List Byte) : Nat :=
  bs.foldr (fun b acc => b.toNat + 256 * acc) 0

/-- The bytes of a word, least significant byte first (02 R24). -/
def bytesOfWord (w : Nat) : List Byte :=
  [BitVec.ofNat 8 w, BitVec.ofNat 8 (w / 256), BitVec.ofNat 8 (w / 65536), BitVec.ofNat 8 (w / 16777216)]

/-- Decoding of any list of bytes: the instruction in the first four, with the rest. -/
def decodeBytes (bs : List Byte) : Except DecodeError (Instr × List Byte) :=
  if bs.length < 4 then .error (.unassigned 0)
  else
    match decodeWord (wordOfBytes (bs.take 4)) with
    | .ok i => .ok (i, bs.drop 4)
    | .error e => .error e

/-- The instruction in the opcode table's numbering of the bits: its one word (02 R24). -/
def decodeTableWord (_nbits w : Nat) : Option Instr :=
  match decodeBytes (bytesOfWord w) with
  | .ok (i, _) => some i
  | .error _ => none

/-- The word of an instruction (02 Tables 2.1 to 2.7, 2.13 to 2.17); an event has none, and gives 0. -/
def encode : Instr → Nat
  | .add st d a b => 0x200000 + st.val * 268435456 + d.val * 65536 + a.val * 2048 + b.val * 64
  | .sub st d a b => 0x200001 + st.val * 268435456 + d.val * 65536 + a.val * 2048 + b.val * 64
  | .and st d a b => 0x200002 + st.val * 268435456 + d.val * 65536 + a.val * 2048 + b.val * 64
  | .or st d a b => 0x200003 + st.val * 268435456 + d.val * 65536 + a.val * 2048 + b.val * 64
  | .xor st d a b => 0x200004 + st.val * 268435456 + d.val * 65536 + a.val * 2048 + b.val * 64
  | .sll st d a b => 0x200005 + st.val * 268435456 + d.val * 65536 + a.val * 2048 + b.val * 64
  | .srl st d a b => 0x200006 + st.val * 268435456 + d.val * 65536 + a.val * 2048 + b.val * 64
  | .sra st d a b => 0x200007 + st.val * 268435456 + d.val * 65536 + a.val * 2048 + b.val * 64
  | .slt st d a b => 0x200008 + st.val * 268435456 + d.val * 65536 + a.val * 2048 + b.val * 64
  | .sltn st d a b => 0x200009 + st.val * 268435456 + d.val * 65536 + a.val * 2048 + b.val * 64
  | .min st d a b => 0x20000a + st.val * 268435456 + d.val * 65536 + a.val * 2048 + b.val * 64
  | .max st d a b => 0x20000b + st.val * 268435456 + d.val * 65536 + a.val * 2048 + b.val * 64
  | .minn st d a b => 0x20000c + st.val * 268435456 + d.val * 65536 + a.val * 2048 + b.val * 64
  | .maxn st d a b => 0x20000d + st.val * 268435456 + d.val * 65536 + a.val * 2048 + b.val * 64
  | .mul st d a b => 0x200010 + st.val * 268435456 + d.val * 65536 + a.val * 2048 + b.val * 64
  | .mulh st d a b => 0x200011 + st.val * 268435456 + d.val * 65536 + a.val * 2048 + b.val * 64
  | .mulhn st d a b => 0x200012 + st.val * 268435456 + d.val * 65536 + a.val * 2048 + b.val * 64
  | .div st d a b => 0x200013 + st.val * 268435456 + d.val * 65536 + a.val * 2048 + b.val * 64
  | .divn st d a b => 0x200014 + st.val * 268435456 + d.val * 65536 + a.val * 2048 + b.val * 64
  | .rem st d a b => 0x200015 + st.val * 268435456 + d.val * 65536 + a.val * 2048 + b.val * 64
  | .remn st d a b => 0x200016 + st.val * 268435456 + d.val * 65536 + a.val * 2048 + b.val * 64
  | .bext st d a b => 0x20001b + st.val * 268435456 + d.val * 65536 + a.val * 2048 + b.val * 64
  | .bins st d a b => 0x20001c + st.val * 268435456 + d.val * 65536 + a.val * 2048 + b.val * 64
  | .clz st d a => 0x200018 + st.val * 268435456 + d.val * 65536 + a.val * 2048
  | .ctz st d a => 0x200019 + st.val * 268435456 + d.val * 65536 + a.val * 2048
  | .popc st d a => 0x20001a + st.val * 268435456 + d.val * 65536 + a.val * 2048
  | .slli st d a n h => 0x200020 + st.val * 268435456 + d.val * 65536 + a.val * 2048 + n.val * 64 + h.toNat
  | .srli st d a n h => 0x200022 + st.val * 268435456 + d.val * 65536 + a.val * 2048 + n.val * 64 + h.toNat
  | .srai st d a n h => 0x200024 + st.val * 268435456 + d.val * 65536 + a.val * 2048 + n.val * 64 + h.toNat
  | .addi st d a imm => 0x400000 + st.val * 268435456 + d.val * 65536 + a.val * 2048 + imm.toNat
  | .andi st d a imm => 0x600000 + st.val * 268435456 + d.val * 65536 + a.val * 2048 + imm.toNat
  | .ori st d a imm => 0x800000 + st.val * 268435456 + d.val * 65536 + a.val * 2048 + imm.toNat
  | .xori st d a imm => 0xa00000 + st.val * 268435456 + d.val * 65536 + a.val * 2048 + imm.toNat
  | .lih st d imm => 0xc00000 + st.val * 268435456 + d.val * 65536 + imm.toNat
  | .adpc st d imm => 0xe00000 + st.val * 268435456 + d.val * 65536 + imm.toNat
  | .ld8 st d a off => 0x1000000 + st.val * 268435456 + d.val * 65536 + a.val * 2048 + off.toNat
  | .ld16 st d a off => 0x1000200 + st.val * 268435456 + d.val * 65536 + a.val * 2048 + off.toNat
  | .ld32 st d a off => 0x1000400 + st.val * 268435456 + d.val * 65536 + a.val * 2048 + off.toNat
  | .ld64 st d a off => 0x1000600 + st.val * 268435456 + d.val * 65536 + a.val * 2048 + off.toNat
  | .ld8N st d a off => 0x1200000 + st.val * 268435456 + d.val * 65536 + a.val * 2048 + off.toNat
  | .ld16N st d a off => 0x1200200 + st.val * 268435456 + d.val * 65536 + a.val * 2048 + off.toNat
  | .ld32N st d a off => 0x1200400 + st.val * 268435456 + d.val * 65536 + a.val * 2048 + off.toNat
  | .st8 st d a off => 0x1400000 + st.val * 268435456 + d.val * 65536 + a.val * 2048 + off.toNat
  | .st16 st d a off => 0x1400200 + st.val * 268435456 + d.val * 65536 + a.val * 2048 + off.toNat
  | .st32 st d a off => 0x1400400 + st.val * 268435456 + d.val * 65536 + a.val * 2048 + off.toNat
  | .st64 st d a off => 0x1400600 + st.val * 268435456 + d.val * 65536 + a.val * 2048 + off.toNat
  | .ldl st d a => 0x1600000 + st.val * 268435456 + d.val * 65536 + a.val * 2048
  | .stc st d a b => 0x1600001 + st.val * 268435456 + d.val * 65536 + a.val * 2048 + b.val * 64
  | .jal st off => 0x1800000 + st.val * 268435456 + off.toNat
  | .beq st d a off => 0x1a00000 + st.val * 268435456 + d.val * 65536 + a.val * 2048 + off.toNat
  | .bne st d a off => 0x1a00200 + st.val * 268435456 + d.val * 65536 + a.val * 2048 + off.toNat
  | .blt st d a off => 0x1a00400 + st.val * 268435456 + d.val * 65536 + a.val * 2048 + off.toNat
  | .bge st d a off => 0x1a00600 + st.val * 268435456 + d.val * 65536 + a.val * 2048 + off.toNat
  | .bltn st d a off => 0x1c00000 + st.val * 268435456 + d.val * 65536 + a.val * 2048 + off.toNat
  | .bgen st d a off => 0x1c00200 + st.val * 268435456 + d.val * 65536 + a.val * 2048 + off.toNat
  | .jalr st d a => 0x1e00000 + st.val * 268435456 + d.val * 65536 + a.val * 2048
  | .wait st d a => 0x1e00001 + st.val * 268435456 + d.val * 65536 + a.val * 2048
  | .setvl st d a => 0x1e00002 + st.val * 268435456 + d.val * 65536 + a.val * 2048
  | .setvt st d a => 0x1e00003 + st.val * 268435456 + d.val * 65536 + a.val * 2048
  | .nop st => 0x1e00004 + st.val * 268435456
  | .rdc st d r => 0x1e00008 + st.val * 268435456 + d.val * 65536 + r.val * 64
  | .wrc st d r => 0x1e00009 + st.val * 268435456 + d.val * 65536 + r.val * 64
  | .writeVl _ => 0
  | .writeVtype _ => 0
  | .writeFflags _ => 0
  | .writeWaypart _ => 0
  | .writeVstate _ => 0
  | .writeTstate _ => 0
  | .writeVhot _ => 0
  | .vadd st c d a b x => 0x2000000 + st.val * 268435456 + c.toNat * 134217728 + d.val * 65536 + a.val * 2048 + b.val * 64 + x.toNat * 32
  | .vsub st c d a b x => 0x2000001 + st.val * 268435456 + c.toNat * 134217728 + d.val * 65536 + a.val * 2048 + b.val * 64 + x.toNat * 32
  | .vmin st c d a b x => 0x2000002 + st.val * 268435456 + c.toNat * 134217728 + d.val * 65536 + a.val * 2048 + b.val * 64 + x.toNat * 32
  | .vmax st c d a b x => 0x2000003 + st.val * 268435456 + c.toNat * 134217728 + d.val * 65536 + a.val * 2048 + b.val * 64 + x.toNat * 32
  | .vaddsat st c d a b x => 0x2000004 + st.val * 268435456 + c.toNat * 134217728 + d.val * 65536 + a.val * 2048 + b.val * 64 + x.toNat * 32
  | .vsubsat st c d a b x => 0x2000005 + st.val * 268435456 + c.toNat * 134217728 + d.val * 65536 + a.val * 2048 + b.val * 64 + x.toNat * 32
  | .vabs st c d a => 0x2000006 + st.val * 268435456 + c.toNat * 134217728 + d.val * 65536 + a.val * 2048
  | .vneg st c d a => 0x2000007 + st.val * 268435456 + c.toNat * 134217728 + d.val * 65536 + a.val * 2048
  | .vand st c d a b x => 0x2200000 + st.val * 268435456 + c.toNat * 134217728 + d.val * 65536 + a.val * 2048 + b.val * 64 + x.toNat * 32
  | .vor st c d a b x => 0x2200001 + st.val * 268435456 + c.toNat * 134217728 + d.val * 65536 + a.val * 2048 + b.val * 64 + x.toNat * 32
  | .vxor st c d a b x => 0x2200002 + st.val * 268435456 + c.toNat * 134217728 + d.val * 65536 + a.val * 2048 + b.val * 64 + x.toNat * 32
  | .vsll st c d a b x => 0x2200003 + st.val * 268435456 + c.toNat * 134217728 + d.val * 65536 + a.val * 2048 + b.val * 64 + x.toNat * 32
  | .vsrl st c d a b x => 0x2200004 + st.val * 268435456 + c.toNat * 134217728 + d.val * 65536 + a.val * 2048 + b.val * 64 + x.toNat * 32
  | .vsra st c d a b x => 0x2200005 + st.val * 268435456 + c.toNat * 134217728 + d.val * 65536 + a.val * 2048 + b.val * 64 + x.toNat * 32
  | .vmul st c d a b x => 0x2400000 + st.val * 268435456 + c.toNat * 134217728 + d.val * 65536 + a.val * 2048 + b.val * 64 + x.toNat * 32
  | .vmulh st c d a b x => 0x2400001 + st.val * 268435456 + c.toNat * 134217728 + d.val * 65536 + a.val * 2048 + b.val * 64 + x.toNat * 32
  | .vmadd st c d a b x => 0x2400002 + st.val * 268435456 + c.toNat * 134217728 + d.val * 65536 + a.val * 2048 + b.val * 64 + x.toNat * 32
  | .vmsub st c d a b x => 0x2400003 + st.val * 268435456 + c.toNat * 134217728 + d.val * 65536 + a.val * 2048 + b.val * 64 + x.toNat * 32
  | .vnmadd st c d a b x => 0x2400004 + st.val * 268435456 + c.toNat * 134217728 + d.val * 65536 + a.val * 2048 + b.val * 64 + x.toNat * 32
  | .vdiv st c d a b x => 0x2400005 + st.val * 268435456 + c.toNat * 134217728 + d.val * 65536 + a.val * 2048 + b.val * 64 + x.toNat * 32
  | .vwadd st c d a b x => 0x2400006 + st.val * 268435456 + c.toNat * 134217728 + d.val * 65536 + a.val * 2048 + b.val * 64 + x.toNat * 32
  | .vwmul st c d a b x => 0x2400007 + st.val * 268435456 + c.toNat * 134217728 + d.val * 65536 + a.val * 2048 + b.val * 64 + x.toNat * 32
  | .vcmp st c d a b x q => 0x2600000 + st.val * 268435456 + c.toNat * 134217728 + d.val * 65536 + a.val * 2048 + b.val * 64 + x.toNat * 32 + q.val
  | .vsel st c d a b x => 0x2800000 + st.val * 268435456 + c.toNat * 134217728 + d.val * 65536 + a.val * 2048 + b.val * 64 + x.toNat * 32
  | .vmv st c d a => 0x2800001 + st.val * 268435456 + c.toNat * 134217728 + d.val * 65536 + a.val * 2048
  | .vbcast st c d a => 0x2800002 + st.val * 268435456 + c.toNat * 134217728 + d.val * 65536 + a.val * 2048
  | .vaddF st c d a b x => 0x3000000 + st.val * 268435456 + c.toNat * 134217728 + d.val * 65536 + a.val * 2048 + b.val * 64 + x.toNat * 32
  | .vsubF st c d a b x => 0x3000001 + st.val * 268435456 + c.toNat * 134217728 + d.val * 65536 + a.val * 2048 + b.val * 64 + x.toNat * 32
  | .vminF st c d a b x => 0x3000002 + st.val * 268435456 + c.toNat * 134217728 + d.val * 65536 + a.val * 2048 + b.val * 64 + x.toNat * 32
  | .vmaxF st c d a b x => 0x3000003 + st.val * 268435456 + c.toNat * 134217728 + d.val * 65536 + a.val * 2048 + b.val * 64 + x.toNat * 32
  | .vabsF st c d a => 0x3000006 + st.val * 268435456 + c.toNat * 134217728 + d.val * 65536 + a.val * 2048
  | .vnegF st c d a => 0x3000007 + st.val * 268435456 + c.toNat * 134217728 + d.val * 65536 + a.val * 2048
  | .vmulF st c d a b x => 0x3200000 + st.val * 268435456 + c.toNat * 134217728 + d.val * 65536 + a.val * 2048 + b.val * 64 + x.toNat * 32
  | .vmaddF st c d a b x => 0x3200002 + st.val * 268435456 + c.toNat * 134217728 + d.val * 65536 + a.val * 2048 + b.val * 64 + x.toNat * 32
  | .vmsubF st c d a b x => 0x3200003 + st.val * 268435456 + c.toNat * 134217728 + d.val * 65536 + a.val * 2048 + b.val * 64 + x.toNat * 32
  | .vnmaddF st c d a b x => 0x3200004 + st.val * 268435456 + c.toNat * 134217728 + d.val * 65536 + a.val * 2048 + b.val * 64 + x.toNat * 32
  | .vdivF st c d a b x => 0x3200005 + st.val * 268435456 + c.toNat * 134217728 + d.val * 65536 + a.val * 2048 + b.val * 64 + x.toNat * 32
  | .vwaddF st c d a b x => 0x3200006 + st.val * 268435456 + c.toNat * 134217728 + d.val * 65536 + a.val * 2048 + b.val * 64 + x.toNat * 32
  | .vwmulF st c d a b x => 0x3200007 + st.val * 268435456 + c.toNat * 134217728 + d.val * 65536 + a.val * 2048 + b.val * 64 + x.toNat * 32
  | .vsqrt st c d a => 0x3400000 + st.val * 268435456 + c.toNat * 134217728 + d.val * 65536 + a.val * 2048
  | .vrcpa st c d a => 0x3400001 + st.val * 268435456 + c.toNat * 134217728 + d.val * 65536 + a.val * 2048
  | .vrsqa st c d a => 0x3400002 + st.val * 268435456 + c.toNat * 134217728 + d.val * 65536 + a.val * 2048
  | .vrcps st c d a b => 0x3400003 + st.val * 268435456 + c.toNat * 134217728 + d.val * 65536 + a.val * 2048 + b.val * 64
  | .vrsqs st c d a b => 0x3400004 + st.val * 268435456 + c.toNat * 134217728 + d.val * 65536 + a.val * 2048 + b.val * 64
  | .vclass st c d a => 0x3400005 + st.val * 268435456 + c.toNat * 134217728 + d.val * 65536 + a.val * 2048
  | .vcmpF st c d a b x q => 0x3600000 + st.val * 268435456 + c.toNat * 134217728 + d.val * 65536 + a.val * 2048 + b.val * 64 + x.toNat * 32 + q.val
  | .vcvt st c d a b m => 0x3800000 + st.val * 268435456 + c.toNat * 134217728 + d.val * 65536 + a.val * 2048 + b.val * 64 + m.val * 8
  | .vldsc st c d a b => 0x3a00000 + st.val * 268435456 + c.toNat * 134217728 + d.val * 65536 + a.val * 2048 + b.val * 64
  | .vmvscToScale st c d a => 0x3a00001 + st.val * 268435456 + c.toNat * 134217728 + d.val * 65536 + a.val * 2048
  | .vmvscFromScale st c d a => 0x3a00002 + st.val * 268435456 + c.toNat * 134217728 + d.val * 65536 + a.val * 2048
  | .vapsc st c d a b => 0x3a00003 + st.val * 268435456 + c.toNat * 134217728 + d.val * 65536 + a.val * 2048 + b.val * 64
  | .mand st c d a b => 0x3c00000 + st.val * 268435456 + c.toNat * 134217728 + d.val * 65536 + a.val * 2048 + b.val * 64
  | .mor st c d a b => 0x3c00001 + st.val * 268435456 + c.toNat * 134217728 + d.val * 65536 + a.val * 2048 + b.val * 64
  | .mxor st c d a b => 0x3c00002 + st.val * 268435456 + c.toNat * 134217728 + d.val * 65536 + a.val * 2048 + b.val * 64
  | .mnot st c d a => 0x3c00003 + st.val * 268435456 + c.toNat * 134217728 + d.val * 65536 + a.val * 2048
  | .msbf st c d a => 0x3c00004 + st.val * 268435456 + c.toNat * 134217728 + d.val * 65536 + a.val * 2048
  | .mset st c d a => 0x3c00005 + st.val * 268435456 + c.toNat * 134217728 + d.val * 65536 + a.val * 2048
  | .mpopc st c d a => 0x3e00000 + st.val * 268435456 + c.toNat * 134217728 + d.val * 65536 + a.val * 2048
  | .mfirst st c d a => 0x3e00001 + st.val * 268435456 + c.toNat * 134217728 + d.val * 65536 + a.val * 2048
  | .viota st c d a => 0x3e00002 + st.val * 268435456 + c.toNat * 134217728 + d.val * 65536 + a.val * 2048
  | .vld st c d a o => 0x4000000 + st.val * 268435456 + c.toNat * 134217728 + d.val * 65536 + a.val * 2048 + o.toNat * 32
  | .vlds st c d a o => 0x4000001 + st.val * 268435456 + c.toNat * 134217728 + d.val * 65536 + a.val * 2048 + o.toNat * 32
  | .vldx st c d a b o k => 0x4000002 + st.val * 268435456 + c.toNat * 134217728 + d.val * 65536 + a.val * 2048 + b.val * 64 + o.toNat * 32 + k.toNat * 8
  | .vldt st c d a b o => 0x4000003 + st.val * 268435456 + c.toNat * 134217728 + d.val * 65536 + a.val * 2048 + b.val * 64 + o.toNat * 32
  | .vpf st c a o => 0x4000004 + st.val * 268435456 + c.toNat * 134217728 + a.val * 2048 + o.toNat * 32
  | .vst st c d a o n => 0x4200000 + st.val * 268435456 + c.toNat * 134217728 + d.val * 65536 + a.val * 2048 + o.toNat * 32 + n.toNat * 16
  | .vsts st c d a o n => 0x4200001 + st.val * 268435456 + c.toNat * 134217728 + d.val * 65536 + a.val * 2048 + o.toNat * 32 + n.toNat * 16
  | .vstx st c d a b o n k => 0x4200002 + st.val * 268435456 + c.toNat * 134217728 + d.val * 65536 + a.val * 2048 + b.val * 64 + o.toNat * 32 + n.toNat * 16 + k.toNat * 8
  | .vstxu st c d a b o n k => 0x4200003 + st.val * 268435456 + c.toNat * 134217728 + d.val * 65536 + a.val * 2048 + b.val * 64 + o.toNat * 32 + n.toNat * 16 + k.toNat * 8
  | .vstt st c d a b o n => 0x4200004 + st.val * 268435456 + c.toNat * 134217728 + d.val * 65536 + a.val * 2048 + b.val * 64 + o.toNat * 32 + n.toNat * 16
  | .vlseg st c d a b o n => 0x4400000 + st.val * 268435456 + c.toNat * 134217728 + d.val * 65536 + a.val * 2048 + b.val * 64 + o.toNat * 32 + n.val
  | .vsseg st c d a b o t n => 0x4400008 + st.val * 268435456 + c.toNat * 134217728 + d.val * 65536 + a.val * 2048 + b.val * 64 + o.toNat * 32 + t.toNat * 16 + n.val
  | .vbind st c d a => 0x4600000 + st.val * 268435456 + c.toNat * 134217728 + d.val * 65536 + a.val * 2048
  | .vunbind st c d => 0x4600001 + st.val * 268435456 + c.toNat * 134217728 + d.val * 65536
  | .vperm st c d a b => 0x4c00000 + st.val * 268435456 + c.toNat * 134217728 + d.val * 65536 + a.val * 2048 + b.val * 64
  | .vslu st c d a b => 0x4c00001 + st.val * 268435456 + c.toNat * 134217728 + d.val * 65536 + a.val * 2048 + b.val * 64
  | .vsld st c d a b => 0x4c00002 + st.val * 268435456 + c.toNat * 134217728 + d.val * 65536 + a.val * 2048 + b.val * 64
  | .vcompress st c d a => 0x4c00003 + st.val * 268435456 + c.toNat * 134217728 + d.val * 65536 + a.val * 2048
  | .vexpand st c d a => 0x4c00004 + st.val * 268435456 + c.toNat * 134217728 + d.val * 65536 + a.val * 2048
  | .vred st c d a b f p => 0x4e00000 + st.val * 268435456 + c.toNat * 134217728 + d.val * 65536 + a.val * 2048 + b.val * 64 + f.toNat * 8 + p.val
  | .vscan st c d a b f p => 0x4e00010 + st.val * 268435456 + c.toNat * 134217728 + d.val * 65536 + a.val * 2048 + b.val * 64 + f.toNat * 8 + p.val
  | .vfetch st c a => 0x5000000 + st.val * 268435456 + c.toNat * 134217728 + a.val * 2048
  | .vpbr st c a => 0x5000001 + st.val * 268435456 + c.toNat * 134217728 + a.val * 2048
  | .vpend st c => 0x5000002 + st.val * 268435456 + c.toNat * 134217728
  | .vpsend st c a => 0x5000003 + st.val * 268435456 + c.toNat * 134217728 + a.val * 2048
  | .vprecv st c d => 0x5000004 + st.val * 268435456 + c.toNat * 134217728 + d.val * 65536
  | .vconf st c d a => 0x5400000 + st.val * 268435456 + c.toNat * 134217728 + d.val * 65536 + a.val * 2048
  | .vcomb st c d a b => 0x5400001 + st.val * 268435456 + c.toNat * 134217728 + d.val * 65536 + a.val * 2048 + b.val * 64
  | .visect st c d a b => 0x5400002 + st.val * 268435456 + c.toNat * 134217728 + d.val * 65536 + a.val * 2048 + b.val * 64
  | .cins st c d a => 0x5600000 + st.val * 268435456 + c.toNat * 134217728 + d.val * 65536 + a.val * 2048
  | .clook st c d a b => 0x5600001 + st.val * 268435456 + c.toNat * 134217728 + d.val * 65536 + a.val * 2048 + b.val * 64
  | .cacc st c a b => 0x5600002 + st.val * 268435456 + c.toNat * 134217728 + a.val * 2048 + b.val * 64
  | .cdrain st c d => 0x5600003 + st.val * 268435456 + c.toNat * 134217728 + d.val * 65536
  | .cclr st c => 0x5600004 + st.val * 268435456 + c.toNat * 134217728
  | .vgathl st c d a b o => 0x5800000 + st.val * 268435456 + c.toNat * 134217728 + d.val * 65536 + a.val * 2048 + b.val * 64 + o.toNat * 32
  | .vscatc st c d a b o m => 0x5800001 + st.val * 268435456 + c.toNat * 134217728 + d.val * 65536 + a.val * 2048 + b.val * 64 + o.toNat * 32 + m.val * 4
  | .fibdef st c a => 0x5800002 + st.val * 268435456 + c.toNat * 134217728 + a.val * 2048
  | .fibend st c => 0x5800003 + st.val * 268435456 + c.toNat * 134217728
  | .fibrePrefetch _ => 0
  | .ten st => 0x5a00000 + st.val * 268435456
  | .tdis st => 0x5a00001 + st.val * 268435456
  | .tzero st p t => 0x5a00002 + st.val * 268435456 + p.val * 524288 + t.val * 65536
  | .tmop st p t a b => 0x5c00000 + st.val * 268435456 + p.val * 524288 + t.val * 65536 + a.val * 2048 + b.val * 64
  | .tmma st p t a b l o => 0x5c00001 + st.val * 268435456 + p.val * 524288 + t.val * 65536 + a.val * 2048 + b.val * 64 + l.toNat * 32 + o.toNat * 16
  | .tmms st p t a b l o => 0x5e00000 + st.val * 268435456 + p.val * 524288 + t.val * 65536 + a.val * 2048 + b.val * 64 + l.toNat * 32 + o.toNat * 16
  | .tmf64 st p t a b l o => 0x5e00001 + st.val * 268435456 + p.val * 524288 + t.val * 65536 + a.val * 2048 + b.val * 64 + l.toNat * 32 + o.toNat * 16
  | .tld st t a o => 0x6000000 + st.val * 268435456 + t.val * 65536 + a.val * 2048 + o.toNat * 32
  | .tst st t a o => 0x6000001 + st.val * 268435456 + t.val * 65536 + a.val * 2048 + o.toNat * 32
  | .trowmv st t a b k => 0x6200000 + st.val * 268435456 + t.val * 65536 + a.val * 2048 + b.val * 64 + k.toNat * 16
  | .tcolmv st t a b k => 0x6200001 + st.val * 268435456 + t.val * 65536 + a.val * 2048 + b.val * 64 + k.toNat * 16
  | .tvmv st t a k => 0x6200002 + st.val * 268435456 + t.val * 65536 + a.val * 2048 + k.toNat * 16
  | .wbld st a b => 0x6400000 + st.val * 268435456 + a.val * 2048 + b.val * 64
  | .wbfmt st a => 0x6400001 + st.val * 268435456 + a.val * 2048
  | .tchk st a => 0x6400002 + st.val * 268435456 + a.val * 2048
  | .tchkrd st a => 0x6400003 + st.val * 268435456 + a.val * 2048
  | .tileOpComplete _ => 0
  | .matrixCommandAccept _ => 0
  | .cpy st d a u t => 0x6600000 + st.val * 268435456 + d.val * 65536 + a.val * 2048 + u.toNat * 32 + t.toNat * 16
  | .cpy2 st d a u t => 0x6600001 + st.val * 268435456 + d.val * 65536 + a.val * 2048 + u.toNat * 32 + t.toNat * 16
  | .cpyt st d a b u t => 0x6600002 + st.val * 268435456 + d.val * 65536 + a.val * 2048 + b.val * 64 + u.toNat * 32 + t.toNat * 16
  | .cpyr st d a u t => 0x6600003 + st.val * 268435456 + d.val * 65536 + a.val * 2048 + u.toNat * 32 + t.toNat * 16
  | .cpym st d a u t => 0x6600004 + st.val * 268435456 + d.val * 65536 + a.val * 2048 + u.toNat * 32 + t.toNat * 16
  | .cpyx st d a u t => 0x6600005 + st.val * 268435456 + d.val * 65536 + a.val * 2048 + u.toNat * 32 + t.toNat * 16
  | .cpyfill st d a u => 0x6600006 + st.val * 268435456 + d.val * 65536 + a.val * 2048 + u.toNat * 32
  | .cpybc st d a u t => 0x6600007 + st.val * 268435456 + d.val * 65536 + a.val * 2048 + u.toNat * 32 + t.toNat * 16
  | .copyEngineAccept _ => 0
  | .copyCompletion _ _ => 0
  | .fence st k => 0x6c00000 + st.val * 268435456 + k.val * 8
  | .acq st k => 0x6c00001 + st.val * 268435456 + k.val * 8
  | .rel st k => 0x6c00002 + st.val * 268435456 + k.val * 8
  | .barinit st a b g => 0x6e00000 + st.val * 268435456 + a.val * 2048 + b.val * 64 + g.toNat * 32
  | .bararr st a b g => 0x6e00001 + st.val * 268435456 + a.val * 2048 + b.val * 64 + g.toNat * 32
  | .barwait st a g => 0x6e00002 + st.val * 268435456 + a.val * 2048 + g.toNat * 32
  | .wmwait st a => 0x6e00003 + st.val * 268435456 + a.val * 2048
  | .barwaitRelease _ => 0
  | .watermarkSatisfied _ => 0
  | .waitWake _ => 0
  | .waitTimeout _ => 0
  | .linkHoldExpiry _ => 0
  | .relrcv st => 0x7200000 + st.val * 268435456
  | .ckpbeg st a b => 0x7200001 + st.val * 268435456 + a.val * 2048 + b.val * 64
  | .ckpseal st a => 0x7200002 + st.val * 268435456 + a.val * 2048
  | .ckpverify st d a => 0x7200003 + st.val * 268435456 + d.val * 65536 + a.val * 2048
  | .ckpabort st => 0x7200004 + st.val * 268435456
  | .rprd st d b => 0x7200005 + st.val * 268435456 + d.val * 65536 + b.val * 64
  | .launch st a => 0x7400000 + st.val * 268435456 + a.val * 2048
  | .launchn st d a => 0x7400001 + st.val * 268435456 + d.val * 65536 + a.val * 2048
  | .cancel st a b => 0x7400002 + st.val * 268435456 + a.val * 2048 + b.val * 64
  | .cntrd st d a => 0x7400003 + st.val * 268435456 + d.val * 65536 + a.val * 2048
  | .fork st a b => 0x7600000 + st.val * 268435456 + a.val * 2048 + b.val * 64
  | .join st => 0x7600001 + st.val * 268435456
  | .send st => 0x7600002 + st.val * 268435456
  | .yield st => 0x7600003 + st.val * 268435456
  | .uexit st => 0x7600004 + st.val * 268435456
  | .notify st a => 0x7600005 + st.val * 268435456 + a.val * 2048
  | .trap st b => 0x7800000 + st.val * 268435456 + b.val * 64
  | .eret st => 0x7800001 + st.val * 268435456
  | .mcall st => 0x7800002 + st.val * 268435456
  | .halt st => 0x7800003 + st.val * 268435456
  | .vptwr st a b => 0x7a00000 + st.val * 268435456 + a.val * 2048 + b.val * 64
  | .tlbinv st a b => 0x7a00001 + st.val * 268435456 + a.val * 2048 + b.val * 64
  | .ctxsave st a => 0x7a00002 + st.val * 268435456 + a.val * 2048
  | .ctxrest st a => 0x7a00003 + st.val * 268435456 + a.val * 2048
  | .brk st b => 0x7c00000 + st.val * 268435456 + b.val * 64
  | .tmark st a => 0x7c00001 + st.val * 268435456 + a.val * 2048
  | .smpl st a => 0x7c00002 + st.val * 268435456 + a.val * 2048
  | .vectorCommit _ => 0
  | .variableLatencyResult _ => 0
  | .rendezvousArrival _ _ => 0
  | .rendezvousComplete _ => 0
  | .trapEntry _ => 0
  | .windowReplay _ => 0
  | .laneMismatch _ _ => 0
  | .lockstepMismatch _ => 0
  | .notifyRegisterWrite _ => 0
  | .serveQueue _ => 0
  | .spillReturn _ => 0
  | .mapRequest _ => 0
  | .queueMap _ => 0
  | .queueDestroy _ => 0
  | .counterCreate _ _ => 0
  | .counterClose _ _ => 0
  | .hostVptEntryWrite _ _ _ => 0
  | .hostHotnessClear _ _ => 0
  | .umanteDispatch => 0
  | .bind _ => 0
  | .bindResume _ => 0
  | .preempt _ => 0
  | .kill _ _ => 0
  | .unitLoadComplete _ => 0
  | .preemptionLands _ => 0
  | .saveComplete _ => 0
  | .unitRetire _ => 0
  | .launchCompletion _ => 0
  | .pageRequestAnswer _ _ _ => 0
  | .partitionSwap _ => 0
  | .computeDieReset _ => 0
  | .recoveryRestore _ _ => 0
  | .remoteAckTimeout _ _ _ => 0
  | .spareSwitch _ => 0
  | .linkRetrain _ _ => 0
  | .thermalClockReduction => 0
  | .thermalShutdown => 0
  | .powerOnBoot _ _ => 0
  | .itrusPartitionControl _ => 0
  | .itrusDebug _ => 0
  | .itrusTrace _ => 0
  | .itrusAnnals _ => 0
  | .itrusRecovery _ => 0
  | .itrusFirmwareUpdate _ => 0
  | .itrusAttestation _ => 0
  | .itrusPower _ => 0
  | .remoteAccessArrival _ => 0
  | .remoteAcknowledgement _ => 0
  | .persistencePointReached _ => 0
  | .powerLoss => 0
  | .baseDieFailure _ => 0
  | .queueUnmap _ => 0
  | .itrusConnection _ => 0
  | .annalsObservation _ _ _ => 0

end Sys2Proof
end

