-- ==== Sys2Proof/Machine/Image.lean ====
section
/-! DEFINITION. Context images (15 R385 to R387, R430): the fields of each part, and writing and reading them through a
context's page tables. A field is (offset, bytes, value); a run of bytes is moved between the image and the byte space. -/

namespace Sys2Proof.Machine

/-! The part-mask bits of 15 Table 15.7. -/
def pS : Nat := 0
def pV : Nat := 1
def pM : Nat := 2
def pK : Nat := 3
def pT : Nat := 4
def pC : Nat := 5
def pL : Nat := 6
def pSTK : Nat := 8
def pREL : Nat := 9

/-- Whether a mask selects a part. -/
def partOn (mask p : Nat) : Bool := mask / 2 ^ p % 2 == 1

/-- The byte ranges of a part: offset and length (15 Table 15.7). -/
def partRanges (p : Nat) : List (Nat × Nat) :=
  match p with
  | 0 => [(0, 0x1000), (0x17D000, 0x14000)]
  | 1 => [(0x2800, 0x200), (0x3000, 0x10000)]
  | 2 => [(0x1000, 0x800)]
  | 3 => [(0x1800, 0x1000)]
  | 4 => [(0x13000, 0x20000), (0x33000, 0x40000), (0x73000, 0x2000)]
  | 5 => [(0x75000, 0x10000)]
  | 6 => [(0x85000, 0xF0000)]
  | 8 => [(0x175000, 0x8000)]
  | _ => []

/-- The parts in the order of the image. -/
def partOrder : List Nat := [0, 1, 2, 3, 4, 5, 6, 8]

/-- The pieces of a byte range that lie in one 4 KiB page each: offset and length, `k` pages at most. -/
def pagePieces (off len : Nat) : Nat → List (Nat × Nat)
  | 0 => []
  | k + 1 =>
    if len = 0 then [] else
    let n := min len (0x1000 - off % 0x1000)
    (off, n) :: pagePieces (off + n) (len - n) k

/-- Every piece of the selected parts, in rising offset within each part. -/
def maskPieces (mask : Nat) : List (Nat × Nat) :=
  (partOrder.filter (partOn mask)).flatMap (fun p =>
    (partRanges p).flatMap (fun r => pagePieces r.1 r.2 (r.2 / 0x1000 + 2)))

/-- The pages of the selected parts and the page of PARTS, rising (15 R386). -/
def maskPages (mask : Nat) : List Nat :=
  let ps := 0 :: (maskPieces mask).map (fun p => p.1 / 0x1000)
  (List.range 0x191).filter (fun p => ps.contains p)

/-- An image field: its offset, its bytes, and its value. -/
abbrev Field := Nat × Nat × Nat

/-! ### Part S (15 Table 15.8) -/

/-- KIND of a stash entry's registers (15 R385). -/
def stashKind : List OldReg → Nat
  | [] => 0
  | .x _ _ _ :: _ => 1
  | .v _ _ :: _ => 2
  | .m _ _ :: _ => 3
  | .k _ _ :: _ => 4

def oldNum : OldReg → Nat
  | .x _ n _ => n
  | .v n _ => n
  | .m n _ => n
  | .k n _ => n

def oldVal : OldReg → Nat
  | .x _ _ o => o.toNat
  | .v _ o => o.toNat
  | .m _ o => o.toNat
  | .k _ o => o.toNat

/-- The maximal runs of consecutive registers among saved registers: an image holds an entry's block as one run (15 R385). -/
def oldRuns : List OldReg → List (List OldReg)
  | [] => []
  | o :: os =>
    match oldRuns os with
    | (p :: ps) :: rest => if oldNum p = oldNum o + 1 then (o :: p :: ps) :: rest else [o] :: (p :: ps) :: rest
    | rest => [o] :: rest

/-- The value that a register holds now. -/
def OldReg.now (r : SlotRegs) : OldReg → OldReg
  | .x b n _ => .x b n (r.getX b n)
  | .v n _ => .v n (r.getV n)
  | .m n _ => .m n (r.getM n)
  | .k n _ => .k n (r.getK n)

/-- The block of an entry with the registers that a later result has reached put back, at the values that a stale read finds: those
that the later entries `rest` recorded, else the present ones. -/
def fillRun (r : SlotRegs) (rest : List Win) (l : List OldReg) : List OldReg :=
  match l with
  | [] => []
  | .v n o :: os =>
    let last := (os.getLast?.map oldNum).getD n
    (List.range (last + 1 - n)).map (fun k =>
      ((OldReg.v n o :: os).find? (fun p => oldNum p = n + k)).getD
        (match rest.findSome? (fun x => x.olds.findSome? (pickV (n + k))) with
         | some v => .v (n + k) v
         | none => OldReg.now r (.v (n + k) 0)))
  | l => l

/-- Every entry filled. -/
def fillRuns (r : SlotRegs) : List Win → List Win
  | [] => []
  | x :: xs => { x with olds := fillRun r xs x.olds } :: fillRuns r xs

/-- The entries cut so that each holds one run of registers. -/
def SlotThread.cutStash (t : SlotThread) : List Win :=
  t.stash.flatMap (fun x => (oldRuns x.olds).map (fun l => { x with olds := l }))

/-- The stash as its entries stand in an image. A block with registers missing, which a later result has reached, stands as one
entry for each run of what is left; with no room for that, as one entry of the whole block (log 9). -/
def SlotThread.stashEntries (t : SlotThread) (r : SlotRegs) : List Win :=
  if t.cutStash.length ≤ 5 then t.cutStash else fillRuns r t.stash

/-- The registers of each of those entries that a later result has reached. -/
def SlotThread.stashHoles (t : SlotThread) (r : SlotRegs) : List (List Nat) :=
  if t.cutStash.length ≤ 5 then [] else
  t.stash.zipWith (fun x f => (f.olds.map oldNum).filter (fun n => !(x.olds.map oldNum).contains n)) (fillRuns r t.stash)

/-- The fields of stash entry i. -/
def stashFields (i : Nat) (w : Win) : List Field :=
  let kind := stashKind w.olds
  let first := match w.olds with | [] => 0 | o :: _ => oldNum o
  let val := match w.olds with | .x _ _ o :: _ => o.toNat | _ => 0
  [(0x210 + 24 * i, 8, kind + 8 * first + 256 * w.olds.length), (0x218 + 24 * i, 8, val), (0x220 + 24 * i, 8, w.rem)] ++
  (if kind = 1 then [] else w.olds.zipIdx.map (fun p => (0x17D000 + 0x4000 * i + 0x800 * p.2, 2048, oldVal p.1)))

/-- The code of a sequencer's state in an image (log 9). -/
def seqCode : SeqState → Nat
  | .idle => 0
  | .running => 1
  | .arrived => 2
  | .stopped => 3

def seqOfCode (n : Nat) : SeqState := if n = 1 then .running else if n = 2 then .arrived else if n = 3 then .stopped else .idle

/-- A sequencer's fields: PC, state, seven registers, stop cause, `stval`; the captured state stands above them (log 9). -/
def seqFields (base : Nat) (q : Sequencer) : List Field :=
  [(base, 8, q.pc.toNat), (base + 8, 8, seqCode q.st + at_ 8 q.fmt.toNat + at_ 16 q.slc.toNat + at_ 24 q.rm.toNat + at_ 32 q.sup.toNat)] ++
  (List.range 7).map (fun i => (base + 16 + 8 * i, 8, (tabGet 0 q.r (i + 1)).toNat)) ++
  [(base + 72, 8, q.cause), (base + 80, 8, q.stval.toNat)]

/-- The bits of a list of numbers. -/
def bitsOf (l : List Nat) : Nat := l.foldl (fun a i => a ||| 2 ^ i) 0

/-- The occupancy of the coordinate store, one bit for each entry slot. -/
def occupancy (c : Core) : Field := (0xA00, 512, bitsOf (c.store.filterMap (fun e => e.2.map (fun _ => e.1))))

def partSFields (m : Mach) (n : Nat) : List Field :=
  let s := m.slot n
  let p := s.sup
  (List.range 31).map (fun i => (8 * (i + 1), 8, (s.regs.getX false (i + 1)).toNat)) ++
  (List.range 20).map (fun i => (0x100 + 8 * i, 8,
    if i = 9 ∨ i = 15 ∨ i = 16 ∨ i = 17 then 0 else (unitCsr m n i).toNat)) ++
  (match s.thr.link with
   | some l => [(0x200, 8, l.addr.toNat), (0x208, 8, l.intact.toNat)]
   | none => []) ++
  ((s.thr.stashEntries s.regs).zipIdx.flatMap (fun e => stashFields e.2 e.1)) ++
  (match s.thr.fibre with
   | some f => [(0x300, 8, f.desc.toNat), (0x308, 8, f.pos)]
   | none => []) ++
  (List.range 8).map (fun i => (0x400 + 8 * i, 8, (s.regs.getX true (24 + i)).toNat)) ++
  [(0x440, 8, (sstatusWord p).toNat), (0x448, 8, p.scause.toNat), (0x450, 8, p.sepc.toNat), (0x458, 8, p.stval.toNat),
   (0x460, 8, s.thr.sig.toNat), (0x468, 8, s.thr.iseq.toNat), (0x470, 8, p.stvec.toNat), (0x478, 8, p.sscratch.toNat),
   (0x480, 8, p.dbgctl.toNat), (0x488, 8, p.dbgpc.toNat), (0x490, 8, p.trcctl.toNat), (0x498, 8, p.smplctl.toNat)] ++
  seqFields 0x800 s.mseq ++ seqFields 0x880 s.cseq ++ (if s.unit.ccs then [occupancy (m.core (coreOf n))] else [])

/-! ### The other parts -/

def bindFields (i : Nat) (b : Binding) : List Field :=
  let o := 0x2800 + 64 * i
  [(o, 8, b.reg), (o + 8, 8, b.base.toNat), (o + 16, 8, b.stride.toNat), (o + 24, 8, b.cfg.toNat),
   (o + 32, 8, b.sbase.toNat), (o + 40, 8, b.sstride.toNat), (o + 48, 8, b.count.toNat), (o + 56, 8, b.pos)]

def partVFields (s : Slot) : List Field :=
  (s.thr.binds.zipIdx.flatMap (fun e => bindFields e.2 e.1)) ++
  (List.range 32).map (fun n => (0x3000 + 2048 * n, 2048, (s.regs.getV n).toNat))

def partMFields (s : Slot) : List Field :=
  (List.range 8).map (fun n => (0x1000 + 256 * n, 256, (s.regs.getM n).toNat))

def partKFields (s : Slot) : List Field :=
  (List.range 8).map (fun n => (0x1800 + 512 * n, 512, (s.regs.getK n).toNat))

/-- The positions of the one bits below n. -/
def onesOf (v n : Nat) : List Nat := (List.range n).filter (fun i => v / 2 ^ i % 2 == 1)

def partTFields (c : Core) : List Field :=
  ((List.range 8).flatMap (fun n => (List.range 64).map (fun r =>
    (0x13000 + 0x4000 * n + 256 * r, 256, (elem 2048 (tabGet 0 c.t n) r).toNat)))) ++
  [(0x73000, 8, c.tstate + at_ 4 c.nr.toNat), (0x73008, 8, (wbctlOf c).toNat), (0x73010, 8, (mcqOf c).toNat),
   (0x73018, 8, (tchkWord c).toNat), (0x73200, 512, bitsOf c.marks)] ++
  (c.queue.zipIdx.flatMap (fun q =>
    [(0x73400 + 24 * q.2, 8, q.1.word), (0x73408 + 24 * q.2, 8, q.1.opa.toNat), (0x73410 + 24 * q.2, 8, q.1.opb.toNat)]))

def storeEntry (c : Core) (i : Nat) : Option (Word × Word) := tabGet none c.store i

def partCFields (c : Core) : List Field :=
  (c.store.flatMap (fun e => match e.2 with
    | some (k, v) => [(0x75000 + 16 * e.1, 8, k.toNat), (0x75008 + 16 * e.1, 8, v.toNat)]
    | none => []))

/-- The fields of the selected parts of slot n. -/
def maskFields (m : Mach) (n mask : Nat) : List Field :=
  let s := m.slot n
  let c := m.core (coreOf n)
  (if partOn mask pS then partSFields m n else []) ++ (if partOn mask pV then partVFields s else []) ++
  (if partOn mask pM then partMFields s else []) ++ (if partOn mask pK then partKFields s else []) ++
  (if partOn mask pT then partTFields c else []) ++ (if partOn mask pC then partCFields c else [])

/-! ### Moving bytes -/

/-- A run of bytes moved within the byte space. -/
def Work.copyRun (w : Work) (src dst len : Nat) : Work :=
  let cells := (applyWrs w.base w.ws).filter (fun c => decide (src ≤ c.1) && decide (c.1 < src + len))
  cells.foldl (fun w c => w.putByte (dst + (c.1 - src)) c.2) (w.clearBytes dst len)

/-- The byte of the byte space that an image offset stands for, where a part is a run of bytes: the weight buffer, the LSP
body and the slot's stack (15 Table 15.7). -/
def runLoc (n off : Nat) : Option Nat :=
  if 0x33000 ≤ off ∧ off < 0x73000 then some (wbLoc (coreOf n) (off - 0x33000))
  else if 0x85000 ≤ off ∧ off < 0x175000 then some (lspLoc (coreOf n) (off - 0x85000))
  else if 0x175000 ≤ off ∧ off < 0x17D000 then some (lspLoc (coreOf n) (0xF0000 + n % 2 * 0x8000 + (off - 0x175000)))
  else none

/-- An image as slot n's engine or Horizon reaches it: the image address and the context's tables. -/
structure ImageAt where
  base : Word
  slot : Nat
  spt : Word
  sup : Bool
  deriving DecidableEq, Repr

/-- The place of an image offset, for an access. -/
def ImageAt.place (i : ImageAt) (w : Work) (off acc : Nat) : Except Miss (Nat × Work) :=
  scalarPlace w i.slot i.spt i.sup (i.base + BitVec.ofNat 64 off) acc

/-- The pages of the mask probed for an access, line by line; the first fault carries its address, and the work that the probe leaves
(15 R386). -/
def ImageAt.probe (i : ImageAt) (acc : Nat) : List Nat → Work → Except (Miss × Word × Work) Work
  | [], w => .ok w
  | p :: ps, w =>
    match i.place w (p * 0x1000) acc with
    | .error e => .error (e, i.base + BitVec.ofNat 64 (p * 0x1000), w)
    | .ok (loc, w) =>
      match writable w.m i.slot ((List.range 64).map (fun k => loc + 64 * k)) with
      | .error e => .error (e, i.base + BitVec.ofNat 64 (p * 0x1000), w)
      | .ok () => i.probe acc ps w

/-- The same, where a fault leaves nothing moved. -/
def ImageAt.probed (i : ImageAt) (acc mask : Nat) (w : Work) : M Work :=
  match i.probe acc (maskPages mask) w with
  | .ok w1 => .ok w1
  | .error (e, a, w1) => e.toM (w.corrected w1) a acc

/-- One piece of a part written: a run of bytes moved, or the place cleared for the fields. Skipped where the page does
not translate (log 9). -/
def ImageAt.writePiece (i : ImageAt) (w : Work) (p : Nat × Nat) : Work :=
  match i.place w p.1 1 with
  | .error _ => w
  | .ok (loc, w) =>
    match runLoc i.slot p.1 with
    | some src => w.copyRun src loc p.2
    | none => w.clearBytes loc p.2

/-- One field written. -/
def ImageAt.writeField (i : ImageAt) (w : Work) (f : Field) : Work :=
  if f.2.2 = 0 then w else
  match i.place w f.1 1 with
  | .error _ => w
  | .ok (loc, w) => w.putNum loc f.2.1 f.2.2

/-- The Almanac bytes among what was written of the pieces noted as writes that are not covered yet, each byte for itself (13 R316):
`old` is the work before the image was written. -/
def ImageAt.note (i : ImageAt) (old : Work) (pieces : List (Nat × Nat)) (w : Work) : Work :=
  let u := (w.m.slot i.slot).unit
  let noted := pieces.foldl (fun n p => match i.place n p.1 1 with
    | .error _ => n
    | .ok (loc, _) =>
      if w.m.almanacTouched loc p.2 then n.noteBytes u.lid u.unit false ((span loc p.2).map (fun l => (l, w.byte l))) else n) old
  { w with m := { w.m with pkg := noted.m.pkg } }

/-- The selected parts written, PARTS last (15 R386). -/
def ImageAt.write (i : ImageAt) (mask : Nat) (old : Work) : Work :=
  let fields := maskFields old.m i.slot mask
  let w := (maskPieces mask).foldl i.writePiece old
  let w := fields.foldl i.writeField w
  match i.place w 0 1 with
  | .error _ => w
  | .ok (loc, w) => i.note old ((0, 8) :: maskPieces mask) (w.putNum loc 8 (mask % 512))

/-- The places of pieces of an image, in rising address (15 R386). -/
def ImageAt.locs (i : ImageAt) (w : Work) (acc : Nat) (pieces : List (Nat × Nat)) : List Nat :=
  let sorted := pieces.foldr (fun p l => l.takeWhile (fun q => decide (q.1 < p.1)) ++ p :: l.dropWhile (fun q => decide (q.1 < p.1))) []
  sorted.flatMap (fun p => match i.place w p.1 acc with | .error _ => [] | .ok (loc, _) => span loc p.2)

/-- The selected parts written byte after byte, PARTS last (12 R293; 15 R386). -/
def ImageAt.writeApart (i : ImageAt) (mask : Nat) (w : Work) : M Work :=
  let u := (w.m.slot i.slot).unit
  w.writeApart (i.write mask w) u.lid u.unit (fun _ =>
    let parts := i.locs w 1 [(0, 8)]
    (i.locs w 1 (maskPieces mask)).filter (fun l => !parts.contains l) ++ parts)

/-- A field read: 0 where the page does not translate, which a probe has ruled out. -/
def ImageAt.field (i : ImageAt) (w : Work) (off len : Nat) : Nat :=
  match i.place w off 0 with
  | .error _ => 0
  | .ok (loc, w) => w.num loc len

def ImageAt.word (i : ImageAt) (w : Work) (off : Nat) : Word := BitVec.ofNat 64 (i.field w off 8)

/-- The lines of the pieces that have one good copy scrubbed, as a read does it (13 R314). -/
def ImageAt.scrub (i : ImageAt) (w : Work) (pieces : List (Nat × Nat)) : Work :=
  pieces.foldl (fun w p => match i.place w p.1 0 with
    | .error _ => w
    | .ok (loc, w) => w.scrubRange loc p.2) w

/-- The first byte of the pages that a persistent uncorrectable error holds, its place and its address (15 R386, R387). -/
def ImageAt.poison (i : ImageAt) (w : Work) (pieces : List (Nat × Nat)) : Option (Nat × Word) :=
  let bad := pieces.filterMap (fun p => match i.place w p.1 0 with
    | .error _ => none
    | .ok (loc, w) => (List.range (p.2 / 64 + 1)).findSome? (fun k =>
        if 64 * k < p.2 && w.m.poisoned (loc + 64 * k) then some (p.1 + 64 * k, loc + 64 * k) else none))
  (bad.map (fun b => b.1)).min?.bind (fun o => (bad.find? (fun b => b.1 = o)).map (fun b => (b.2, i.base + BitVec.ofNat 64 o)))

/-! ### Restoring -/

/-- The stash of an image. The address of an entry's producer stands nowhere in the image: the model takes 0, which STALL_SHORT
then reports (02 R43; DESIGN CHOICE, log 53). `side` tells the entries of the interrupted convoy, and the registers of an entry that a
later result had reached (log 9). -/
def restoreStash (i : ImageAt) (w : Work) (side : ImageSide) : List Win :=
  (List.range 5).filterMap (fun e =>
    let desc := i.field w (0x210 + 24 * e) 8
    let rem := i.field w (0x220 + 24 * e) 8
    let kind := desc % 8
    let first := desc / 8 % 32
    let count := desc / 256 % 16
    let old (j : Nat) (len : Nat) : Nat := i.field w (0x17D000 + 0x4000 * e + 0x800 * j) len
    let olds :=
      if kind = 1 then [OldReg.x false first (i.word w (0x218 + 24 * e))]
      else (List.range count).filterMap (fun j =>
        if kind = 2 then some (OldReg.v (first + j) (BitVec.ofNat _ (old j 2048)))
        else if kind = 3 then some (OldReg.m (first + j) (BitVec.ofNat _ (old j 256)))
        else if kind = 4 then some (OldReg.k (first + j) (BitVec.ofNat _ (old j 512)))
        else none)
    if kind = 0 ∨ rem = 0 then none else some {
      pc := 0, rem := rem, conv := side.conv.getD e false, olds := olds.filter (fun o => !(side.holes.getD e []).contains (oldNum o)) })

def restoreSeq (i : ImageAt) (w : Work) (base : Nat) : Sequencer :=
  let st := i.field w (base + 8) 8
  { st := seqOfCode (st % 256), pc := i.word w base,
    r := (List.range 7).map (fun j => (j + 1, i.word w (base + 16 + 8 * j))),
    fmt := BitVec.ofNat 4 (st / 256), slc := BitVec.ofNat 4 (st / 65536), rm := BitVec.ofNat 3 (st / 16777216), sup := st / 2 ^ 32 % 2 == 1,
    cause := i.field w (base + 72) 8, stval := i.word w (base + 80), pend := [] }

/-- The unit-level control registers of an image, `vl` and `vtype` without clamping (03 R87); a field that reads as zero takes
nothing (00 R3). -/
def restoreCtl (i : ImageAt) (w : Work) : SlotCtl :=
  let g (n : Nat) : Word := i.word w (0x100 + 8 * n)
  { vl := (g 0).setWidth 12, fmt := (g 1).setWidth 4, blk := BitVec.ofNat 3 (bitsN (g 1) 4 3),
    slc := BitVec.ofNat 4 (bitsN (g 1) 8 4), vstart := (g 2).setWidth 11, vstride := g 3, msel := (g 4).setWidth 3,
    mall := bitB (g 4) 3, rm := (g 6).setWidth 3, fflags := (g 7).setWidth 5, vstate := g 8 &&& vstateBits, chkStall := bitB (g 0xA) 0,
    vwbase := vwbaseWord (g 0xB), vcursor := g 0xC, vstripno := (g 0xD).setWidth 32, vprog := keepBits (g 0xE) 3 54,
    barseq := g 0x12 &&& barseqBits }

/-- Part S restored into the slot, without the supervisor area and the coordinate store's occupancy (15 R386). The element links stay: no
rule clears them at a restore (08 R203). A fibre descriptor address of 0 is taken as no
definition: the image holds no valid bit (08 R210; DESIGN CHOICE, log 53). -/
def restoreS (i : ImageAt) (w : Work) (side : ImageSide) (s : Slot) : Slot :=
  let x : Tab Word := (List.range 31).map (fun j => (j + 1, i.word w (8 * (j + 1))))
  let la := i.word w 0x200
  let fd := i.word w 0x300
  { s with
    regs := { s.regs with x := x }
    ctl := restoreCtl i w
    thr := { s.thr with
      link := if la = 0 ∧ i.field w 0x208 8 = 0 then none else some { addr := la, line := 0, intact := false }
      stash := restoreStash i w side
      stashRun := side.run
      fibre := if fd = 0 then none else some { desc := fd, words := [], pos := i.field w 0x308 8 } }
    mseq := restoreSeq i w 0x800
    cseq := restoreSeq i w 0x880 }

/-- The supervisor area restored, which only Horizon does (15 R387). -/
def restoreSup (i : ImageAt) (w : Work) (s : Slot) : Slot :=
  let st := i.word w 0x440
  { s with
    regs := { s.regs with sx := (List.range 8).map (fun j => (24 + j, i.word w (0x400 + 8 * j))) }
    sup := { s.sup with
      spp := bitB st 0, intrap := bitB st 1, scause := keepBits (i.word w 0x448) 0 10, sepc := keepBits (i.word w 0x450) 2 55,
      stval := i.word w 0x458, stvec := i.word w 0x470 &&& stvecBits, sscratch := i.word w 0x478,
      dbgctl := i.word w 0x480 &&& dbgctlBits, dbgpc := keepBits (i.word w 0x488) 2 55,
      trcctl := keepBits (i.word w 0x490) 0 3, smplctl := i.word w 0x498 &&& smplctlBits }
    thr := { s.thr with sig := i.word w 0x460, iseq := i.word w 0x468 } }

/-- The binding table of an image. Table 15.7 gives a record no valid mark: the model takes a record of 64 zero bytes as no binding,
so a binding of v0 whose every field is 0 does not come back (06 R170; DESIGN CHOICE, log 56). -/
def restoreBinds (i : ImageAt) (w : Work) : List Binding :=
  (List.range 8).filterMap (fun e =>
    let o := 0x2800 + 64 * e
    let b : Binding :=
      { reg := i.field w o 8 % 32, base := i.word w (o + 8), stride := i.word w (o + 16), cfg := i.word w (o + 24),
        sbase := i.word w (o + 32), sstride := i.word w (o + 40), count := i.word w (o + 48), pos := i.field w (o + 56) 8 }
    if b.reg = 0 ∧ b.base = 0 ∧ b.stride = 0 ∧ b.cfg = 0 ∧ b.sbase = 0 ∧ b.sstride = 0 ∧ b.count = 0 ∧ b.pos = 0 then
      none else some b)

def restoreV (i : ImageAt) (w : Work) (s : Slot) : Slot :=
  { s with
    regs := { s.regs with v := (List.range 32).map (fun n => (n, BitVec.ofNat _ (i.field w (0x3000 + 2048 * n) 2048))) }
    thr := { s.thr with binds := restoreBinds i w } }

def restoreM (i : ImageAt) (w : Work) (s : Slot) : Slot :=
  { s with regs := { s.regs with
      m := (List.range 8).map (fun n => (n, BitVec.ofNat _ (i.field w (0x1000 + 256 * n) 256))) } }

def restoreK (i : ImageAt) (w : Work) (s : Slot) : Slot :=
  { s with regs := { s.regs with
      k := (List.range 8).map (fun n => (n, BitVec.ofNat _ (i.field w (0x1800 + 512 * n) 512))) } }

/-- Part T restored into the core's fields; the weight buffer's bytes are moved apart (15 R430). Each command keeps the k-steps
that its enqueuing fixed, where they agree with the saved `mcq`.KSTEPS; else the head takes what makes the sum of the computed ones
that field (09 R242; log 9). -/
def restoreT (i : ImageAt) (w : Work) (side : ImageSide) (ksteps : Nat → Nat) (c : Core) : Core :=
  let ts := i.field w 0x73000 8 % 4
  let wb := i.field w 0x73008 8
  let q := i.field w 0x73010 8
  let k := i.field w 0x73018 8
  let saved := q / 64 % 1024
  let words := (List.range (q % 64)).map (fun e => i.field w (0x73400 + 24 * e) 8 % 2 ^ 32)
  let sum (l : List Nat) : Nat := min 1023 (l.foldl (· + ·) 0)
  let steps := if side.ksteps.length = q % 64 ∧ sum side.ksteps = saved then side.ksteps
    else if sum (words.map ksteps) = saved then words.map ksteps
    else if sum ((words.drop 1).map ksteps) ≤ saved then (saved - sum ((words.drop 1).map ksteps)) :: (words.drop 1).map ksteps
    else [saved]
  let row (n r : Nat) : Nat := i.field w (0x13000 + 0x4000 * n + 256 * r) 256
  { c with
    tstate := if ts = 0 then 1 else ts
    nr := false
    nrElt := none
    t := (List.range 8).map (fun n =>
      (n, setElems 2048 (0 : TReg) (fun r => some (BitVec.ofNat 2048 (row n r))) 64))
    marks := onesOf (i.field w 0x73200 512) 4096
    elt := wb % 4
    cmp := wb / 4 % 4
    nsel := wb / 16 % 4
    cen := wb / 256 % 2 == 1
    mcqErr := q / 65536 % 2 == 1
    mcqCause := q / 2 ^ 24 % 256
    mcqDone := q / 2 ^ 32
    queue := (List.range (q % 64)).map (fun e =>
      let word := i.field w (0x73400 + 24 * e) 8 % 2 ^ 32
      { word := word, opa := i.word w (0x73408 + 24 * e), opb := i.word w (0x73410 + 24 * e), ksteps := steps.getD e 0 })
    unchk := k % 65536
    rpl := k / 65536 % 65536
    fail := k / 2 ^ 32 % 65536 }

/-- The coordinate store as a restore of the parts of a mask leaves it to the slot that owns it, and how many free values that takes: the
occupancy comes with part S, keys, values and `cstat` with part C (15 R385). What an entry holds that an occupancy alone makes occupied
is open: free values (DESIGN CHOICE, log 58: Table 15.8 gives the two parts no order). -/
def restoreStore (i : ImageAt) (w : Work) (mask : Nat) (owns : Bool) (cstat : Word) (c : Core) : Core × Nat :=
  if !owns || !(partOn mask pS || partOn mask pC) then (c, 0) else
  let occ := if partOn mask pS then onesOf (i.field w 0xA00 512) 4096 else c.store.filterMap (fun e => e.2.map (fun _ => e.1))
  let pair (e k : Nat) : Word × Word :=
    if partOn mask pC then (i.word w (0x75000 + 16 * e), i.word w (0x75008 + 16 * e))
    else (storeEntry c e).getD (Config.openWord (w.m.fresh + 2 * k), Config.openWord (w.m.fresh + 2 * k + 1))
  let c := { c with store := occ.zipIdx.map (fun p => (p.1, some (pair p.1 p.2))) }
  if partOn mask pC then ({ c with full := bitB cstat 16, drops := bitsN cstat 32 32 }, 0) else (c, 2 * occ.length)

/-- Whether a copy owns a line of the pieces, or a linked read's hold keeps it back, so that the image is not written yet (03 R72;
11 R270). -/
def ImageAt.blocked (i : ImageAt) (w : Work) (pieces : List (Nat × Nat)) : Bool :=
  let lines := w.m.engines.flatMap (fun e => e.2.cmds.flatMap (fun c => c.lines)) ++
    (w.m.pkg.holds.map (fun h => h.1)).filter (w.m.heldFor i.slot)
  lines != [] && pieces.any (fun p => match i.place w p.1 1 with
    | .error _ => false
    | .ok (loc, _) => lines.any (fun l => decide (loc < 64 * l + 64) && decide (64 * l < loc + p.2)))

/-- Whether an access of the selected parts to the slot's own LSP and weight buffer waits for a copy that owns a line there, or, as a
write, for a linked read's hold (03 R72; 11 R270). -/
def ImageAt.runsBusy (i : ImageAt) (mask : Nat) (write : Bool) (w : Work) : Bool :=
  let lines := w.m.engines.flatMap (fun e => e.2.cmds.flatMap (fun c => c.lines)) ++
    (if write then (w.m.pkg.holds.map (fun h => h.1)).filter (w.m.heldFor i.slot) else [])
  lines != [] && (maskPieces mask).any (fun p => match runLoc i.slot p.1 with
    | some loc => lines.any (fun l => decide (loc < 64 * l + 64) && decide (64 * l < loc + p.2))
    | none => false)

/-- The runs of bytes of the selected parts read back. -/
def ImageAt.readRuns (i : ImageAt) (mask : Nat) (w : Work) : Work :=
  (maskPieces mask).foldl (fun w p =>
    match runLoc i.slot p.1, i.place w p.1 0 with
    | some dst, .ok (loc, w) => w.copyRun loc dst p.2
    | _, _ => w) w

end Sys2Proof.Machine
end

