-- ==== Sys2Proof/Machine/Life.lean ====
section
/-! DEFINITION. The life of units and launches: the completion table (14 R335, R338), the tile group's claim and release (09
R214, Table 9.1), how a unit ends (14 R346, R356; 15 R366; 13 R327), how it is suspended (14 R344; 15 R387), and the restore
of image parts that ctxrest, Horizon and the no-handler rules share (15 R386). -/

namespace Sys2Proof.Machine

/-! ### The completion table -/

def Mach.entry (m : Mach) (ix : Nat) : Entry := tabGet Entry.reset m.sched.entries ix

def Mach.setSched (m : Mach) (f : Sched → Sched) : Mach := { m with sched := f m.sched }

def Mach.setEntry (m : Mach) (ix : Nat) (e : Entry) : Mach :=
  m.setSched (fun s => { s with entries := tabSet s.entries ix e })

/-- The launch ID or handle of an entry: serial number and index (14 R335). -/
def handleOf (ix serial : Nat) : Nat := serial * 4096 + ix

/-- The index that a handle names, unless it is stale (14 R335). -/
def Mach.handleIx (m : Mach) (h : Nat) : Option Nat :=
  let ix := h % 4096
  let e := m.entry ix
  if h ≠ 0 ∧ h < 2 ^ 44 ∧ e.serial ≠ 0 ∧ e.serial = h / 4096 then some ix else none

/-- The index of the next new entry: one that has never been used, else, of those that have a serial number left, the one freed
longest ago (14 R335). -/
def Mach.nextIndex (m : Mach) : Option Nat :=
  if m.sched.fresh < 4096 then some m.sched.fresh
  else m.sched.freed.find? (fun ix => decide ((m.entry ix).serial + 1 < 2 ^ 32))

/-- The members of an entry whose index is given to a new one: what enclosed that entry encloses them from then on (14 R335, R352). -/
def Mach.handOver (m : Mach) (ix : Nat) : Mach :=
  let up := (m.entry ix).parent
  m.setSched (fun s => { s with
    entries := s.entries.map (fun x => if x.2.parent = some ix then (x.1, { x.2 with parent := up }) else x) })

/-- A new entry, with a serial number that no earlier entry of its index carried; none when the table is full (14 R335, R341). -/
def Mach.newEntry (m : Mach) (e : Entry) : Option (Nat × Mach) :=
  m.nextIndex.map (fun ix =>
    (ix, ((m.handOver ix).setEntry ix { e with serial := (m.entry ix).serial + 1, released := false }).setSched (fun s => { s with
      fresh := max s.fresh (ix + 1), freed := s.freed.filter (fun i => i ≠ ix) })))

/-- Whether an entry can be given (14 R341). -/
def Mach.tableRoom (m : Mach) : Bool := m.nextIndex.isSome

/-- The status of an entry that completes now (14 R338). -/
def Entry.settle (e : Entry) : Entry :=
  if e.status = 1 ∧ e.closed ∧ e.count = 0 then
    { e with status := if e.cancelled then 4 else if e.failed then 3 else 2 }
  else e

/-- A member of an entry has completed (14 R338). -/
def Mach.entryDown (m : Mach) (ix : Nat) (memberFailed : Bool) : Mach :=
  let e := m.entry ix
  m.setEntry ix ({ e with count := e.count - 1, failed := e.failed || memberFailed }).settle

/-- The failure of a unit or copy recorded in its launch's entry: the first one counts (14 R338, R428). -/
def Mach.failLaunch (m : Mach) (lid : Nat) (f : Failure) : Mach :=
  match m.handleIx lid with
  | none => m
  | some ix =>
    let e := m.entry ix
    if e.status ≠ 1 then m else m.setEntry ix { e with failed := true, failure := some (e.failure.getD f) }

/-- A unit that is gone for good: its launch's count falls (14 R338, R346). -/
def Mach.unitGone (m : Mach) (lid : Nat) : Mach :=
  match m.handleIx lid with
  | some ix => if (m.entry ix).level = 0 then m.entryDown ix false else m
  | none => m

/-- Whether a launch is cancelled (14 R352; 03 R78). -/
def Mach.cancelledLid (m : Mach) (lid : Nat) : Bool :=
  match m.handleIx lid with
  | none => false
  | some ix => (m.entry ix).cancelled

/-- Whether entry ix lies in entry `anc` or is it, within 4 levels (14 R338). -/
def Mach.within (m : Mach) (anc : Nat) : Nat → Nat → Bool
  | _, 0 => false
  | ix, k + 1 =>
    ix == anc || (match (m.entry ix).parent with
      | some p => m.within anc p k
      | none => false)

/-- DETAIL and ADDR of a completion block from a cause and its `stval` (14 R428, Table 14.11). -/
def failureOf (cause : Nat) (stval pc : Word) (unit : Nat) : Failure :=
  let high := [cPAGE_FAULT, cVPAGE_FAULT, cACCESS_VIOLATION, cRECOVERY_FAULT]
  let low := [cTILE_DISABLED, cBINDING_FAULT, cSHAPE_INVALID, cCANCELLED]
  let d := if high.contains cause then bitsN stval 57 7 else if low.contains cause then bitsN stval 0 7 else 0
  let a := if high.contains cause then keepBits stval 0 57 else if low.contains cause then 0 else stval
  { cause := cause, detail := d, pc := pc, addr := a, unit := unit, treg := 0, token := 0 }

/-! ### The tile group (09 Table 9.1) -/

/-- A core without a tile group's owner: contents discarded. -/
def Core.release (c : Core) : Core :=
  { c with owner := none, tstate := 0, nr := false, nrElt := none, t := [], marks := [], elt := 0, cmp := 0, nsel := 0, cen := false,
           mcqErr := false, mcqCause := 0, mcqDone := 0, queue := [], tileOps := [], unchk := 0, rpl := 0, fail := 0 }

/-- The tile group of a core given up by slot n, if it owns it: the weight buffer's lines are discarded (09 R215). -/
def Work.releaseTile (w : Work) (n : Nat) : Work :=
  let c := w.m.core (coreOf n)
  if c.owner = some n then
    ({ w with m := w.m.setCore (coreOf n) c.release }).clearBytes (wbLoc (coreOf n) 0) (2 ^ 18)
  else w

/-- The tile group claimed by slot n in state INIT: every accumulator and weight-buffer byte reads 0 (09 R214, R215). -/
def Work.claimTile (w : Work) (n : Nat) : Work :=
  let c := (w.m.core (coreOf n)).release
  ({ w with m := w.m.setCore (coreOf n) { c with owner := some n, claim := c.claim + 1, tstate := 1 } }).clearBytes (wbLoc (coreOf n) 0) (2 ^ 18)

/-- `ten` of slot n (09 R215, Table 9.1): false where the other slot owns the group. -/
def Work.ten (w : Work) (n : Nat) : Option Work :=
  match (w.m.core (coreOf n)).owner with
  | none => some (w.claimTile n)
  | some o => if o = n then some w else none

/-- The k-steps of a command word under a weight format's NSEL and a slice count (09 R242; 10 R254, R257). For a word that is
no legal command the rules give no figure: the model counts by OP alone (DESIGN CHOICE, log 53). -/
def kstepsOfWord (nsel slc word : Nat) : Nat :=
  let op := fld word 21 6
  let f := fld word 0 4
  if op = 0x2E then (if f = 1 then 16 else 1)
  else if op = 0x2F then (if f = 0 then 2 ^ nsel else slc * (slc + 1))
  else 0

/-! ### User queues in error (14 R349) -/

def Mach.queue? (m : Mach) (k : Nat) : Option Queue := (m.sched.queues.find? (fun q => q.1 = k)).map (fun q => q.2)

def Mach.setQueue (m : Mach) (k : Nat) (q : Queue) : Mach :=
  m.setSched (fun s => { s with queues := tabSet s.queues k q })

/-- STATE := ERROR with a cause (14 R349). -/
def Work.queueError (w : Work) (loc cause : Nat) : Work :=
  let w := w.scrub (loc + 8)
  let v := putBits (BitVec.ofNat 64 (w.num (loc + 8) 8)) 8 2 1
  (w.putNoted 0 0 (loc + 8) (leBytes 8 v.toNat)).putNoted 0 0 (loc + 40) (leBytes 1 cause)

/-- A fatal page fault of a launch's work puts the user queue that the launch came from in ERROR, where it is ACTIVE, once no copy owns
the line of its control block (14 R349; 11 R270). -/
def Work.faultQueue (w : Work) (lid : Nat) (f : Failure) : Work :=
  match (w.m.sched.launches.find? (fun l => l.lid = lid)).bind (fun l => l.queue.bind (fun k => (w.m.queue? k).map (fun q => (k, q)))) with
  | some (k, q) =>
    if (f.cause = cPAGE_FAULT ∨ f.cause = cVPAGE_FAULT) ∧ f.detail = 0x7F ∧ q.pa + 64 ≤ hbmEnd ∧
        bitsN (BitVec.ofNat 64 (w.num (hbmLoc q.pa + 8) 8)) 8 2 = 0 then
      if w.m.busyLine (hbmLoc q.pa) then { w with m := w.m.setQueue k { q with failing := some f.cause } }
      else w.queueError (hbmLoc q.pa) f.cause
    else w
  | none => w

/-- A failure of a unit or a copy: it counts for its launch, and for the queue of that (14 R338, R349). -/
def Work.failLaunch (w : Work) (lid : Nat) (f : Failure) : Work :=
  ({ w with m := w.m.failLaunch lid f }).faultQueue lid f

/-! ### How a unit ends -/

/-- The copies of a unit that have not reached their completion point. -/
def Mach.copiesOf (m : Mach) (lid unit : Nat) : List Copy :=
  m.engines.flatMap (fun e => e.2.cmds.filter (fun c => c.lid = lid && c.unit = unit))

/-- Every copy changed by f. -/
def Mach.mapCopies (m : Mach) (f : Copy → Copy) : Mach :=
  { m with engines := m.engines.map (fun e => (e.1, { cmds := e.2.cmds.map f })) }

/-- The page requests of a unit forgotten (15 R380). -/
def Mach.dropRequests (m : Mach) (lid unit : Nat) : Mach :=
  m.setSched (fun s => { s with requests := s.requests.filter (fun r => !(r.lid = lid && r.unit = unit && r.ident.isNone)) })

/-- The suspended units that have ended, and whose copies have all left their engines, are gone (14 R338, R339). -/
def Mach.reap (m : Mach) : Mach :=
  let out (g : Suspended) : Bool := g.ended && (m.copiesOf g.slot.unit.lid g.slot.unit.unit).isEmpty
  (m.sched.suspended.filter out).foldl (fun m g => m.unitGone g.slot.unit.lid)
    (m.setSched (fun s => { s with suspended := s.suspended.filter (fun g => !out g) }))

/-- The slot's record as a unit that goes leaves it: a record that waits is still to be answered, and RESULT stays (14 R345, R346). -/
def SlotUnit.cleared (u : SlotUnit) : SlotUnit := { SlotUnit.reset with cmd := u.cmd, result := u.result }

/-- A slot without its unit. -/
def Slot.vacated (s : Slot) : Slot := { Slot.reset with unit := s.unit.cleared }

/-- A unit's state dropped from slot n: the tile group, the claims and the record go with it; the slot is in SAVE until the
discard is complete (14 R346; 13 R327). Its accesses that are still on their way stay counted (14 R339). -/
def Work.dropUnit (w : Work) (n : Nat) : Work :=
  let u := (w.m.slot n).unit
  let w := w.releaseTile n
  let unit := { u.cleared with
    st := .save, discard := true, ctx := u.ctx, lid := u.lid, unit := u.unit, remoteOut := u.remoteOut, notDurable := u.notDurable }
  let m := w.m.setSlot n { Slot.reset with unit := unit }
  let m := m.mapCopies (fun c => if c.lid = u.lid ∧ c.unit = u.unit then { c with home := .gone } else c)
  { w with m := m.dropRequests u.lid u.unit }

/-- The end of slot n's unit as a KILL record ends it, its launch FAILED (14 R346; 15 R366). -/
def Work.killUnit (w : Work) (n : Nat) (f : Failure) : Work :=
  (w.failLaunch (w.m.slot n).unit.lid f).dropUnit n

/-! ### Machine checks (16 R409) -/

/-- The kinds of machine-check records, numbered by the model (log 25). -/
def mcLane : Nat := 1
def mcLockstep : Nat := 2
def mcRemote : Nat := 3
def mcThermal : Nat := 4

/-- A machine-check record of slot n written; the newest 1,024 are kept. -/
def Work.machineCheck (w : Work) (kind place n : Nat) : Work :=
  let (i, w) := w.draw
  let s := w.m.slot n
  let r : MachineCheck := {
    kind := kind, place := place, pc := keepBits s.regs.pc 0 57, lid := s.unit.lid, unit := s.unit.unit, time := Config.timeBase i }
  let g := w.m.mgmt
  { w with m := { w.m with mgmt := { g with
      machineChecks := (r :: g.machineChecks).take 1024, reports := g.reports ++ [BitVec.ofNat 64 kind] } } }

/-- A remote access of slot n's unit that is not acknowledged: its package is unreachable, the unit ends, one that is being loaded or
saved too, and nothing waits for its accesses any more (16 R409). -/
def Work.unanswered (w : Work) (n pkg : Nat) (addr : Word) : Work :=
  let u := (w.m.slot n).unit
  let w := w.machineCheck mcRemote (coreOf n) n
  let p := w.m.pkg
  let unreachable := if p.unreachable.contains pkg then p.unreachable else p.unreachable ++ [pkg]
  let w := { w with m := { w.m with pkg := { p with unreachable := unreachable } } }
  let w := if u.st != .idle && !u.discard then
      w.killUnit n (failureOf cACCESS_VIOLATION (detailAddr 9 addr) (keepBits (w.m.slot n).regs.pc 0 57) u.unit)
    else w
  let m := w.m.setSlot n { w.m.slot n with unit := { (w.m.slot n).unit with remoteOut := 0 } }
  { w with m := m }

/-! ### Launches -/

/-- The units of a launch, once it is split (14 R342). -/
def Launch.units (l : Launch) : Nat := match l.span with | none => 0 | some q => ceilDiv l.count (max q 1)

/-- The units of a launch that are still to be bound, with those that a refused BIND record has given back; 1 until it is split (14
R338, R346). -/
def Launch.left (l : Launch) : Nat :=
  l.back.length + (match l.again with
  | some r => r.length
  | none => match l.span with
    | none => 1
    | some _ => l.units - l.next)

/-- Whether a launch still has a unit to bind. -/
def Launch.waits (l : Launch) : Bool := !l.dropped && l.left != 0

/-- The free entries of the pending-launch store (14 R340, R341). -/
def Mach.storeFree (m : Mach) : Nat := 4096 - (m.sched.launches.filter (fun l => l.waits && l.spilled.isNone)).length

/-- Horizon stops reading packets from user queues below 64 free entries of the store and resumes at 128: noted wherever the
number of free entries changes (14 R341). -/
def Mach.noteRoom (m : Mach) : Mach :=
  m.setSched (fun s => { s with reading := decide (128 ≤ m.storeFree) || (decide (64 ≤ m.storeFree) && s.reading) })

/-- The cancel event of entry ix (14 R352): every open entry in it is cancelled and closed, its launches are discarded, its
suspended units dropped, its copies ended with CANCELLED. -/
def Mach.cancelEntry (m : Mach) (ix : Nat) : Mach :=
  let hit (i : Nat) : Bool := m.within ix i 5
  let hitLid (lid : Nat) : Bool := match m.handleIx lid with | some i => hit i | none => false
  let gone := m.sched.suspended.filter (fun s => hitLid s.slot.unit.lid && !s.ended)
  let m1 := m.setSched (fun s => { s with
    entries := s.entries.map (fun e =>
      if hit e.1 && e.2.status = 1 then
        let open_ := !e.2.closed
        let units := if e.2.level = 0 then
            s.launches.foldl (fun a l => if l.lid = handleOf e.1 e.2.serial && !l.dropped then a + l.left else a) 0 else 0
        let left := e.2.count - (if open_ then 1 else 0) - units
        (e.1, ({ e.2 with cancelled := true, closed := true, count := left }).settle)
      else e)
    launches := s.launches.map (fun l => if hitLid l.lid then { l with dropped := true, spilled := none } else l)
    suspended := s.suspended.map (fun g => if hitLid g.slot.unit.lid then { g with ended := true, resuming := none } else g)
    requests := s.requests.filter (fun r => !(gone.any (fun g => g.request = some r.num))) })
  let free (n : Nat) (u : SlotUnit) : Bool :=
    u.st == .idle && u.cmd == 1 && u.resume && gone.any (fun g => g.resuming == some n)
  let m2 : Mach := { m1 with slots := m1.slots.map (fun p =>
    if free p.1 p.2.unit then (p.1, { p.2 with unit := { p.2.unit with cmd := 0 } }) else p) }
  (m2.mapCopies (fun c => if hitLid c.lid then { c with cancelled := true } else c)).reap.noteRoom

/-! ### Page requests and suspension -/

/-- A page request posted (15 R379). -/
def Mach.postRequest (m : Mach) (ctx lid unit : Nat) (slot ident token : Option Nat) (addr : Word) (cause acc : Nat) : Nat × Mach :=
  let num := m.sched.nextRequest
  (num, m.setSched (fun s => { s with
    nextRequest := num + 1
    requests := s.requests ++ [{ num := num, ctx := ctx, gen := (m.context ctx).gen, lid := lid, unit := unit,
                                 slot := slot, ident := ident, token := token, addr := addr, cause := cause, acc := acc }] }))

/-- The parts that slot n holds (15 R387). With NR set the tile state stands in the unit's image already. -/
def heldParts (m : Mach) (n : Nat) : Nat :=
  let s := m.slot n
  let c := m.core (coreOf n)
  0x10F + (if c.owner = some n && !c.nr then 16 else 0) + (if s.unit.ccs then 32 else 0) + (if s.unit.clsp then 64 else 0)

/-- The save areas that units hold. -/
def Mach.savesHeld (m : Mach) : List Word :=
  (m.slots.filterMap (fun p => p.2.unit.saveArea)) ++ (m.sched.suspended.map (fun g => g.image)) ++
  m.shadow.flatMap (fun p => [p.2.s0, p.2.s1].filterMap (fun s => s.unit.saveArea))

/-- The save area of a unit: the one that Umante has assigned to it, or the first area of its job that no unit holds (15 R387;
log 9). -/
def saveAreaOf (m : Mach) (n : Nat) : Word :=
  let s := m.slot n
  let j := m.job (m.context s.unit.ctx).job
  let area (i : Nat) : Word := keepBits (j.saveArea + BitVec.ofNat 64 (i * 0x200000)) 12 45
  match s.unit.saveArea with
  | some a => a
  | none => area (((List.range 4096).find? (fun i => !m.savesHeld.contains (area i))).getD 0)

/-- What an image at an address means beyond its bytes (log 9). -/
def Mach.sideOf (m : Mach) (ctx : Nat) (base : Word) : ImageSide :=
  (m.pkg.sides.find? (fun e => e.ctx == ctx && e.base == base.toNat)).getD
    { ctx := ctx, base := base.toNat, cstat := 0, run := none, conv := [], holes := [], ksteps := [] }

/-- What the image that slot n saves at an address means beyond its bytes, for the parts saved. -/
def Mach.putSide (m : Mach) (n : Nat) (base : Word) (mask : Nat) : Mach :=
  let s := m.slot n
  let c := m.core (coreOf n)
  let old := m.sideOf s.unit.ctx base
  let new : ImageSide := { old with
    cstat := if partOn mask pC then cstatOf c else old.cstat
    run := if partOn mask pS then s.thr.stashRun else old.run
    conv := if partOn mask pS then (s.thr.stashEntries s.regs).map (fun x => x.conv) else old.conv
    holes := if partOn mask pS then s.thr.stashHoles s.regs else old.holes
    ksteps := if partOn mask pT then c.queue.map (fun q => q.ksteps) else old.ksteps }
  { m with pkg := { m.pkg with
      sides := new :: m.pkg.sides.filter (fun e => !(e.ctx == s.unit.ctx && e.base == base.toNat)) } }

/-- The image at an address saved by slot n: the copies whose registers it holds write their tokens into it, and no others do any
more (11 R286). -/
def Mach.awaitTokens (m : Mach) (n : Nat) (base : Word) : Mach :=
  let ctx := (m.slot n).unit.ctx
  m.mapCopies (fun c =>
    let l := if c.ctx = ctx then c.images.filter (fun a => a ≠ base) else c.images
    { c with images := if c.home = .slot n ∨ c.home = .sequencer n then base :: l else l })

/-- The image of slot n's unit in its save area, as Horizon reaches it. -/
def Mach.saveImage (m : Mach) (n : Nat) : ImageAt :=
  { base := saveAreaOf m n, slot := n, spt := (m.context (m.slot n).unit.ctx).spt, sup := true }

/-- The coordinate store empty, as its claim finds it and its release leaves it (08 R194). -/
def Core.emptyStore (c : Core) : Core := { c with store := [], full := false, drops := 0 }

/-- The tile group and the coordinate store of slot n's unit given up as it leaves. -/
def Work.giveUp (w : Work) (n : Nat) : Work :=
  let ccs := (w.m.slot n).unit.ccs
  let w := w.releaseTile n
  if ccs then { w with m := w.m.setCore (coreOf n) (w.m.core (coreOf n)).emptyStore } else w

/-- The full image of slot n's unit stored in its save area; the tile group is released with it, and the tokens of its
copies go to the image (15 R387; 11 R286). -/
def Work.saveUnit (w : Work) (n : Nat) : Work :=
  let base := saveAreaOf w.m n
  let s := w.m.slot n
  let nr := (w.m.core (coreOf n)).nr && (w.m.core (coreOf n)).owner == some n
  let im := w.m.saveImage n
  let mask := heldParts w.m n
  let w := im.write mask w
  let w := if nr then (match im.place w 0 1 with
    | .ok (loc, w) => w.putNum loc 8 (mask + 16)
    | .error _ => w) else w
  let m := (w.m.putSide n base mask).awaitTokens n base
  let m := m.mapCopies (fun c => if c.lid = s.unit.lid ∧ c.unit = s.unit.unit then { c with home := .gone } else c)
  let m := m.setSlot n { m.slot n with unit := { (m.slot n).unit with saveArea := some base } }
  ({ w with m := m } : Work).giveUp n

/-- An x register put back. -/
def SlotRegs.putBack (r : SlotRegs) : OldReg → SlotRegs
  | .x b n o => r.setX b n o
  | _ => r

/-- The control registers of an entry as it captured them, among the live ones (03 R58). -/
def SlotCtl.captured (live held : SlotCtl) : SlotCtl :=
  { live with vl := held.vl, fmt := held.fmt, blk := held.blk, slc := held.slc, vstart := held.vstart, vstride := held.vstride,
              msel := held.msel, mall := held.mall, rm := held.rm, vwbase := held.vwbase }

/-- The thread back at an entry, with what that entry captured; what the entries `later` have written of x registers is taken
back (04 R97). -/
def Slot.backTo (s : Slot) (f : InFlight) (later : List InFlight) : Slot :=
  { s with
    regs := { later.foldr (fun g r => g.undo.foldl SlotRegs.putBack r) s.regs with pc := f.pc }
    ctl := s.ctl.captured f.ctl
    thr := { s.thr with binds := f.binds, wins := f.wins, convoy := f.convoy, iseq := f.iseq, linkRun := f.linkRun } }

/-- What has issued and not committed taken back: the thread stands at the oldest entry of its window, with what that entry
captured (04 R97). -/
def Slot.squash (s : Slot) : Slot :=
  match s.thr.window with
  | [] => s
  | f :: fs =>
    let s := s.backTo f (f :: fs)
    { s with thr := { s.thr with window := [] } }

/-- The place of the member of a convoy at which the thread stands, and the members left from it on; none outside a convoy. -/
def Slot.memberRun (s : Slot) : Option (Word × Nat) :=
  if s.thr.convoy = [] then none else some (s.regs.pc, s.thr.convoy.length)

/-- What a landing does to a slot: what has not committed is taken back (04 R97); a User thread's windows go to the stash, a
handler's are closed and the stash of its trap is kept. `sepc` holds the address at which the unit goes on where a rule says so
(`own`: at `setvl`, `barwait`, `wmwait` and `yield`, 03 R79; 12 R310; 14 R357), and else outside a handler; at a trap, and at an
`mcall` of a handler, it keeps the trap's (02 R33; 15 R382; log 12). -/
def Slot.land (s : Slot) (own : Bool) : Slot :=
  let s := s.squash
  let user := s.regs.level = .user && !s.sup.intrap
  { s with sup := { s.sup with sepc := if own || !s.sup.intrap then keepBits s.regs.pc 2 55 else s.sup.sepc },
           thr := { s.thr with
             stash := if user then s.thr.wins else s.thr.stash
             stashRun := if user then s.memberRun else s.thr.stashRun
             wins := []
             convoy := [] } }

/-- Slot n's unit landed: it is held as suspended once its image is stored (14 R344, R346). The thread's links are cleared
(03 R71). -/
def Work.suspendUnit (w : Work) (n : Nat) (request : Option Nat) (own : Bool := false) : Work :=
  let s := ((w.m.slot n).land own).clearLinks
  { w with m := w.m.setSlot n { s with unit := { s.unit with st := .save, request := request, waiting := none, held := none } } }

/-! ### Restoring parts (15 R386) -/

/-- The parts of an image restored into the running slot as ctxrest does it, `hw` for the hardware's own restores. -/
def Work.restoreParts (w : Work) (base : Word) (mask : Nat) : M Work := do
  let n := w.m.cur
  let im : ImageAt := { base := base, slot := n, spt := w.ctx.spt, sup := true }
  let w ← im.probed 0 mask w
  let memory := w.base
  let w ← w.readApart (fun _ => im.locs w 0 [(0, 8)])
  let parts := im.field w 0 8
  if (List.range 12).any (fun p => partOn mask p && !partOn parts p) then raise w cSHAPE_INVALID 13 else
  let w ← if partOn mask pT then (match w.ten n with
      | some w => .ok w
      | none => raise w cTILE_DISABLED 2) else .ok w
  if (partOn mask pC && !w.s.unit.ccs) || (partOn mask pL && !w.s.unit.clsp) then
    raise w cACCESS_VIOLATION (detailAddr 3 base) else
  if w.m.engines.any (fun e => e.2.cmds.any (fun c => c.images.contains base && c.ctx = w.s.unit.ctx)) then
    .error (.wait .token) else
  if im.runsBusy mask true w then .error (.wait .ownedLine) else
  let read := (0, 8) :: maskPieces mask
  match im.poison w read with
  | some (loc, a) => raise (w.countBad [loc]) cMEMORY_POISON a 0
  | none => do
    let w ← (im.scrub w read).readApart (fun _ => im.locs w 0 (maskPieces mask))
    let side := w.m.sideOf w.s.unit.ctx base
    let s := w.s
    let s := if partOn mask pS then restoreS im w side s else s
    let s := if partOn mask pV then restoreV im w s else s
    let s := if partOn mask pM then restoreM im w s else s
    let s := if partOn mask pK then restoreK im w s else s
    let keepVs := if partOn mask pS then s.ctl.vstate else w.s.ctl.vstate
    let vs := if partOn mask pV then (keepVs &&& 0x00000000FFFFFFED) ||| 1 else keepVs
    let vs := if partOn mask pM then vs &&& ~~~4 else vs
    let vs := if partOn mask pK then vs &&& ~~~8 else vs
    let s := { s with ctl := { s.ctl with vstate := vs } }
    let c := w.core
    let c := if partOn mask pT then restoreT im w side (kstepsOfWord (im.field w 0x73008 8 / 16 % 4) s.ctl.slc.toNat) c else c
    let (c, k) := restoreStore im w mask s.unit.ccs side.cstat c
    let w' := im.readRuns mask w
    .ok { w' with base := memory, m := { (w'.m.setSlot n s).setCore (coreOf n) c with fresh := w'.m.fresh + k } }

end Sys2Proof.Machine
end

