-- ==== Sys2Proof/Machine/Ops.lean ====
section
/-! DEFINITION. The shared operations of every instruction: the windows of the stale-read contract (02 R30 to R35), the checks
of issue (02 R34, R40 to R43), the strip of a bound source (06 R171), completion, taking a trap (15 R365 to R367) and the
return from one (15 R389), and `issue`, which runs an instruction's meaning among them. -/

namespace Sys2Proof.Machine

/-! ### Windows -/

/-- Whether a saved register is the one that a field names, for a slot at a level. -/
def RegName.isOld (l : Level) (r : RegName) : OldReg → Bool
  | .x b n _ => (match r with | .x j => j.val == n && inBank l j.val == b | _ => false)
  | .v n _ => (match r with | .v j => j.val == n | _ => false)
  | .m n _ => (match r with | .m j => j.val == n | _ => false)
  | .k n _ => (match r with | .k j => j.val == n | _ => false)

/-- The register's value before a write; none for x0, to which a write opens no window (02 R30). -/
def RegName.old (s : Slot) : RegName → Option OldReg
  | .x n => if n.val = 0 then none else
      some (.x (inBank s.regs.level n.val) n.val (s.regs.getX (inBank s.regs.level n.val) n.val))
  | .v n => some (.v n.val (s.regs.getV n.val))
  | .m n => some (.m n.val (s.regs.getM n.val))
  | .k n => some (.k n.val (s.regs.getK n.val))

/-- The producer of the earliest open window that a read of one of the registers would fall into; none where no read of
them is stale (02 R30, R34, R37, R43). -/
def Slot.stalePc (s : Slot) (rs : List RegName) : Option Word :=
  let hit (r : RegName) (w : Win) : Bool := w.olds.any (r.isOld s.regs.level)
  let stale := rs.filter (fun r => !s.thr.wins.any (fun w => w.conv && hit r w))
  (s.thr.wins.find? (fun w => stale.any (fun r => hit r w))).map (fun w => w.pc)

/-- Windows without the registers for which `p` holds; a window that keeps none is gone. -/
def dropRegs (p : OldReg → Bool) (ws : List Win) : List Win :=
  (ws.map (fun w => { w with olds := w.olds.filter (fun o => !p o) })).filter (fun w => w.olds != [])

/-- Whether two saved registers are the same register. -/
def OldReg.same : OldReg → OldReg → Bool
  | .x b n _, .x b' n' _ => b == b' && n == n'
  | .v n _, .v n' _ => n == n'
  | .m n _, .m n' _ => n == n'
  | .k n _, .k n' _ => n == n'
  | _, _ => false

/-- Every distance grown by `d`: a window whose producer is reached closes, and with it the earlier windows of its
registers (02 R30, R32). -/
def advance (d : Nat) (ws : List Win) : List Win :=
  ws.foldl (fun acc w =>
    if w.rem ≤ d then dropRegs (fun o => w.olds.any o.same) acc else acc ++ [{ w with rem := w.rem - d }]) []

/-- The instructions that close every open window of their thread at issue (07 R184; 15 R381). -/
def closesWindows : Instr → Bool
  | .vfetch _ _ _ => true
  | .mcall _ => true
  | _ => false

/-- The return from a trap, which is no instruction of the resumed thread's distances (02 R33). -/
def isReturn : Instr → Bool
  | .eret _ => true
  | _ => false

/-- The windows after an instruction at `pc` has completed: S, latency, and the old values of what it wrote. -/
def openWindow (pc : Word) (st : Nat) (lat : Option Nat) (conv : Bool) (olds : List OldReg) (ws : List Win) : List Win :=
  let ws := advance (1 + st) ws
  let reached := dropRegs (fun o => olds.any o.same) ws
  match lat with
  | none => reached
  | some l =>
    if olds = [] then ws
    else if l ≤ 1 + st then reached
    else ws ++ [{ pc := pc, rem := l - (1 + st), conv := conv, olds := olds }]

/-! ### Completion -/

/-- `ten` and `tdis`: the tile instructions that need no tile group (09 R216). -/
def switchesTile : Instr → Bool
  | .ten _ => true
  | .tdis _ => true
  | _ => false

/-- Whether the slot still runs the unit whose instruction completes. -/
def SlotState.runs : SlotState → Bool
  | .run => true
  | .stop => true
  | .drain => true
  | _ => false

/-- The failed copies whose tokens an instruction that reads the registers `rd` and writes `wr` has read, left out; those whose
tokens it overwrites, marked (11 R284). -/
def Slot.failedAfter (s : Slot) (rd wr : List RegName) : List FailedCopy :=
  let named (l : List RegName) (c : FailedCopy) : Bool :=
    l.any (fun r => match r with
      | .x n => !c.seq && !c.overwritten && n.val == c.reg && n.val != 0 && inBank s.regs.level n.val == c.sup
      | _ => false)
  (s.thr.failed.filter (fun c => !named rd c)).map (fun c => if named wr c then { c with overwritten := true } else c)

/-- The strips that the instruction has read counted: their flags, and the hotness of their pages (04 R96; 06 R172). -/
def Work.countStrips (w : Work) : Work :=
  w.strips.foldl (fun w p => (w.countKeys p.keys).orFlags (p.flags.foldl (fun a x => a ||| x.2) 0)) { w with strips := [] }

/-- The scalar memory instructions, `wait`, `setvl`, the copies and the ordering instructions: like every LD, ST and tile instruction,
none of them may stand in a constrained sequence (03 R72; 08 R207). -/
def breaksRun : Instr → Bool
  | .ld8 _ _ _ _ => true
  | .ld16 _ _ _ _ => true
  | .ld32 _ _ _ _ => true
  | .ld64 _ _ _ _ => true
  | .ld8N _ _ _ _ => true
  | .ld16N _ _ _ _ => true
  | .ld32N _ _ _ _ => true
  | .st8 _ _ _ _ => true
  | .st16 _ _ _ _ => true
  | .st32 _ _ _ _ => true
  | .st64 _ _ _ _ => true
  | .stc _ _ _ _ => true
  | .wait _ _ _ => true
  | .setvl _ _ _ => true
  | .ten _ => true
  | .tdis _ => true
  | .vfetch _ _ _ => true
  | .cpy _ _ _ _ _ => true
  | .cpy2 _ _ _ _ _ => true
  | .cpyt _ _ _ _ _ _ => true
  | .cpyr _ _ _ _ _ => true
  | .cpym _ _ _ _ _ => true
  | .cpyx _ _ _ _ _ => true
  | .cpyfill _ _ _ _ => true
  | .cpybc _ _ _ _ _ => true
  | .fence _ _ => true
  | .acq _ _ => true
  | .rel _ _ => true
  | .barinit _ _ _ _ => true
  | .bararr _ _ _ _ => true
  | .barwait _ _ _ => true
  | .wmwait _ _ => true
  | _ => false

/-- What an instruction leaves of the count of the instructions since a linked read, while the sequence may still be constrained:
at most 16, none of those that may not stand in one, and no taken branch (03 R72; 08 R207). -/
def nextRun (i : Instr) (f : Info) (straight : Bool) (run : Option Nat) : Option Nat :=
  match i with
  | .ldl _ _ _ => some 0
  | .vgathl _ _ _ _ _ _ => some 0
  | i =>
    if breaksRun i || f.cls == .ld || f.cls == .st || f.tile || !straight then none
    else run.bind (fun k => if k < 16 then some (k + 1) else none)

/-- An instruction completed: windows, distances, `vstart`, tokens read, the instruction sequence, the pc (02 R30, R32, R37;
03 R84; 11 R284; 16 R402). `before` is the slot as the instruction found it. -/
def Work.retire (w : Work) (i : Instr) (before : Slot) : Work :=
  if !w.s.unit.st.runs then { w with strips := [] } else
  let w := w.countStrips
  let f := infoOf before.ctl.fmt i
  let s := w.s
  let member := f.conv || s.thr.convoy != []
  let wins := if isReturn i then s.thr.wins
    else openWindow before.regs.pc f.st f.lat member (f.wr.filterMap (RegName.old before)) s.thr.wins
  let rest := s.thr.convoy.drop 1
  -- a copy that has failed within its own instruction stays: its token is written after it
  let known := before.thr.failed.length
  let old := { s with regs := { s.regs with level := before.regs.level }, thr := { s.thr with failed := s.thr.failed.take known } }
  let failed := old.failedAfter f.rd f.wr ++ s.thr.failed.drop known
  w.setS { s with
    regs := { s.regs with pc := w.npc }
    ctl := { s.ctl with vstart := if f.cls = .scalar && !f.tile && !switchesTile i then s.ctl.vstart else 0 }
    thr := { s.thr with
      wins := if rest = [] then wins.map (fun x => { x with conv := false }) else wins
      convoy := rest
      failed := failed
      window := []
      linkRun := nextRun i f (w.npc == before.regs.pc + 4) s.thr.linkRun
      iseq := s.thr.iseq + 1 }
    unit := { s.unit with waiting := none, held := none, lost := [], stage := 0 } }

/-! ### Traps -/

/-- The destinations of a vector instruction that a trap leaves part done, marked as written (19 R425). -/
def Work.markWritten (w : Work) (l : List RegName) : Work :=
  w.markDirty (l.foldl (fun b r => match r with
    | .x _ => b
    | .v n => b ||| 2 ||| (1 <<< (32 + n.val))
    | .m _ => b ||| 4
    | .k _ => b ||| 8) 0)

/-- Entry into the handler (15 R365): which register saves what, the level, and the pc. -/
def Work.enterHandler (w : Work) (t : Trap) : Work :=
  let s := w.s.clearLinks
  let base := keepBits s.sup.stvec 6 51
  let stash := if s.regs.level = .user then s.thr.wins else s.thr.stash
  w.setS { s with
    regs := { s.regs with
      level := .supervisor
      pc := if bitB s.sup.stvec 0 then base + BitVec.ofNat 64 (64 * t.cause) else base }
    sup := { s.sup with
      spp := s.regs.level == .supervisor
      intrap := true
      scause := BitVec.ofNat 64 (t.cause + 256 * t.acc)
      sepc := keepBits s.regs.pc 2 55
      stval := t.stval }
    thr := { s.thr with
      stash := stash
      stashRun := if s.regs.level = .user then s.memberRun else s.thr.stashRun
      wins := []
      convoy := []
      window := [] }
    unit := { s.unit with
      waiting := if s.unit.st = .stop then some .landing else none, held := none, lost := [], stage := 0 } }

/-- The unit ended as a KILL record ends it, by a cause and its `stval` at the instruction that raised it: the current one, or
the `trap` before it (15 R365, R366). -/
def Work.endUnit (w : Work) (cause : Nat) (stval : Word) : Work :=
  let pc := if cause = cSVCALL then w.s.regs.pc - 4 else w.s.regs.pc
  w.killUnit w.m.cur (failureOf cause stval (keepBits pc 0 57) w.s.unit.unit)

/-- The thread goes on at the trapped instruction after the hardware has served its trap (15 R367). -/
def Work.resumeHere (w : Work) : Work :=
  let s := w.s.clearLinks
  w.setS { s with
    thr := { s.thr with window := [] }
    unit := { s.unit with
      waiting := if s.unit.st = .stop then some .landing else none, held := none, lost := [], stage := 0 } }

/-- A page request posted for the unit, which is suspended until the answer, at the instruction that needs the page and with what its
trap left; nothing that issued after it is left (04 R97; 15 R367, R379). -/
def Work.requestPage (w : Work) (addr : Word) (cause acc : Nat) : Work :=
  let u := w.s.unit
  let (num, m) := w.m.postRequest u.ctx u.lid u.unit (some w.m.cur) none none addr cause acc
  (({ w with m := m }).mapThr (fun t => { t with window := [] })).suspendUnit w.m.cur (some num)

/-- A restore that the hardware makes where no handler exists (15 R367): a missing page is requested, any other fault ends
the unit. `ven` says that VEN is set after it. -/
def Work.hardRestore (w : Work) (mask : Nat) (ven : Bool) : M Work :=
  match w.restoreParts w.s.sup.simg mask with
  | .ok w => .ok ((if ven then w.mapCtl (fun c => { c with vstate := c.vstate ||| 1 }) else w).resumeHere)
  | .error (.trap _ t) =>
    if t.cause = cPAGE_FAULT ∧ bitsN t.stval 57 7 = 0 then .ok (w.requestPage (keepBits t.stval 0 57) t.cause t.acc)
    else .ok (w.endUnit t.cause t.stval)
  | .error e => .error e

/-- The unit leaves as `uexit` does (14 R356; 15 R367). -/
def Work.leave (w : Work) : Work :=
  let s := w.s.clearLinks
  w.setS { s with
    thr := { s.thr with window := [], convoy := [] }
    unit := { s.unit with st := .drain, exitAt := some s.regs.pc, waiting := none, held := none } }

/-- The whole of a job cancelled, as a cancel of its job entry does it (14 R352; 16 R405). -/
def Mach.cancelJob (m : Mach) (job : Nat) : Mach :=
  ((m.sched.entries.filter (fun e => e.2.job = job && e.2.status = 1 && e.2.parent = none)).map (fun e => e.1)).foldl
    (fun m ix => m.cancelEntry ix) m

/-- What the hardware does where `stvec`.BASE is 0 (15 R367). -/
def Work.noHandler (w : Work) (t : Trap) : M Work :=
  let detail := bitsN t.stval 57 7
  if (t.cause = cPAGE_FAULT ∨ t.cause = cVPAGE_FAULT) ∧ detail = 0 then
    .ok (w.requestPage (keepBits t.stval 0 57) t.cause t.acc)
  else if t.cause = cTILE_DISABLED ∧ t.stval = 1 then
    match w.ten w.m.cur with
    | some w => .ok w.resumeHere
    | none => .ok (w.endUnit t.cause t.stval)
  else if t.cause = cTILE_DISABLED ∧ t.stval = 3 then w.hardRestore 16 false
  else if t.cause = cVECTOR_DISABLED then w.hardRestore 14 true
  else if t.cause = cCANCELLED then .ok w.leave
  else if t.cause = cREPLAY_DIVERGE then
    let job := w.ctx.job
    let w := w.endUnit t.cause t.stval
    .ok { w with m := w.m.cancelJob job }
  else .ok (w.endUnit t.cause t.stval)

/-- The accepted operations that stood behind the instruction of the running slot that traps stand before whatever the thread goes on
with (09 R217). -/
def Work.passTiles (w : Work) : Work :=
  let c := w.core
  if c.owner = some w.m.cur ∧ c.tileOps ≠ [] then
    w.setCore { c with tileOps := c.tileOps.map (fun op => { op with after := min op.after w.s.thr.iseq.toNat }) }
  else w

/-- A slot takes a trap at its current instruction (15 R365 to R367; 03 R79). -/
def Work.takeTrap (w : Work) (t : Trap) : M Work :=
  let w := w.passTiles
  let w := if t.cause = cCANCELLED ∧ t.stval = 1 then
      w.failLaunch w.s.unit.lid (failureOf t.cause t.stval (keepBits w.s.regs.pc 0 57) w.s.unit.unit)
    else w
  if w.s.sup.intrap then .ok (w.endUnit t.cause t.stval)
  else if keepBits w.s.sup.stvec 6 51 = 0 then w.noHandler t
  else .ok (w.enterHandler t)

/-- The windows of the stash as they are reopened at an address: those of a convoy still belong to it where the address is
that of the trapped member or of one after it (02 R33, R37). -/
def SlotThread.reopened (t : SlotThread) (pc : Word) : List Win :=
  let inRun := match t.stashRun with
    | some (a, n) => (List.range n).any (fun k => pc == a + BitVec.ofNat 64 (4 * k))
    | none => false
  t.stash.map (fun x => { x with conv := x.conv && inRun })

/-- The return from a trap (15 R389; 02 R33): the level from SPP, INTRAP cleared, links cleared, the stash reopened for the
thread it was recorded for, and the pc from `sepc`. It is no instruction of the resumed thread's distances. -/
def Work.returnFromTrap (w : Work) : Work :=
  let s := w.s.clearLinks
  let user := !s.sup.spp
  w.setS { s with
    regs := { s.regs with level := if user then .user else .supervisor, pc := s.sup.sepc }
    sup := { s.sup with intrap := false }
    thr := { s.thr with
      wins := if user then s.thr.reopened s.sup.sepc else []
      stash := if user then [] else s.thr.stash
      stashRun := if user then none else s.thr.stashRun
      convoy := [] } }

/-! ### Issue -/

/-- Whether a slot may issue (14 Table 14.5). -/
def Slot.issues (s : Slot) : Bool :=
  s.unit.st == .run || (s.unit.st == .stop && s.unit.waiting != some .landing)

/-- The detail of TILE_DISABLED for a tile instruction of slot n, if it raises it (09 R216). -/
def tileDetail (m : Mach) (n : Nat) : Option Nat :=
  let c := m.core (coreOf n)
  if c.owner = some n then (if c.nr then some 3 else none)
  else if c.owner = some (otherSlot n) then some 2 else some 1

/-- Whether the operand pair of an operation whose A type is `fmt` is legal with the weight format's B type (09 R222). -/
def pairOk (fmt elt : Nat) : Bool :=
  (fmt == 9 && (elt == 0 || elt == 1)) || (fmt == 12 && elt == 1) || (fmt == 0 && elt == 2)

/-- The weight format that a value gives; none for a value that `wbfmt` turns away (10 R246). -/
def weightFormat (v : Word) : Option WeightFormat :=
  let f : WeightFormat := { elt := bitsN v 0 2, cmp := bitsN v 2 2, nsel := bitsN v 4 2 }
  if f.elt = 3 ∨ f.cmp = 3 ∨ (f.nsel ≠ 0 ∧ f.cmp ≠ 1) ∨ bitsN v 6 58 ≠ 0 then none else some f

/-- The weight format of a core. -/
def Core.format (c : Core) : WeightFormat := { elt := c.elt, cmp := c.cmp, nsel := c.nsel }

/-- A format after accepted operations: that of the last `wbfmt` among them (10 R246). -/
def WeightFormat.past (f : WeightFormat) (ops : List Accepted) : WeightFormat :=
  ops.foldl (fun f op => match op.instr with | .wbfmt _ _ => (weightFormat op.opa).getD f | _ => f) f

/-- The weight format's B type that slot n's next tile operation meets: of the latest `wbfmt` accepted before it; with NR set after a
resume, that of the tile state in the image, which the latest `wbfmt` of the unit set (09 R222; 10 R246; 15 R387). None in a slot that
does not own the group. -/
def Mach.eltOf (m : Mach) (n : Nat) : Option Nat :=
  let c := m.core (coreOf n)
  if c.owner ≠ some n then none
  else if c.nr then some (c.nrElt.getD c.elt)
  else
    let before := c.tileOps.filter (fun op => decide (op.after ≤ (m.slot n).thr.iseq.toNat))
    some (c.format.past (before.map TileOp.accepted)).elt

/-- Whether an A type is legal with the weight format's B type in the running slot (09 R222). A slot without the tile group has no
weight format: its A type alone is checked. -/
def Work.pairOf (w : Work) (fmt : Nat) : Bool :=
  match w.m.eltOf w.m.cur with
  | some elt => pairOk fmt elt
  | none => fmt == 9 || fmt == 12 || fmt == 0

/-- Whether an operation that the tile unit accepted from the sequencer or the queue of the running slot before the slot's next
instruction has still to complete (09 R217). -/
def Work.tilePending (w : Work) : Bool :=
  w.core.owner == some w.m.cur && w.core.tileOps.any (fun op => decide (op.after ≤ w.s.thr.iseq.toNat))

/-- The operand-pair check of an instruction: of `tmma` and `tmms` (09 R222). -/
def Work.pairFits (w : Work) (i : Instr) : Bool :=
  match i with
  | .tmma _ _ _ _ _ _ _ => w.pairOf w.s.ctl.fmt.toNat
  | .tmms _ _ _ _ _ _ _ => w.pairOf w.s.ctl.fmt.toNat
  | _ => true

/-- `stval` of an encoding or timing trap: the member index and the rest (02 Table 2.12). An index above 15 is taken modulo 16 (DESIGN
CHOICE, log 58: it does not fit [63:60], and 02 R43 does not say what then stands there). -/
def memberVal (index v : Nat) : Word := BitVec.ofNat 64 (index % 16 * 2 ^ 60 + v)

/-- Check 2 of 02 R42. -/
def Work.legal (w : Work) (i : Instr) : Bool :=
  let f := w.s.ctl.fmt
  !notInMain i && fmtOk f i && w.pairFits i && (decide (f.toNat < 13) || (infoOf f i).cls == .scalar)

/-- Check 3 of 02 R42. -/
def Work.allowed (w : Work) (i : Instr) : Bool := w.s.regs.level == .supervisor || !supervisorOnly i

/-- Check 4 of 02 R42: VECTOR_DISABLED, then TILE_DISABLED. -/
def Work.enabledTrap (w : Work) (i : Instr) : Option Trap :=
  let f := infoOf w.s.ctl.fmt i
  if f.vec && !bitB w.s.ctl.vstate 0 then some { cause := cVECTOR_DISABLED, acc := 0, stval := 0 }
  else if f.tile then
    (tileDetail w.m w.m.cur).map (fun d => { cause := cTILE_DISABLED, acc := 0, stval := BitVec.ofNat 64 d })
  else none

/-- The producer of the earliest window that a read of an instruction falls into, where `chk`.STALL is 1 (02 R34); `vfetch` and `mcall` close every
window at issue (07 R184; 15 R381). -/
def Work.staleRead (w : Work) (i : Instr) : Option Word :=
  let f := infoOf w.s.ctl.fmt i
  if w.s.ctl.chkStall && !closesWindows i then w.s.stalePc f.rd else none

/-- The first trap of the checks 2, 3, 4 and 6 of 02 R42 at an instruction outside a convoy. -/
def Work.checkTrap (w : Work) (i : Instr) : Option Trap :=
  if !w.legal i then some { cause := cILLEGAL, acc := 0, stval := memberVal 0 (encode i) }
  else if !w.allowed i then some { cause := cPRIVILEGED, acc := 0, stval := memberVal 0 (encode i) }
  else match w.enabledTrap i with
    | some t => some t
    | none =>
      match w.staleRead i with
      | some pc => some { cause := cSTALL_SHORT, acc := 0, stval := memberVal 0 (bitsN pc 0 57) }
      | none => none

/-- Whether an x register that the instruction reads or writes awaits a copy's token (03 R56, R57; 11 R267). -/
def Slot.tokenPending (s : Slot) (i : Instr) : Bool :=
  let f := infoOf s.ctl.fmt i
  (f.rd ++ f.wr).any (fun r => match r with
    | .x n => s.thr.pend.any (fun p => p.reg == n.val && p.sup == inBank s.regs.level n.val)
    | _ => false)

/-- The bound registers that a vector instruction reads as sources: each yields one strip (06 R171; tile instructions read
them as plain registers, 09 R223). -/
def Slot.boundSources (s : Slot) (i : Instr) : List Nat :=
  let f := infoOf s.ctl.fmt i
  if f.cls = .scalar || s.thr.binds = [] then [] else
  (f.rd.filterMap (fun r => match r with
    | .v n => if s.thr.binds.any (fun b => b.reg = n.val) then some n.val else none
    | _ => none)).eraseDups

/-- The strip of a bound register made its contents; its position moves on by `vl` (06 R171). -/
def Work.takeStrip (w : Work) (n : Nat) : M Work :=
  match w.s.thr.binds.find? (fun b => b.reg = n) with
  | none => .ok w
  | some b => do
    let ((els, fl, reqs), w) ← w.streamStrip b
    let ew := codeWidth w.s.ctl.fmt.toNat
    let old := w.s.regs.getV n
    let v := setElems ew old (fun e => (els.find? (fun p => p.1 = e)).map (fun p => BitVec.ofNat ew p.2)) w.s.ctl.vl.toNat
    let cls := if b.stride.toNat = codeBytes (bitsN b.cfg 0 4) then 0 else 1
    let w := if els = [] then w else w.loadV n v
    let w := w.markDirty 16
    let w := w.mapThr (fun t => { t with
      binds := t.binds.map (fun x => if x.reg = n then { x with pos := x.pos + w.s.ctl.vl.toNat } else x)
      wins := dropRegs (fun o => match o with | .v k _ => k == n | _ => false) t.wins })
    let strip : Strip := { flags := fl, keys := w.hotKeys cls reqs }
    let w : Work := { w with strips := w.strips ++ [strip] }
    .ok ((w.countRemote (planLocs reqs)).touchFibre (planLocs reqs))

def Work.takeStrips (w : Work) : List Nat → M Work
  | [] => .ok w
  | n :: ns => do
    let w ← w.takeStrip n
    w.takeStrips ns

/-- Whether an instruction works on the coordinate store (08 R196). -/
def usesStore : Instr → Bool
  | .cins _ _ _ _ => true
  | .clook _ _ _ _ _ => true
  | .cacc _ _ _ _ => true
  | .cdrain _ _ _ => true
  | .cclr _ _ => true
  | _ => false

/-- The slot must own the coordinate store (08 R194). -/
def Work.ownStore (w : Work) : M Unit :=
  if w.s.unit.ccs then .ok () else raise w cACCESS_VIOLATION (detailAddr 3 0)

/-- The strips of an instruction's bound sources read before its meaning. The check of the coordinate store's owner comes first
(08 R194); a strip that fails leaves nothing of the strips before it, and `vstart` 0 (06 R171). -/
def Work.sources (w : Work) (i : Instr) : M Work :=
  match w.s.boundSources i with
  | [] => .ok w
  | bound => do
    if usesStore i then w.ownStore else .ok ()
    match w.takeStrips bound with
    | .error (.trap _ t) => .error (.trap (w.setVstart 0) t)
    | r => r

/-- The tile operations that the tile unit carries out alone (09 R217). -/
def unitTile : Instr → Bool
  | .wbld _ _ _ => true
  | .wbfmt _ _ => true
  | .tchk _ _ => true
  | .tchkrd _ _ => true
  | _ => false

/-- Whether an instruction is a rendezvous point of its slot's lanes: class XL (07 R175), a lane tile operation (09 R219), a
write of a scale register (05 R136), `bararr` (12 R307). -/
def isRendezvous (fmt : BitVec 4) (i : Instr) : Bool :=
  let f := infoOf fmt i
  f.cls == .xl || (f.tile && !unitTile i) ||
  (match i with
   | .vldsc _ _ _ _ _ => true
   | .vmvscToScale _ _ _ _ => true
   | .bararr _ _ _ _ => true
   | _ => false)

/-- A trap at a vector instruction takes the strips back: positions, contents and dirty bits as they were, but for the elements that
the instruction had written: in a destination those active elements stay that lie below `vstart`. Of the strips' flags those of the
elements below `vstart` stay (04 R96; 06 R155, R171; 15 R383; 19 R425). -/
def Work.returnStrips (w : Work) (before : Slot) (bound : List Nat) (wr : List RegName) : Work :=
  if bound = [] then w else
  let e := w.s.ctl.vstart.toNat
  let done := (w.strips.flatMap (fun p => p.flags)).filter (fun p => decide (p.1 < e))
  let w := ({ w with strips := [] } : Work).orFlags (done.foldl (fun a x => a ||| x.2) 0)
  let made := (w.setS before).active.filter (fun k => decide (k < e))
  let isDst (n : Nat) : Bool := wr.any (fun r => match r with | .v k => k.val == n | _ => false)
  let ew := codeWidth before.ctl.fmt.toNat
  let old (n : Nat) : VReg :=
    if isDst n then setElems ew (before.regs.getV n) (fun k => if made.contains k then some (elem ew (w.s.regs.getV n) k) else none) e
    else before.regs.getV n
  let w := w.mapRegs (fun r => { r with v := bound.foldl (fun v n => tabSet v n (old n)) r.v })
  let gone := decide (made ≠ []) && before.thr.binds.any (fun b => isDst b.reg)
  w.mapThr (fun t => { t with binds := if made = [] then before.thr.binds else before.thr.binds.filter (fun b => !isDst b.reg) })
  |>.mapCtl (fun c => { c with vstate := before.ctl.vstate ||| (if gone then 16 else 0) })

/-- A meaning run at the current instruction: strips first, then the meaning, then completion or the trap's marks. The work
that a trap leaves comes with it; a trap on a rendezvous leaves `vstart` 0 (07 R177). A trap with `vstart` above 0 marks the
destinations as written (19 R425); one of the checks at issue, before the instruction runs, marks nothing (DESIGN CHOICE, log 58: the
rule speaks of a trap at the instruction and of what the instruction has written). -/
def Work.runMeaning (w : Work) (i : Instr) (meaning : Work → M Work) : M Work :=
  let before := w.s
  match w.sources i with
  | .error e => .error e
  | .ok w1 =>
    match meaning { w1 with npc := before.regs.pc + 4 } with
    | .ok w2 => .ok (w2.retire i before)
    | .error (.trap w2 t) =>
      let f := infoOf before.ctl.fmt i
      let w2 := w2.returnStrips before (before.boundSources i) f.wr
      let w2 := if isRendezvous before.ctl.fmt i then w2.setVstart 0 else w2
      .error (.trap (if f.cls = .scalar || w2.s.ctl.vstart = 0 then w2 else w2.markWritten f.wr) t)
    | .error e => .error e

/-- Whether the instruction that a unit holds has issued: it waits for something other than a copy's token (02 R42; 09 R217). -/
def SlotUnit.begun (u : SlotUnit) : Bool := u.waiting.isSome && u.waiting != some .token && u.held.isSome

/-- A unit that waits, with the number of the next copy at the moment at which the instruction issued (10 R245). -/
def SlotUnit.await (u : SlotUnit) (why : Waiting) (held : Option Instr) (next : Nat) : SlotUnit :=
  let same := u.held = held ∧ (u.waiting = some why ∨ u.begun)
  { u with waiting := some why, held := held, since := if same then u.since else next, lost := if same then u.lost else [] }

/-- The state in which the current slot waits: all else is as it was. -/
def State.await (s : State) (why : Waiting) (held : Option Instr) : State :=
  (s.work.mapUnit (fun u => u.await why held s.pkg.nextCopy)).finish s

/-- The outcome of a step whose work is done, or that stops short: a trap is taken, a wait leaves the slot as it was. -/
def settle (s : State) (held : Option Instr) : M Work → Host.Outcome State Fault Refusal
  | .ok w => .next (w.finish s)
  | .error (.trap w t) =>
    match w.takeTrap t with
    | .ok w => .next (w.finish s)
    | .error (.fault f) => .fault f
    | .error (.wait why) => .next (s.await why held)
    | .error (.pause _) => .next s
    | .error (.trap w _) => .next (w.finish s)
  | .error (.wait why) => .next (s.await why held)
  | .error (.pause _) => .next s
  | .error (.fault f) => .fault f

/-! ### The replay queue (03 R58; 04 R88 to R98; 15 R370) -/

/-- The control registers that an entry leaves: one that a later instruction has changed since the entry captured it keeps that
value (03 R58). -/
def SlotCtl.since (done live held : SlotCtl) : SlotCtl :=
  { done with
    vl := if live.vl = held.vl then done.vl else live.vl
    fmt := if live.fmt = held.fmt then done.fmt else live.fmt
    blk := if live.blk = held.blk then done.blk else live.blk
    slc := if live.slc = held.slc then done.slc else live.slc
    vstart := if live.vstart = held.vstart then done.vstart else live.vstart
    vstride := if live.vstride = held.vstride then done.vstride else live.vstride
    msel := if live.msel = held.msel then done.msel else live.msel
    mall := if live.mall = held.mall then done.mall else live.mall
    rm := if live.rm = held.rm then done.rm else live.rm
    vwbase := if live.vwbase = held.vwbase then done.vwbase else live.vwbase }

/-- The lanes whose arrival bits are set at issue: those that are not in use (07 R175). -/
def lanesAtIssue (prot : Bool) (tile : Bool) : BitVec 16 := if prot && !tile then 0xFF00 else 0

/-- The number of the first copy issued after the slot's current instruction: after the moment at which it issued, where it waits (10
R245). -/
def Work.issuedAt (w : Work) : Nat := if w.s.unit.begun then w.s.unit.since else w.m.pkg.nextCopy

/-- The entry that an instruction makes when it issues now, or that one makes which has issued and waits. -/
def Work.newFlight (w : Work) (i : Instr) : InFlight :=
  let s := w.s
  { instr := i, ctl := s.ctl, binds := s.thr.binds, wins := s.thr.wins, pc := s.regs.pc, convoy := s.thr.convoy,
    iseq := s.thr.iseq, linkRun := s.thr.linkRun, since := w.issuedAt, lost := if s.unit.begun then s.unit.lost else [],
    arrivals := lanesAtIssue w.prot (infoOf s.ctl.fmt i).tile, lanes := 0, shadow := 0, consumed := [], mismatched := false, result := none,
    undo := [] }

def Work.putWindow (w : Work) (l : List InFlight) : Work := w.mapThr (fun t => { t with window := l })

/-- A window replay: every vector entry from the oldest on is squashed and reissued with what it captured; nothing has arrived
or completed any more (04 R97; 07 R177; 15 R370). -/
def Work.replay (w : Work) : Work :=
  let again (f : InFlight) : InFlight := { f with
    arrivals := lanesAtIssue w.prot (infoOf f.ctl.fmt f.instr).tile
    lanes := if (infoOf f.ctl.fmt f.instr).cls = .scalar then f.lanes else 0
    shadow := 0 }
  let w := w.putWindow (w.s.thr.window.map again)
  { w with m := w.m.countAnnals (.windowReplay (coreOf w.m.cur)) }

/-- Whether an instruction has lane entries or takes its operands as one: the vector and the tile instructions, which a consumed
error replays (06 R156; 09 R233, R234; 10 R250; 15 R370). -/
def Info.replays (f : Info) : Bool := f.cls != .scalar || f.tile

/-- The first consumption of an uncorrectable error at an element replays the window; a second one at the same element raises
MEMORY_POISON (06 R156; 09 R233; 15 R370). `w` is the work before the instruction, `f` its entry. -/
def Work.orReplay (w : Work) (f : InFlight) (r : M Work) : M Work :=
  match r with
  | .error (.trap w' t) =>
    let at_ : Word × Nat := (t.stval, w'.s.ctl.vstart.toNat)
    if t.cause = cMEMORY_POISON ∧ !f.consumed.contains at_ ∧ (infoOf f.ctl.fmt f.instr).replays then
      .ok (w.putWindow ({ f with consumed := at_ :: f.consumed } :: w.s.thr.window.drop 1)).replay
    else .error (.trap w' t)
  | r => r

/-- The class and registers of an entry, by the format that it captured. -/
def InFlight.info (f : InFlight) : Info := infoOf f.ctl.fmt f.instr

/-- The stream-bound registers that an entry reads: each yields a strip (06 R171). -/
def InFlight.bound (f : InFlight) : List Nat :=
  if f.info.cls = .scalar then [] else
  (f.info.rd.filterMap (fun r => match r with
    | .v n => if f.binds.any (fun b => b.reg = n.val) then some n.val else none
    | _ => none)).eraseDups

/-- Whether an entry makes accesses to memory, or acts on the coordinate store: that takes place when it commits (08 R196). -/
def InFlight.accesses (f : InFlight) : Bool := f.info.cls == .ld || f.info.cls == .st || f.info.cls == .none || f.bound != []

/-- Whether the oldest entry of the slot's window has still to be run: its result is open, it makes accesses when it commits, or the
thread still stands at it. -/
def Slot.toRun (s : Slot) (f : InFlight) : Bool := f.result.isNone || f.accesses || f.iseq == s.thr.iseq

/-- The oldest entry of the slot's window, where the instruction is the one that it holds, and has still to be run. -/
def Slot.flight (s : Slot) (i : Instr) : Option InFlight :=
  match s.thr.window with
  | f :: _ => if f.instr = i ∧ s.toRun f then some f else none
  | [] => none

/-- The present values of the registers that an instruction has written, x registers apart. -/
def written (s : Slot) (wr : List RegName) : List OldReg :=
  wr.filterMap (fun r => (RegName.old s r).filter (fun o => match o with | .x _ _ _ => false | _ => true))

/-- The registers whose contents an entry changes: its destinations, and the bound registers that take its strips (06 R171). -/
def InFlight.outs (f : InFlight) : List RegName :=
  f.info.wr ++ f.bound.filterMap (fun n => if h : n < 32 then some (.v ⟨n, h⟩) else none)

/-- Whether an entry has left what those behind it rest on: the control registers that they captured, and the values that the
lanes had produced of it. -/
def InFlight.foreseen (f : InFlight) (s : Slot) : Bool :=
  s.unit.st.runs && decide (s.ctl.captured { f.ctl with vstart := 0 } = s.ctl) &&
  (match f.result with | none => true | some r => decide (written s f.outs = r.writes))

/-- The thread after the oldest entry has been run: where it had issued beyond that entry, it stays where it stands, and the later
entries stay, unless they rest on what has turned out otherwise, which drops them (04 R97). -/
def Work.rejoin (w : Work) (live : Slot) (f : InFlight) (later : List InFlight) : Work :=
  if live.thr.iseq = f.iseq then w.mapCtl (fun c => c.since live.ctl f.ctl)
  else if f.foreseen w.s then
    let xs := (f.info.wr.filterMap (RegName.old w.s)).foldl SlotRegs.putBack live.regs
    w.setS { w.s with
      regs := { w.s.regs with pc := live.regs.pc, x := xs.x, sx := xs.sx }
      ctl := w.s.ctl.captured live.ctl
      thr := { w.s.thr with
        binds := live.thr.binds, wins := live.thr.wins, convoy := live.thr.convoy, iseq := live.thr.iseq
        linkRun := live.thr.linkRun, failed := live.thr.failed, window := later } }
  else w

/-- The oldest entry of the window run to its end, on the state that it captured. -/
def Work.runFlight (w : Work) (f : InFlight) (meaning : Work → M Work) : M Work :=
  let live := w.s
  let later := live.thr.window.drop 1
  match w.orReplay f ((w.setS (live.backTo f later)).runMeaning f.instr meaning) with
  | .ok w' => .ok (if w'.s.thr.window = [] then w'.rejoin live f later else w')
  | r => r

/-- The instructions that follow an operation of the tile unit that another source offered, and that has not completed: those that
enter the lanes' queues, where it stands before them, the tile instructions, those that move the tile state, and the read of `wbctl`
(09 R215, R217 to R220; 10 R247). -/
def followsTile (i : Instr) (f : Info) : Bool :=
  f.cls != .scalar || f.tile || switchesTile i ||
  (match i with
   | .ctxsave _ _ => true
   | .ctxrest _ _ => true
   | .rdc _ _ n => n == 0x11
   | _ => false)

/-- What an instruction whose checks are passed waits for at issue: a copy's token, or an earlier tile operation. -/
def Work.blocked (w : Work) (i : Instr) : Option Waiting :=
  if w.s.tokenPending i then some .token
  else if w.tilePending && followsTile i (infoOf w.s.ctl.fmt i) then some .tileOrder
  else none

/-- An instruction issued by the current slot: the checks of 02 R42, the scoreboard, and its meaning. One that has issued
already, and stands in the slot's window, goes on there. -/
def issue (i : Instr) (meaning : Work → M Work) (s : State) : Host.Outcome State Fault Refusal :=
  let w := s.work
  if !w.s.issues then .next s
  else match w.s.flight i with
    | some f => settle s (some i) (w.runFlight f meaning)
    | none =>
      match w.checkTrap i with
      | some t => settle s (some i) (.error (.trap w t))
      | none =>
        match w.blocked i with
        | some why => settle s (some i) (.error (.wait why))
        | none => settle s (some i) (w.orReplay (w.newFlight i) (w.runMeaning i meaning))

/-- A step of an instruction that holds its slot while it makes several writes (13 R325, R326): after the checks of issue, one
write is made and counted in `stage`, and the slot waits for it to be at the persistence point. -/
def issueStage (i : Instr) (write : Work → M Work) (s : State) : Host.Outcome State Fault Refusal :=
  let w := s.work
  let go : Host.Outcome State Fault Refusal :=
    match write w with
    | .ok w' => .next ((w'.mapUnit (fun u => { u.await .persist (some i) s.pkg.nextCopy with stage := u.stage + 1 })).finish s)
    | .error e => settle s (some i) (.error e)
  if !w.s.issues then .next s
  else if (w.s.flight i).isSome then go
  else match w.checkTrap i with
    | some t => settle s (some i) (.error (.trap w t))
    | none =>
      match w.blocked i with
      | some why => settle s (some i) (.error (.wait why))
      | none => go

/-- A turn of an event, which is no instruction of a slot: its work is done, or it is not enabled and nothing happens. -/
def event (work : Work → M Work) (s : State) : Host.Outcome State Fault Refusal :=
  match work s.work with
  | .ok w => .next (w.finish s)
  | .error (.fault f) => .fault f
  | .error _ => .next s

end Sys2Proof.Machine
end

