-- ==== Sys2Proof/Machine/Operands.lean ====
section
/-! DEFINITION. The operand forms of instructions: immediates and offsets (02 R25), addresses (03 R67), vector elements and
scalar operands under SX (04 R101, R102), masks, scale entries, and the element-wise writes of destinations (04 R101, R113,
05 R131, R140). -/

namespace Sys2Proof.Machine

/-! ### Immediates -/

/-- IMM11 sign-extended (02 R25). -/
def imm11 (i : BitVec 11) : Word := i.signExtend 64

/-- A branch or jump target: the instruction's address plus 4 times the offset (02 R25). -/
def target {n : Nat} (pc : Word) (off : BitVec n) : Word := pc + 4 * off.signExtend 64

/-- The shift amount of slli, srli and srai: F[0] is n[5], B is n[4:0] (03 R65). -/
def shiftAmount (n : Fin 32) (h : Bool) : Nat := h.toNat * 32 + n.val

/-- The address of a scalar access: X[A] plus OFF9 times the size (03 R67). -/
def Work.scalarAddr (w : Work) (a : Reg) (off : BitVec 9) (size : Nat) : Word :=
  w.x a.val + off.signExtend 64 * BitVec.ofNat 64 size

/-! ### Elements -/

/-- The element width of FMT in bits. -/
def Work.ew (w : Work) : Nat := fmtBits w.s.ctl.fmt

/-- Element e of V[n] at a width, as the instruction reads it. -/
def Work.elemAt (w : Work) (width n e : Nat) : Nat := (elem width (w.v n) e).toNat

/-- Element e of V[n] at the width of FMT. -/
def Work.elemV (w : Work) (n : Reg) (e : Nat) : Nat := w.elemAt w.ew n.val e

/-- Element e of the B operand: under SX the low bits of X[B] (04 R102). -/
def Work.elemB (w : Work) (sx : Bool) (b : Reg) (e : Nat) : Nat :=
  if sx then bitsN (w.x b.val) 0 w.ew else w.elemV b e

/-- FMT and the rounding mode as numbers. -/
def Work.fmt (w : Work) : Nat := w.s.ctl.fmt.toNat
def Work.rm (w : Work) : Nat := w.s.ctl.rm.toNat

/-- The floating format of FMT; f32 where FMT is none, which the checks of issue rule out. -/
def Work.ffmt (w : Work) : FFmt := (fmtOf w.fmt).getD f32

/-- A floating element as a value. -/
def Work.valV (w : Work) (n : Reg) (e : Nat) : FVal := fDecode w.ffmt (w.elemV n e)
def Work.valB (w : Work) (sx : Bool) (b : Reg) (e : Nat) : FVal := fDecode w.ffmt (w.elemB sx b e)

/-- An integer element as a value, signed when FMT is an i format (04 R105). -/
def Work.intV (w : Work) (n : Reg) (e : Nat) : Int := intVal w.fmt (w.elemV n e)
def Work.intB (w : Work) (sx : Bool) (b : Reg) (e : Nat) : Int := intVal w.fmt (w.elemB sx b e)

/-- The entry of a scale register that element e uses (05 R137). -/
def Work.scaleOf (w : Work) (b : Reg) (e : Nat) : Nat := (elem 16 (w.k b.val) (e / 2 ^ w.s.ctl.blk.toNat)).toNat

/-! ### Destinations -/

/-- A register with elements of a width replaced. -/
def putElems {N : Nat} (width : Nat) (r : BitVec N) (l : List (Nat × Nat)) : BitVec N :=
  l.foldl (fun r p => setElem width r p.1 (BitVec.ofNat width p.2)) r

/-- A mask with bits replaced. -/
def putMask (m : MReg) (l : List (Nat × Bool)) : MReg := l.foldl (fun m p => putBit m p.1 p.2) m

/-- Elements of V[d] written: every other element keeps its value, and the register is unbound; where no element is written
nothing is marked as written (04 R101, R104; 06 R170; log 18). -/
def Work.putV (w : Work) (d width : Nat) (l : List (Nat × Nat)) : Work :=
  if l = [] then w.unbind d else w.setV d (putElems width (w.s.regs.getV d) l)

/-- Bits of M[d] written. -/
def Work.putM (w : Work) (d : Nat) (l : List (Nat × Bool)) : Work :=
  if l = [] then w else w.setM d (putMask (w.s.regs.getM d) l)

/-- Elements written into a register block from d: element e into register d + e / n, place e mod n. -/
def Work.putBlock (w : Work) (d width n : Nat) (l : List (Nat × Nat)) : Nat → Work
  | 0 => w
  | k + 1 =>
    let w := w.putBlock d width n l k
    w.putV (d + k) width ((l.filter (fun p => p.1 / n == k)).map (fun p => (p.1 % n, p.2)))

/-- `V[D].elem[e] := f e` for every active element, with flags (04 R101, R105, R109). -/
def Work.mapV (w : Work) (d : Reg) (f : Nat → FRes) : M Work :=
  let rs := w.active.map (fun e => (e, f e))
  .ok ((w.putV d.val w.ew (rs.map (fun p => (p.1, p.2.1)))).orFlags (flagsOf rs))

/-- `M[D].bit[e] := f e` for every active element, with flags (04 R107, R112). -/
def Work.mapM (w : Work) (d : Reg) (f : Nat → Bool × BitVec 5) : M Work :=
  let rs := w.active.map (fun e => (e, f e))
  .ok ((w.putM d.val (rs.map (fun p => (p.1, p.2.1)))).orFlags (rs.foldl (fun a p => a ||| p.2.2) 0))

/-- Wide results of the active elements, into V[D] and V[D + 1] (04 R113). -/
def Work.mapWide (w : Work) (d : Reg) (f : Nat → FRes) : M Work :=
  let rs := w.active.map (fun e => (e, f e))
  let vlw := vlmaxBits (2 * w.ew) w.prot
  .ok ((w.putBlock d.val (2 * w.ew) vlw (rs.map (fun p => (p.1, p.2.1))) 2).orFlags (flagsOf rs))

/-- The elements from `vstart` to `vl` - 1, whatever `vmsel` holds (04 R114, R120). -/
def Work.range (w : Work) : List Nat :=
  (List.range w.s.ctl.vl.toNat).filter (fun e => decide (w.s.ctl.vstart.toNat ≤ e))

/-- Whether `vmsel` selects element e: ALL, or the bit of the mask it names (04 R114). -/
def Work.selected (w : Work) (e : Nat) : Bool := w.s.ctl.mall || bitB (w.s.regs.getM w.s.ctl.msel.toNat) e

/-- The wait of R266 and R351 for every earlier access of the thread to be performed: remote ones are outstanding until they
are acknowledged (11 R266; 12 R299; 14 R351). -/
def Work.performed (w : Work) : M Unit := if w.s.unit.remoteOut ≠ 0 then .error (.wait .remote) else .ok ()

/-- X[D] := f A B. -/
def Work.alu (w : Work) (d a b : Reg) (f : Word → Word → Word) : M Work := .ok (w.setX d.val (f (w.x a.val) (w.x b.val)))

/-- X[D] := f A. -/
def Work.alu1 (w : Work) (d a : Reg) (f : Word → Word) : M Work := .ok (w.setX d.val (f (w.x a.val)))

end Sys2Proof.Machine
end

