-- ==== Sys2Proof/Machine/Strip.lean ====
section
/-! DEFINITION. Strips: watermarks (03 R78; 12 R309), the end of a strip and its signature (16 R404, R405), stops (16 R395,
R396) and the check of `vtype` (03 R80). -/

namespace Sys2Proof.Machine

/-- The quotient of integers rounded up, for a positive divisor. -/
def ceilInt (a b : Int) : Int := -(-a / b)

/-- What a watermark needs at an element bound: exact arithmetic (03 R78). -/
def Watermark.need (m : Watermark) (bound : Nat) : Int := ceilInt ((bound * m.rnum : Nat) : Int) m.rden + m.offset

/-- The status of a watermark's producer; a stale producer has completed successfully (14 R336). -/
def Watermark.status (m : Watermark) (x : Mach) : Nat :=
  match m.producer with
  | none => 2
  | some ix => (x.entry ix).status

/-- Every watermark of the unit waited for, in order, at an element bound; a producer that ended FAILED or CANCELLED raises
CANCELLED, detail 1 (03 R78). -/
def Work.passWatermarks (w : Work) (bound : Nat) : List Watermark → M Work
  | [] => .ok w
  | m :: ms => do
    let st := m.status w.m
    let need := m.need bound
    let w ← if need ≤ 0 ∨ st ≠ 1 then .ok w
      else do
        let (v, _, w') ← w.load m.addr 8
        if need ≤ (v : Int) then .ok w' else .error (.wait .watermark)
    if st = 3 ∨ st = 4 then raise w cCANCELLED 1 else w.passWatermarks bound ms

/-- The launch acceptance number in its job (16 R402, R405). -/
def Mach.jseqOf (m : Mach) (lid : Nat) : Nat :=
  match m.sched.launches.find? (fun l => l.lid = lid) with
  | some l => l.jseq
  | none => 0

/-- The running job changed. -/
def Work.setJob (w : Work) (j : Job) : Work := { w with m := w.m.setJob w.ctx.job j }

/-- Whether a strip of the unit has begun: `vstripno` has moved on from the unit's first ordinal (14 R346; 16 R404). -/
def Slot.inStrip (s : Slot) : Bool := s.ctl.vstripno != BitVec.ofNat 32 s.unit.ord

/-- The reference-table entry of the strip that is ending: launch acceptance number, unit, ordinal and signature (16 R404,
R405). -/
def Work.stripEntry (w : Work) : Nat × Nat × Nat × Word :=
  (w.m.jseqOf w.s.unit.lid, w.s.unit.unit, (w.s.ctl.vstripno - 1).toNat, ~~~w.s.thr.sig)

/-- The signature that the reference table holds for that strip; 0 where it holds none (16 R405). -/
def Work.wantedSig (w : Work) : Word :=
  let e := w.stripEntry
  ((w.job.reference.find? (fun r => (r.1, r.2.1, r.2.2.1) == (e.1, e.2.1, e.2.2.1))).map (fun r => r.2.2.2)).getD 0

/-- Whether the strip that is ending differs from the reference, where strips are compared (16 R405). -/
def Work.differs (w : Work) : Bool := w.s.inStrip && bitB w.job.calmode 2 && w.wantedSig != w.stripEntry.2.2.2

/-- The record of a divergence written (16 R392, R405). -/
def Work.recordDivergence (w : Work) : M Work :=
  w.trace 4 w.stripEntry.2.2.1 w.s.regs.pc w.wantedSig w.stripEntry.2.2.2.toNat 0 0

/-- The ending strip compared before the instruction that ends it takes effect: REPLAY_DIVERGE with the strip's ordinal, after its
record, where it differs and the job does not continue (16 R405). -/
def Work.checkStrip (w : Work) : M Unit :=
  if w.differs && !bitB w.job.calmode 3 then do
    let w' ← w.recordDivergence
    raise w' cREPLAY_DIVERGE (BitVec.ofNat 64 w.stripEntry.2.2.1)
  else .ok ()

/-- The end of a strip, as part of an instruction that completes: the record of a divergence that the job outlives, the
entry recorded, and a fresh signature (16 R404, R405). No strip ends before the first has begun. -/
def Work.endStrip (w : Work) : M Work := do
  if !w.s.inStrip then .ok w else
  let w1 ← if w.differs then w.recordDivergence else .ok w
  let w2 := w1.mapThr (fun t => { t with sig := 0xFFFFFFFFFFFFFFFF })
  .ok (if bitB w.job.calmode 1 then w2.setJob { w2.job with reference := w2.job.reference ++ [w.stripEntry] } else w2)

/-- Whether the strip boundary at the running `setvl` stops (16 R395, R396). -/
def Slot.stops (s : Slot) : Bool :=
  let g := s.sup.dbgctl
  !bitB g 3 && (bitB g 0 || (bitB g 1 && keepBits s.regs.pc 2 55 == keepBits s.sup.dbgpc 2 55) ||
    (bitB g 2 && bitsN g 32 32 == s.ctl.vstripno.toNat))

/-- `vtype` written from a word (03 R80): none where the word holds a reserved FMT code, a BLK below 3 or an SLC outside
3 to 8, else the new VLMAX too. -/
def Work.putVtype (w : Work) (v : Word) : Option (Nat × Work) :=
  let f : BitVec 4 := v.setWidth 4
  let blk := bitsN v 4 3
  let slc := bitsN v 8 4
  if 12 < f.toNat ∨ blk < 3 ∨ slc < 3 ∨ 8 < slc then none else
  let n := vlmaxBits (fmtBits f) w.prot
  some (n, w.mapCtl (fun c => { c with
    fmt := f, blk := BitVec.ofNat 3 blk, slc := BitVec.ofNat 4 slc, vl := BitVec.ofNat 12 (min c.vl.toNat n), vstart := 0 }))

/-- Whether a pre-emption or a cancel is pending for the running unit (03 R76). -/
def Work.leaving (w : Work) : Bool := w.s.unit.st == .stop || w.m.cancelledLid w.s.unit.lid

end Sys2Proof.Machine
end

