-- ==== Sys2Proof/Machine/Control.lean ====
section
/-! DEFINITION. Branches, jumps, `wait`, `setvl` and `setvt` (03 R74 to R80). -/

namespace Sys2Proof.Machine

/-! ### Branches and jumps (03 R74, R75) -/

/-- A branch: to the address of the branch plus 4 times OFF9 where the condition holds, else to the next instruction. -/
def Work.branch (w : Work) (d a : Reg) (off : BitVec 9) (cond : Word → Word → Bool) : M Work :=
  .ok (if cond (w.x d.val) (w.x a.val) then { w with npc := target w.s.regs.pc off } else w)

/-- 03 Table 3.4: taken when xd == xa. -/
def bodyBeq (d a : Reg) (off : BitVec 9) (w : Work) : M Work := w.branch d a off (fun x y => x == y)

def execBeq (st : Fin 16) (d a : Reg) (off : BitVec 9) (s : State) : Host.Outcome State Fault Refusal :=
  issue (.beq st d a off) (bodyBeq d a off) s

/-- 03 Table 3.4: taken when xd ≠ xa. -/
def bodyBne (d a : Reg) (off : BitVec 9) (w : Work) : M Work := w.branch d a off (fun x y => x != y)

def execBne (st : Fin 16) (d a : Reg) (off : BitVec 9) (s : State) : Host.Outcome State Fault Refusal :=
  issue (.bne st d a off) (bodyBne d a off) s

/-- 03 Table 3.4: taken when xd < xa, signed. -/
def bodyBlt (d a : Reg) (off : BitVec 9) (w : Work) : M Work := w.branch d a off (fun x y => x.slt y)

def execBlt (st : Fin 16) (d a : Reg) (off : BitVec 9) (s : State) : Host.Outcome State Fault Refusal :=
  issue (.blt st d a off) (bodyBlt d a off) s

/-- 03 Table 3.4: taken when xd ≥ xa, signed. -/
def bodyBge (d a : Reg) (off : BitVec 9) (w : Work) : M Work := w.branch d a off (fun x y => !x.slt y)

def execBge (st : Fin 16) (d a : Reg) (off : BitVec 9) (s : State) : Host.Outcome State Fault Refusal :=
  issue (.bge st d a off) (bodyBge d a off) s

/-- 03 Table 3.4: taken when xd < xa, unsigned. -/
def bodyBltn (d a : Reg) (off : BitVec 9) (w : Work) : M Work := w.branch d a off (fun x y => x.ult y)

def execBltn (st : Fin 16) (d a : Reg) (off : BitVec 9) (s : State) : Host.Outcome State Fault Refusal :=
  issue (.bltn st d a off) (bodyBltn d a off) s

/-- 03 Table 3.4: taken when xd ≥ xa, unsigned. -/
def bodyBgen (d a : Reg) (off : BitVec 9) (w : Work) : M Work := w.branch d a off (fun x y => !x.ult y)

def execBgen (st : Fin 16) (d a : Reg) (off : BitVec 9) (s : State) : Host.Outcome State Fault Refusal :=
  issue (.bgen st d a off) (bodyBgen d a off) s

/-- 03 R75: x1 := the address + 4; jumps by 4 times OFF21. -/
def bodyJal (off : BitVec 21) (w : Work) : M Work :=
  .ok { w.setX 1 (w.s.regs.pc + 4) with npc := target w.s.regs.pc off }

def execJal (st : Fin 16) (off : BitVec 21) (s : State) : Host.Outcome State Fault Refusal :=
  issue (.jal st off) (bodyJal off) s

/-- 03 R75: X[D] := the address + 4; jumps to the address in xa, which must be a multiple of 4. -/
def bodyJalr (d a : Reg) (w : Work) : M Work :=
  let t := w.x a.val
  if t.toNat % 4 ≠ 0 then raise w cMISALIGNED t
  else .ok { w.setX d.val (w.s.regs.pc + 4) with npc := t }

def execJalr (st : Fin 16) (d a : Reg) (s : State) : Host.Outcome State Fault Refusal :=
  issue (.jalr st d a) (bodyJalr d a) s

/-- 03 R75: no effect other than its stall count. -/
def bodyNop (w : Work) : M Work := .ok w

def execNop (st : Fin 16) (s : State) : Host.Outcome State Fault Refusal :=
  issue (.nop st) bodyNop s

/-! ### wait (03 R76) -/

/-- 03 R76: waits for the 8-byte word at xa to change from xd, or for a pending pre-emption or cancel, and reads it. -/
def bodyWait (d a : Reg) (w : Work) : M Work :=
  do
    let (v, _, w') ← w.load (w.x a.val) 8
    if BitVec.ofNat 64 v ≠ w.x d.val ∨ w.leaving then .ok (w'.setX d.val (BitVec.ofNat 64 v))
    else .error (.wait .watch)

def execWait (st : Fin 16) (d a : Reg) (s : State) : Host.Outcome State Fault Refusal :=
  issue (.wait st d a) (bodyWait d a) s

/-- The end of a `wait` by its limit of 65,536 cycles: the word is read (03 R76). -/
def Work.timedOut (w : Work) (d a : Reg) : M Work := do
  let (v, _, w') ← w.load (w.x a.val) 8
  .ok (w'.setX d.val (BitVec.ofNat 64 v))

/-- A slot's held instruction completed by an event: `meaning` runs as its meaning, and the current slot stays current. -/
def heldEvent (slot : Nat) (why : Waiting → Bool) (meaning : Instr → Option (Work → M Work)) (s : State) :
    Host.Outcome State Fault Refusal :=
  let sl := s.toMach.slot slot
  if !(match sl.unit.waiting with | some y => why y | none => false) then .next s else
  match sl.unit.held with
  | none => .next s
  | some i =>
    match meaning i with
    | none => .next s
    | some f =>
      let s' := { s with cur := slot }
      match s'.work.runMeaning i f with
      | .error (.wait _) => .next s
      | r =>
        match settle s' (some i) r with
        | .next t => .next { t with cur := s.cur }
        | o => o

/-- 03 R76: a waiting `wait` ends when the watched word has changed or a pre-emption or cancel is pending. -/
def execWaitWake (slot : Nat) (s : State) : Host.Outcome State Fault Refusal :=
  heldEvent slot (fun y => y == .watch) (fun i => match i with
    | .wait _ d a => some (bodyWait d a)
    | _ => none) s

/-- 03 R76: a waiting `wait` ends after 65,536 cycles; in Calendar mode it never does (16 R403). -/
def execWaitTimeout (slot : Nat) (s : State) : Host.Outcome State Fault Refusal :=
  heldEvent slot (fun y => y == .watch) (fun i => match i with
    | .wait _ d a => some (fun w => if w.calendar then .error (.wait .watch) else w.timedOut d a)
    | _ => none) s

/-! ### Vector length and type (03 R77 to R80) -/

/-- 03 R78; 16 R396: grants a strip length from xa; a strip boundary where the grant is not zero. -/
def bodySetvl (d a : Reg) (w : Work) : M Work :=
  do
    if w.m.cancelledLid w.s.unit.lid then raise w cCANCELLED 0 else
    let avl := (w.x a.val).toNat
    if avl = 0 then
      .ok ((w.mapCtl (fun c => { c with vl := 0, vstart := 0 })).setX d.val 0)
    else if w.s.unit.st = .stop then .error (.wait .landing)
    else
      let grant := min avl w.vlmax
      w.checkStrip
      if w.s.stops then raise w cSTRIP_STOP (w.s.ctl.vstripno.setWidth 64) else
      let c := w.s.ctl
      let bound := c.vcursor.toNat + grant
      let w1 ← w.passWatermarks bound w.s.unit.wms
      let w2 ← w1.endStrip
      let w3 ← if bitB w2.s.sup.trcctl 0 then
          w2.trace 1 c.vstripno.toNat w2.s.regs.pc (BitVec.ofNat 64 grant) 0 0 0 else .ok w2
      let w4 := w3.mapCtl (fun c => { c with
        vl := BitVec.ofNat 12 grant, vstart := 0, vstripno := c.vstripno + 1, vcursor := BitVec.ofNat 64 bound })
      .ok ((w4.mapSup (fun p => { p with dbgctl := putBit p.dbgctl 3 false })).setX d.val (BitVec.ofNat 64 grant))

def execSetvl (st : Fin 16) (d a : Reg) (s : State) : Host.Outcome State Fault Refusal :=
  issue (.setvl st d a) (bodySetvl d a) s

/-- 03 R80: writes `vtype` from xa; xd gets the new VLMAX, or 0 where xa is not valid. -/
def bodySetvt (d a : Reg) (w : Work) : M Work :=
  match w.putVtype (w.x a.val) with
  | none => .ok (w.setX d.val 0)
  | some (n, w') => .ok (w'.setX d.val (BitVec.ofNat 64 n))

def execSetvt (st : Fin 16) (d a : Reg) (s : State) : Host.Outcome State Fault Refusal :=
  issue (.setvt st d a) (bodySetvt d a) s

end Sys2Proof.Machine
end

