-- ==== Sys2Proof/Machine/Tile.lean ====
section
/-! DEFINITION. Tile instructions: the tile group, the A operand, sums of products with their row checksums, and the dense operations
that need no weight buffer (09 R212 to R237; 10 R258 to R261). -/

namespace Sys2Proof.Machine

/-! ### What an operation is given (09 R217, R222) -/

/-- The operands of the control thread's operation, which is accepted when it issues, also where it has waited since, or stands in the
window (09 R217; 10 R245). -/
def Work.tileSrc (w : Work) (a b : Reg) : TileSrc :=
  let u := w.s.unit
  let (since, lost) := match w.s.thr.window with
    | f :: _ => (f.since, f.lost)
    | [] => (w.issuedAt, [])
  { own := true, fmt := w.fmt, slc := w.s.ctl.slc.toNat, rm := w.rm, opa := w.x a.val, opb := w.x b.val, since := since, lost := u.lost ++ lost }

/-- A trap of a tile instruction that is restarted from the beginning: `vstart` := 0 (09 R233, R234). -/
def tileRaise {α : Type} (w : Work) (cause : Nat) (stval : Word) (acc : Nat := 0) : M α := raise (w.setVstart 0) cause stval acc

/-! ### Accumulators -/

/-- Tile register t of the running core. -/
def Work.tile (w : Work) (t : Nat) : TReg := tabGet 0 w.core.t t

/-- Accumulator (row, col) of tile register t (09 R212). -/
def Work.acc (w : Work) (t row col : Nat) : Nat := (elem 32 (w.tile t) (row * 64 + col)).toNat

/-- A write of the tile group makes its state DIRTY (09 Table 9.1). -/
def Core.touched (c : Core) : Core := { c with tstate := if c.tstate = 0 then 0 else 3 }

/-- Accumulators written, by number row x 64 + col. -/
def Work.putAcc (w : Work) (t : Nat) (l : List (Nat × Nat)) : Work :=
  if l = [] then w else
  let c := w.core
  w.setCore ({ c with t := tabSet c.t t (putElems 32 (tabGet 0 c.t t) l) }).touched

/-- The rows and the columns that PR enables, from the masks' current contents (09 R226). -/
def Work.enabledRows (w : Work) (pr : Nat) : List Nat :=
  (List.range 64).filter (fun i => pr = 0 || bitB (w.s.regs.getM (2 * pr)) i)

def Work.enabledCols (w : Work) (pr : Nat) : List Nat :=
  (List.range 64).filter (fun i => pr = 0 || bitB (w.s.regs.getM (2 * pr + 1)) i)

/-- The numbers of the enabled accumulators. -/
def Work.enabledAcc (w : Work) (pr : Nat) : List Nat :=
  let cols := w.enabledCols pr
  (w.enabledRows pr).flatMap (fun r => cols.map (fun c => r * 64 + c))

/-! ### Operand bytes -/

/-- An operand byte: its place and its address. -/
structure OpByte where
  loc : Nat
  addr : Word
  deriving DecidableEq, Repr

/-- A byte of the LSP at a local address. -/
def lspByte (core a : Nat) : OpByte := { loc := lspLoc core (a - lspBase), addr := BitVec.ofNat 64 a }

/-- A byte of the weight buffer at an offset. -/
def wbByte (core off : Nat) : OpByte := { loc := wbLoc core off, addr := BitVec.ofNat 64 (wbBase + off) }

/-- Check 6 and 7 of 09 R233: a line that a copy owns is waited for, of the weight buffer only where the copy was issued before
the operation was accepted (10 R245); a copy that failed meanwhile, or a marked weight-buffer line, raises TOKEN_ERROR; an
uncorrectable error raises MEMORY_POISON (09 R227; 10 R244). Where the operands hold both a lost LSP line and a marked weight-buffer
line, the LSP line is reported (DESIGN CHOICE, log 56: no rule orders the two), and of poisoned bytes in both blocks that of the A block
(DESIGN CHOICE, log 58: 09 R233 says "the poisoned byte"). -/
def Work.operandsReady (w : Work) (src : TileSrc) (bs : List OpByte) (wbOffs : List Nat) : M Unit :=
  let core := coreOf w.m.cur
  let wb := wbOffs.map (wbByte core)
  let all := bs ++ wb
  if bs.any (fun b => w.m.owned (lineOf b.loc)) || wb.any (fun b => w.m.ownedBefore src.since (lineOf b.loc)) then
    .error (.wait .ownedLine)
  else match bs.find? (fun b => src.lost.contains (lineOf b.loc)) with
  | some b => tileRaise w cTOKEN_ERROR (keepBits b.addr 6 58)
  | none =>
    let marks := w.core.marks
    match (List.range 4096).find? (fun l => marks.contains l && wbOffs.any (fun o => o / 64 == l)) with
    | some l => tileRaise w cTOKEN_ERROR (BitVec.ofNat 64 (l * 64))
    | none =>
      match all.find? (fun b => w.m.poisoned b.loc) with
      | some b => tileRaise (w.countBad [b.loc]) cMEMORY_POISON b.addr
      | none => .ok ()

/-- Elements of an operand fetched one after another, each in one access (12 R293): their bits. -/
def Work.fetchOps (w : Work) : List (List OpByte) → M (List Nat × Work)
  | [] => .ok ([], w)
  | bs :: t => do
    let (b, w) ← w.read (bs.map (fun b => b.loc))
    let (l, w) ← w.fetchOps t
    .ok (leNat b :: l, w)

/-! ### The A operand (09 R223, R224; 10 R255) -/

/-- The bytes of A(row, j) in the LSP: `wide` for the 8-byte elements of `tmf64`, each byte of which T maps. -/
def aBytes (core : Nat) (col wide : Bool) (size a row j : Nat) : List OpByte :=
  (List.range size).map (fun i => lspByte core
    (if !col then a + (j * 64 + row) * size + i
     else if wide then colMap (a + (j * 64 + row) * size + i)
     else colMap (a + j / (4 / size) * 256 + row * 4 + j % (4 / size) * size) + i))

/-- Checks 1 to 3 of 09 R233 on a scratchpad block of `span` bytes. -/
def Work.lspBlock (w : Work) (a : Word) (col : Bool) (span : Nat) : M Unit :=
  let n := a.toNat
  if n % 256 ≠ 0 then tileRaise w cMISALIGNED a
  else if n < lspBase ∨ 2 ^ 57 < n + span then tileRaise w cACCESS_VIOLATION (detailAddr 6 a)
  else match localPlace w.m w.m.cur n, localPlace w.m w.m.cur (n + span - 1) with
    | .error e, _ => e.toM (w.setVstart 0) a 0
    | _, .error e => e.toM (w.setVstart 0) (BitVec.ofNat 64 ((n + span - 1) / 0x8000 * 0x8000)) 0
    | .ok _, .ok _ =>
      if col && decide (0x4000 < n % 0x4000 + span) then tileRaise w cSHAPE_INVALID 6 else .ok ()

/-- The elements of a scratchpad A block, in ascending (j, row) (09 R224). -/
def aBlock (core : Nat) (lsp col wide : Bool) (size k : Nat) (src : TileSrc) : List (List OpByte) :=
  if lsp then (List.range (64 * k)).map (fun e => aBytes core col wide size src.opa.toNat (e % 64) (e / 64)) else []

/-- The A operand as a table of element bits, A(row, j) at j x 64 + row, of k columns: from a vector register or fetched from the
LSP. -/
def Work.aTable (w : Work) (lsp col wide : Bool) (size k : Nat) (src : TileSrc) (a : Reg) : M (Array Nat × Work) :=
  if lsp then (w.fetchOps (aBlock (coreOf w.m.cur) lsp col wide size k src)).map (fun r => (r.1.toArray, r.2))
  else .ok (((List.range (64 * k)).map (fun e => w.elemAt (8 * size) a.val e)).toArray, w)

/-- The operand bytes of a scratchpad A block that have still to be fetched. -/
def Work.aBlockBytes (w : Work) (lsp col wide : Bool) (size k : Nat) (src : TileSrc) : List OpByte :=
  ((aBlock (coreOf w.m.cur) lsp col wide size k src).drop w.past).flatten

/-! ### Sums of products (09 R228, R229; 10 R259 to R261) -/

/-- What an operation makes of one accumulator: its bits and flags, the exact addends, and whether a nonzero addend or the
result lies outside the range of 10 R260. -/
structure Cell where
  res : Nat
  flags : BitVec 5
  sums : List FVal
  wide : Bool
  deriving DecidableEq, Repr

/-- `res` of 09 R228, for an accumulator in format f: the old value and pairs of factors. -/
def productSum (f : FFmt) (old : FVal) (pairs : List (FVal × FVal)) (sum : List FVal → FRes) : FRes :=
  let terms := pairs.map (fun p => if p.1.isNan || p.2.isNan then none else p.1.mul p.2)
  let vals := old :: terms.filterMap (fun t => t)
  let clash := vals.any (fun v => v == .inf false) && vals.any (fun v => v == .inf true)
  let timesZero := pairs.any (fun p => !p.1.isNan && !p.2.isNan && (p.1.mul p.2).isNone)
  let sig := old.isSig || pairs.any (fun p => p.1.isSig || p.2.isSig)
  if old.isNan || terms.any (fun t => t.isNone) || clash then fNan f (sig || timesZero || clash)
  else if vals.any FVal.isInf then (withSign f (vals.any (fun v => v == .inf true)) f.infBits, 0)
  else sum vals

/-- The exact addends of an accumulator whose result is finite. -/
def exactAddends (old : FVal) (pairs : List (FVal × FVal)) : List FVal :=
  old :: pairs.filterMap (fun p => p.1.mul p.2)

/-- An f32 accumulator (09 R228). -/
def floatCell (rm old : Nat) (pairs : List (FVal × FVal)) : Cell :=
  let o := fDecode f32 old
  let r := productSum f32 o pairs (fSum f32 rm)
  { res := r.1, flags := r.2, sums := exactAddends o pairs, wide := false }

/-- An i32 accumulator: no flag, modulo 2^32 (09 R229). -/
def intCell (old : Nat) (pairs : List (Int × Int)) : Cell :=
  { res := intBits 32 (pairs.foldl (fun s p => s + p.1 * p.2) (old : Int)), flags := 0, sums := [], wide := false }

/-- Whether a row of checked results is unchecked (10 R260). -/
def rowUnchecked (f : FFmt) (l : List Cell) : Bool :=
  l.any (fun c => c.wide || (fDecode f c.res).isNan || (fDecode f c.res).isInf || c.sums.any (fun v => v.isNan || v.isInf))

/-- Whether a row passes: |predicted - stored| at most the sum of half an ulp of each result in RNE and RMM, one ulp in the
other modes; half units of the smallest exponent are counted (10 R259). -/
def rowPasses (f : FFmt) (rm : Nat) (l : List Cell) : Bool :=
  let stored := l.map (fun c => fDecode f c.res)
  let all := l.flatMap (fun c => c.sums) ++ stored
  let q := all.foldl (fun q v => min q v.exp) ((all.map FVal.exp).headD 0)
  let total (vs : List FVal) : Int := vs.foldl (fun s v => s + v.scaled q) 0
  let diff := (total (l.flatMap (fun c => c.sums)) - total stored).natAbs
  let tol := (stored.map (fun v => (if rm = 0 ∨ rm = 4 then 1 else 2) * 2 ^ (v.exp - q).toNat)).foldl (fun a b => a + b) 0
  decide (2 * diff ≤ tol)

/-- The row checksums of an operation: the number of unchecked rows, and of the others each row with whether its exact results
pass (10 R258 to R260). Integer rows always agree modulo 2^32. -/
def checkRows (f : FFmt) (rm : Nat) (flt : Bool) (rows : List (Nat × List Cell)) : Nat × List (Nat × Bool) :=
  let un := rows.filter (fun r => flt && rowUnchecked f r.2)
  (un.length, (rows.filter (fun r => !(flt && rowUnchecked f r.2))).map (fun r => (r.1, !flt || rowPasses f rm r.2)))

/-- The lowest row that fails in one computation of an operation, in which a lane errs in row `upset` (10 R261). -/
def failingRow (rows : List (Nat × Bool)) (upset : Option Nat) : Option Nat :=
  (rows.find? (fun r => !r.2 || upset == some r.1)).map (fun r => r.1)

/-- A product operation's results checked and then stored by `put` with their flags; an operation with a row that fails is computed
once more, from the same operands (09 R219; 10 R258 to R261). `upset` gives the row in which a lane errs, by computation (log 54). The
unchecked rows count in UNCHK once where the operation completes, and not where it fails (DESIGN CHOICE, log 56: 10 R260 says neither). -/
def Work.productDone (w : Work) (own : Bool) (f : FFmt) (rm t : Nat) (flt : Bool) (rows : List (Nat × List (Nat × Cell)))
    (put : Work → List (Nat × Nat) → Work) : M Work :=
  let c := w.core
  let cells := (rows.map (fun r => (r.1, r.2.map (fun x => x.2)))).filter (fun r => r.2 ≠ [])
  let (un, checked) := if c.cen then checkRows f rm flt cells else (0, [])
  let first := if c.cen then failingRow checked c.upset.head? else none
  let second := first.bind (fun _ => failingRow checked (c.upset.drop 1).head?)
  let c := { c with upset := if c.cen then c.upset.drop (if first.isSome then 2 else 1) else c.upset }
  let count (w : Work) (k : AnnalsKey) : Work := { w with m := w.m.countAnnals k }
  let core := coreOf w.m.cur
  -- the recomputation of the control thread's operation is a window replay
  let w := if first.isSome && own then count w (.windowReplay core) else w
  match second with
  | some row =>
    tileRaise (count (w.setCore { c with fail := min 0xFFFF (c.fail + 1) }) (.checksumFail core)) cCHECKSUM_FAIL
      (BitVec.ofNat 64 (row + 256 * t))
  | none =>
    let w1 := w.setCore { c with unchk := min 0xFFFF (c.unchk + un), rpl := if first.isSome then min 0xFFFF (c.rpl + 1) else c.rpl }
    let w1 := if first.isSome then count w1 (.checksumReplay core) else w1
    let all := rows.flatMap (fun r => r.2.map (fun x => (r.1 * 64 + x.1, x.2)))
    .ok ((put w1 (all.map (fun x => (x.1, x.2.res)))).orFlags (all.foldl (fun a x => a ||| x.2.flags) 0))

/-- The enabled accumulators of t computed by `pairs row col`, which gives the two factors of each term as element bits of
the A type and the B type (09 R222, R226). -/
def Work.product (w : Work) (src : TileSrc) (t pr : Nat) (bcode : Nat) (pairs : Nat → Nat → List (Nat × Nat)) : M Work :=
  let cols := w.enabledCols pr
  let cell (row col : Nat) : Cell :=
    let old := w.acc t row col
    let ps := pairs row col
    if src.fmt = 0 then intCell old (ps.map (fun p => (toSigned 8 p.1, toSigned 8 p.2)))
    else floatCell src.rm old (ps.map (fun p => (codeVal src.fmt p.1, codeVal bcode p.2)))
  let rows := (w.enabledRows pr).map (fun r => (r, cols.map (fun c => (c, cell r c))))
  w.productDone src.own f32 src.rm t (src.fmt != 0) rows (fun w l => w.putAcc t l)

/-! ### Claim and release (09 R215) -/

/-- 09 R215: claims the tile group into INIT; TILE_DISABLED, detail 2, where the other slot owns it. -/
def bodyTen (w : Work) : M Work :=
  match w.ten w.m.cur with
  | some w1 => .ok w1
  | none => raise w cTILE_DISABLED 2

def execTen (st : Fin 16) (s : State) : Host.Outcome State Fault Refusal :=
  issue (.ten st) bodyTen s

/-- 09 R215: waits for the matrix sequencer, then discards and releases the tile group; no effect in a slot that does not own it. -/
def bodyTdis (w : Work) : M Work :=
  if w.core.owner = some w.m.cur ∧ w.s.mseq.st = .running then .error (.wait .sequencer)
  else .ok (w.releaseTile w.m.cur)

def execTdis (st : Fin 16) (s : State) : Host.Outcome State Fault Refusal :=
  issue (.tdis st) bodyTdis s

/-! ### Dense operations -/

/-- `tzero` (09 R230). -/
def Work.tzero (w : Work) (t pr : Nat) : M Work := .ok (w.putAcc t ((w.enabledAcc pr).map (fun i => (i, 0))))

/-- 09 R230: writes zero to every enabled accumulator. -/
def bodyTzero (p : Fin 4) (t : Fin 8) (w : Work) : M Work :=  w.tzero t.val p.val

def execTzero (st : Fin 16) (p : Fin 4) (t : Fin 8) (s : State) : Host.Outcome State Fault Refusal :=
  issue (.tzero st p t) (bodyTzero p t) s

/-- 09 R231: adds one outer product of va and vb. -/
def bodyTmop (p : Fin 4) (t : Fin 8) (a b : Reg) (w : Work) : M Work :=
  let src := w.tileSrc a b
  let size := codeBytes src.fmt
  w.product src t.val p.val src.fmt (fun row col => [(w.elemAt (8 * size) a.val row, w.elemAt (8 * size) b.val col)])

def execTmop (st : Fin 16) (p : Fin 4) (t : Fin 8) (a b : Reg) (s : State) : Host.Outcome State Fault Refusal :=
  issue (.tmop st p t a b) (bodyTmop p t a b) s

/-! ### Whole tiles in memory (09 R234) -/

/-- The address of an accumulator of a tile in memory. -/
def tileAddr (a : Word) (e : Nat) : Word := a + BitVec.ofNat 64 (4 * e)

/-- The accesses of `tld` and `tst`, checked: alignment of the tile first, then each element in order. -/
def Work.tilePlan (w : Work) (a : Word) (write col : Bool) : M (List (Nat × List Req)) :=
  if a.toNat % (if col then 0x4000 else 64) ≠ 0 then tileRaise w cMISALIGNED a (if write then 1 else 0) else
  match planAll (fun e => (w.req (tileAddr a e) 4 write col).map (fun r => [r])) (List.range 4096) with
  | (_, some (_, .stop s)) => .error s
  | (_, some (_, .flt c v)) => tileRaise w c v (if write then 1 else 0)
  | (l, none) => .ok l

/-- The address of the first line of a plan that a failed copy held, if there is one: with a column orientation, of the line in
which the byte stands (06 R149; 09 R227). -/
def lostAddr (lost : List Nat) (col : Bool) (l : List (Nat × List Req)) : Option Word :=
  l.findSome? (fun p => p.2.findSome? (fun r =>
    (r.locs.findIdx? (fun x => lost.contains (lineOf x))).map (fun i =>
      keepBits (BitVec.ofNat 64 (orient (col && inLocal r.a.toNat) (r.a.toNat + i))) 6 51)))

/-- `tld` (09 R234). -/
def Work.tld (w : Work) (src : TileSrc) (t : Nat) (col : Bool) : M Work := do
  let plan ← w.tilePlan src.opa false col
  let left := w.ahead plan
  w.mayRead left
  match lostAddr src.lost col plan with
  | some a => tileRaise w cTOKEN_ERROR a
  | none =>
    match firstPoison w.m left with
    | some (_, a) => tileRaise (w.countBad (planLocs left)) cMEMORY_POISON (keepBits a 0 57)
    | none =>
      let (vals, w1) ← w.readPlan noNote plan
      .ok ((((w1.putAcc t (vals.map (fun p => (p.1, p.2.headD 0)))).countHot 0 plan).countRemote (planLocs plan)).touchFibre
        (planLocs plan))

/-- `tst` (09 R234). -/
def Work.tst (w : Work) (src : TileSrc) (t : Nat) (col : Bool) : M Work := do
  let plan ← w.tilePlan src.opa true col
  w.mayWrite (w.ahead plan)
  let tile := w.tile t
  let w1 ← w.putPlan (fun e => [((elem 32 tile e).toNat, 0)]) plan
  .ok (w1.countHot 0 plan)

/-- 09 R234: loads a whole tile from 16 KiB. -/
def bodyTld (t : Fin 8) (a : Reg) (o : Bool) (w : Work) : M Work :=  w.tld (w.tileSrc a a) t.val o

def execTld (st : Fin 16) (t : Fin 8) (a : Reg) (o : Bool) (s : State) : Host.Outcome State Fault Refusal :=
  issue (.tld st t a o) (bodyTld t a o) s

/-- 09 R234: stores a whole tile to 16 KiB. -/
def bodyTst (t : Fin 8) (a : Reg) (o : Bool) (w : Work) : M Work :=  w.tst (w.tileSrc a a) t.val o

def execTst (st : Fin 16) (t : Fin 8) (a : Reg) (o : Bool) (s : State) : Host.Outcome State Fault Refusal :=
  issue (.tst st t a o) (bodyTst t a o) s

/-! ### Moves between tiles and vector registers (09 R235, R236) -/

/-- A row or a column of 64 accumulators, `num i k` being the number of the k-th of line i, moved. -/
def Work.moveLine (w : Work) (t : Nat) (a b : Reg) (toTile : Bool) (num : Nat → Nat → Nat) : M Work :=
  let i := (w.x b.val).toNat
  if 63 < i then raise w cBOUNDS (w.x b.val)
  else if toTile then .ok (w.putAcc t ((List.range 64).map (fun k => (num i k, w.elemAt 32 a.val k))))
  else
    let tile := w.tile t
    .ok (w.putV a.val 32 ((List.range 64).map (fun k => (k, (elem 32 tile (num i k)).toNat))))

/-- 09 R235: moves one accumulator row. -/
def bodyTrowmv (t : Fin 8) (a b : Reg) (k : Bool) (w : Work) : M Work :=  w.moveLine t.val a b k (fun i c => i * 64 + c)

def execTrowmv (st : Fin 16) (t : Fin 8) (a b : Reg) (k : Bool) (s : State) : Host.Outcome State Fault Refusal :=
  issue (.trowmv st t a b k) (bodyTrowmv t a b k) s

/-- 09 R235: moves one accumulator column. -/
def bodyTcolmv (t : Fin 8) (a b : Reg) (k : Bool) (w : Work) : M Work :=  w.moveLine t.val a b k (fun i r => r * 64 + i)

def execTcolmv (st : Fin 16) (t : Fin 8) (a b : Reg) (k : Bool) (s : State) : Host.Outcome State Fault Refusal :=
  issue (.tcolmv st t a b k) (bodyTcolmv t a b k) s

/-- The accumulator that element e of the g-th register of a whole tile holds (09 R236). -/
def tileElem (g e : Nat) : Nat := e % 64 * 64 + (8 * g + e / 64)

/-- 09 R236: moves a whole tile; in protected mode SHAPE_INVALID, detail 5 (09 R238). -/
def bodyTvmv (t : Fin 8) (a : Reg) (k : Bool) (w : Work) : M Work :=
  if w.prot then raise w cSHAPE_INVALID 5
  else if k then
    .ok (w.putAcc t.val ((List.range 8).flatMap (fun g => (List.range 512).map (fun e =>
      (tileElem g e, w.elemAt 32 ((a.val + g) % 32) e)))))
  else
    let tile := w.tile t.val
    .ok ((List.range 8).foldl (fun w g => w.putV ((a.val + g) % 32) 32
      ((List.range 512).map (fun e => (e, (elem 32 tile (tileElem g e)).toNat)))) w)

def execTvmv (st : Fin 16) (t : Fin 8) (a : Reg) (k : Bool) (s : State) : Host.Outcome State Fault Refusal :=
  issue (.tvmv st t a k) (bodyTvmv t a k) s

end Sys2Proof.Machine
end

