-- ==== Sys2Proof/Machine/TileWeights.lean ====
section
/-! DEFINITION. Tile operations over the weight buffer: `tmma`, `tmms`, `tmf64`, `wbld` and the weight format, checksums, and the
operations that the matrix sequencer and the command queue offer (09 R225, R232, R233, R239 to R242; 10 R243 to R263). -/

namespace Sys2Proof.Machine

/-! ### B blocks (09 R225; 10 R248, R249, R252) -/

/-- The element size of the weight format in bytes. -/
def eltSize (elt : Nat) : Nat := if elt = 0 then 2 else 1

/-- The format code of the weight format's element type. -/
def eltCode (elt : Nat) : Nat := if elt = 0 then 9 else if elt = 1 then 12 else 0

/-- The bits of a B element that a bitmap block leaves out: +0 (10 R249). -/
def eltZero (elt : Nat) : Nat := if elt = 1 then 0x77 else 0

/-- `n` bytes of the weight buffer as a number. -/
def Work.wbNum (w : Work) (off n : Nat) : Nat := w.num (wbLoc (coreOf w.m.cur) off) n

/-- The bytes from an offset up. -/
def offsets (b n : Nat) : List Nat := (List.range n).map (fun i => b + i)

/-- Checks 4 and 5 of 09 R233: the alignment of the block and its place in the buffer. -/
def Work.wbBlock (w : Work) (b : Word) (span : Nat) : M Unit :=
  if b.toNat % 64 ≠ 0 then tileRaise w cMISALIGNED b
  else if 0x40000 < b.toNat + span then tileRaise w cWB_RANGE b
  else .ok ()

/-- The offset of each stored value of a bitmap, by element number; none for an absent one (10 Table 10.2). -/
def bitmapPlaces (bits size first : Nat) : List (Option Nat) :=
  ((List.range 1024).foldl (fun (acc : List (Option Nat) × Nat) n =>
    if bits / 2 ^ n % 2 = 1 then (some acc.2 :: acc.1, acc.2 + size) else (none :: acc.1, acc.2)) ([], first)).1.reverse

/-- The B block of `tmma` at offset b, dense or bitmap: its bytes, and the element bits by j x 64 + col. A bitmap is read once the
copies issued before `since` have left it (09 R227; 10 R245). -/
def Work.denseBlock (w : Work) (b : Word) (since : Nat) : M (List Nat × Array Nat) := do
  let c := w.core
  let size := eltSize c.elt
  let o := b.toNat
  if c.cmp = 2 then do
    w.wbBlock b 128
    if (offsets o 128).any (fun x => w.m.ownedBefore since (lineOf (wbLoc (coreOf w.m.cur) x))) then .error (.wait .ownedLine) else
    let places := bitmapPlaces (w.wbNum o 128) size (o + 128)
    let span := 128 + (places.filter (fun p => p.isSome)).length * size
    w.wbBlock b span
    .ok (offsets o span, (places.map (fun p => match p with
      | some x => w.wbNum x size
      | none => eltZero c.elt)).toArray)
  else do
    w.wbBlock b (1024 * size)
    .ok (offsets o (1024 * size), ((List.range 1024).map (fun e => w.wbNum (o + e * size) size)).toArray)

/-- The structured block at offset b: its bytes, and the (index, element bits) of term i of column col by i x 64 + col. -/
def Work.structuredBlock (w : Work) (b : Word) : M (List Nat × Array (Nat × Nat)) := do
  let c := w.core
  let size := eltSize c.elt
  let n := 2 ^ c.nsel
  let o := b.toNat
  let span := n * 64 * size + n * 32
  w.wbBlock b span
  .ok (offsets o span, ((List.range (n * 64)).map (fun e =>
    (w.wbNum (o + n * 64 * size + e / 2) 1 / 16 ^ (e % 2) % 16, w.wbNum (o + e * size) size))).toArray)

/-! ### tmma and tmms (09 R232, R233; 10 R251 to R253) -/

/-- The checks 1 to 3 of an operation with an A block of 2,048 or 1,024 bytes, and the restriction of protected mode
(09 R233, R238), which comes before all of them and the check of CMP (DESIGN CHOICE, log 58: R238 gives it no place among them). -/
def Work.checkA (w : Work) (src : TileSrc) (lsp col narrow : Bool) (span : Nat) : M Unit :=
  if !lsp && w.prot && narrow then tileRaise w cSHAPE_INVALID 5
  else if lsp then w.lspBlock src.opa col span
  else .ok ()

/-- `tmma` (09 R232). -/
def Work.tmma (w : Work) (src : TileSrc) (t pr : Nat) (a : Reg) (lsp col : Bool) : M Work := do
  let size := codeBytes src.fmt
  w.checkA src lsp col (src.fmt == 9) (1024 * size)
  let c := w.core
  if c.cmp = 1 then tileRaise w cSHAPE_INVALID 8 else
  let (offs, bt) ← w.denseBlock src.opb src.since
  w.operandsReady src (w.aBlockBytes lsp col false size 16 src) offs
  let (at_, w) ← w.aTable lsp col false size 16 src a
  w.product src t pr (eltCode c.elt) (fun row col => (List.range 16).map (fun j =>
    (at_.getD (j * 64 + row) 0, bt.getD (j * 64 + col) 0)))

/-- `tmms` (10 R251 to R253). -/
def Work.tmms (w : Work) (src : TileSrc) (t pr : Nat) (a : Reg) (lsp col : Bool) : M Work := do
  let size := codeBytes src.fmt
  w.checkA src lsp col (src.fmt == 9) (1024 * size)
  let c := w.core
  if c.cmp ≠ 1 then tileRaise w cSHAPE_INVALID 8 else
  let (offs, bt) ← w.structuredBlock src.opb
  w.operandsReady src (w.aBlockBytes lsp col false size 16 src) offs
  let (at_, w) ← w.aTable lsp col false size 16 src a
  w.product src t pr (eltCode c.elt) (fun row col => (List.range (2 ^ c.nsel)).map (fun i =>
    let term := bt.getD (i * 64 + col) (0, 0)
    (at_.getD (term.1 * 64 + row) 0, term.2)))

/-- 09 R232: adds a K-block of 16. -/
def bodyTmma (p : Fin 4) (t : Fin 8) (a b : Reg) (l o : Bool) (w : Work) : M Work :=  w.tmma (w.tileSrc a b) t.val p.val a l o

def execTmma (st : Fin 16) (p : Fin 4) (t : Fin 8) (a b : Reg) (l o : Bool) (s : State) : Host.Outcome State Fault Refusal :=
  issue (.tmma st p t a b l o) (bodyTmma p t a b l o) s

/-- 10 R251: adds the N terms per column of a structured block. -/
def bodyTmms (p : Fin 4) (t : Fin 8) (a b : Reg) (l o : Bool) (w : Work) : M Work :=  w.tmms (w.tileSrc a b) t.val p.val a l o

def execTmms (st : Fin 16) (p : Fin 4) (t : Fin 8) (a b : Reg) (l o : Bool) (s : State) : Host.Outcome State Fault Refusal :=
  issue (.tmms st p t a b l o) (bodyTmms p t a b l o) s

/-! ### Split-precision FP64 (10 R255, R256) -/

/-- ex(v) of a finite nonzero value. -/
def fExp : FVal → Option Int
  | .fin _ m e => if m = 0 then none else some (e + Nat.log2 m)
  | _ => none

/-- The largest ex of four values; 0 where there is none. -/
def topExp (l : List FVal) : Int :=
  match l.filterMap fExp with
  | [] => 0
  | x :: xs => xs.foldl max x

/-- The s signed slices of a value aligned to exponent `top`; zeros for zero, infinity and NaN (10 R256). -/
def slices (s : Nat) (top : Int) (v : FVal) : List Int :=
  match v with
  | .fin neg m e =>
    let sh := e + (7 * s - 1 : Nat) - top
    let n := if 0 ≤ sh then m * 2 ^ sh.toNat else m / 2 ^ (-sh).toNat
    (List.range s).map (fun g =>
      let d : Int := (n / 2 ^ (7 * (s - 1 - g)) % 128 : Nat)
      if neg then -d else d)
  | _ => (List.range s).map (fun _ => 0)

/-- The kept slice products of the four terms: product and exponent (10 R256). -/
def sliceTerms (s : Nat) (ea eb : Int) (da db : List (List Int)) : List FVal :=
  (List.range s).flatMap (fun g => (List.range (s - g)).flatMap (fun k =>
    (da.zip db).map (fun p =>
      let x := p.1.getD g 0 * p.2.getD k 0
      FVal.fin (decide (x < 0)) x.natAbs (ea + eb + 2 - (7 * (g + k + 2) : Nat)))))

/-- Whether a nonzero value lies below 2^-1280 or at or above 2^1270 in magnitude (10 R260). -/
def outOfRange (v : FVal) : Bool :=
  match fExp v with
  | some x => decide (x < -1280) || decide (1270 ≤ x)
  | none => false

/-- An f64 accumulator pair (10 R256): the sign of an exact zero is that of its addends where all are zeros of one sign
(log 16). -/
def splitCell (s rm old : Nat) (av bv : List FVal) (ea eb : Int) (da db : List (List Int)) : Cell :=
  let o := fDecode f64 old
  let pairs := av.zip bv
  let ts := sliceTerms s ea eb da db
  let signs := pairs.filterMap (fun p => p.1.mul p.2)
  let zeros := signs.all FVal.isZero && o.isZero
  let r := productSum f64 o pairs (fun _ =>
    let vals := o :: ts
    let q := vals.foldl (fun q v => min q v.exp) o.exp
    roundSum f64 rm (vals.foldl (fun x v => x + v.scaled q) 0) q
      (if zeros then zeroSign rm (o.isNeg :: signs.map FVal.isNeg) else zeroSign rm [true, false]))
  { res := r.1, flags := r.2, sums := if o.isNan || o.isInf then [o] else o :: ts,
    wide := outOfRange o || outOfRange (fDecode f64 r.1) || ts.any outOfRange }

/-- `tmf64` (10 R255, R256). -/
def Work.tmf64 (w : Work) (src : TileSrc) (t pr : Nat) (a : Reg) (lsp col : Bool) : M Work := do
  w.checkA src lsp col true 2048
  w.wbBlock src.opb 2048
  let o := src.opb.toNat
  w.operandsReady src (w.aBlockBytes lsp col true 8 4 src) (offsets o 2048)
  let (at_, w) ← w.aTable lsp col true 8 4 src a
  let bt := ((List.range 256).map (fun e => w.wbNum (o + e * 8) 8)).toArray
  let s := src.slc
  let side (get : Nat → Nat) : List FVal × Int × List (List Int) :=
    let vs := (List.range 4).map (fun j => fDecode f64 (get j))
    let top := topExp vs
    (vs, top, vs.map (slices s top))
  let cols := (w.enabledCols pr).map (fun c => (c, side (fun j => bt.getD (j * 64 + c) 0)))
  let rows := (w.enabledRows pr).map (fun r =>
    let ra := side (fun j => at_.getD (j * 64 + r) 0)
    (r, cols.map (fun c =>
      let old := w.acc t r c.1 + 2 ^ 32 * w.acc (t + 1) r c.1
      (c.1, splitCell s src.rm old ra.1 c.2.1 ra.2.1 c.2.2.1 ra.2.2 c.2.2.2))))
  w.productDone src.own f64 src.rm t true rows (fun w l =>
    (w.putAcc t (l.map (fun p => (p.1, p.2 % 2 ^ 32)))).putAcc (t + 1) (l.map (fun p => (p.1, p.2 / 2 ^ 32))))

/-- 10 R255: adds a split-precision f64 K-block of 4. -/
def bodyTmf64 (p : Fin 4) (t : Fin 8) (a b : Reg) (l o : Bool) (w : Work) : M Work :=  w.tmf64 (w.tileSrc a b) t.val p.val a l o

def execTmf64 (st : Fin 16) (p : Fin 4) (t : Fin 8) (a b : Reg) (l o : Bool) (s : State) : Host.Outcome State Fault Refusal :=
  issue (.tmf64 st p t a b l o) (bodyTmf64 p t a b l o) s

/-! ### The weight buffer (10 R246, R250, R258, R262) -/

/-- `wbld` (10 R250). Of its destination it waits only for the copies issued before its acceptance (10 R245). -/
def Work.wbld (w : Work) (src : TileSrc) : M Work := do
  let a := src.opa
  let b := src.opb.toNat
  if a.toNat % 64 ≠ 0 then tileRaise w cMISALIGNED a
  else if b % 64 ≠ 0 then tileRaise w cMISALIGNED src.opb
  else if 0x40000 < b + 2048 then tileRaise w cWB_RANGE src.opb
  else
    match planAll (fun e => (w.req (a + BitVec.ofNat 64 (64 * e)) 64 false false).map (fun r => [r])) (List.range 32) with
    | (_, some (_, .stop s)) => .error s
    | (_, some (_, .flt c v)) => tileRaise w c v
    | (plan, none) =>
      let core := coreOf w.m.cur
      let dst := (List.range 2048).map (fun i => wbLoc core (b + i))
      if dst.any (fun x => w.m.ownedBefore src.since (lineOf x)) then .error (.wait .ownedLine) else
      let left := w.ahead plan
      w.mayRead left
      match lostAddr src.lost false plan with
      | some x => tileRaise w cTOKEN_ERROR x
      | none =>
        match firstPoison w.m left with
        | some (_, x) => tileRaise (w.countBad (planLocs left)) cMEMORY_POISON (keepBits x 0 57)
        | none =>
          let (vals, w1) ← w.readPlan noNote plan
          let data := vals.flatMap (fun p => leBytes 64 (p.2.headD 0))
          let w2 := (w1.putBytes (wbLoc core b) data).countRemote (planLocs plan)
          let m := (List.range 32).foldl (fun m i => m.clearPoison (lineOf (wbLoc core b) + i)) w2.m
          let c := m.core core
          let marks := c.marks.filter (fun l => !(decide (b / 64 ≤ l) && decide (l < b / 64 + 32)))
          .ok { w2 with m := m.setCore core ({ c with marks := marks }).touched }

/-- 10 R250: copies 2,048 bytes into the weight buffer, all or nothing. -/
def bodyWbld (a b : Reg) (w : Work) : M Work :=  w.wbld (w.tileSrc a b)

def execWbld (st : Fin 16) (a b : Reg) (s : State) : Host.Outcome State Fault Refusal :=
  issue (.wbld st a b) (bodyWbld a b) s

/-- `wbfmt` with a value (10 R246). -/
def Work.wbfmt (w : Work) (v : Word) : M Work :=
  match weightFormat v with
  | none => tileRaise w cSHAPE_INVALID 7
  | some f => .ok (w.setCore { w.core with elt := f.elt, cmp := f.cmp, nsel := f.nsel })

/-- 10 R246: sets the weight format. -/
def bodyWbfmt (a : Reg) (w : Work) : M Work :=  w.wbfmt (w.x a.val)

def execWbfmt (st : Fin 16) (a : Reg) (s : State) : Host.Outcome State Fault Refusal :=
  issue (.wbfmt st a) (bodyWbfmt a) s

/-- 10 R258: enables or disables row checksums. -/
def bodyTchk (a : Reg) (w : Work) : M Work :=
  let v := w.x a.val
  if bitsN v 1 63 ≠ 0 then tileRaise w cSHAPE_INVALID 7
  else .ok (w.setCore { w.core with cen := bitB v 0 })

def execTchk (st : Fin 16) (a : Reg) (s : State) : Host.Outcome State Fault Refusal :=
  issue (.tchk st a) (bodyTchk a) s

/-- 10 R262: reads and clears the checksum counters. -/
def bodyTchkrd (a : Reg) (w : Work) : M Work :=
  let c := w.core
  .ok ((w.setCore { c with unchk := 0, rpl := 0, fail := 0 }).setX a.val (tchkWord c))

def execTchkrd (st : Fin 16) (a : Reg) (s : State) : Host.Outcome State Fault Refusal :=
  issue (.tchkrd st a) (bodyTchkrd a) s

/-! ### Operations of the sequencer and the queue (09 R217, R239 to R242) -/

/-- A tile operation that the matrix sequencer or the queue may hold, as what it does with its operands; none for any other
instruction. -/
def tileOperation (i : Instr) (src : TileSrc) : Option (Work → M Work) :=
  match i with
  | .tzero _ p t => some (fun w => w.tzero t.val p.val)
  | .tmma _ p t a _ l o => some (fun w => w.tmma src t.val p.val a l o)
  | .tmms _ p t a _ l o => some (fun w => w.tmms src t.val p.val a l o)
  | .tmf64 _ p t a _ l o => some (fun w => w.tmf64 src t.val p.val a l o)
  | .tld _ t _ o => some (fun w => w.tld src t.val o)
  | .tst _ t _ o => some (fun w => w.tst src t.val o)
  | .wbld _ _ _ => some (fun w => w.wbld src)
  | .wbfmt _ _ => some (fun w => w.wbfmt src.opa)
  | _ => none

/-- Whether the operand types of an operation are legal together (09 R222; 10 R255). -/
def Work.pairLegal (w : Work) (i : Instr) (src : TileSrc) : Bool :=
  match i with
  | .tmma _ _ _ _ _ _ _ => w.pairOf src.fmt
  | .tmms _ _ _ _ _ _ _ => w.pairOf src.fmt
  | .tmf64 _ _ t _ _ _ _ => t.val % 2 == 0 && src.fmt == 11
  | _ => true

/-- Why an operation of the running slot's tile group that its sequencer or queue offers is turned away at its acceptance: an
illegal word or operand pair first, then the owner and NR (09 R216, R222). -/
def Work.offerFault (w : Work) (i : Instr) (src : TileSrc) (word : Nat) : Option Trap :=
  if (tileOperation i src).isNone || !w.pairLegal i src then some { cause := cILLEGAL, acc := 0, stval := BitVec.ofNat 64 word }
  else (tileDetail w.m w.m.cur).map (fun d => { cause := cTILE_DISABLED, acc := 0, stval := BitVec.ofNat 64 d })

/-- The instruction of a command word, its A and B fields ignored; none where the word is no legal command (09 R241). -/
def commandInstr (word : Nat) : Option Instr :=
  let bare := word - fld word 11 5 * 2 ^ 11 - fld word 6 5 * 2 ^ 6
  match decodeWord bare with
  | .error _ => none
  | .ok i =>
    let plainWord := fld word 27 5 = 0
    match i with
    | .tzero _ _ _ => if plainWord then some i else none
    | .tmma _ _ _ _ _ l _ => if plainWord && l then some i else none
    | .tmms _ _ _ _ _ l _ => if plainWord && l then some i else none
    | .tmf64 _ _ _ _ _ l _ => if plainWord && l then some i else none
    | _ => none

/-- A command of core n's queue ended, with its cause where it was discarded (09 R241, R242). -/
def Core.commandDone (c : Core) (err : Option Nat) : Core :=
  let c := { c with mcqDone := (c.mcqDone + 1) % 2 ^ 32 }
  match err with
  | some cause => { c with mcqErr := true, mcqCause := cause }
  | none => c

/-- The instruction with which a slot waits, once it has issued and takes a place in tile order or in the lanes' queues (09 R217, R219). -/
def Slot.tileHeld (s : Slot) : Option Instr :=
  if s.unit.begun && s.unit.st.runs && s.thr.window == [] then
    s.unit.held.filter (fun i => (infoOf s.ctl.fmt i).tile || (infoOf s.ctl.fmt i).cls != .scalar)
  else none

/-- The place that an operation accepted now takes among the instructions of slot n: behind all that have issued (09 R217, R219). -/
def Slot.tilePlace (s : Slot) : Nat :=
  s.thr.window.foldl (fun a f => max a (f.iseq.toNat + 1)) (s.thr.iseq.toNat + (if s.tileHeld.isSome then 1 else 0))

/-- Whether no instruction of slot n that issued before an accepted operation still stands in the lanes' queues or waits: each lane has
reached the operation's entry (09 R219). -/
def Slot.tileReached (s : Slot) (op : TileOp) : Bool :=
  !s.thr.window.any (fun f => (f.info.cls != .scalar || f.info.tile) && decide (f.iseq.toNat < op.after)) &&
  !(s.tileHeld.isSome && decide (s.thr.iseq.toNat < op.after))

/-- An operation accepted by the tile unit of a core, behind those that it holds (09 R217). -/
def Work.acceptTile (w : Work) (core : Nat) (op : TileOp) : Work :=
  let c := w.m.core core
  { w with m := w.m.setCore core { c with tileOps := c.tileOps ++ [op] } }

/-- The first of the accepted operations changed. -/
def Work.setTileOp (w : Work) (core : Nat) (op : TileOp) : Work :=
  let c := w.m.core core
  { w with m := w.m.setCore core { c with tileOps := op :: c.tileOps.drop 1 } }

/-- The A and B registers of the tile instructions that read or write the weight buffer, or set its format. -/
def weightRegs : Instr → Reg × Reg
  | .tmma _ _ _ a b _ _ => (a, b)
  | .tmms _ _ _ a b _ _ => (a, b)
  | .tmf64 _ _ _ a b _ _ => (a, b)
  | .wbld _ a b => (a, b)
  | .wbfmt _ a => (a, 0)
  | _ => (0, 0)

/-- The tile instructions of a slot that have issued and not completed, each with its place in the thread. -/
def Slot.tileEntries (s : Slot) : List (Nat × Accepted) :=
  let one (t : Slot) (i : Instr) (since : Nat) : Nat × Accepted :=
    let r := weightRegs i
    (t.thr.iseq.toNat, { instr := i, opa := t.readX r.1.val, opb := t.readX r.2.val, since := since })
  match s.thr.window with
  | [] => ((s.tileHeld.filter (fun i => (infoOf s.ctl.fmt i).tile)).map (fun i => one s i s.unit.since)).toList
  | l => l.zipIdx.filterMap (fun p => if p.1.info.tile then some (one (s.backTo p.1 (l.drop p.2)) p.1.instr p.1.since) else none)

/-- The operations that the tile unit of a core has accepted and not completed, in tile order, whatever their source (09 R217). -/
def Mach.tileOrder (m : Mach) (core : Nat) : List Accepted :=
  let c := m.core core
  match c.owner with
  | none => []
  | some n =>
    let r := c.tileOps.foldl (fun (a : List Accepted × List (Nat × Accepted)) op =>
      (a.1 ++ (a.2.takeWhile (fun e => decide (e.1 < op.after))).map (fun e => e.2) ++ [op.accepted],
       a.2.dropWhile (fun e => decide (e.1 < op.after)))) ([], (m.slot n).tileEntries)
    r.1 ++ r.2.map (fun e => e.2)

/-- The weight format that the latest `wbfmt` accepted so far sets (09 R242; 10 R246). -/
def Mach.formatNow (m : Mach) (core : Nat) : WeightFormat := (m.core core).format.past (m.tileOrder core)

/-- How many bytes of the weight buffer an operation at offset b reads, or `wbld` writes, under a weight format; 0 for one that a check
turns away. `open_` says that the bitmap may still change: then it counts as full (10 R245, R248 to R250, R252, R255). -/
def Work.weightSpan (w : Work) (core : Nat) (f : WeightFormat) (open_ : Bool) (i : Instr) (b : Nat) : Nat :=
  let size := eltSize f.elt
  let n := match i with
    | .tmma _ _ _ _ _ _ _ =>
      if f.cmp = 1 then 0 else if f.cmp = 2 then
        128 + (if open_ then 1024 else (w.bytes (wbLoc core b) 128).foldl (fun a x => a + ((List.range 8).filter (bitB x)).length) 0) * size
      else 1024 * size
    | .tmms _ _ _ _ _ _ _ => if f.cmp = 1 then 2 ^ f.nsel * (64 * size + 32) else 0
    | .tmf64 _ _ _ _ _ _ _ => 2048
    | .wbld _ _ _ => 2048
    | _ => 0
  if b % 64 ≠ 0 ∨ 0x40000 < b + n then 0 else n

/-- The work of an accepted operation, as the slot that owns the tile group: that slot's `vstart` and windows are not the
operation's. -/
def Work.tileWork (w : Work) (n : Nat) (op : TileOp) : M Work :=
  let old := w.m.slot n
  let w1 := { w with m := { w.m with cur := n } }.mapThr (fun t => { t with wins := [] })
  let back (w' : Work) : Work :=
    let w' := (w'.mapThr (fun t => { t with wins := old.thr.wins })).mapCtl (fun c => { c with vstart := old.ctl.vstart })
    { w' with m := { w'.m with cur := w.m.cur } }
  match tileOperation op.instr op.src with
  | none => .ok w
  | some f =>
    match f w1 with
    | .ok w' => .ok (back w')
    | .error (.trap w' t) => .error (.trap (back w') t)
    | .error e => .error e

/-- A sequencer stopped by a fault: the cause, with ACC above it, and `stval` (09 R240; 11 R288). -/
def Sequencer.stop (q : Sequencer) (t : Trap) : Sequencer :=
  { q with st := .stopped, cause := t.cause + 256 * t.acc, stval := t.stval }

/-- An accepted operation ends: the sequencer goes on or stops on the fault, the queue counts the command (09 R240 to R242). -/
def Work.tileEnd (w : Work) (core n : Nat) (op : TileOp) (t : Option Trap) : Work :=
  let m := w.m.setCore core { w.m.core core with tileOps := (w.m.core core).tileOps.drop 1 }
  if op.bySeq then
    let s := m.slot n
    let q := match t with
      | none => { s.mseq with pc := s.mseq.pc + 4 }
      | some t => s.mseq.stop t
    { w with m := m.setSlot n { s with mseq := q } }
  else { w with m := m.setCore core ((m.core core).commandDone (t.map (fun t => t.cause))) }

/-- 09 R219: the first accepted operation of a core's tile unit completes, or ends by its fault with no effect; it waits for what stands
before it, and for the copies that it must follow. An uncorrectable error that it consumes for the first time runs it again from OPEN (09 R233; 15 R370).
An access of it to a package that is unreachable ends the unit that owns the tile group (16 R409). -/
def finishTile (core : Nat) (w : Work) : M Work :=
  let c := w.m.core core
  match c.owner, c.tileOps with
  | some n, op :: _ =>
    if !(w.m.slot n).tileReached op then .error (.wait .tileOrder) else
    match w.tileWork n op with
    | .ok w' => .ok (w'.tileEnd core n op none)
    | .error (.trap w' t) =>
      if t.cause = cMEMORY_POISON ∧ !op.consumed.contains t.stval then
        let w := w.setTileOp core { op with arrivals := 0, consumed := t.stval :: op.consumed }
        .ok { w with m := w.m.countAnnals (.windowReplay core) }
      else .ok (w'.tileEnd core n op (some t))
    | .error (.wait (.lost pkg a)) => .ok (w.unanswered n pkg a)
    | .error e => .error e
  | _, _ => .error (.wait .tileOrder)

/-- 09 R217, R241: the tile unit accepts the command at the head of the core's queue, or it is discarded with its cause. -/
def acceptCommand (core : Nat) (w : Work) : M Work :=
  let c := w.m.core core
  match c.owner, c.queue with
  | some n, q :: rest =>
    let w1 := { w with m := { w.m with cur := n } }
    let src : TileSrc := { own := false, fmt := w1.fmt, slc := w1.s.ctl.slc.toNat, rm := w1.rm, opa := q.opa, opb := q.opb,
                           since := w.m.pkg.nextCopy, lost := [] }
    let taken : Work := { w with m := w.m.setCore core { c with queue := rest } }
    let drop (cause : Nat) : Work :=
      { taken with m := taken.m.setCore core ((taken.m.core core).commandDone (some cause)) }
    match commandInstr q.word with
    | none => .ok (drop cILLEGAL)
    | some i =>
      match w1.offerFault i src q.word with
      | some t => .ok (drop t.cause)
      | none => .ok (taken.acceptTile core { bySeq := false, instr := i, word := q.word, src := src, ksteps := q.ksteps, arrivals := 0, mismatched := false, consumed := [], after := w1.s.tilePlace })
  | _, _ => .error (.wait .tileOrder)

/-- 09 R217, R241: the command at the head of the queue is accepted. -/
def bodyMatrixCommandAccept (core : Nat) (w : Work) : M Work :=  acceptCommand core w

def execMatrixCommandAccept (core : Nat) (s : State) : Host.Outcome State Fault Refusal :=
  event (bodyMatrixCommandAccept core) s

end Sys2Proof.Machine
end

