-- ==== Sys2Proof/Machine/VecMem.lean ====
section
/-! DEFINITION. Vector memory instructions (06 R153 to R173). -/

namespace Sys2Proof.Machine

/-! ### Element addresses (06 R160, R161) -/

/-- The element memory size of FMT in bytes. -/
def Work.esize (w : Work) : Nat := w.ew / 8

/-- X[A] plus e times a byte stride, modulo 2^64. -/
def strided (base stride : Word) (e : Nat) : Word := base + stride * BitVec.ofNat 64 e

/-- idx(e): element e of vB as a byte offset, signed when FMT is an i format and unsigned for every other (06 R160). -/
def Work.index (w : Work) (b : Reg) (e : Nat) : Int :=
  if w.fmt < 4 then toSigned w.ew (w.elemV b e) else (w.elemV b e : Int)

/-- One access of an element at an address. -/
def Work.one (w : Work) (write col : Bool) (addr : Nat → Word) (e : Nat) : Except EFault (List Req) :=
  (w.req (addr e) w.esize write col).map (fun r => [r])

/-- The address of an indexed element. -/
def Work.indexed (w : Work) (a b : Reg) (e : Nat) : Word := w.x a.val + wordOfInt (w.index b e)

/-- An indexed element, with the bounds check of a `.b` form after the alignment check (06 R153, R161). -/
def Work.indexedPlan (w : Work) (write col bd : Bool) (a b : Reg) (e : Nat) : Except EFault (List Req) :=
  let i := w.index b e
  let addr := w.indexed a b e
  if bd && addr.toNat % w.esize == 0 && (decide (i < 0) || decide (((w.x b.val).toNat : Int) ≤ i)) then
    .error (.flt cBOUNDS (wordOfInt i))
  else w.one write col (w.indexed a b) e

/-- The elements of a load written to vD. -/
def Work.putLoaded (w : Work) (d : Reg) (l : List (Nat × List Nat)) : Work :=
  w.putV d.val w.ew (l.map (fun p => (p.1, p.2.headD 0)))

/-- The hotness class and orientation of a sampled instruction. -/
def kind (cls : Nat) (col : Bool) : Kind := { cls := cls, col := col, sampled := true }

/-- Nothing to settle among a store's elements. -/
def noFix (w : Work) (_ : List (Nat × List Req)) : Work := w

/-! ### Loads and stores of single elements -/

/-- 06 R160: loads at X[A] + e x s. -/
def bodyVld (d a : Reg) (o : Bool) (w : Work) : M Work := w.vload (kind 0 o) (w.one false o (fun e => strided (w.x a.val) (BitVec.ofNat 64 w.esize) e)) (fun w l => w.putLoaded d l)

def execVld (st : Fin 16) (c : Bool) (d a : Reg) (o : Bool) (s : State) : Host.Outcome State Fault Refusal :=
  issue (.vld st c d a o) (bodyVld d a o) s

/-- 06 R160: loads at X[A] + e x `vstride`. -/
def bodyVlds (d a : Reg) (o : Bool) (w : Work) : M Work := w.vload (kind 1 o) (w.one false o (fun e => strided (w.x a.val) w.s.ctl.vstride e)) (fun w l => w.putLoaded d l)

def execVlds (st : Fin 16) (c : Bool) (d a : Reg) (o : Bool) (s : State) : Host.Outcome State Fault Refusal :=
  issue (.vlds st c d a o) (bodyVlds d a o) s

/-- 06 R160, R161: loads at X[A] + idx(e); the `.b` form checks bounds. -/
def bodyVldx (d a b : Reg) (o k : Bool) (w : Work) : M Work := w.vload (kind 2 o) (w.indexedPlan false o k a b) (fun w l => w.putLoaded d l)

def execVldx (st : Fin 16) (c : Bool) (d a b : Reg) (o k : Bool) (s : State) : Host.Outcome State Fault Refusal :=
  issue (.vldx st c d a b o k) (bodyVldx d a b o k) s

/-- 06 R160: stores at X[A] + e x s. -/
def bodyVst (d a : Reg) (o n : Bool) (w : Work) : M Work := w.vstore (kind 0 o) n (w.one true o (fun e => strided (w.x a.val) (BitVec.ofNat 64 w.esize) e)) (fun e => [plain (w.elemV d e)]) noFix

def execVst (st : Fin 16) (c : Bool) (d a : Reg) (o n : Bool) (s : State) : Host.Outcome State Fault Refusal :=
  issue (.vst st c d a o n) (bodyVst d a o n) s

/-- 06 R160: stores at X[A] + e x `vstride`. -/
def bodyVsts (d a : Reg) (o n : Bool) (w : Work) : M Work := w.vstore (kind 1 o) n (w.one true o (fun e => strided (w.x a.val) w.s.ctl.vstride e)) (fun e => [plain (w.elemV d e)]) noFix

def execVsts (st : Fin 16) (c : Bool) (d a : Reg) (o n : Bool) (s : State) : Host.Outcome State Fault Refusal :=
  issue (.vsts st c d a o n) (bodyVsts d a o n) s

/-- 06 R160, R161: stores at X[A] + idx(e), in element order. -/
def bodyVstx (d a b : Reg) (o n k : Bool) (w : Work) : M Work := w.vstore (kind 2 o) n (w.indexedPlan true o k a b) (fun e => [plain (w.elemV d e)]) noFix

def execVstx (st : Fin 16) (c : Bool) (d a b : Reg) (o n k : Bool) (s : State) : Host.Outcome State Fault Refusal :=
  issue (.vstx st c d a b o n k) (bodyVstx d a b o n k) s

/-- Where several elements of one `vstxu` wrote the same bytes, outside Calendar mode the content is that of one of them,
chosen by a free value for each address (06 R162; log 7), where one turn makes all of them; where they are made in several, they stand
in ascending order. Elements that reach the same bytes through different virtual addresses are
grouped by their addresses only, so between those the highest index prevails (DESIGN CHOICE, log 53: no rule speaks of aliases). -/
def Work.settleUnordered (w : Work) (bits : Nat → Nat) (l : List (Nat × List Req)) : Work :=
  if w.calendar || !w.whole then w else
  let reqs := l.flatMap (fun p => p.2.map (fun r => (p.1, r)))
  (reqs.map (fun p => p.2.a)).eraseDups.foldl (fun w a =>
    let same := reqs.filter (fun p => p.2.a == a)
    if same.length ≤ 1 then w else
    let (i, w) := w.draw
    match same[Config.unorderedPick i % same.length]? with
    | some (e, r) => (r.locs.zip (leBytes r.locs.length (bits e))).foldl (fun w q => w.putByte q.1 q.2) w
    | none => w) w

/-- 06 R162: stores at X[A] + idx(e), with no order among the elements. -/
def bodyVstxu (d a b : Reg) (o n k : Bool) (w : Work) : M Work := w.vstore (kind 2 o) n (w.indexedPlan true o k a b) (fun e => [plain (w.elemV d e)])
    (fun w' l => w'.settleUnordered (w.elemV d) l)

def execVstxu (st : Fin 16) (c : Bool) (d a b : Reg) (o n k : Bool) (s : State) : Host.Outcome State Fault Refusal :=
  issue (.vstxu st c d a b o n k) (bodyVstxu d a b o n k) s

/-- 06 R163: fetches lines ahead; no access, no effect on what a program computes. -/
def bodyVpf (w : Work) : M Work := .ok w

def execVpf (st : Fin 16) (c : Bool) (a : Reg) (o : Bool) (s : State) : Host.Outcome State Fault Refusal :=
  issue (.vpf st c a o) bodyVpf s

/-! ### Segments (06 R164) -/

/-- The fields of record e: n accesses of `mw` bytes from X[A] + e x n x mw. -/
def Work.fields (w : Work) (write col : Bool) (a : Reg) (mw n e : Nat) : Except EFault (List Req) :=
  (List.range n).mapM (fun j => w.req (w.x a.val + BitVec.ofNat 64 (e * (n * mw) + j * mw)) mw write col)

/-- Field j of the loaded records converted into V[D + j]. -/
def Work.putField (w : Work) (d : Reg) (code : Nat) (l : List (Nat × List Nat)) (j : Nat) : Work :=
  let rs := l.map (fun p => (p.1, convert code w.fmt w.rm (p.2.getD j 0)))
  (w.putV (d.val + j) w.ew (rs.map (fun p => (p.1, p.2.1)))).orFlags (flagsOf rs)

/-- 06 R164: loads a record of F[2:0] + 1 fields for each active element. -/
def bodyVlseg (d a b : Reg) (o : Bool) (n : Fin 8) (w : Work) : M Work :=
  w.vload (kind 0 o) (w.fields false o a (codeBytes b.val) (n.val + 1))
    (fun w l => (List.range (n.val + 1)).foldl (fun w j => w.putField d b.val l j) w)

def execVlseg (st : Fin 16) (c : Bool) (d a b : Reg) (o : Bool) (n : Fin 8) (s : State) : Host.Outcome State Fault Refusal :=
  issue (.vlseg st c d a b o n) (bodyVlseg d a b o n) s

/-- 06 R164: stores a record of F[2:0] + 1 fields for each active element. -/
def bodyVsseg (d a b : Reg) (o t : Bool) (n : Fin 8) (w : Work) : M Work :=
  w.vstore (kind 0 o) t (w.fields true o a (codeBytes b.val) (n.val + 1))
    (fun e => (List.range (n.val + 1)).map (fun j =>
      convert w.fmt b.val w.rm (w.elemAt w.ew (d.val + j) e))) noFix

def execVsseg (st : Fin 16) (c : Bool) (d a b : Reg) (o t : Bool) (n : Fin 8) (s : State) : Host.Outcome State Fault Refusal :=
  issue (.vsseg st c d a b o t n) (bodyVsseg d a b o t n) s

/-! ### Shape records and tensors (06 R165, R166) -/

/-- A shape record. -/
structure Shape where
  base : Word
  rank : Nat
  mfmt : Nat
  ext : List Nat
  str : List Word
  deriving DecidableEq, Repr

/-- The number of elements of a tensor. -/
def Shape.size (s : Shape) : Nat := s.ext.foldl (fun a n => a * n) 1

/-- The record in ten 64-bit words, or the detail of SHAPE_INVALID; where several checks fail, the lowest detail (DESIGN CHOICE, log
53: no rule orders them). -/
def shapeOf (g : Nat → Word) : Except Nat Shape :=
  let rank := bitsN (g 1) 0 3
  let s : Shape := { base := g 0, rank := rank, mfmt := bitsN (g 1) 4 4,
                     ext := (List.range rank).map (fun i => (g (2 + i)).toNat), str := (List.range rank).map (fun i => g (6 + i)) }
  if rank = 0 ∨ 4 < rank then .error 1
  else if 12 < s.mfmt then .error 2
  else if bitB (g 1) 3 || bitsN (g 1) 8 56 != 0 then .error 3
  else if 2 ^ 64 ≤ s.size then .error 4
  else .ok s

/-- The record that a vector register holds. -/
def readShape (v : VReg) : Except Nat Shape := shapeOf (fun i => elem 64 v i)

/-- The byte offset of position q, dimension 0 fastest. -/
def shapeOffset (q : Nat) : List Nat → List Word → Word
  | e :: es, s :: ss => s * BitVec.ofNat 64 (q % e) + shapeOffset (q / e) es ss
  | _, _ => 0

/-- The address of position q. -/
def Shape.addr (s : Shape) (q : Nat) : Word := s.base + shapeOffset q s.ext s.str

/-- The access of element e of a tensor instruction from position q0; none beyond the tensor. -/
def Work.tensorPlan (w : Work) (s : Shape) (write col : Bool) (q0 e : Nat) : Except EFault (List Req) :=
  if s.size ≤ q0 + e then .ok [] else (w.req (s.addr (q0 + e)) (codeBytes s.mfmt) write col).map (fun r => [r])

/-- Loaded tensor elements converted into V[D]; +0 or 0 beyond the tensor. For ts8 the zero is its canonical code. -/
def Work.putTensor (w : Work) (d : Reg) (code : Nat) (l : List (Nat × List Nat)) : Work :=
  let one (p : Nat × List Nat) : FRes :=
    match p.2 with
    | b :: _ => convert code w.fmt w.rm b
    | [] => plain (if w.fmt = 12 then 0x77 else 0)
  let rs := l.map (fun p => (p.1, one p))
  (w.putV d.val w.ew (rs.map (fun p => (p.1, p.2.1)))).orFlags (flagsOf rs)

/-- 06 R166: loads elements of the tensor that the record in va describes. -/
def bodyVldt (d a b : Reg) (o : Bool) (w : Work) : M Work :=
  match readShape (w.v a.val) with
  | .error n => raise w cSHAPE_INVALID (BitVec.ofNat 64 n)
  | .ok s => w.vload (kind 1 o) (w.tensorPlan s false o (w.x b.val).toNat) (fun w l => w.putTensor d s.mfmt l)

def execVldt (st : Fin 16) (c : Bool) (d a b : Reg) (o : Bool) (s : State) : Host.Outcome State Fault Refusal :=
  issue (.vldt st c d a b o) (bodyVldt d a b o) s

/-- 06 R166: stores elements into the tensor that the record in va describes. The record is checked before the progress word of
`vstt.n` (DESIGN CHOICE, log 53: no rule orders the two). -/
def bodyVstt (d a b : Reg) (o n : Bool) (w : Work) : M Work :=
  match readShape (w.v a.val) with
  | .error n => raise w cSHAPE_INVALID (BitVec.ofNat 64 n)
  | .ok s => w.vstore (kind 1 o) n (w.tensorPlan s true o (w.x b.val).toNat)
      (fun e => [convert w.fmt s.mfmt w.rm (w.elemV d e)]) noFix

def execVstt (st : Fin 16) (c : Bool) (d a b : Reg) (o n : Bool) (s : State) : Host.Outcome State Fault Refusal :=
  issue (.vstt st c d a b o n) (bodyVstt d a b o n) s

/-! ### Stream binding (06 R169, R170) -/

/-- The binding record that a register holds, with P := 0, or the detail of BINDING_FAULT; where several checks fail, the lowest
detail (DESIGN CHOICE, log 53: no rule orders them). -/
def readBinding (d : Reg) (v : VReg) (full : Bool) : Except Nat Binding :=
  let g (i : Nat) : Word := elem 64 v i
  let c := g 2
  let mf := bitsN c 0 4
  let sc := bitB c 4
  if 12 < mf || bitsN c 5 3 != 0 || bitsN c 12 52 != 0 then .error 1
  else if sc && decide (bitsN c 8 3 < 3) then .error 2
  else if full then .error 3
  else if (g 0).toNat % codeBytes mf != 0 || (g 1).toNat % codeBytes mf != 0 || bitB (g 3) 0 || bitB (g 4) 0 then .error 4
  else .ok { reg := d.val, base := g 0, stride := g 1, cfg := c, sbase := g 3, sstride := g 4, count := g 5, pos := 0 }

/-- 06 R170: the record in va becomes the binding of vd, with P := 0; vd is unchanged. -/
def bodyVbind (d a : Reg) (w : Work) : M Work :=
  let others := w.s.thr.binds.filter (fun b => b.reg ≠ d.val)
  match readBinding d (w.v a.val) (decide (8 ≤ others.length)) with
  | .error n => raise w cBINDING_FAULT (BitVec.ofNat 64 n)
  | .ok b => .ok ((w.mapThr (fun t => { t with binds := others ++ [b] })).markDirty 16)

def execVbind (st : Fin 16) (c : Bool) (d a : Reg) (s : State) : Host.Outcome State Fault Refusal :=
  issue (.vbind st c d a) (bodyVbind d a) s

/-- 06 R170: removes the binding of vd. -/
def bodyVunbind (d : Reg) (w : Work) : M Work := .ok (w.unbind d.val)

def execVunbind (st : Fin 16) (c : Bool) (d : Reg) (s : State) : Host.Outcome State Fault Refusal :=
  issue (.vunbind st c d) (bodyVunbind d) s

end Sys2Proof.Machine
end

