-- ==== Sys2Proof/Machine/Copy.lean ====
section
/-! DEFINITION. Copy-engine instructions and the engines (11 R264 to R286, R429). -/

namespace Sys2Proof.Machine

/-! ### What a copy moves (11 R273 to R280) -/

/-- Parameter i, as captured. -/
def Copy.p (c : Copy) (i : Nat) : Word := c.params.getD i 0

/-- A run of bytes of a copy: its place in the order of the command's entry, where it goes, where it comes from (nowhere
for a fill and for the zeros of `cpyt`), and its length. -/
structure Seg where
  off : Nat
  dst : Word
  src : Option Word
  len : Nat
  deriving DecidableEq, Repr

/-- The tensor of `cpyt`. -/
def Copy.tensor (c : Copy) : Option Shape :=
  match shapeOf (fun i => c.shape.getD i 0) with
  | .ok s => some s
  | .error _ => none

/-- The runs of a command. -/
def Copy.segs (c : Copy) : List Seg :=
  match c.code with
  | 1 =>
    let n := (c.p 2).toNat
    (List.range (c.p 3).toNat).map (fun r =>
      { off := r * n, dst := c.p 0 + BitVec.ofNat 64 r * c.p 4, src := some (c.p 1 + BitVec.ofNat 64 r * c.p 5), len := n })
  | 2 =>
    match c.tensor with
    | none => []
    | some s =>
      let mw := codeBytes s.mfmt
      let q0 := bitsN (c.p 1) 32 31
      let lin (i : Nat) : Word := c.p 0 + BitVec.ofNat 64 (i * mw)
      if bitB (c.p 1) 63 then
        ((List.range (bitsN (c.p 1) 0 32)).filter (fun i => decide (q0 + i < s.size))).map (fun i =>
          { off := i * mw, dst := s.addr (q0 + i), src := some (lin i), len := mw })
      else
        (List.range (bitsN (c.p 1) 0 32)).map (fun i =>
          { off := i * mw, dst := lin i, src := if q0 + i < s.size then some (s.addr (q0 + i)) else none, len := mw })
  | 3 =>
    let w := codeBytes (bitsN (c.p 2) 36 4)
    (List.range (bitsN (c.p 2) 0 36)).map (fun i =>
      { off := i * w, dst := c.p 0 + BitVec.ofNat 64 (i * w), src := some (c.p 1 + BitVec.ofNat 64 (i * w)), len := w })
  | 6 => [{ off := 0, dst := c.p 0, src := none, len := (c.p 2).toNat }]
  | _ => [{ off := 0, dst := c.p 0, src := some (c.p 1), len := (c.p 2).toNat }]

/-- A run cut so that no piece crosses a 64-byte line on either side, into at most k pieces. -/
def Seg.pieces : Nat → Seg → List Seg
  | 0, _ => []
  | k + 1, s =>
    if s.len = 0 then [] else
    let room (a : Word) : Nat := 64 - a.toNat % 64
    let n := min s.len (min (room s.dst) (match s.src with | some a => room a | none => 64))
    let d := BitVec.ofNat 64 n
    { s with len := n } :: Seg.pieces k { off := s.off + n, dst := s.dst + d, src := s.src.map (fun a => a + d), len := s.len - n }

/-- The pieces of a command in order. -/
def Copy.pieces (c : Copy) : List Seg := c.segs.flatMap (fun s => s.pieces (s.len / 32 + 4))

/-- A command that moves no byte (11 R429). -/
def Copy.empty (c : Copy) : Bool :=
  c.code != 4 && ((c.code == 7 && bitsN (c.p 3) 0 4 == 0) || c.segs.all (fun s => s.len == 0))

/-! ### Places (11 R268, R269, R279, R283) -/

/-- Whether a slot runs a unit of a context. -/
def Mach.runsCtx (m : Mach) (n ctx : Nat) : Bool := (m.slot n).unit.st.runs && (m.slot n).unit.ctx == ctx

/-- Whether the issuing unit still runs in its slot. -/
def Copy.here (c : Copy) (m : Mach) : Bool :=
  let u := (m.slot c.slot).unit
  u.st.runs && u.lid == c.lid && u.unit == c.unit

def inWb (a : Nat) : Bool := decide (wbBase ≤ a) && decide (a < wbBase + 0x40000)

/-- The byte of a local address at the issuing core (11 R268 checks 3 and 4). Where the issuing unit has left its slot by the completion
point, its own LSP body and its own stack are both reported with detail 3 (DESIGN CHOICE, log 58: 11 Table 11.2 gives a local check that
changed after issue no detail). -/
def Copy.ownPlace (c : Copy) (m : Mach) (dst : Bool) (a : Nat) : Except Miss Nat :=
  if inWb a then
    if !dst then .error (.flt cACCESS_VIOLATION 2)
    else if (m.core (coreOf c.slot)).owner = some c.slot ∧ c.here m then .ok (wbLoc (coreOf c.slot) (a - wbBase))
    else .error (.flt cACCESS_VIOLATION 11)
  else match localPlace m c.slot a with
    | .ok l => if a < lspBase ∨ c.here m then .ok l else .error (.flt cACCESS_VIOLATION 3)
    | .error e => .error e

/-- The byte of a local address at a target core (11 R279). -/
def Copy.targetPlace (c : Copy) (m : Mach) (core a : Nat) : Except Miss Nat :=
  if core = coreOf c.slot ∧ c.code = 7 then c.ownPlace m true a
  else if inWb a then
    match (m.core core).owner with
    | some n => if m.runsCtx n c.ctx then .ok (wbLoc core (a - wbBase)) else .error (.flt cACCESS_VIOLATION 7)
    | none => .error (.flt cACCESS_VIOLATION 7)
  else
    let o := a - lspBase
    let owner (n : Nat) : Bool := m.runsCtx n c.ctx && (decide (0xF0000 ≤ o) || (m.slot n).unit.clsp)
    if (if o < 0xF0000 then owner (2 * core) || owner (2 * core + 1) else owner (2 * core + (o - 0xF0000) / 0x8000)) then
      .ok (lspLoc core o)
    else .error (.flt cACCESS_VIOLATION 8)

/-- The other package of a `cpyx` where the side is its remote side. A `cpyx` that names this package's own number has no remote
side: both sides are local ones (DESIGN CHOICE, log 56: R283 is silent). -/
def Copy.remoteSide (c : Copy) (dst : Bool) : Option Nat :=
  let pkg := bitsN (c.p 3) 0 19
  if c.code = 5 ∧ dst = !bitB (c.p 3) 19 ∧ pkg ≠ Config.packageNumber then some pkg else none

/-- The byte of a side's address at the other package: its own page tables translate it (11 R283). -/
def Copy.remotePlace (c : Copy) (m : Mach) (pkg : Nat) (a : Word) : Except Miss Nat :=
  if inLocal a.toNat then .error (.flt cACCESS_VIOLATION 10)
  else if (bitsN (c.p 3) 20 2 = 0 ∧ m.pkg.podSize ≤ pkg) ∨ m.pkg.unreachable.contains pkg then .error (.flt cACCESS_VIOLATION 9)
  else .ok (remoteLoc pkg ((Config.remoteFrame pkg (m.context c.ctx).job (bitsN a 12 45)).toNat * 4096 + a.toNat % 4096))

/-- A place, unless it lies in a package that cannot be reached (11 Table 11.3). -/
def Mach.reached (m : Mach) (l : Nat) : Except Miss Nat :=
  if isRemote l && m.pkg.unreachable.contains (remotePkg l) then .error (.flt cACCESS_VIOLATION 9) else .ok l

/-- The byte of a side's address as the engine finds it; `core` is the target core of a broadcast or a follow-on copy. -/
def Copy.place (c : Copy) (w : Work) (dst : Bool) (core : Option Nat) (a : Word) : Except Miss (Nat × Work) :=
  match c.remoteSide dst with
  | some pkg => (c.remotePlace w.m pkg a).map (fun l => (l, w))
  | none =>
    match core with
    | some k => (c.targetPlace w.m k a.toNat).map (fun l => (l, w))
    | none =>
      if inLocal a.toNat then (c.ownPlace w.m dst a.toNat).map (fun l => (l, w))
      else do
        let (l, w) ← walkPlace w 384 (w.m.context c.ctx).spt c.sup a.toNat (if dst then 1 else 0)
        (w.m.reached l).map (fun l => (l, w))

/-- The bytes of a piece's side: of each byte where the side is column-oriented (11 R273; 06 R149). -/
def Copy.places (c : Copy) (w : Work) (dst : Bool) (core : Option Nat) (a : Word) (len : Nat) : Except Miss (List Nat × Work) :=
  if (if dst then c.od else c.os) then do
    let ls ← (List.range len).mapM (fun i => c.place w dst core (BitVec.ofNat 64 (colMap (a.toNat + i))))
    .ok (ls.map (fun p => p.1), w)
  else (c.place w dst core a).map (fun p => (span p.1 len, p.2))

/-- The cores that a broadcast or a follow-on copy writes to; none of them for a copy with one destination. -/
def Copy.cores (c : Copy) : List (Option Nat) :=
  let first := clusterOf c.slot * 4
  if c.code = 7 then ((List.range 4).filter (fun i => bitB (c.p 3) i)).map (fun i => some (first + i))
  else if c.code = 4 then [c.target]
  else [none]

/-- The destination bytes of a piece, in each destination. -/
def Copy.dstPlaces (c : Copy) (w : Work) (s : Seg) : List (Option Nat) → Except Miss (List Nat × Work)
  | [] => .ok ([], w)
  | k :: ks => do
    let (l, w) ← c.places w true k s.dst s.len
    let (rest, w) ← c.dstPlaces w s ks
    .ok (l ++ rest, w)

/-- The owner at core k of the resource that a destination address names: its slot, launch and unit, and for the weight buffer
the claim of the tile group (11 R279). -/
def Mach.resourceOwner (m : Mach) (k a : Nat) : Option (Nat × Nat × Nat × Nat) :=
  let who (n claim : Nat) : Nat × Nat × Nat × Nat := (n, (m.slot n).unit.lid, (m.slot n).unit.unit, claim)
  let o := a - lspBase
  if inWb a then (m.core k).owner.map (fun n => who n (m.core k).claim)
  else if o < 0xF0000 then
    ([2 * k, 2 * k + 1].find? (fun n => (m.slot n).unit.st.runs && (m.slot n).unit.clsp)).map (fun n => who n 0)
  else some (who (2 * k + (o - 0xF0000) / 0x8000) 0)

/-- The first bytes of the destination of a `cpybc` or `cpym` in each resource that it reaches: the range may run from the LSP body into
a stack, and from one stack into the other (11 R279). -/
def Copy.targetPoints (c : Copy) : List Nat :=
  let a := (c.p 0).toNat
  a :: [lspBase + 0xF0000, lspBase + 0xF8000].filter (fun x => decide (a < x) && decide (x < a + (c.p 2).toNat))

/-- The cores whose resources the engine checks: of `cpybc` all but the issuing core, of `cpym` the target (11 R279). -/
def Copy.checkedCores (c : Copy) : List Nat :=
  c.cores.filterMap (fun k => k.bind (fun k => if c.code = 7 ∧ k = coreOf c.slot then none else some k))

/-- The owners that the engine finds there. -/
def Copy.ownersNow (c : Copy) (m : Mach) : List (Option (Nat × Nat × Nat × Nat)) :=
  c.checkedCores.flatMap (fun k => c.targetPoints.map (m.resourceOwner k))

/-- The failure of a copy with a target whose owner does not run a unit of the issuing context: cause, detail and byte offset (11
R279). -/
def Copy.ownerFault (c : Copy) (m : Mach) : Option (Nat × Nat × Nat) :=
  if c.code = 4 ∧ c.target = none then some (cACCESS_VIOLATION, 7, 0) else
  c.targetPoints.findSome? (fun a => c.checkedCores.findSome? (fun k =>
    match c.targetPlace m k a with
    | .error (.flt cause d) => some (cause, d, a - (c.p 0).toNat)
    | _ => none))

/-- The destination bytes of a piece: those found before stand, whatever a shift of scratchpad ranks has made of the address since (11
R270; 06 R147); asked again is whether they can be reached, and of the LSP and the weight buffer whether they are still the unit's. -/
def Copy.dstOf (c : Copy) (w : Work) (s : Seg) (found : List Nat) : Except Miss (List Nat × Work) :=
  match found with
  | [] => c.dstPlaces w s c.cores
  | l :: _ =>
    if 2 ^ 41 ≤ l ∧ !isRemote l then (c.dstPlaces w s c.cores).map (fun p => (found, p.2))
    else (w.m.reached l).map (fun _ => (found, w))

/-- The same at the completion point: an owner that has changed since the issue point fails the copy too. -/
def Copy.ownerFaultAtC (c : Copy) (m : Mach) : Option (Nat × Nat × Nat) :=
  match c.doomed with
  | some f => some f
  | none => match c.ownerFault m with
    | some f => some f
    | none => (((c.ownersNow m).zip c.owners).findIdx? (fun p => decide (p.1 ≠ p.2))).map (fun i =>
        (cACCESS_VIOLATION, if inWb (c.p 0).toNat then 7 else 8,
         c.targetPoints.getD (i % c.targetPoints.length) (c.p 0).toNat - (c.p 0).toNat))

/-- What is known of a copy's destination: the places of each piece, the lines that the engine takes of them, and
the pieces that have none, with the reason. -/
structure Placing where
  placed : List (List Nat)
  lines : List Nat
  misses : List (Miss × Seg)
  deriving DecidableEq, Repr

/-- The destination placed piece by piece; a place once found stands. Of the lines of the other package the engine of a put takes none: it
is a get whose destination follows the rules of ownership (11 R283). -/
def Copy.placing (c : Copy) : List (Seg × List Nat) → Work → Placing × Work
  | [], w => ({ placed := [], lines := [], misses := [] }, w)
  | (s, k) :: ss, w =>
    match c.dstOf w s k with
    | .error e =>
      let (p, w) := c.placing ss (w.noteMiss e)
      ({ p with placed := k :: p.placed, misses := (e, s) :: p.misses }, w)
    | .ok (l, w) =>
      let (p, w) := c.placing ss w
      ({ p with placed := l :: p.placed, lines := (if (c.remoteSide true).isSome then [] else (l.map lineOf).eraseDups) ++ p.lines }, w)

/-- The pieces, each with the places that were found for its destination before. -/
def Copy.placedPieces (c : Copy) : List (Seg × List Nat) := c.pieces.zipIdx.map (fun p => (p.1, c.placed.getD p.2 []))

/-! ### The end of a copy (11 R267, R270, R272, R284, R286) -/

/-- Slot n's image in shadow storage changed (15 R388). -/
def Mach.modShadow (m : Mach) (n : Nat) (f : Slot → Slot) : Mach :=
  let i := tabGet CoreImage.reset m.shadow (coreOf n)
  { m with shadow := tabSet m.shadow (coreOf n) (if n % 2 = 0 then { i with s0 := f i.s0 } else { i with s1 := f i.s1 }) }

/-- A slot that receives a copy's token in its x register, or in its copy sequencer's z register, unless that sequencer has been
cleared since (11 R267, R287; 14 R355). -/
def Slot.takeToken (s : Slot) (c : Copy) (token : Word) : Slot :=
  if c.joined then s
  else if c.bySeq then
    let cseq := { s.cseq with r := tabSet s.cseq.r c.treg token, pend := s.cseq.pend.filter (fun p => p.ident ≠ c.ident) }
    { s with cseq := cseq }
  else
    let thr := { s.thr with pend := s.thr.pend.filter (fun p => p.ident ≠ c.ident) }
    { s with regs := s.regs.setX (c.sup && decide (24 ≤ c.treg)) c.treg token, thr := thr }

/-- The unit that issued a copy, wherever it is, changed; `fl` are flags that go with a token: where only images await the
token, they go to those alone (11 R286). -/
def Mach.mapIssuer (m : Mach) (c : Copy) (fl : BitVec 5) (f : Slot → Slot) : Mach :=
  let g (s : Slot) : Slot := let s := f s; { s with ctl := { s.ctl with fflags := s.ctl.fflags ||| fl } }
  match c.home with
  | .slot n => m.setSlot n (g (m.slot n))
  | .sequencer n => m.setSlot n (g (m.slot n))
  | .shadow _ n => m.modShadow n g
  | .gone =>
    let mine (s : Slot) : Bool := s.unit.lid == c.lid && s.unit.unit == c.unit
    let held (s : Slot) : Slot := if mine s && s.unit.st != .idle then f s else s
    { m with
      slots := m.slots.map (fun p => (p.1, held p.2))
      shadow := m.shadow.map (fun p => (p.1, { p.2 with s0 := held p.2.s0, s1 := held p.2.s1 }))
      sched := { m.sched with suspended := m.sched.suspended.map (fun g => if mine g.slot then { g with slot := f g.slot } else g) } }

/-- Where an image holds the token of a copy (15 Table 15.8; log 9). -/
def Copy.tokenOffset (c : Copy) : Nat :=
  if c.bySeq then 0x890 + 8 * (c.treg - 1) else if c.sup && decide (24 ≤ c.treg) then 0x400 + 8 * (c.treg - 24) else 8 * c.treg

/-- An image that awaits a copy's token, as the engine reaches it. -/
def Copy.imageAt (c : Copy) (w : Work) (base : Word) : ImageAt :=
  { base := base, slot := c.slot, spt := (w.m.context c.ctx).spt, sup := true }

/-- The offsets of an image that the engine may write. -/
def Copy.imageOffsets (c : Copy) : List Nat := [c.tokenOffset, 0x138, 0x460]

/-- Whether a copy other than this one owns the line (11 R270). -/
def Mach.ownedByOther (m : Mach) (ident line : Nat) : Bool :=
  m.engines.any (fun e => e.2.cmds.any (fun x => x.ident != ident && x.lines.contains line))

/-- Whether an image that awaits the token cannot be written yet: its page does not translate, or its line is another copy's or
held back. The copy waits, also one that is cancelled (11 R270, R286; 03 R72; DESIGN CHOICE, log 56: no rule says what becomes of a token
that an image cannot take). -/
def Copy.imageBusy (c : Copy) (w : Work) : Bool :=
  c.images.any (fun base => c.imageOffsets.any (fun off =>
    match (c.imageAt w base).place w off 1 with
    | .error _ => true
    | .ok (l, _) => w.m.ownedByOther c.ident (lineOf l) || w.m.heldFor 384 (lineOf l)))

/-- The token, the flags and the strip signature written into an image that awaits them (11 R286). -/
def Copy.toImage (c : Copy) (token : Word) (fl : BitVec 5) (feed : Word → Word) (w : Work) (base : Word) : Work :=
  let im := c.imageAt w base
  let set (w : Work) (off : Nat) (v : Word) : Work :=
    match im.place w off 1 with
    | .ok (l, w) => w.putNoted c.lid c.unit l (leBytes 8 v.toNat)
    | .error _ => w
  let w := if c.joined then w else set w c.tokenOffset token
  let w := if fl = 0 then w else set w 0x138 (im.word w 0x138 ||| fl.setWidth 64)
  if c.home = .gone then set w 0x460 (feed (im.word w 0x460)) else w

/-- A copy leaves its engine with a token value; `addr` is the failing address. Failed copies are listed in the order in which they
end, and the first of the list is the first such copy of 11 R284 (DESIGN CHOICE, log 56: the rule does not say whether the order
of issue or of completion counts). -/
def Work.endCopy (w : Work) (c : Copy) (token : Word) (addr : Word) (fl : BitVec 5) : Work :=
  let m := { w.m with engines := w.m.engines.map (fun (e : Nat × Engine) => (e.1, { cmds := e.2.cmds.filter (fun x => x.ident ≠ c.ident) })) }
  let dst : Word := (c.segs.head?.map (fun s => s.dst)).getD (c.p 0)
  let feed (s : Word) : Word := crcBytes s (leBytes 8 dst.toNat ++ leBytes 1 c.code ++ leBytes 8 token.toNat)
  let bad : FailedCopy := { seq := c.bySeq, sup := c.sup && decide (24 ≤ c.treg), reg := c.treg, pc := c.pc, addr := addr, token := token, overwritten := c.joined }
  let m := m.mapIssuer c fl (fun s => { s with
    thr := { s.thr with sig := feed s.thr.sig, failed := if token = 0 then s.thr.failed else s.thr.failed ++ [bad] } })
  let m := match c.home with
    | .slot n => m.setSlot n ((m.slot n).takeToken c token)
    | .sequencer n => m.setSlot n ((m.slot n).takeToken c token)
    | .shadow _ n => m.modShadow n (fun s => s.takeToken c token)
    | .gone => m
  let w := c.images.foldl (c.toImage token fl feed) { w with m := m }
  { w with m := w.m.reap }

/-- The core and line number of a weight-buffer line; none for any other line. -/
def wbLineOf (line : Nat) : Option (Nat × Nat) :=
  let l := line * 64
  if 2 ^ 42 ≤ l ∧ l < 2 ^ 43 then some ((l - 2 ^ 42) / 2 ^ 18, (l - 2 ^ 42) % 2 ^ 18 / 64) else none

/-- The marks of a failed copy's weight-buffer lines, while their tile group exists (10 R244; 11 R272, R282). Where the group was released
and claimed anew between the copy's issue and its completion point, the new group's lines are marked (DESIGN CHOICE, log 58: 11 R282 says
"while their tile group still exists" and does not speak of another claim). -/
def Mach.markLines (m : Mach) (lines : List Nat) : Mach :=
  lines.foldl (fun m l => match wbLineOf l with
    | some (k, i) =>
      let c := m.core k
      if c.owner.isSome && !c.marks.contains i then m.setCore k { c with marks := insertLine i c.marks } else m
    | none => m) m

/-- The lines of a failed copy told to those who wait for a line that a copy owns (09 R227). -/
def Mach.tellLost (m : Mach) (lines : List Nat) : Mach :=
  let more (op : TileOp) : TileOp := { op with src := { op.src with lost := op.src.lost ++ lines } }
  let queued (f : InFlight) : InFlight := if f.info.tile then { f with lost := f.lost ++ lines } else f
  { m with
    slots := m.slots.map (fun p => (p.1, { p.2 with
      thr := { p.2.thr with window := p.2.thr.window.map queued }
      unit := if p.2.unit.waiting = some .ownedLine ∨ p.2.tileHeld.isSome then { p.2.unit with lost := p.2.unit.lost ++ lines } else p.2.unit }))
    cores := m.cores.map (fun p => (p.1, { p.2 with tileOps := p.2.tileOps.map more })) }

/-- Whether any byte of the destination is an Almanac address, which its translation alone decides (13 R314, R319). -/
def Copy.almanacDst (c : Copy) (w : Work) : Bool :=
  c.code != 4 && c.code != 7 && (c.remoteSide true).isNone &&
  c.placedPieces.any (fun s =>
    if s.2 != [] then s.2.any w.m.almanac
    else !inLocal s.1.dst.toNat && (match w.translated (w.m.context c.ctx).spt s.1.dst.toNat with
      | some l => (span l s.1.len).any w.m.almanac
      | none => false))

/-- A copy that fails: the lines that it owns keep their contents and take the mark of 10 R244, those who wait for a line of it
learn of the failure (11 R272; 09 R227); a record that it belongs to notes it (13 R319). -/
def Work.failCopy (w : Work) (c : Copy) (cause detail off : Nat) (addr : Word) : Work :=
  let token : Word := BitVec.ofNat 64 (cause + 256 * detail + 65536 * off)
  let alm := c.almanacDst w
  let m := (w.m.markLines c.lines).tellLost (c.lines ++ c.wants)
  let m := if alm then m.mapIssuer c 0 (fun s => { s with
    unit := { s.unit with record := s.unit.record.map (fun r => { r with cerr := true }) } }) else m
  ({ w with m := m }).endCopy c token addr 0

/-! ### Evaluation at the completion point (11 R269 to R276) -/

/-- Why a copy does not complete: it fails at a byte, it needs a page, or it must still wait; with the work that the reads before that
leave. -/
inductive CopyStop where
  | fail (w : Work) (off cause detail : Nat) (addr : Word)
  | ask (w : Work) (off : Nat) (addr : Word) (acc : Nat)
  | hold
  | stop (f : Fault)
  deriving DecidableEq, Repr

/-- A miss of a side at a byte offset: a missing page is asked for (11 R269). A Vault-window byte beyond the scratchpad size, which
has shrunk since issue, is reported as ACCESS_VIOLATION detail 2 (DESIGN CHOICE, log 56: Table 11.2 lists a local check that changed
after issue under ACCESS_VIOLATION and gives it no detail). -/
def Copy.miss (w : Work) (off : Nat) (a : Word) (acc : Nat) (e : Miss) : CopyStop :=
  let flt (cause d : Nat) : CopyStop :=
    if cause = cPAGE_FAULT ∧ d = 0 then .ask (w.noteMiss e) off a acc
    else if cause = cVAULT_RANGE then .fail w off cACCESS_VIOLATION 2 a
    else .fail (w.noteMiss e) off cause d a
  match e with
  | .flt cause d => flt cause d
  | .walk cause d _ => flt cause d
  | .hold _ => .hold
  | .lost _ => flt cACCESS_VIOLATION 9
  | .stop f => .stop f

/-- Whether a copy that reached its issue point earlier has destination bytes without a place: which lines it will own is not
known yet, so a later copy does not complete before it (11 R271). -/
def Mach.unplacedBefore (m : Mach) (c : Copy) : Bool :=
  m.engines.any (fun e => e.2.cmds.any (fun x => decide (x.ident < c.ident) && x.unplaced && !x.failedReq && !x.cancelled))

/-- The bytes that a piece writes, with flags (11 R273 to R277). -/
def Copy.data (c : Copy) (w : Work) (s : Seg) (src : List Byte) (dst : List Nat) : List Byte × BitVec 5 :=
  if c.code = 3 then
    let f := bitsN (c.p 2) 36 4
    let x := leNat (dst.map w.byte)
    let y := leNat src
    match fmtOf f with
    | some g =>
      let r := fAdd g c.rm.toNat (fDecode g x) (fDecode g y)
      (leBytes s.len r.1, r.2)
    | none => (leBytes s.len (x + y), 0)
  else if s.src.isSome then (src, 0)
  else if c.code = 6 then ((List.range s.len).map (fun i => BitVec.ofNat 8 (bitsN (c.p 1) (8 * ((s.off + i) % 8)) 8)), 0)
  else (List.replicate s.len 0, 0)

/-- A source byte of the copy: as it was read ahead of the completion point, else as it stands now (11 R270). -/
def Copy.byteAt (c : Copy) (w : Work) (loc : Nat) : Byte := ((c.early.find? (fun e => e.1 = loc)).map (fun e => e.2)).getD (w.byte loc)

/-- What the pieces write, in order: place, virtual address and byte; every byte is read before any is written. A destination byte of
`cpyr` is read too, and one with an uncorrectable error ends the copy as a source byte does (DESIGN CHOICE, log 56: Table 11.2
names a source line alone). -/
def Copy.run (c : Copy) : List (Seg × List Nat) → Work → Except CopyStop (List (Nat × Word × Byte) × BitVec 5 × Work)
  | [], w => .ok ([], 0, w)
  | (s, k) :: ss, w => do
    let (src, w) ← match s.src with
      | none => .ok ([], w)
      | some a =>
        match c.places w false none a s.len with
        | .error e => .error (Copy.miss w s.off a 0 e)
        | .ok (l, w) =>
          if l.any (fun x => w.m.ownedBefore c.ident (lineOf x)) then .error .hold
          else match l.findIdx? w.m.poisoned with
            | some i => .error (.fail ((l.take i).foldl (fun w x => w.scrub x) (w.countBad l)) (s.off + i) cMEMORY_POISON 0 (a + BitVec.ofNat 64 i))
            | none => .ok (l.map (c.byteAt w), l.foldl (fun w x => w.scrub x) w)
    match c.dstOf w s k with
    | .error e => .error (Copy.miss w s.off s.dst 1 e)
    | .ok (l, w) =>
      match if c.code = 3 then l.findIdx? w.m.poisoned else none with
      | some i => .error (.fail (w.countBad l) (s.off + i) cMEMORY_POISON 0 (s.dst + BitVec.ofNat 64 i))
      | none =>
        let w := if c.code = 3 then l.foldl (fun w x => w.scrub x) w else w
        let (data, fl) := c.data w s src l
        let (rest, fl', w) ← c.run ss w
        .ok (((List.range l.length).map (fun i =>
          (l.getD i 0, s.dst + BitVec.ofNat 64 (i % s.len), data.getD (i % s.len) 0))) ++ rest, fl ||| fl', w)

/-- What the writes of a successful copy leave: the tile groups touched, the marks and the poison of lines written whole
cleared, the Almanac writes noted (09 R214; 10 R244; 12 R313; 13 R317, R319). -/
def Work.landCopy (w : Work) (c : Copy) (ws : List (Nat × Word × Byte)) : Work :=
  let w := if ws.any (fun x => w.m.almanac x.1) then w.noteBytes c.lid c.unit true (ws.map (fun x => (x.1, x.2.2))) else w
  let w1 := ws.foldl (fun w x => w.putByte x.1 x.2.2) w
  let whole (line : Nat) : Bool := decide (64 ≤ ((ws.map (fun x => x.1)).eraseDups.filter (fun l => lineOf l == line)).length)
  let lines := (ws.map (fun x => lineOf x.1)).eraseDups
  let wb := lines.filterMap (fun l => (wbLineOf l).map (fun k => (k, l)))
  let m := wb.foldl (fun m k =>
    let core := m.core k.1.1
    m.setCore k.1.1 ({ core with marks := if core.marks.contains k.1.2 && whole k.2 then core.marks.filter (fun i => i ≠ k.1.2)
                                          else core.marks }).touched) w1.m
  let m := ((m.pkg.poison.map (fun p => p.1)).filter (fun l => lines.contains l && whole l)).foldl (fun m l => m.clearPoison l) m
  let alm := ws.filter (fun x => w.m.almanac x.1)
  let m := if alm = [] then m else m.mapIssuer c 0 (fun s => { s with
    unit := alm.foldl (fun u x => u.noteAlmanac x.2.1.toNat x.1) s.unit })
  { w1 with m := m }

/-- The follow-on command of a `cpym`: none where its queue is full, else the failure or the machine with the command
queued (11 R282). -/
def Copy.enqueue (c : Copy) (m : Mach) : Option (Except (Nat × Nat) Mach) :=
  match c.target with
  | none => some (.error (cACCESS_VIOLATION, 7))
  | some k =>
    let core := m.core k
    match core.owner with
    | none => some (.error (cTILE_DISABLED, 4))
    | some n =>
      if 32 ≤ core.queue.length then none
      else some (.ok (m.setCore k { core with queue := core.queue ++ [{
        word := c.word, opa := c.opa, opb := c.opb, ksteps := kstepsOfWord (m.formatNow k).nsel (m.slot n).ctl.slc.toNat c.word }] }))

/-- The order of copies in Calendar mode: by the identity of their issuing instruction (16 R402). -/
def Mach.copyKey (m : Mach) (c : Copy) : List Nat := [m.jseqOf c.lid, c.unit, c.seqNo, c.ident]

def Mach.copyCalendar (m : Mach) (c : Copy) : Bool := bitB (m.job (m.context c.ctx).job).calmode 0

/-- A put over Ethernet, with its destination (17 R417). -/
def Copy.putTo (c : Copy) : Option Nat := if bitsN (c.p 3) 20 2 = 1 then c.remoteSide true else none

/-- Whether a put must let another go first: in Calendar mode puts at one destination are performed in identity order (17 R417; 16 Table
16.7). -/
def Mach.putBefore (m : Mach) (c : Copy) : Bool :=
  c.putTo.isSome && m.copyCalendar c &&
  m.engines.any (fun e => e.2.cmds.any (fun x =>
    x.putTo == c.putTo && m.copyCalendar x && decide (m.copyKey x < m.copyKey c)))

/-- A copy that has failed leaves its engine, once the images that await its token can take it. -/
def Work.failNow (w : Work) (c : Copy) (cause detail off : Nat) (addr : Word) : M Work :=
  if c.imageBusy w then .error (.wait .copyEngine) else .ok (w.failCopy c cause detail off addr)

/-- Whether an accepted copy must still wait for its completion point: for an earlier copy with a line of its own, or whose lines
are not all known, for a put before it, or for an image (11 R271, R286; 17 R417). -/
def Copy.waits (c : Copy) (w : Work) : Bool :=
  w.m.unplacedBefore c || c.lines.any (fun l => w.m.ownedBefore c.ident l) || w.m.putBefore c || c.imageBusy w

/-- 11 R270, R279, R282, R285: a copy reaches its completion point. Where both an owner fault and a failure of a source hold there,
the token names the owner fault (DESIGN CHOICE, log 56: no rule orders them). -/
def completeCopy (cluster ident : Nat) (w : Work) : M Work :=
  match (w.m.engine cluster).cmds.find? (fun c => c.ident = ident) with
  | none => .ok w
  | some c =>
    if c.cancelled then w.failNow c cCANCELLED 0 0 (c.p 0)
    else if c.failedReq then w.failNow c cPAGE_FAULT 0x7F c.asked.1 c.asked.2
    else if !c.accepted || c.request.isSome then .error (.wait .copyEngine)
    else match c.ownerFaultAtC w.m with
    | some (cause, d, off) => w.failNow c cause d off (c.p 0 + BitVec.ofNat 64 off)
    | none =>
      if c.waits w then .error (.wait .copyEngine)
      else match c.run c.placedPieces w with
      | .error (.fail w off cause d a) => .ok (w.failCopy c cause d off a)
      | .error (.ask w off a acc) =>
        let (num, m) := w.m.postRequest c.ctx c.lid c.unit none (some c.ident) (some c.treg) a cPAGE_FAULT acc
        .ok { w with m := m.mapCopies (fun x => if x.ident = c.ident then { x with request := some num, asked := (off, a) } else x) }
      | .error .hold => .error (.wait .copyEngine)
      | .error (.stop f) => .error (.fault f)
      | .ok (ws, fl, w) =>
        if c.code ≠ 4 then .ok ((w.landCopy c ws).endCopy c 0 0 fl)
        else match c.enqueue w.m with
          | none => .error (.wait .copyEngine)
          | some (.error (cause, d)) => .ok (w.failCopy c cause d 0 (c.p 0))
          | some (.ok m) => .ok ((({ w with m := m }).landCopy c ws).endCopy c 0 0 0)

/-! ### The issue point (11 R264, R270, R281) -/

/-- The load of a core: queued k-steps and those of follow-on commands on their way to it (11 R281). -/
def Mach.loadOf (m : Mach) (cluster core : Nat) : Nat :=
  kstepsOf (m.core core) +
    ((m.engine cluster).cmds.filter (fun c => c.code == 4 && c.target == some core)).foldl (fun a c => a + c.ksteps) 0

/-- The target core of a `cpym`, chosen at its issue point; parameters 4 and 5 hold TGT and the number of earlier commands
with TGT 4 (11 R281). -/
def Copy.choose (c : Copy) (m : Mach) : Option Nat :=
  let cluster := clusterOf c.slot
  let cores := (List.range 4).map (fun i => 4 * cluster + i)
  let tgt := (c.p 4).toNat
  if tgt < 4 then some (4 * cluster + tgt)
  else
    let cand := cores.filter (fun k => match (m.core k).owner with
      | some n => m.runsCtx n c.ctx
      | none => false)
    if bitB (m.job (m.context c.ctx).job).calmode 0 then
      (if cand = [] then none else cand[(c.unit + (c.p 5).toNat) % cand.length]?)
    else cand.foldl (fun best k => match best with
      | none => some k
      | some b => if m.loadOf cluster k < m.loadOf cluster b then some k else some b) none

/-- Whether an operation that the tile unit of a core accepted before a copy was issued has still to read, or to write, the
weight-buffer line (10 R245). -/
def Work.tileReads (w : Work) (ident line : Nat) : Bool :=
  match wbLineOf line with
  | none => false
  | some (k, i) =>
    let l := w.m.tileOrder k
    l.zipIdx.any (fun p =>
      let b := p.1.opb.toNat
      let before := l.take p.2
      let open_ := w.m.ownedBefore p.1.since (lineOf (wbLoc k b)) || w.m.ownedBefore p.1.since (lineOf (wbLoc k b) + 1) ||
        before.any (fun q => match q.instr with | .wbld _ _ _ => true | _ => false)
      decide (p.1.since ≤ ident) && decide (b < 64 * i + 64) &&
      decide (64 * i < b + w.weightSpan k ((w.m.core k).format.past before) open_ p.1.instr b))

/-- What the engine fixes once, at the issue point I: the target of a `cpym` and its k-steps, the owners of the resources that the
destination names and the failure that the check of them finds (09 R242; 11 R279, R281, R429). -/
def Copy.atIssue (c : Copy) (m : Mach) : Copy :=
  let c := if c.code = 4 then { c with target := c.choose m } else c
  let ks := match c.target with
    | some k => match (m.core k).owner with
      | some n => kstepsOfWord (m.formatNow k).nsel (m.slot n).ctl.slc.toNat c.word
      | none => 0
    | none => 0
  { c with ksteps := ks, owners := c.ownersNow m, doomed := c.ownerFault m }

/-- The known lines of a copy that it can take now: no earlier copy claims the line, no linked read holds it back, and no earlier
tile operation has still to read it (03 R72; 10 R245; 11 R271). -/
def Work.takes (w : Work) (ident line : Nat) : Bool :=
  !w.m.ownedBefore ident line && !w.m.heldFor 384 line && !w.tileReads ident line

/-- A command at its issue point, or tried again: the token at once where it moves no byte. A destination byte whose walk fails with
a detail other than 0 ends the copy. One whose check of the target's owner has failed here takes no line, and so sets no mark when it ends
(DESIGN CHOICE, log 58: 10 R244 marks the lines that a copy owns, and no rule says whether it owns any then). Else it takes those of its destination lines that it can, and every link on them goes; the
engine has accepted it once it owns every line and no byte is without a place. The first missing page is asked for (03 R71, R72; 11
R264, R269 to R271, R279, R429). -/
def claimCopy (c : Copy) (w : Work) : M Work :=
  if c.empty then .ok (w.endCopy c 0 0 0)
  else
    let put (w : Work) (new : Copy) (got : List Nat) : Work :=
      { w with m := (w.m.mapCopies (fun x => if x.ident = c.ident then new else x)).breakLinks got.contains }
    if c.doomed.isSome then .ok (put w { c with accepted := true } [])
    else
      let (p, w) := c.placing c.placedPieces w
      let stops := p.misses.map (fun e => Copy.miss w e.2.off e.2.dst 1 e.1)
      match stops.findSome? (fun x => match x with | .fail _ off cause d a => some (off, cause, d, a) | _ => none) with
      | some (off, cause, d, a) => w.failNow c cause d off a
      | none =>
        match stops.findSome? (fun x => match x with | .stop f => some f | _ => none) with
        | some f => .error (.fault f)
        | none =>
          let todo := p.lines.eraseDups.filter (fun l => !c.lines.contains l)
          let got := todo.filter (w.takes c.ident)
          let wants := todo.filter (fun l => !w.takes c.ident l)
          let new : Copy := { c with
            placed := p.placed, lines := c.lines ++ got, wants := wants, unplaced := !stops.isEmpty
            accepted := stops.isEmpty && wants.isEmpty }
          match stops.findSome? (fun x => match x with | .ask _ off a acc => some (off, a, acc) | _ => none) with
          | some (off, a, acc) =>
            let (num, m) := w.m.postRequest c.ctx c.lid c.unit none (some c.ident) (some c.treg) a cPAGE_FAULT acc
            .ok (put { w with m := m } { new with request := some num, asked := (off, a) } got)
          | none => .ok (put w new got)

/-- Whether trying a command again has changed nothing. -/
def Copy.stuck (c : Copy) (m : Mach) : Bool :=
  (m.engine (clusterOf c.slot)).cmds.any (fun x => x.ident == c.ident && !x.accepted && x.request.isNone &&
    x.lines.length == c.lines.length && x.placed == c.placed)

/-- The commands tried in order, until one takes a line, is accepted, ends or posts a page request. -/
def acceptFirst : List Copy → Work → M Work
  | [], _ => .error (.wait .copyEngine)
  | c :: cs, w =>
    match claimCopy c w with
    | .error (.wait _) => acceptFirst cs w
    | .error e => .error e
    | .ok w1 => if c.stuck w1.m then acceptFirst cs w else .ok w1

/-- Commands in the order in which the engine tries them: as it received them; in Calendar mode by identity (16 R402). -/
def Mach.inOrder (m : Mach) (l : List Copy) : List Copy :=
  let put (l : List Copy) (c : Copy) : List Copy :=
    l.takeWhile (fun x => !decide (m.copyKey c < m.copyKey x)) ++ c :: l.dropWhile (fun x => !decide (m.copyKey c < m.copyKey x))
  if l.all m.copyCalendar then l.foldl put [] else l

/-- 11 R264: the engine accepts the first of its commands that can own its destination lines. -/
def acceptCopy (cluster : Nat) (w : Work) : M Work :=
  acceptFirst (w.m.inOrder ((w.m.engine cluster).cmds.filter (fun c => !c.accepted && !c.cancelled && !c.failedReq && c.request.isNone))) w

/-- 11 R264: the engine accepts its next command. -/
def bodyCopyEngineAccept (cluster : Nat) (w : Work) : M Work :=  acceptCopy cluster w

def execCopyEngineAccept (cluster : Nat) (s : State) : Host.Outcome State Fault Refusal :=
  event (bodyCopyEngineAccept cluster) s

/-- 11 R270: the copy reaches its completion point. -/
def bodyCopyCompletion (cluster ident : Nat) (w : Work) : M Work :=  completeCopy cluster ident w

def execCopyCompletion (cluster ident : Nat) (s : State) : Host.Outcome State Fault Refusal :=
  event (bodyCopyCompletion cluster ident) s

/-! ### Issue (11 R265 to R268, R280) -/

/-- What an instruction gives a copy: the command, its parameter values, the orientations, and the words of vB. -/
structure CopyIn where
  code : Nat
  params : List Word
  od : Bool
  os : Bool
  shape : List Word
  deriving DecidableEq, Repr

/-- The addresses at which the places of a range can change, lowest first: its first byte, each region boundary in the
local region, and the ends of that region. -/
def rangePoints (a : Word) (n : Nat) : List Nat :=
  if n = 0 then [] else
  let x := a.toNat
  let first := (max x localBase) / 0x8000 + 1
  let last := (min (x + n) (2 ^ 57 + 1) - 1) / 0x8000
  x :: (if x < localBase ∧ localBase < x + n then [localBase] else []) ++
    ((List.range (last + 1 - first)).map (fun i => (first + i) * 0x8000)).filter (fun p => decide (p < x + n))

/-- The lowest of the failing addresses. -/
def lowest {α : Type} : List (Nat × α) → Option (Nat × α)
  | [] => none
  | x :: xs => match lowest xs with
    | some y => if y.1 < x.1 then some y else some x
    | none => some x

/-- The window that holds the destination of a broadcast or a follow-on copy whole (11 R278, R280). -/
def windowFits (a : Word) (n : Nat) : Bool :=
  let x := a.toNat
  (decide (lspBase ≤ x) && decide (x < 2 ^ 57) && decide (x + n ≤ 2 ^ 57)) ||
  (inWb x && decide (x + n ≤ wbBase + 0x40000))

/-- Check 1 of R268 on the parameter registers: the detail of SHAPE_INVALID (11 R273 to R283). -/
def Copy.malformed (c : Copy) : Option Nat :=
  let bad (b : Bool) : Option Nat := if b then some 9 else none
  let wide (i n : Nat) : Bool := decide (2 ^ n ≤ (c.p i).toNat)
  match c.code with
  | 0 => bad (wide 2 40)
  | 1 => bad (wide 2 32 || wide 3 32)
  | 2 => match shapeOf (fun i => c.shape.getD i 0) with
    | .error d => some d
    | .ok _ => none
  | 3 =>
    let f := bitsN (c.p 2) 36 4
    bad (!([2, 3, 6, 7, 8, 9, 10, 11].contains f) || decide (5 < bitsN (c.p 2) 40 3) || bitsN (c.p 2) 43 21 != 0)
  | 4 => bad (wide 2 32 || !windowFits (c.p 0) (c.p 2).toNat)
  | 5 =>
    let get := bitB (c.p 3) 19
    bad (wide 2 40 || decide (2 ≤ bitsN (c.p 3) 20 2) || bitsN (c.p 3) 22 42 != 0 || (if get then c.os else c.od))
  | 6 => bad (wide 2 40)
  | _ => bad (bitsN (c.p 3) 4 60 != 0 || !windowFits (c.p 0) (c.p 2).toNat)

/-- Check 2 of R268: the lowest misaligned address. -/
def Copy.misaligned (c : Copy) : Option Word :=
  if c.code = 3 then
    let w := codeBytes (bitsN (c.p 2) 36 4)
    let bad := [c.p 0, c.p 1].filter (fun a => a.toNat % w ≠ 0)
    (lowest (bad.map (fun a => (a.toNat, a)))).map (fun p => p.2)
  else if c.code = 4 ∧ (c.p 3).toNat % 32 ≠ 0 then some (c.p 3)
  else none

/-- Whether the checks 3 to 5 apply to the destination at issue: not to another core's, nor to another package's. -/
def Copy.checksDst (c : Copy) : Bool :=
  if c.code = 4 then (c.p 4).toNat == coreOf c.slot % 4
  else if c.code = 7 then bitB (c.p 3) (coreOf c.slot % 4)
  else (c.remoteSide true).isNone

/-- Whether check 5 applies to the destination at issue: to every local one, in whatever core of the cluster (06 R150). -/
def Copy.orientsDst (c : Copy) : Bool := c.code = 4 || c.code = 7 || (c.remoteSide true).isNone

/-- The points of both sides that the checks 3 to 5 look at: whether of the destination, and the address. -/
def Copy.points (c : Copy) (dst : Bool) : List (Bool × Nat) :=
  c.segs.flatMap (fun s =>
    (if dst then (rangePoints s.dst s.len).map (fun a => (true, a)) else []) ++
    (match s.src with
     | some a => if (c.remoteSide false).isNone then (rangePoints a s.len).map (fun x => (false, x)) else []
     | none => []))

/-- The checks 3 to 5 of R268: cause, detail and the lowest failing address. -/
def Copy.localFault (c : Copy) (m : Mach) : Option (Nat × Nat × Nat) :=
  let pts := c.points c.checksDst
  let sides := c.points c.orientsDst
  let errs := pts.filterMap (fun p => if inLocal p.2 then
    (match c.ownPlace m p.1 p.2 with
     | .error (.flt cause d) => some (p.2, cause, d)
     | _ => none) else none)
  match lowest (errs.filter (fun e => e.2.1 == cACCESS_VIOLATION)) with
  | some (a, cause, d) => some (cause, d, a)
  | none => match lowest (errs.filter (fun e => e.2.1 == cVAULT_RANGE)) with
    | some (a, cause, d) => some (cause, d, a)
    | none =>
      (lowest ((sides.filter (fun p => (if p.1 then c.od else c.os) && (!inLocal p.2 || inWb p.2))).map (fun p => (p.2, ())))).map
        (fun p => (cORIENTATION_INVALID, 0, p.1))

/-- The command descriptor of a `cpym`: WORD, TGT, OPA, OPB; none where a reserved code or bit is set (11 Table 11.4). -/
def readDescriptor (l : List Byte) : Option (Nat × Nat × Word × Word) :=
  let g (i : Nat) : Nat := leNat ((l.drop (8 * i)).take 8)
  if g 0 / 2 ^ 35 ≠ 0 ∨ 4 < g 0 / 2 ^ 32 % 8 ∨ g 3 ≠ 0 then none
  else some (g 0 % 2 ^ 32, g 0 / 2 ^ 32 % 8, BitVec.ofNat 64 (g 1), BitVec.ofNat 64 (g 2))

/-- A copy command as the running slot issues it. -/
def Work.newCopy (w : Work) (i : CopyIn) (sup : Bool) (treg : Nat) (seq : Bool) : Copy :=
  let u := w.s.unit
  let rm : BitVec 3 := if i.code = 3 then
      (let r := bitsN (i.params.getD 2 0) 40 3; if r = 5 then w.s.ctl.rm else BitVec.ofNat 3 r) else 0
  { ident := w.m.pkg.nextCopy, seqNo := w.s.thr.iseq.toNat, code := i.code, params := i.params, shape := i.shape, od := i.od, os := i.os, rm := rm,
    word := 0, opa := 0, opb := 0, slot := w.m.cur, ctx := u.ctx, lid := u.lid, unit := u.unit, pc := keepBits w.s.regs.pc 0 57,
    sup := sup, treg := treg, home := if seq then .sequencer w.m.cur else .slot w.m.cur, bySeq := seq, images := [],
    accepted := false, lines := [], wants := [], placed := [], early := [], target := none, ksteps := 0, cancelled := false, request := none, failedReq := false,
    unplaced := false, asked := (0, 0), owners := [], doomed := none, joined := false }

/-- The checks of R268 and the descriptor read, at the level of the copy: the command that is ready to go to the engine (11 R280;
log 45). The TGT of a `cpym` is looked at ahead of the checks 3 to 5, which of the destination concern the issuing core alone; where the
descriptor cannot be read, or is malformed, they leave the destination out (DESIGN CHOICE, log 58: 11 R268 reads the descriptor in check
6, and R280 places the destination in the core that it names). -/
def Work.checkCopy (w : Work) (c : Copy) : M (Copy × Work) := do
  match c.malformed with
  | some d => raise w cSHAPE_INVALID (BitVec.ofNat 64 d)
  | none => .ok ()
  match c.misaligned with
  | some a => raise w cMISALIGNED (keepBits a 0 57)
  | none => .ok ()
  let desc : M (Option (Nat × Nat × Word × Word) × Work) :=
    if c.code = 4 then (w.loadRunAs c.sup (c.p 3) 32).map (fun p => (readDescriptor p.1, p.2)) else .ok (none, w)
  let c1 : Copy := match desc with
    | .ok (some (word, tgt, opa, opb), _) =>
      { c with word := word, opa := opa, opb := opb, params := c.params.take 4 ++ [BitVec.ofNat 64 tgt, BitVec.ofNat 64 w.s.unit.cpyms] }
    | _ => { c with params := if c.code = 4 then c.params.take 4 ++ [7] else c.params }
  match c1.localFault w.m with
  | some (cause, d, a) => raise w cause (elemVal cause d (BitVec.ofNat 64 a))
  | none => .ok ()
  let (ok, w) ← desc
  if c.code = 4 && ok.isNone then raise w cSHAPE_INVALID 9
  else if 64 ≤ (w.m.engine (clusterOf w.m.cur)).cmds.length then .error (.wait .copyEngine)
  else .ok (c1, w)

/-- The command handed to the engine; TGT 4 commands of the unit are counted (11 R264, R281). -/
def Work.toEngine (w : Work) (c : Copy) : Work :=
  let k := clusterOf w.m.cur
  let m := w.m.setEngine k { cmds := (w.m.engine k).cmds ++ [c] }
  let w := { w with m := { m with pkg := { m.pkg with nextCopy := m.pkg.nextCopy + 1 } } }
  if c.code = 4 ∧ (c.p 4).toNat = 4 then w.mapUnit (fun u => { u with cpyms := u.cpyms + 1 }) else w

/-- A copy instruction of the control thread (11 R265 to R268): xd := the pending mark; the command reaches its issue point as it
leaves the slot. -/
def Work.issueCopy (w : Work) (d : Reg) (i : CopyIn) : M Work := do
  w.performed
  let sup := w.s.regs.level == .supervisor
  let (c, w) ← w.checkCopy (w.newCopy i sup d.val false)
  let c := c.atIssue w.m
  let w := (w.toEngine c).setX d.val 0xFFFFFFFFFFFFFFFF
  claimCopy c (w.mapThr (fun t => { t with pend := t.pend ++ [{ sup := inBank w.s.regs.level d.val, reg := d.val, ident := c.ident }] }))

/-- The values of n registers from xA up. -/
def Work.paramBlock (w : Work) (a : Reg) (n : Nat) : List Word := (List.range n).map (fun i => w.x (a.val + i))

/-- 11 R273: a linear copy of p2 bytes. -/
def bodyCpy (d a : Reg) (u t : Bool) (w : Work) : M Work :=
  w.issueCopy d { code := 0, params := w.paramBlock a 3, od := u, os := t, shape := [] }

def execCpy (st : Fin 16) (d a : Reg) (u t : Bool) (s : State) : Host.Outcome State Fault Refusal :=
  issue (.cpy st d a u t) (bodyCpy d a u t) s

/-- 11 R274: p3 rows of p2 bytes. -/
def bodyCpy2 (d a : Reg) (u t : Bool) (w : Work) : M Work :=
  w.issueCopy d { code := 1, params := w.paramBlock a 6, od := u, os := t, shape := [] }

def execCpy2 (st : Fin 16) (d a : Reg) (u t : Bool) (s : State) : Host.Outcome State Fault Refusal :=
  issue (.cpy2 st d a u t) (bodyCpy2 d a u t) s

/-- 11 R275: elements between the tensor of vb and a linear array. -/
def bodyCpyt (d a b : Reg) (u t : Bool) (w : Work) : M Work :=
  w.issueCopy d { code := 2, params := w.paramBlock a 2, od := u, os := t, shape := (List.range 10).map (fun i => elem 64 (w.v b.val) i) }

def execCpyt (st : Fin 16) (d a b : Reg) (u t : Bool) (s : State) : Host.Outcome State Fault Refusal :=
  issue (.cpyt st d a b u t) (bodyCpyt d a b u t) s

/-- 11 R276: adds a source array into a destination array. -/
def bodyCpyr (d a : Reg) (u t : Bool) (w : Work) : M Work :=
  w.issueCopy d { code := 3, params := w.paramBlock a 3, od := u, os := t, shape := [] }

def execCpyr (st : Fin 16) (d a : Reg) (u t : Bool) (s : State) : Host.Outcome State Fault Refusal :=
  issue (.cpyr st d a u t) (bodyCpyr d a u t) s

/-- 11 R280: a copy to a target core, followed by a matrix command. -/
def bodyCpym (d a : Reg) (u t : Bool) (w : Work) : M Work :=
  w.issueCopy d { code := 4, params := w.paramBlock a 4, od := u, os := t, shape := [] }

def execCpym (st : Fin 16) (d a : Reg) (u t : Bool) (s : State) : Host.Outcome State Fault Refusal :=
  issue (.cpym st d a u t) (bodyCpym d a u t) s

/-- 11 R283: a copy between this package and another. -/
def bodyCpyx (d a : Reg) (u t : Bool) (w : Work) : M Work :=
  w.issueCopy d { code := 5, params := w.paramBlock a 4, od := u, os := t, shape := [] }

def execCpyx (st : Fin 16) (d a : Reg) (u t : Bool) (s : State) : Host.Outcome State Fault Refusal :=
  issue (.cpyx st d a u t) (bodyCpyx d a u t) s

/-- 11 R277: a fill with a pattern. -/
def bodyCpyfill (d a : Reg) (u : Bool) (w : Work) : M Work :=
  w.issueCopy d { code := 6, params := w.paramBlock a 3, od := u, os := false, shape := [] }

def execCpyfill (st : Fin 16) (d a : Reg) (u : Bool) (s : State) : Host.Outcome State Fault Refusal :=
  issue (.cpyfill st d a u) (bodyCpyfill d a u) s

/-- 11 R278: a broadcast to cores of the cluster. -/
def bodyCpybc (d a : Reg) (u t : Bool) (w : Work) : M Work :=
  w.issueCopy d { code := 7, params := w.paramBlock a 4, od := u, os := t, shape := [] }

def execCpybc (st : Fin 16) (d a : Reg) (u t : Bool) (s : State) : Host.Outcome State Fault Refusal :=
  issue (.cpybc st d a u t) (bodyCpybc d a u t) s

end Sys2Proof.Machine
end

