-- ==== Sys2Proof/Machine/CrossLane.lean ====
section
/-! DEFINITION. Cross-lane instructions: permute, slide, compress, expand, reduce, scan (07 R178 to R183). -/

namespace Sys2Proof.Machine

/-! ### Permute, slide, compress and expand (07 R178, R180) -/

/-- 07 R178: V[D].elem[e] := V[A].elem[V[B].elem[e]], 0 for an index at or above `vl`. -/
def bodyVperm (d a b : Reg) (w : Work) : M Work :=
  let vl := w.s.ctl.vl.toNat
  w.mapV d (fun e => plain (if w.elemV b e < vl then w.elemV a (w.elemV b e) else 0))

def execVperm (st : Fin 16) (c : Bool) (d a b : Reg) (s : State) : Host.Outcome State Fault Refusal :=
  issue (.vperm st c d a b) (bodyVperm d a b) s

/-- 07 R178: slides up by X[B]; active elements below X[B] keep their values. -/
def bodyVslu (d a b : Reg) (w : Work) : M Work :=
  let n := (w.x b.val).toNat
  .ok (w.putV d.val w.ew ((w.active.filter (fun e => decide (n ≤ e))).map (fun e => (e, w.elemV a (e - n)))))

def execVslu (st : Fin 16) (c : Bool) (d a b : Reg) (s : State) : Host.Outcome State Fault Refusal :=
  issue (.vslu st c d a b) (bodyVslu d a b) s

/-- 07 R178: slides down by X[B]; 0 comes in from `vl` on. -/
def bodyVsld (d a b : Reg) (w : Work) : M Work :=
  let n := (w.x b.val).toNat
  let vl := w.s.ctl.vl.toNat
  w.mapV d (fun e => plain (if e + n < vl then w.elemV a (e + n) else 0))

def execVsld (st : Fin 16) (c : Bool) (d a b : Reg) (s : State) : Host.Outcome State Fault Refusal :=
  issue (.vsld st c d a b) (bodyVsld d a b) s

/-- 07 R180: packs the active elements to the low positions. -/
def bodyVcompress (d a : Reg) (w : Work) : M Work :=
  .ok (w.putV d.val w.ew (w.active.zipIdx.map (fun p => (p.2, w.elemV a p.1))))

def execVcompress (st : Fin 16) (c : Bool) (d a : Reg) (s : State) : Host.Outcome State Fault Refusal :=
  issue (.vcompress st c d a) (bodyVcompress d a) s

/-- 07 R180: spreads consecutive elements to the active positions. -/
def bodyVexpand (d a : Reg) (w : Work) : M Work :=
  .ok (w.putV d.val w.ew (w.active.zipIdx.map (fun p => (p.1, w.elemV a p.2))))

def execVexpand (st : Fin 16) (c : Bool) (d a : Reg) (s : State) : Host.Outcome State Fault Refusal :=
  issue (.vexpand st c d a) (bodyVexpand d a) s

/-! ### Reductions and scans (07 R181 to R183) -/

/-- The operation of a reduction or scan on element bits (07 Table 7.3). `vscan.max` is op 1 as `vred.max` is. -/
def Work.redOp (w : Work) (flt : Bool) (op : Nat) (x y : FRes) : FRes :=
  let r : FRes :=
    if flt then
      if op = 0 then fAdd w.ffmt w.rm (fDecode w.ffmt x.1) (fDecode w.ffmt y.1)
      else fMinMax w.ffmt (op == 1) x.1 y.1
    else
      let p := intVal w.fmt x.1
      let q := intVal w.fmt y.1
      if op = 0 then plain (intBits w.ew (p + q))
      else if op = 1 then plain (intBits w.ew (max p q))
      else if op = 2 then plain (intBits w.ew (min p q))
      else if op = 3 then plain (x.1 &&& y.1)
      else plain (x.1 ||| y.1)
  (r.1, x.2 ||| y.2 ||| r.2)

/-- `fold`: an absent value contributes nothing (07 R181). -/
def foldOpt (op : FRes → FRes → FRes) : Option FRes → Option FRes → Option FRes
  | none, y => y
  | x, none => x
  | some x, some y => some (op x y)

/-- One level of the tree: neighbours combined. -/
def foldPairs (op : FRes → FRes → FRes) : List (Option FRes) → List (Option FRes)
  | x :: y :: t => foldOpt op x y :: foldPairs op t
  | l => l

/-- n levels of the tree. -/
def foldTree (op : FRes → FRes → FRes) : Nat → List (Option FRes) → List (Option FRes)
  | 0, l => l
  | n + 1, l => foldTree op n (foldPairs op l)

/-- The partial result of lane j of L: its active elements in ascending order. -/
def lanePartial (op : FRes → FRes → FRes) (elem : Nat → Nat) (es : List Nat) (lanes j : Nat) : Option FRes :=
  (es.filter (fun e => e % lanes == j)).foldl (fun p e => foldOpt op p (some (plain (elem e)))) none

/-- The lanes in use (00 R4). -/
def Work.lanes (w : Work) : Nat := if w.prot then 8 else 16

/-- A result as it goes to an x register: sign-extended for i formats, else zero-extended (07 R181). -/
def Work.extend (w : Work) (v : Nat) : Word := if w.fmt < 4 then wordOfInt (toSigned w.ew v) else BitVec.ofNat 64 v

/-- 07 R181: reduces the active elements in the lane-tree order, the initial operand last. -/
def bodyVred (d a b : Reg) (f : Bool) (p : Fin 8) (w : Work) : M Work :=
  let op := w.redOp f p.val
  let l := (List.range w.lanes).map (lanePartial op (w.elemV a) w.active w.lanes)
  let i : FRes := plain (bitsN (w.x b.val) 0 w.ew)
  let r := match (foldTree op 4 l).headD none with
    | none => i
    | some r => op i r
  .ok ((w.setX d.val (w.extend r.1)).orFlags r.2)

def execVred (st : Fin 16) (c : Bool) (d a b : Reg) (f : Bool) (p : Fin 8) (s : State) : Host.Outcome State Fault Refusal :=
  issue (.vred st c d a b f p) (bodyVred d a b f p) s

/-- The running results of a scan, in ascending element order (07 R183). -/
def scanFrom (op : FRes → FRes → FRes) (elem : Nat → Nat) : FRes → List Nat → List (Nat × FRes)
  | _, [] => []
  | s, e :: es =>
    let r := op s (plain (elem e))
    (e, r) :: scanFrom op elem r es

/-- 07 R183: the inclusive running result of the active elements. -/
def bodyVscan (d a b : Reg) (f : Bool) (p : Fin 8) (w : Work) : M Work :=
  let rs := scanFrom (w.redOp f p.val) (w.elemV a) (plain (bitsN (w.x b.val) 0 w.ew)) w.active
  .ok ((w.putV d.val w.ew (rs.map (fun r => (r.1, r.2.1)))).orFlags (flagsOf rs))

def execVscan (st : Fin 16) (c : Bool) (d a b : Reg) (f : Bool) (p : Fin 8) (s : State) : Host.Outcome State Fault Refusal :=
  issue (.vscan st c d a b f p) (bodyVscan d a b f p) s

end Sys2Proof.Machine
end

