-- ==== Sys2Proof/Machine/Csr.lean ====
section
/-! DEFINITION. Control registers: `rdc`, `wrc` and the effects of single writes (03 R81 to R87; 06 R147; 09 R214; 15 R378, R383). -/

namespace Sys2Proof.Machine

/-! ### Writes of single registers -/

/-- `wrc vl`: the VL field, clamped to VLMAX (03 R82, R83). -/
def Work.writeVl (w : Work) (v : Word) : Work := w.mapCtl (fun c => { c with vl := BitVec.ofNat 12 (min (bitsN v 0 12) w.vlmax) })

/-- `wrc vtype`: the checks and effects of `setvt` without a result (03 R82). -/
def Work.writeVtype (w : Work) (v : Word) : Work :=
  match w.putVtype v with
  | none => w
  | some (_, w') => w'

/-- `wrc fflags`: the flags of earlier vector instructions are in; the value replaces them (03 R82). -/
def Work.writeFflags (w : Work) (v : Word) : Work := w.mapCtl (fun c => { c with fflags := v.setWidth 5 })

/-- Whether the running slot is at Supervisor level. -/
def Work.sup (w : Work) : Bool := w.s.regs.level == .supervisor

/-- `wrc vstate`: VEN, the dirty bits and VMAP, at Supervisor level (15 R383). -/
def Work.writeVstate (w : Work) (v : Word) : Work :=
  if w.sup then w.mapCtl (fun c => { c with vstate := v &&& vstateBits }) else w

/-- `wrc tstate`: STATE between CLEAN and DIRTY, and NR, in the owning slot at Supervisor level (09 R213, R214). -/
def Work.writeTstate (w : Work) (v : Word) : Work :=
  let c := w.core
  if w.sup && c.owner == some w.m.cur then
    let st := bitsN v 0 2
    w.setCore { c with nr := bitB v 4, nrElt := if bitB v 4 && c.nr then c.nrElt else none, tstate := if 2 ≤ c.tstate ∧ 2 ≤ st then st else c.tstate }
  else w

/-- `wrc vhot`: the selected counter set (15 R378). -/
def Work.writeVhot (w : Work) (v : Word) : Work :=
  match vhotKey w.s.sup.vhotsel with
  | none => w
  | some k => w.setCtx { w.ctx with hot := tabSet w.ctx.hot k (bitsN v 0 32) }

/-- The ways whose codes differ. -/
def changedWays (old new : BitVec 32) : List Nat := (List.range 16).filter (fun n => wayCode old n != wayCode new n)

/-- The lines of a way. -/
def inWay (vault way loc : Nat) : Bool := decide (vaultLoc vault way 0 ≤ loc) && decide (loc < vaultLoc vault way 0 + 2 ^ 20)

/-- A way that leaves code 0b01 or enters it: its bytes are cleared and its poison marks dropped (06 R147). -/
def Work.clearWay (w : Work) (vault way : Nat) : Work :=
  let w := w.clearBytes (vaultLoc vault way 0) (2 ^ 20)
  { w with m := { w.m with pkg := { w.m.pkg with poison := w.m.pkg.poison.filter (fun p => !inWay vault way (64 * p.1)) } } }

/-- `wrc waypart` (06 R147): it waits for copies that own, or wait with, a line of a way whose code changes; ways that leave or enter the
scratchpad are cleared; a fibre-cache way that leaves takes the vault's kept fibre lines with it; the codes are installed. -/
def Work.writeWaypart (w : Work) (v : Word) : M Work :=
  let k := clusterOf w.m.cur
  let old := (w.m.vault k).waypart
  let new : BitVec 32 := v.setWidth 32
  let ways := changedWays old new
  if w.m.engines.any (fun e => e.2.cmds.any (fun c =>
      (c.lines ++ c.wants).any (fun l => ways.any (fun n => inWay k n (64 * l))))) then .error (.wait .copyEngine)
  else
    let w := (ways.filter (fun n => wayCode old n == 1 || wayCode new n == 1)).foldl (fun w n => w.clearWay k n) w
    let drop := ways.any (fun n => wayCode old n == 2)
    let vt := w.m.vault k
    .ok { w with m := w.m.setVault k { vt with waypart := new, fibreLines := if drop then [] else vt.fibreLines } }

/-! ### rdc and wrc (03 R81, R82) -/

/-- The control register that `rdc` reads. -/
def Work.readCsr (w : Work) (r : Nat) : Word := if r < 0x100 then unitCsr w.m w.m.cur r else supCsr w.m w.m.cur r

/-- A write of a unit-level control register: RO and RZ fields keep their values (03 R81 to R86). -/
def Work.writeUnitCsr (w : Work) (r : Nat) (v : Word) : Work :=
  match r with
  | 0x00 => w.writeVl v
  | 0x01 => w.writeVtype v
  | 0x02 => w.mapCtl (fun c => { c with vstart := v.setWidth 11 })
  | 0x03 => w.mapCtl (fun c => { c with vstride := v })
  | 0x04 => w.mapCtl (fun c => { c with msel := v.setWidth 3, mall := bitB v 3 })
  | 0x06 => if bitsN v 0 3 < 5 then w.mapCtl (fun c => { c with rm := v.setWidth 3 }) else w
  | 0x07 => w.writeFflags v
  | 0x08 => w.writeVstate v
  | 0x09 => w.writeTstate v
  | 0x0A => w.mapCtl (fun c => { c with chkStall := bitB v 0 })
  | 0x0B => if w.sup then w.mapCtl (fun c => { c with vwbase := vwbaseWord v }) else w
  | 0x0C => if w.sup then w.mapCtl (fun c => { c with vcursor := v }) else w
  | 0x0D => if w.sup then w.mapCtl (fun c => { c with vstripno := v.setWidth 32 }) else w
  | 0x0E => if w.sup then w.mapCtl (fun c => { c with vprog := keepBits v 3 54 }) else w
  | 0x0F =>
    if w.s.unit.ccs then w.setCore { w.core with full := w.core.full && !bitB v 16, drops := bitsN v 32 32 } else w
  | 0x10 =>
    if w.core.owner = some w.m.cur then
      w.setCore { w.core with mcqErr := w.core.mcqErr && !bitB v 16, mcqDone := bitsN v 32 32 } else w
  | 0x12 => if w.sup then w.mapCtl (fun c => { c with barseq := v &&& barseqBits }) else w
  | _ => w

/-- A write of a Supervisor control register (13 R330; 15 R362, R363, R378; 16 R393, R395, R398). -/
def Work.writeSupCsr (w : Work) (r : Nat) (v : Word) : M Work :=
  match r with
  | 0x100 => .ok (w.mapSup (fun p => { p with spp := bitB v 0, intrap := bitB v 1 }))
  | 0x101 => .ok (w.mapSup (fun p => { p with scause := keepBits v 0 10 }))
  | 0x102 => .ok (w.mapSup (fun p => { p with sepc := keepBits v 2 55 }))
  | 0x103 => .ok (w.mapSup (fun p => { p with stval := v }))
  | 0x104 => .ok (w.mapSup (fun p => { p with stvec := v &&& stvecBits }))
  | 0x105 => .ok (w.mapSup (fun p => { p with sscratch := v }))
  | 0x110 => w.writeWaypart v
  | 0x140 => .ok (w.setCtx { w.ctx with ckpctl := v.setWidth 2 })
  | 0x150 => .ok (w.setCtx { w.ctx with rpbase := keepBits v 7 50 })
  | 0x151 => .ok (w.setCtx { w.ctx with rpseq := v })
  | 0x152 => .ok (w.setCtx { w.ctx with rpgen := v.setWidth 32 })
  | 0x161 => .ok (w.mapSup (fun p => { p with vhotsel := keepBits v 0 14 }))
  | 0x162 => .ok (w.writeVhot v)
  | 0x163 => .ok (w.mapSup (fun p => { p with simg := keepBits v 12 45 }))
  | 0x164 => .ok (w.mapSup (fun p => { p with dbgctl := v &&& dbgctlBits }))
  | 0x165 => .ok (w.mapSup (fun p => { p with dbgpc := keepBits v 2 55 }))
  | 0x166 => .ok (w.mapSup (fun p => { p with trcctl := keepBits v 0 3 }))
  | 0x167 => .ok (w.mapSup (fun p => { p with
      smplctl := v &&& smplctlBits, smplTag := if bitB v 20 then p.smplTag else 0 }))
  | _ => .ok w

/-- 03 R81: the value of the control register, which all earlier instructions have left, goes to xd (02 R35). -/
def bodyRdc (d : Reg) (r : Fin 1024) (w : Work) : M Work := .ok (w.setX d.val (w.readCsr r.val))

def execRdc (st : Fin 16) (d : Reg) (r : Fin 1024) (s : State) : Host.Outcome State Fault Refusal :=
  issue (.rdc st d r) (bodyRdc d r) s

/-- 03 R81, R82: xd written to the control register. -/
def bodyWrc (d : Reg) (r : Fin 1024) (w : Work) : M Work :=
  let v := w.x d.val
  if r.val < 0x100 then .ok (w.writeUnitCsr r.val v) else w.writeSupCsr r.val v

def execWrc (st : Fin 16) (d : Reg) (r : Fin 1024) (s : State) : Host.Outcome State Fault Refusal :=
  issue (.wrc st d r) (bodyWrc d r) s

/-! ### The same writes as events of the current slot -/

/-- 03 R82: clamps the value to VLMAX. -/
def bodyWriteVl (value : Word) (w : Work) : M Work := .ok (w.writeVl value)

def execWriteVl (value : Word) (s : State) : Host.Outcome State Fault Refusal :=
  event (bodyWriteVl value) s

/-- 03 R82: the checks and effects of `setvt`. -/
def bodyWriteVtype (value : Word) (w : Work) : M Work := .ok (w.writeVtype value)

def execWriteVtype (value : Word) (s : State) : Host.Outcome State Fault Refusal :=
  event (bodyWriteVtype value) s

/-- 03 R82: replaces `fflags`, once the flags of every earlier vector instruction are in. -/
def bodyWriteFflags (value : Word) (w : Work) : M Work :=
  if w.s.thr.window ≠ [] then .error (.wait .landing) else .ok (w.writeFflags value)

def execWriteFflags (value : Word) (s : State) : Host.Outcome State Fault Refusal :=
  event (bodyWriteFflags value) s

/-- 06 R145, R147: at Supervisor level, repartitions the vault of the current slot's cluster. -/
def bodyWriteWaypart (value : Word) (w : Work) : M Work := if w.sup then w.writeWaypart value else .ok w

def execWriteWaypart (value : Word) (s : State) : Host.Outcome State Fault Refusal :=
  event (bodyWriteWaypart value) s

/-- 15 R383: sets VEN and the dirty bits at Supervisor level; a write that clears VEN waits until every earlier vector instruction has
committed. -/
def bodyWriteVstate (value : Word) (w : Work) : M Work :=
  if !bitB value 0 && w.s.thr.window != [] then .error (.wait .queueRoom) else .ok (w.writeVstate value)

def execWriteVstate (value : Word) (s : State) : Host.Outcome State Fault Refusal :=
  event (bodyWriteVstate value) s

/-- 09 R214: moves STATE between CLEAN and DIRTY, sets or clears NR. -/
def bodyWriteTstate (value : Word) (w : Work) : M Work := .ok (w.writeTstate value)

def execWriteTstate (value : Word) (s : State) : Host.Outcome State Fault Refusal :=
  event (bodyWriteTstate value) s

/-- 15 R378: sets the hotness counter that `vhotsel` selects. -/
def bodyWriteVhot (value : Word) (w : Work) : M Work := .ok (w.writeVhot value)

def execWriteVhot (value : Word) (s : State) : Host.Outcome State Fault Refusal :=
  event (bodyWriteVhot value) s

end Sys2Proof.Machine
end

