-- ==== Sys2Proof/Machine/Formats.lean ====
section
/-! DEFINITION. Conversion and scale registers (05 R130 to R141). -/

namespace Sys2Proof.Machine

/-! ### vcvt (05 R130 to R133) -/

/-- The rounding mode of a three-bit field: DYN selects `vround` (02 R28). -/
def Work.modeOf (w : Work) (m : Fin 8) : Nat := if m.val = 5 then w.rm else m.val

/-- 05 R131: each active element converted to the format in B; a wider destination takes a register block. -/
def bodyVcvt (d a b : Reg) (m : Fin 8) (w : Work) : M Work :=
  let wd := codeWidth b.val
  let rs := w.active.map (fun e => (e, convert w.fmt b.val (w.modeOf m) (w.elemV a e)))
  .ok ((w.putBlock d.val wd (vlmaxBits wd w.prot) (rs.map (fun p => (p.1, p.2.1))) (max 1 (wd / w.ew))).orFlags (flagsOf rs))

def execVcvt (st : Fin 16) (c : Bool) (d a b : Reg) (m : Fin 8) (s : State) : Host.Outcome State Fault Refusal :=
  issue (.vcvt st c d a b m) (bodyVcvt d a b m) s

/-! ### Scale registers (05 R136 to R141) -/

/-- The entries that `vldsc` loads: an entry for each block of 2^BLK elements below `vl` (05 R139). -/
def Work.scaleCount (w : Work) : Nat := ceilDiv w.s.ctl.vl.toNat (2 ^ w.s.ctl.blk.toNat)

/-- The scale entries of a plan written. -/
def Work.putK (w : Work) (d : Nat) (l : List (Nat × List Nat)) : Work :=
  if l = [] then w else w.setK d (putElems 16 (w.s.regs.getK d) (l.map (fun p => (p.1, p.2.headD 0))))

/-- 05 R139: loads ceil(vl / 2^BLK) scale entries with the byte stride X[B], fault-only-first. -/
def bodyVldsc (d a b : Reg) (w : Work) : M Work :=
  do
    let n := w.scaleCount
    let base := w.x a.val
    let stride := w.x b.val
    let cls := if stride = 2 then 0 else 1
    if n = 0 then w.sample cls false false [] 0 else
    if base.toNat % 2 ≠ 0 then raiseAt w 0 cMISALIGNED base else
    if stride.toNat % 2 ≠ 0 then raiseAt w 0 cMISALIGNED (base + stride) else
    let plan (j : Nat) : Except EFault (List Req) :=
      (w.req (base + stride * BitVec.ofNat 64 j) 2 false false).map (fun r => [r])
    let (good, bad) := planAll plan (List.range n)
    match bad with
    | some (_, .stop s) => .error s
    | _ =>
      match bad with
      | some (0, .flt c v) => raiseAt w 0 c v
      | _ => .ok ()
      let left := w.ahead good
      w.mayRead left
      match firstPoison w.m left with
      | some (_, addr) => raiseAt (w.countBad (planLocs left)) 0 cMEMORY_POISON (keepBits addr 0 57)
      | none =>
        let (vals, w1) ← w.readPlan noNote good
        let w1 := (((w1.putK d.val vals).countHot cls good).countRemote (planLocs good)).touchFibre (planLocs good)
        match bad with
        | some (j, _) =>
          (w1.mapCtl (fun c => { c with vl := BitVec.ofNat 12 (j * 2 ^ c.blk.toNat) })).sample cls false false good
            (absentElems plan (List.range n))
        | none => w1.sample cls false false good 0

def execVldsc (st : Fin 16) (c : Bool) (d a b : Reg) (s : State) : Host.Outcome State Fault Refusal :=
  issue (.vldsc st c d a b) (bodyVldsc d a b) s

/-- 05 R140: entry j := the 16-bit element j of va, for j from 0 to 255. -/
def bodyVmvscToScale (d a : Reg) (w : Work) : M Work :=
  .ok (w.setK d.val ((w.v a.val).setWidth 4096))

def execVmvscToScale (st : Fin 16) (c : Bool) (d a : Reg) (s : State) : Host.Outcome State Fault Refusal :=
  issue (.vmvscToScale st c d a) (bodyVmvscToScale d a) s

/-- 05 R140: the 16-bit elements 0 to 255 of vd := the entries of ka; every other bit is kept. -/
def bodyVmvscFromScale (d a : Reg) (w : Work) : M Work :=
  .ok (w.setV d.val (putBits (w.s.regs.getV d.val) 0 4096 (w.k a.val).toNat))

def execVmvscFromScale (st : Fin 16) (c : Bool) (d a : Reg) (s : State) : Host.Outcome State Fault Refusal :=
  issue (.vmvscFromScale st c d a) (bodyVmvscFromScale d a) s

/-- 05 R141: each active element scaled by its block's entry. -/
def bodyVapsc (d a b : Reg) (w : Work) : M Work := w.mapV d (fun e => applyScale w.ffmt w.rm (w.scaleOf b e) (w.valV a e))

def execVapsc (st : Fin 16) (c : Bool) (d a b : Reg) (s : State) : Host.Outcome State Fault Refusal :=
  issue (.vapsc st c d a b) (bodyVapsc d a b) s

end Sys2Proof.Machine
end

