-- ==== Sys2Proof/Machine/Launch.lean ====
section
/-! DEFINITION. Launching work: packets and their acceptance, cancels and counters, the sequencers' fork and join, yield and
exit, notifies, and completion (14 R334 to R358, R428; 17 R414). -/

namespace Sys2Proof.Machine

/-! ### Launch packets (14 R334) -/

/-- A watermark as a packet gives it. -/
structure PacketMark where
  plid : Nat
  rnum : Nat
  rden : Nat
  offset : Int
  deriving DecidableEq, Repr

/-- A launch packet (14 Table 14.1). `reserved` says that a reserved bit is set. -/
structure Packet where
  valid : Bool
  prio : Nat
  nwm : Nat
  clsp : Bool
  ccs : Bool
  narg : Nat
  gl : Nat
  parent : Nat
  pv : Bool
  entry : Word
  count : Nat
  target : Word
  prog : Word
  args : List Word
  marks : List PacketMark
  reserved : Bool
  deriving DecidableEq, Repr

/-- The packet in 128 bytes. -/
def readPacket (b : List Byte) : Packet :=
  let g (o n : Nat) : Nat := leNat ((b.drop o).take n)
  let c : Word := BitVec.ofNat 64 (g 0 8)
  let mark (o : Nat) : PacketMark :=
    { plid := g o 6, rnum := g (o + 6) 1, rden := g (o + 7) 1, offset := toSigned 32 (g (o + 8) 4) }
  { valid := bitB c 0, prio := bitsN c 8 6, nwm := bitsN c 16 2, clsp := bitB c 18, ccs := bitB c 19, narg := bitsN c 24 4,
    gl := bitsN c 32 5, parent := bitsN c 48 12, pv := bitB c 60, entry := BitVec.ofNat 64 (g 8 8), count := g 16 8,
    target := BitVec.ofNat 64 (g 24 8), prog := BitVec.ofNat 64 (g 32 8),
    args := (List.range (min 8 (bitsN c 24 4))).map (fun i => BitVec.ofNat 64 (g (40 + 8 * i) 8)),
    marks := (List.range (min 2 (bitsN c 16 2))).map (fun i => mark (104 + 12 * i)),
    reserved := bitsN c 1 7 != 0 || bitsN c 14 2 != 0 || bitsN c 20 4 != 0 || bitsN c 28 4 != 0 || bitsN c 37 11 != 0 ||
      bitsN c 61 3 != 0 }

/-- Whether a packet is malformed (14 R334). -/
def Packet.malformed (p : Packet) : Bool :=
  p.reserved || decide (47 < p.prio) || decide (2 < p.nwm) || decide (8 < p.narg) || p.entry.toNat % 4 != 0 ||
  decide (2 ^ 48 ≤ p.count) || bitsN p.prog 0 3 != 0 || bitsN p.prog 57 7 != 0 || p.target.toNat % 64 != 0 ||
  decide (31 < p.gl) || p.marks.any (fun k => k.rnum == 0 || k.rden == 0)

/-! ### The pending-launch store (14 R340, R341) -/

/-- Launches by rising age. -/
def insertAge (l : Launch) : List Launch → List Launch
  | [] => [l]
  | x :: xs => if l.age < x.age then l :: x :: xs else x :: insertAge l xs

def byAge (l : List Launch) : List Launch := l.foldl (fun a x => insertAge x a) []

/-- The 1,024 oldest entries of the store moved to the job's spill area; none where it has no free block of 1,024 entries (14 R341;
log 13). -/
def Mach.spill (m : Mach) (job : Nat) : Option Mach :=
  let out := (m.sched.launches.filter (fun l => l.waits && l.spilled = some job)).length
  let old := (byAge (m.sched.launches.filter (fun l => l.waits && l.spilled.isNone))).take 1024
  if (m.job job).spillBlocks ≤ ceilDiv out 1024 then none
  else some (m.setSched (fun s => { s with
    launches := s.launches.map (fun l => if old.any (fun o => o.age = l.age) then { l with spilled := some job } else l) }))

/-! ### Acceptance (14 R336, R338 to R340, R351) -/

/-- Who submits a packet: the job and context, the entry that it joins with PV = 0, the entry of the issuing unit's launch
for a device launch, and the user queue of a host packet. -/
structure Origin where
  job : Nat
  ctx : Nat
  parent : Option Nat
  own : Option Nat
  device : Bool
  queue : Option Nat
  deriving DecidableEq, Repr

/-- A watermark resolved at acceptance; none where the packet is rejected (14 R336; log 14). -/
def Mach.resolveMark (m : Mach) (o : Origin) (k : PacketMark) : Option Watermark :=
  let mark (p : Option Nat) (a : Word) : Watermark :=
    { producer := p, rnum := k.rnum, rden := k.rden, offset := k.offset, addr := a }
  let bound (ix : Nat) : Option Watermark :=
    let e := m.entry ix
    if e.level ≠ 0 then some (mark none 0)
    else if e.job ≠ o.job ∨ (e.status = 1 ∧ e.prog = 0) then none
    else some (mark (some ix) e.prog)
  if k.plid = 0 then
    (if !o.device then none else match o.own with
      | some ix => bound ix
      | none => some (mark none 0))
  else match m.handleIx k.plid with
    | none => some (mark none 0)
    | some ix => bound ix

/-- Every watermark resolved. -/
def Mach.resolveMarks (m : Mach) (o : Origin) : List PacketMark → Option (List Watermark)
  | [] => some []
  | k :: ks => do
    let w ← m.resolveMark o k
    let ws ← m.resolveMarks o ks
    some (w :: ws)

/-- An entry that a launch of a job may join: a graph, phase or job entry of that job that has not completed (14 R338). -/
def Mach.joinable (m : Mach) (job ix : Nat) : Bool :=
  let e := m.entry ix
  e.serial != 0 && !e.released && e.level != 0 && e.job == job && e.status == 1

/-- The entry that a packet joins: none inside where it is rejected for it (14 R338). -/
def Mach.parentOf (m : Mach) (o : Origin) (p : Packet) : Option (Option Nat) :=
  if !p.pv then some o.parent
  else if m.joinable o.job p.parent then some (some p.parent) else none

/-- An entry held once more by a watermark; a released index is taken back from the free ones (14 R336). -/
def Mach.hold (m : Mach) (ix : Nat) : Mach :=
  let e := m.entry ix
  (m.setEntry ix { e with held := e.held + 1, released := false }).setSched
    (fun s => { s with freed := s.freed.filter (fun i => i ≠ ix) })

/-- The failure of a packet that Umante rejects (14 R339); what its PC and UNIT hold no rule states. -/
def rejection (open_ : Nat) : Failure :=
  { cause := cSHAPE_INVALID, detail := 10, pc := Config.openWord open_, addr := 0,
    unit := bitsN (Config.openWord (open_ + 1)) 0 32, treg := 0, token := 0 }

/-- A packet accepted: its launch ID; none where the completion table is full (14 R336, R338 to R340). The producers of its
watermarks are held before it takes an entry; a rejected one ends FAILED whatever its parent (14 R339). Where the entry that it joins
with PV = 0 has completed it joins none (DESIGN CHOICE, log 58: R338 rejects only what a PARENT field names). -/
def Mach.accept (m : Mach) (o : Origin) (p : Packet) : Option (Nat × Mach) :=
  let o := { o with parent := o.parent.filter (m.joinable o.job) }
  let parent := m.parentOf o p
  let marks := m.resolveMarks o p.marks
  let rejected := p.malformed || parent.isNone || marks.isNone
  let parent := if rejected && parent.isNone then o.parent else parent.getD none
  let wms := if rejected then [] else marks.getD []
  let cancelled := match parent with | some ix => (m.entry ix).cancelled | none => false
  let cancelled := cancelled && !rejected
  let stopped := rejected || cancelled || p.count == 0
  let open_ := m.fresh
  let m := if rejected then { m with fresh := m.fresh + 2 } else m
  let m := (wms.filterMap (fun k => k.producer)).foldl Mach.hold m
  let e : Entry := { Entry.reset with
    job := o.job, ctx := o.ctx, level := 0, count := if stopped then 0 else 1, status := 1, closed := true, parent := parent,
    cancelled := cancelled, failed := rejected, failure := if rejected then some (rejection open_) else none,
    target := p.target, prog := p.prog }
  match m.newEntry e.settle with
  | none => none
  | some (ix, m) =>
    let lid := handleOf ix (m.entry ix).serial
    let m := match parent with
      | some q => m.setEntry q { m.entry q with count := (m.entry q).count + 1 }
      | none => m
    let j := m.job o.job
    let l : Launch := {
      lid := lid, job := o.job, ctx := o.ctx, age := m.sched.ages, prio := p.prio, entry := p.entry, count := p.count,
      prog := p.prog, args := p.args, gl := p.gl, clsp := p.clsp, ccs := p.ccs, wms := wms, span := none, next := 0,
      spilled := none, dropped := stopped, queue := o.queue, jseq := j.accepted, again := none,
      back := [], bound := false }
    let m := m.setJob o.job { j with accepted := j.accepted + 1 }
    some (lid, (m.setSched (fun s => { s with launches := s.launches ++ [l], ages := s.ages + 1 })).noteRoom)

/-- A packet accepted from a running unit: entries are spilled where the store is full; none where nothing has room
(14 R341, R351). -/
def Mach.acceptDevice (m : Mach) (o : Origin) (p : Packet) : Option (Nat × Mach) :=
  if !m.tableRoom then none else
  match (if m.storeFree = 0 then (m.spill o.job).map Mach.noteRoom else some m) with
  | none => none
  | some m => m.accept o p

/-- The origin of a packet that the running unit submits. -/
def Work.origin (w : Work) : Origin :=
  let own := w.m.handleIx w.s.unit.lid
  { job := w.ctx.job, ctx := w.s.unit.ctx, parent := match own with | some ix => (w.m.entry ix).parent | none => none,
    own := own, device := true, queue := none }

/-- PRIO of a launch; the lowest number where the launch is not known. -/
def Mach.prioOf (m : Mach) (lid : Nat) : Nat :=
  match m.sched.launches.find? (fun l => l.lid = lid) with
  | some l => l.prio
  | none => 0

/-- What `launch` and `launchn` share: the checks, the packet read, and the acceptance, none where nothing has room
(14 R351). -/
def Work.submit (w : Work) (p : Word) : M (Option Nat × Work) := do
  if w.m.cancelledLid w.s.unit.lid then raise w cCANCELLED 0
  else if p.toNat % 128 ≠ 0 then raise w cMISALIGNED p
  else do
    w.performed
    let (bytes, w) ← w.loadRun p 128
    let k := readPacket bytes
    if k.malformed || !k.valid then raise w cSHAPE_INVALID 10
    else
      match w.m.acceptDevice w.origin { k with prio := max k.prio (w.m.prioOf w.s.unit.lid) } with
      | none => .ok (none, w)
      | some (lid, m) => .ok (some lid, { w with m := m })

/-- 14 R351: submits the packet at xa; LAUNCH_OVERFLOW where nothing has room. -/
def bodyLaunch (a : Reg) (w : Work) : M Work :=
  do
    let p := w.x a.val
    let (r, w) ← w.submit p
    match r with
    | some _ => .ok w
    | none => raise w cLAUNCH_OVERFLOW p

def execLaunch (st : Fin 16) (a : Reg) (s : State) : Host.Outcome State Fault Refusal :=
  issue (.launch st a) (bodyLaunch a) s

/-- 14 R351: submits the packet at xa; xd := the launch ID, or 0 where nothing has room. -/
def bodyLaunchn (d a : Reg) (w : Work) : M Work :=
  do
    let (r, w) ← w.submit (w.x a.val)
    .ok (w.setX d.val (BitVec.ofNat 64 (r.getD 0)))

def execLaunchn (st : Fin 16) (d a : Reg) (s : State) : Host.Outcome State Fault Refusal :=
  issue (.launchn st d a) (bodyLaunchn d a) s

/-! ### Cancelling and reading counters (14 R352, R353) -/

/-- The entry of a level that encloses entry ix, or is it, within 4 steps. -/
def Mach.enclosing (m : Mach) (level : Nat) : Nat → Nat → Option Nat
  | _, 0 => none
  | ix, k + 1 =>
    if (m.entry ix).level = level then some ix
    else match (m.entry ix).parent with
      | some p => m.enclosing level p k
      | none => none

/-- 14 R352: cancels the entry at the level of B that contains the entry of handle xa. -/
def bodyCancel (a b : Reg) (w : Work) : M Work :=
  do
    w.performed
    let h := w.x a.val
    match w.m.handleIx h.toNat with
    | none => .ok w
    | some ix =>
      if (w.m.entry ix).job ≠ w.ctx.job then raise w cACCESS_VIOLATION (detailAddr 13 h)
      else
        match (if b.val = 0 then some ix else w.m.enclosing b.val ix 4) with
        | none => .ok w
        | some e => .ok { w with m := w.m.cancelEntry e }

def execCancel (st : Fin 16) (a b : Reg) (s : State) : Host.Outcome State Fault Refusal :=
  issue (.cancel st a b) (bodyCancel a b) s

/-- 14 R353: the count, status and level of the entry of handle xa; 0 for a stale handle. -/
def bodyCntrd (d a : Reg) (w : Work) : M Work :=
  let v := match w.m.handleIx (w.x a.val).toNat with
    | none => 0
    | some ix =>
      let e := w.m.entry ix
      if e.job ≠ w.ctx.job then 0 else min 0xFFFFFFFF e.count + at_ 32 e.status + at_ 35 e.level
  .ok (w.setX d.val (BitVec.ofNat 64 v))

def execCntrd (st : Fin 16) (d a : Reg) (s : State) : Host.Outcome State Fault Refusal :=
  issue (.cntrd st d a) (bodyCntrd d a) s

/-! ### Engine sequencers (14 R354, R355) -/

/-- 14 R354: starts the matrix sequencer at xa and the copy sequencer at xb. -/
def bodyFork (a b : Reg) (w : Work) : M Work :=
  do
    let ya := w.x a.val
    let zb := w.x b.val
    let s := w.s
    if s.mseq.st ≠ .idle ∨ s.cseq.st ≠ .idle then raise w cSHAPE_INVALID 11
    else if ya.toNat % 4 ≠ 0 then raise w cMISALIGNED ya
    else if zb.toNat % 4 ≠ 0 then raise w cMISALIGNED zb
    else match (if ya = 0 then none else tileDetail w.m w.m.cur) with
    | some d => raise w cTILE_DISABLED (BitVec.ofNat 64 d)
    | none => do
      w.performed
      let q : Sequencer := { Sequencer.reset with
        fmt := s.ctl.fmt, slc := s.ctl.slc, rm := s.ctl.rm, sup := s.regs.level == .supervisor }
      let regs (first : Nat) : Tab Word := (List.range 7).map (fun i => (i + 1, w.x (first + i)))
      let start (p : Word) (first : Nat) : Sequencer :=
        { q with st := if p = 0 then .idle else .running, pc := p, r := regs first }
      .ok (if ya = 0 ∧ zb = 0 then w else w.setS { s with mseq := start ya 17, cseq := start zb 25 })

def execFork (st : Fin 16) (a b : Reg) (s : State) : Host.Outcome State Fault Refusal :=
  issue (.fork st a b) (bodyFork a b) s

/-- Both sequencers of the running slot cleared: a token that the copy sequencer's registers await or hold can be read no more
(14 R355). -/
def Work.clearSequencers (w : Work) : Work :=
  let failed := w.s.thr.failed.map (fun c => if c.seq then { c with overwritten := true } else c)
  let w := w.setS { w.s with mseq := .reset, cseq := .reset, thr := { w.s.thr with failed := failed } }
  { w with m := w.m.mapCopies (fun c => if c.home = .sequencer w.m.cur then { c with joined := true } else c) }

/-- 14 R355: waits until no sequencer runs, clears both, and raises what one of them recorded: the matrix sequencer's first. -/
def bodyJoin (w : Work) : M Work :=
  let s := w.s
  if s.mseq.st = .running ∨ s.cseq.st = .running then .error (.wait .sequencer)
  else
    let w1 := w.clearSequencers
    if s.mseq.st = .stopped then raise w1 (s.mseq.cause % 256) s.mseq.stval (s.mseq.cause / 256)
    else if s.cseq.st = .stopped then raise w1 (s.cseq.cause % 256) s.cseq.stval (s.cseq.cause / 256)
    else .ok w1

def execJoin (st : Fin 16) (s : State) : Host.Outcome State Fault Refusal :=
  issue (.join st) bodyJoin s

/-! ### Yield and exit (14 R343, R356, R357) -/

/-- The priority at which a launch runs: its own, or that of a consumer whose watermark it holds (14 R343). -/
def Mach.effective (m : Mach) (l : Launch) : Nat :=
  (m.sched.launches.filter (fun c => !(m.entry (c.lid % 4096)).written && c.wms.any (fun k => k.producer = some (l.lid % 4096)))).foldl
    (fun p c => min p c.prio) l.prio

/-- The priority at which a unit of a launch runs. -/
def Mach.effectiveOf (m : Mach) (lid : Nat) : Nat :=
  match m.sched.launches.find? (fun l => l.lid = lid) with
  | some l => m.effective l
  | none => 0

/-- Whether every live producer of a launch has a bound unit or has completed (14 R343). -/
def Mach.producersBound (m : Mach) (l : Launch) : Bool :=
  l.wms.all (fun k => match k.producer with
    | none => true
    | some ix => (m.entry ix).status != 1 ||
        m.sched.launches.any (fun p => p.lid % 4096 == ix && p.bound))

/-- Whether Umante may bind a unit of a launch now (14 R343; 13 R332). -/
def Mach.ready (m : Mach) (l : Launch) : Bool :=
  l.waits && !(m.job l.job).stopped && (m.context l.ctx).resident && m.producersBound l

/-- Whether Umante may bind a suspended unit again (14 R343; 15 R380, R389). -/
def Mach.readyAgain (m : Mach) (g : Suspended) : Bool :=
  !g.halted && !g.ended && (g.request.isNone || g.answered) && g.resuming.isNone && (m.context g.slot.unit.ctx).resident &&
  !(m.job (m.context g.slot.unit.ctx).job).stopped

/-- Whether Umante has a unit ready for the slot, its job's partition holding the slot, with the same or a higher effective priority
(14 R343, R357). -/
def Work.outranked (w : Work) : Bool :=
  let p := w.m.effectiveOf w.s.unit.lid
  let here (job : Nat) : Bool := (w.m.job job).partition.contains w.m.cur
  w.m.sched.launches.any (fun l => here l.job && w.m.ready l && decide (w.m.effective l ≤ p)) ||
  w.m.sched.suspended.any (fun g => here (w.m.context g.slot.unit.ctx).job && w.m.readyAgain g &&
    decide (w.m.effectiveOf g.slot.unit.lid ≤ p))

/-- 14 R357: where a unit of the same or a higher priority waits, or a pre-emption is pending, the unit is suspended just before its next instruction. -/
def bodyYield (st : Fin 16) (w : Work) : M Work :=
  if w.s.unit.st == .stop || w.outranked then .ok ((w.retire (.yield st) w.s).suspendUnit w.m.cur none (own := true)) else .ok w

def execYield (st : Fin 16) (s : State) : Host.Outcome State Fault Refusal :=
  issue (.yield st) (bodyYield st) s

/-- 14 R356; 16 R405: the last strip ends; the slot issues nothing more. -/
def bodyUexit (w : Work) : M Work :=
  do
    w.checkStrip
    let w ← w.endStrip
    .ok w.leave

def execUexit (st : Fin 16) (s : State) : Host.Outcome State Fault Refusal :=
  issue (.uexit st) bodyUexit s

/-! ### Notify (14 R348, R349, R358) -/

/-- A queue's control block, which must lie in the package's HBM. -/
def Queue.block (q : Queue) : M Nat :=
  if q.pa + 64 ≤ hbmEnd then .ok (hbmLoc q.pa) else .error (.fault (.recordOutsideHbm q.pa))

/-- A control-block word with a bit set, once no copy owns its line and no linked read holds it back (03 R72; 11 R270). -/
def Work.setBlockBit (w : Work) (loc bit : Nat) (b : Bool) : M Work :=
  if w.m.busyLine loc then .error (.wait .ownedLine)
  else .ok ((w.scrub loc).putNoted 0 0 loc (leBytes 8 (putBit (BitVec.ofNat 64 (w.num loc 8)) bit b).toNat))

/-- A request to serve queue k: at once where it is mapped, else PEND is set in its control block (14 R348, R349). -/
def Work.notifyQueue (w : Work) (k : Nat) (q : Queue) : M Work :=
  if q.hwq.isSome ∧ !q.unmapping then .ok { w with m := w.m.setQueue k { q with notified := true } }
  else do
    let b ← q.block
    w.setBlockBit (b + 8) 16 true

/-- 14 R358: requests service of user queue xa of the unit's job. -/
def bodyNotify (a : Reg) (w : Work) : M Work :=
  do
    let q := w.x a.val
    if 1023 < q.toNat then raise w cBOUNDS q
    else match w.m.sched.queues.find? (fun e => e.2.job = w.ctx.job && e.2.num = q.toNat) with
    | none => raise w cACCESS_VIOLATION (detailAddr 13 q)
    | some (k, e) => do
      w.performed
      w.notifyQueue k e

def execNotify (st : Fin 16) (a : Reg) (s : State) : Host.Outcome State Fault Refusal :=
  issue (.notify st a) (bodyNotify a) s

/-! ### Completion (14 R339; 17 R414) -/

/-- An entry given free where nothing holds it any more (14 R335, R339). -/
def Mach.freeEntry (m : Mach) (ix : Nat) : Mach :=
  let e := m.entry ix
  if e.held = 0 ∧ e.written ∧ !e.released then
    (m.setEntry ix { e with released := true }).setSched (fun s => { s with
      freed := s.freed ++ [ix] })
  else m

/-- A watermark's hold given up (14 R336). -/
def Mach.unhold (m : Mach) (ix : Nat) : Mach :=
  let e := m.entry ix
  (m.setEntry ix { e with held := e.held - 1 }).freeEntry ix

/-- The eight words of a completion block after STATUS (14 Table 14.3). -/
def Failure.words (f : Failure) : List Nat :=
  [f.cause % 256 + at_ 8 (f.detail % 128), f.pc.toNat, f.addr.toNat, f.unit % 2 ^ 32 + at_ 32 (f.treg % 32), f.token.toNat, 0, 0]

/-- The bytes of a completion block: bytes 8 to 63 only for FAILED. -/
def Entry.blockBytes (e : Entry) : List Byte :=
  leBytes 8 (e.status - 1) ++
  (if e.status = 3 then ((e.failure.getD { cause := 0, detail := 0, pc := 0, addr := 0, unit := 0, treg := 0, token := 0 }).words).flatMap (leBytes 8)
   else [])

/-- A completed launch as its record keeps it: each watermark names its producer by handle, so that a later launch at the same index is
not taken for it (13 R332; 14 R335, R336). -/
def Mach.recorded (m : Mach) (l : Launch) : Launch :=
  { l with wms := l.wms.map (fun k => { k with producer := k.producer.map (fun ix => handleOf ix (m.entry ix).serial) }) }

/-- Steps 2 and 3 of R339 and the interrupt of R414, after the block, if any, is written or lost. -/
def Work.closeEntry (w : Work) (ix : Nat) (wrote lost : Bool) : Work :=
  let e := w.m.entry ix
  let x := w.m.context e.ctx
  let m := w.m.setEntry ix { e with written := true, request := none }
  let m := match e.parent with
    | some p => m.entryDown p (e.status == 3 || (e.status == 4 && !(m.entry p).cancelled))
    | none => m
  let lid := handleOf ix e.serial
  let done := (m.sched.launches.filter (fun l => l.lid = lid)).map m.recorded
  let marks := (m.sched.launches.filter (fun l => l.lid = lid)).flatMap (fun l => l.wms.filterMap (fun k => k.producer))
  let m := marks.foldl Mach.unhold m
  let m := m.setSched (fun s => { s with
    launches := s.launches.filter (fun l => l.lid ≠ lid)
    records := s.records ++ done
    controls := s.controls.filter (fun d => d.1.1 ≠ lid)
    lostBlocks := if lost then s.lostBlocks ++ [lid] else s.lostBlocks
    interrupts := if (wrote || lost) && bitB x.route 15 && bitsN x.route 4 11 != 0 then
        s.interrupts ++ [(bitsN x.route 0 4, bitsN x.route 4 11)] else s.interrupts })
  { w with m := m.freeEntry ix }

/-- 14 R339: the completed entry ix writes its completion block, decrements its parent and is released. A TARGET whose page is
missing is asked for once; any other failure leaves the block unwritten, and it is reported; so does a TARGET at an unreachable package
(DESIGN CHOICE, log 58: 16 R409 speaks of a unit's accesses only). -/
def completeEntry (ix : Nat) (w : Work) : M Work :=
  let e := w.m.entry ix
  if e.status < 2 ∨ e.written ∨ e.request.isSome then .error (.wait .pageRequest)
  else if e.target = 0 ∨ e.level ≠ 0 then .ok (w.closeEntry ix false false)
  else
    let lost := w.closeEntry ix false true
    if inLocal e.target.toNat ∨ e.reqFailed then .ok lost
    else match walkPlace w 384 (w.m.context e.ctx).spt true e.target.toNat 1 with
    | .error (.flt _ _) => .ok lost
    | .error (.walk c d reads) =>
      let w := w.noteMiss (.walk c d reads)
      if c = cPAGE_FAULT ∧ d = 0 then
        let (num, m) := w.m.postRequest e.ctx (handleOf ix e.serial) 0 none none none e.target cPAGE_FAULT 1
        .ok { w with m := m.setEntry ix { m.entry ix with request := some num } }
      else .ok (w.closeEntry ix false true)
    | .error (.hold why) => .error (.wait why)
    | .error (.lost _) => .ok lost
    | .error (.stop f) => .error (.fault f)
    | .ok (loc, w) =>
      let bytes := e.blockBytes
      match writable w.m 384 (span loc bytes.length) with
      | .error (.lost _) => .ok lost
      | .error _ => .error (.wait .ownedLine)
      | .ok () =>
        if w.m.poisoned loc then .ok lost
        else
          let w := w.noteBytes 0 0 false (bytes.zipIdx.map (fun p => (loc + p.2, p.1)))
          .ok ((w.putBytes loc bytes).closeEntry ix true false)

/-- 14 R339: a completed entry writes its completion block, decrements its parent and is released. -/
def bodyLaunchCompletion (index : Nat) (w : Work) : M Work :=  completeEntry index w

def execLaunchCompletion (index : Nat) (s : State) : Host.Outcome State Fault Refusal :=
  event (bodyLaunchCompletion index) s

end Sys2Proof.Machine
end

