-- ==== Sys2Proof/Machine/ScalarMem.lean ====
section
/-! DEFINITION. Scalar loads and stores and the linked pair (03 R67 to R73). -/

namespace Sys2Proof.Machine

/-! ### Loads and stores (03 R67 to R69) -/

/-- A scalar load of `size` bytes, sign-extended or not. -/
def Work.loadX (w : Work) (d a : Reg) (off : BitVec 9) (size : Nat) (signed : Bool) : M Work := do
  let (v, _, w') ← w.load (w.scalarAddr a off size) size
  .ok (w'.setX d.val (if signed then wordOfInt (toSigned (8 * size) v) else BitVec.ofNat 64 v))

/-- A scalar store of the low `size` bytes of xd. -/
def Work.storeX (w : Work) (d a : Reg) (off : BitVec 9) (size : Nat) : M Work :=
  w.storeScalar (w.scalarAddr a off size) size (w.x d.val).toNat

/-- 03 R67: 1 byte, sign-extended. -/
def bodyLd8 (d a : Reg) (off : BitVec 9) (w : Work) : M Work := w.loadX d a off 1 true

def execLd8 (st : Fin 16) (d a : Reg) (off : BitVec 9) (s : State) : Host.Outcome State Fault Refusal :=
  issue (.ld8 st d a off) (bodyLd8 d a off) s

/-- 03 R67: 2 bytes, sign-extended. -/
def bodyLd16 (d a : Reg) (off : BitVec 9) (w : Work) : M Work := w.loadX d a off 2 true

def execLd16 (st : Fin 16) (d a : Reg) (off : BitVec 9) (s : State) : Host.Outcome State Fault Refusal :=
  issue (.ld16 st d a off) (bodyLd16 d a off) s

/-- 03 R67: 4 bytes, sign-extended. -/
def bodyLd32 (d a : Reg) (off : BitVec 9) (w : Work) : M Work := w.loadX d a off 4 true

def execLd32 (st : Fin 16) (d a : Reg) (off : BitVec 9) (s : State) : Host.Outcome State Fault Refusal :=
  issue (.ld32 st d a off) (bodyLd32 d a off) s

/-- 03 R67: 8 bytes, sign-extended. -/
def bodyLd64 (d a : Reg) (off : BitVec 9) (w : Work) : M Work := w.loadX d a off 8 true

def execLd64 (st : Fin 16) (d a : Reg) (off : BitVec 9) (s : State) : Host.Outcome State Fault Refusal :=
  issue (.ld64 st d a off) (bodyLd64 d a off) s

/-- 03 R67: 1 byte, zero-extended. -/
def bodyLd8N (d a : Reg) (off : BitVec 9) (w : Work) : M Work := w.loadX d a off 1 false

def execLd8N (st : Fin 16) (d a : Reg) (off : BitVec 9) (s : State) : Host.Outcome State Fault Refusal :=
  issue (.ld8N st d a off) (bodyLd8N d a off) s

/-- 03 R67: 2 bytes, zero-extended. -/
def bodyLd16N (d a : Reg) (off : BitVec 9) (w : Work) : M Work := w.loadX d a off 2 false

def execLd16N (st : Fin 16) (d a : Reg) (off : BitVec 9) (s : State) : Host.Outcome State Fault Refusal :=
  issue (.ld16N st d a off) (bodyLd16N d a off) s

/-- 03 R67: 4 bytes, zero-extended. -/
def bodyLd32N (d a : Reg) (off : BitVec 9) (w : Work) : M Work := w.loadX d a off 4 false

def execLd32N (st : Fin 16) (d a : Reg) (off : BitVec 9) (s : State) : Host.Outcome State Fault Refusal :=
  issue (.ld32N st d a off) (bodyLd32N d a off) s

/-- 03 R67: the low 1 byte of xd. -/
def bodySt8 (d a : Reg) (off : BitVec 9) (w : Work) : M Work := w.storeX d a off 1

def execSt8 (st : Fin 16) (d a : Reg) (off : BitVec 9) (s : State) : Host.Outcome State Fault Refusal :=
  issue (.st8 st d a off) (bodySt8 d a off) s

/-- 03 R67: the low 2 bytes of xd. -/
def bodySt16 (d a : Reg) (off : BitVec 9) (w : Work) : M Work := w.storeX d a off 2

def execSt16 (st : Fin 16) (d a : Reg) (off : BitVec 9) (s : State) : Host.Outcome State Fault Refusal :=
  issue (.st16 st d a off) (bodySt16 d a off) s

/-- 03 R67: the low 4 bytes of xd. -/
def bodySt32 (d a : Reg) (off : BitVec 9) (w : Work) : M Work := w.storeX d a off 4

def execSt32 (st : Fin 16) (d a : Reg) (off : BitVec 9) (s : State) : Host.Outcome State Fault Refusal :=
  issue (.st32 st d a off) (bodySt32 d a off) s

/-- 03 R67: the low 8 bytes of xd. -/
def bodySt64 (d a : Reg) (off : BitVec 9) (w : Work) : M Work := w.storeX d a off 8

def execSt64 (st : Fin 16) (d a : Reg) (off : BitVec 9) (s : State) : Host.Outcome State Fault Refusal :=
  issue (.st64 st d a off) (bodySt64 d a off) s

/-! ### Linked pair (03 R70 to R73) -/

/-- The slot's hold on a line given up (03 R72). -/
def Work.dropHolds (w : Work) : Work :=
  { w with m := { w.m with pkg := { w.m.pkg with holds := w.m.pkg.holds.filter (fun h => h.2 ≠ w.m.cur) } } }

/-- The home vault holds the line for the running slot (03 R72). -/
def Work.addHold (w : Work) (line : Nat) : Work :=
  { w with m := { w.m with pkg := { w.m.pkg with holds := (line, w.m.cur) :: w.m.pkg.holds.filter (fun h => h.1 ≠ line) } } }

/-- A linked read waits while the home holds one of its lines for another slot's sequence (03 R72; log 10). -/
def Work.unheld (w : Work) (lines : List Nat) : M Unit :=
  if lines.any (w.m.heldFor w.m.cur) then .error (.wait .heldLine) else .ok ()

/-- 03 R70: a 64-bit load that sets the link; what its own walk writes comes before it (15 R373). -/
def bodyLdl (d a : Reg) (w : Work) : M Work :=
  do
    let addr := w.x a.val
    let (v, loc, w') ← w.load addr 8
    let w' := w'.spend
    w'.unheld [lineOf loc]
    let w' := w'.dropHolds.addHold (lineOf loc)
    .ok ((w'.mapThr (fun t => { t with link := some { addr := addr, line := lineOf loc, intact := true } })).setX d.val
      (BitVec.ofNat 64 v))

def execLdl (st : Fin 16) (d a : Reg) (s : State) : Host.Outcome State Fault Refusal :=
  issue (.ldl st d a) (bodyLdl d a) s

/-- Whether the slot's link is intact and holds an address. -/
def Slot.linkedTo (s : Slot) (addr : Word) : Bool :=
  match s.thr.link with
  | some l => l.intact && l.addr == addr
  | none => false

/-- 03 R70: stores xb where the link is intact and holds the address; the status goes to xd, the link is cleared. At a remote
address it traps before any effect (17 R416). -/
def bodyStc (d a b : Reg) (w : Work) : M Work :=
  do
    let addr := w.x a.val
    let v := w.x b.val
    let (loc, w') ← w.scalar addr 8 1
    let w' := w'.spend
    if isRemote loc then raise w cACCESS_VIOLATION (detailAddr 14 addr) 1 else
    let ok := w'.s.linkedTo addr
    let w' ← if ok then (do
        liftMiss w' addr 1 (writable w'.m w'.m.cur (span loc 8))
        w'.store addr (span loc 8) (leBytes 8 v.toNat)) else .ok w'
    .ok ((w'.dropHolds.mapThr (fun t => { t with link := none })).setX d.val (boolWord (!ok)))

def execStc (st : Fin 16) (d a b : Reg) (s : State) : Host.Outcome State Fault Refusal :=
  issue (.stc st d a b) (bodyStc d a b) s

/-- 03 R72: the home vault stops holding back other agents' writes to a line. -/
def bodyLinkHoldExpiry (line : Nat) (w : Work) : M Work :=
  if w.m.pkg.holds.any (fun h => h.1 = line) then
    .ok { w with m := { w.m with pkg := { w.m.pkg with holds := w.m.pkg.holds.filter (fun h => h.1 ≠ line) } } }
  else .error (.wait .heldLine)

def execLinkHoldExpiry (line : Nat) (s : State) : Host.Outcome State Fault Refusal :=
  event (bodyLinkHoldExpiry line) s

end Sys2Proof.Machine
end

