-- ==== Sys2Proof/Machine/Sparse.lean ====
section
/-! DEFINITION. Conflict detection, the coordinate store, linked gather and scatter, fibre definitions (08 R188 to R211). -/

namespace Sys2Proof.Machine

/-! ### Conflict detection and pre-combining (08 R189 to R191) -/

/-- 08 R189: 1 at the lowest active element that holds each key. -/
def bodyVconf (d a : Reg) (w : Work) : M Work :=
  w.mapM d (fun e => (!w.active.any (fun j => decide (j < e) && w.elemV a j == w.elemV a e), 0))

def execVconf (st : Fin 16) (c : Bool) (d a : Reg) (s : State) : Host.Outcome State Fault Refusal :=
  issue (.vconf st c d a) (bodyVconf d a) s

/-- The sum of the values at the active elements with the key of element e, from e up, in ascending order (08 R190). -/
def Work.combined (w : Work) (a b : Reg) (e : Nat) : FRes :=
  (w.active.filter (fun j => decide (e < j) && w.elemV a j == w.elemV a e)).foldl
    (fun s j => w.redOp (isFlt w.s.ctl.fmt) 0 s (plain (w.elemV b j))) (plain (w.elemV b e))

/-- 08 R190: at each leader the sum of the values of its key. -/
def bodyVcomb (d a b : Reg) (w : Work) : M Work :=
  let lead := w.active.filter (fun e => !w.active.any (fun j => decide (j < e) && w.elemV a j == w.elemV a e))
  let rs := lead.map (fun e => (e, w.combined a b e))
  .ok ((w.putV d.val w.ew (rs.map (fun p => (p.1, p.2.1)))).orFlags (flagsOf rs))

def execVcomb (st : Fin 16) (c : Bool) (d a b : Reg) (s : State) : Host.Outcome State Fault Refusal :=
  issue (.vcomb st c d a b) (bodyVcomb d a b) s

/-- 08 R191: for each active element of va the lowest position in vb of the same value, all ones for none. -/
def bodyVisect (d a b : Reg) (w : Work) : M Work :=
  w.mapV d (fun e => plain (((List.range w.s.ctl.vl.toNat).find? (fun j => w.elemV b j == w.elemV a e)).getD (2 ^ w.ew - 1)))

def execVisect (st : Fin 16) (c : Bool) (d a b : Reg) (s : State) : Host.Outcome State Fault Refusal :=
  issue (.visect st c d a b) (bodyVisect d a b) s

/-! ### The coordinate store (08 R193 to R201) -/

/-- The key of element bits: sign-extended for i formats, zero-extended for every other (08 R193). -/
def Work.key (w : Work) (a : Reg) (e : Nat) : Word := w.extend (w.elemV a e)

/-- The entry slot that holds a key. -/
def Core.findKey (c : Core) (k : Word) : Option Nat :=
  c.store.findSome? (fun e => match e.2 with
    | some (q, _) => if q = k then some e.1 else none
    | none => none)

/-- The value in an entry slot. -/
def Core.valueAt (c : Core) (i : Nat) : Word := ((tabGet none c.store i).map (fun e => e.2)).getD 0

/-- The lowest-numbered free entry slot, from number i up. -/
def freeSlot (i : Nat) : Tab (Option (Word × Word)) → Nat
  | [] => i
  | (k, _) :: t => if k = i then freeSlot (i + 1) t else i

/-- A key found or inserted with value 0: its entry slot; a full store counts a drop (08 R197). -/
def Core.insert (c : Core) (k : Word) : Option Nat × Core :=
  match c.findKey k with
  | some i => (some i, c)
  | none =>
    let i := freeSlot 0 c.store
    if i < 4096 then (some i, { c with store := tabSet c.store i (some (k, 0)) })
    else (none, { c with full := true, drops := min 0xFFFFFFFF (c.drops + 1) })

/-- The keys of the active elements inserted in order, with each element's success. -/
def insertKeys (key : Nat → Word) : List Nat → Core → List (Nat × Bool) × Core
  | [], c => ([], c)
  | e :: es, c =>
    let (i, c) := c.insert (key e)
    let (l, c) := insertKeys key es c
    ((e, i.isSome) :: l, c)

/-- 08 R197: inserts the keys of va; mask bits report success. -/
def bodyCins (d a : Reg) (w : Work) : M Work :=
  do
    w.ownStore
    let (l, c) := insertKeys (w.key a) w.active w.core
    .ok ((w.setCore c).putM d.val l)

def execCins (st : Fin 16) (c : Bool) (d a : Reg) (s : State) : Host.Outcome State Fault Refusal :=
  issue (.cins st c d a) (bodyCins d a) s

/-- `fromstore` (08 R198). -/
def Work.fromStore (w : Work) (u : Word) : FRes :=
  if isFlt w.s.ctl.fmt then fRound w.ffmt w.rm (fDecode f64 u.toNat) else plain (bitsN u 0 w.ew)

/-- 08 R198: looks up the keys of va; values go to vd, hits to mb. -/
def bodyClook (d a b : Reg) (w : Work) : M Work :=
  do
    w.ownStore
    let c := w.core
    let hits := w.active.map (fun e => (e, c.findKey (w.key a e)))
    let rs := hits.map (fun p => (p.1, match p.2 with
      | some i => w.fromStore (c.valueAt i)
      | none => plain 0))
    let w1 := (w.putV d.val w.ew (rs.map (fun p => (p.1, p.2.1)))).orFlags (flagsOf rs)
    .ok (w1.putM b.val (hits.map (fun p => (p.1, p.2.isSome))))

def execClook (st : Fin 16) (c : Bool) (d a b : Reg) (s : State) : Host.Outcome State Fault Refusal :=
  issue (.clook st c d a b) (bodyClook d a b) s

/-- An element's value added to an entry's (08 R199). -/
def Work.accumulate (w : Work) (u : Word) (b : Reg) (e : Nat) : Word × BitVec 5 :=
  if isFlt w.s.ctl.fmt then
    let r := fAdd f64 w.rm (fDecode f64 u.toNat) (w.valV b e)
    (BitVec.ofNat 64 r.1, r.2)
  else (u + w.extend (w.elemV b e), 0)

/-- The active elements accumulated in order. -/
def Work.accumulateAll (w : Work) (a b : Reg) : List Nat → Core → BitVec 5 → Core × BitVec 5
  | [], c, fl => (c, fl)
  | e :: es, c, fl =>
    match c.insert (w.key a e) with
    | (none, c) => w.accumulateAll a b es c fl
    | (some i, c) =>
      let (u, f) := w.accumulate (c.valueAt i) b e
      w.accumulateAll a b es { c with store := tabSet c.store i (some (w.key a e, u)) } (fl ||| f)

/-- 08 R199: adds the values of vb at the keys of va, inserting absent keys. -/
def bodyCacc (a b : Reg) (w : Work) : M Work :=
  do
    w.ownStore
    let (c, fl) := w.accumulateAll a b w.active w.core 0
    .ok ((w.setCore c).orFlags fl)

def execCacc (st : Fin 16) (c : Bool) (a b : Reg) (s : State) : Host.Outcome State Fault Refusal :=
  issue (.cacc st c a b) (bodyCacc a b) s

/-- 08 R200: moves the lowest entries out into vd and vd + 1; `vl` := their number. -/
def bodyCdrain (d : Reg) (w : Work) : M Work :=
  do
    w.ownStore
    let c := w.core
    let es := (c.store.filterMap (fun e => e.2.map (fun kv => (e.1, kv)))).take w.s.ctl.vl.toNat
    let keys := es.zipIdx.map (fun p => (p.2, p.1.2.1.toNat))
    let vals := es.zipIdx.map (fun p => (p.2, p.1.2.2.toNat))
    let w1 := w.setCore { c with store := es.foldl (fun t e => tabDel t e.1) c.store }
    let w2 := (w1.putV d.val 64 keys).putV (d.val + 1) 64 vals
    .ok (w2.mapCtl (fun x => { x with vl := BitVec.ofNat 12 es.length, vstart := 0 }))

def execCdrain (st : Fin 16) (c : Bool) (d : Reg) (s : State) : Host.Outcome State Fault Refusal :=
  issue (.cdrain st c d) (bodyCdrain d) s

/-- 08 R201: empties the store. -/
def bodyCclr (w : Work) : M Work :=
  do
    w.ownStore
    .ok (w.setCore { w.core with store := [] })

def execCclr (st : Fin 16) (c : Bool) (s : State) : Host.Outcome State Fault Refusal :=
  issue (.cclr st c) bodyCclr s

/-! ### Gather-linked and scatter-conditional (08 R203 to R207) -/

/-- The lines of an access. -/
def Req.lines (r : Req) : List Nat := (r.locs.map lineOf).eraseDups

/-- The link of an element set to the lines that it reads, as it reads them: its home holds them from then on (08 R204, R207). -/
def Work.linkElement (w : Work) (e : Nat) (r : Req) : Work :=
  let w := r.lines.foldl (fun w l => w.addHold l) w
  w.mapThr (fun t => { t with elinks := tabSet t.elinks e r.lines, linkRun := some 0 })

/-- 08 R204, R205: loads as `vldx` does and links each element; a poisoned element reads 0 and traps after it. -/
def bodyVgathl (d a b : Reg) (o : Bool) (w : Work) : M Work :=
  let w := w.spend
  let plan := w.indexedPlan false o false a b
  let reqs (e : Nat) : List Req := match plan e with
    | .ok rs => rs
    | .error _ => []
  match (do
      w.unheld (planLocs (w.ahead (planAll plan w.active).1) |>.map lineOf)
      (if w.past = 0 then w.dropHolds else w).vload (kind 2 o) plan (fun w l => w.putLoaded d l) (fun e r w => w.linkElement e r)) with
  | .ok w1 =>
    let vl := w1.s.ctl.vl
    if vl = w.s.ctl.vl then .ok w1
    else .ok (w1.mapThr (fun t => { t with elinks := t.elinks.filter (fun x => decide (x.1 < vl.toNat)) }))
  | .error (.trap w1 t) =>
    if t.cause = cMEMORY_POISON then
      let e := w1.s.ctl.vstart.toNat
      let w2 := (w1.putV d.val w.ew [(e, 0)]).countHot 2 [(e, reqs e)]
      .error (.trap ((w2.mapThr (fun x => { x with elinks := tabDel x.elinks e })).setVstart (e + 1)) t)
    else .error (.trap w1 t)
  | .error e => .error e

def execVgathl (st : Fin 16) (c : Bool) (d a b : Reg) (o : Bool) (s : State) : Host.Outcome State Fault Refusal :=
  issue (.vgathl st c d a b o) (bodyVgathl d a b o) s

/-- The links of the element table on some lines broken. -/
def Work.breakElements (w : Work) (lines : List Nat) : Work :=
  w.mapThr (fun t => { t with elinks := t.elinks.filter (fun e => !e.2.any (fun l => lines.contains l)) })

/-- Whether element e's link is intact and names exactly the lines of its accesses. -/
def Work.elementLinked (w : Work) (e : Nat) (rs : List Req) : Bool :=
  match w.s.thr.elinks.find? (fun x => x.1 = e) with
  | none => false
  | some x =>
    let lines := (rs.flatMap Req.lines).eraseDups
    x.2.all (fun l => lines.contains l) && lines.all (fun l => x.2.contains l)

/-- The next element of a `vscatc` without its access: one whose link is not intact, which it finds once (08 R206). -/
def Work.skipElement (w : Work) (e : Nat) : M Work :=
  match w.made[w.pos]? with
  | some _ => .ok { w with pos := w.pos + 1 }
  | none =>
    if w.pauses then .error (.pause w)
    else .ok ((w.mapThr (fun x => { x with elinks := tabDel x.elinks e })).log { write := false, locs := [], bytes := [] })

/-- Whether the next element of a `vscatc` writes: its link is intact, or was when it wrote. -/
def Work.scatters (w : Work) (e : Nat) (rs : List Req) : Bool :=
  match w.made[w.pos]? with
  | some x => x.write
  | none => w.elementLinked e rs

/-- The elements of a `vscatc` in order: each writes where its link is intact, which breaks every other link on its lines,
and empties its entry (08 R206). -/
def Work.scatter (w : Work) (bits : Nat → Nat) :
    List (Nat × List Req) → M (List (Nat × Bool) × List (Nat × List Req) × Work)
  | [] => .ok ([], [], w)
  | (e, rs) :: t =>
    if w.scatters e rs then do
      let w ← w.putReqs (rs.map (fun r => (r, (bits e, 0))))
      let (l, done, w) ← (w.breakElements (rs.flatMap Req.lines)).scatter bits t
      .ok ((e, true) :: l, (e, rs) :: done, w)
    else do
      let w ← w.skipElement e
      let (l, done, w) ← w.scatter bits t
      .ok ((e, false) :: l, done, w)

/-- The accesses of an element of `vscatc`, where none is remote (17 R416). -/
def localReqs (r : Except EFault (List Req)) : Except EFault (List Req) := do
  let rs ← r
  match rs.find? (fun q => q.locs.any isRemote) with
  | some q => .error (.flt cACCESS_VIOLATION (detailAddr 14 q.a))
  | none => .ok rs

/-- 08 R206: writes each indexed element whose link is intact; mk reports success. -/
def bodyVscatc (d a b : Reg) (o : Bool) (m : Fin 8) (w : Work) : M Work :=
  do
    let (good, bad) := planAll (fun e => localReqs (w.indexedPlan true o false a b e)) w.active
    match bad with
    | some (_, .stop s) => .error s
    | _ =>
      let first := (w.ahead good).filter (fun p => w.elementLinked p.1 p.2)
      w.mayWrite first
      let (l, done, w1) ← w.scatter (w.elemV d) good
      let w2 := ((w1.putM m.val l).countHot 2 done).dropHolds
      match bad with
      | some (e, .flt c v) => raiseAt w2 e c v 1
      | _ => w2.sample 2 o true done 0

def execVscatc (st : Fin 16) (c : Bool) (d a b : Reg) (o : Bool) (m : Fin 8) (s : State) : Host.Outcome State Fault Refusal :=
  issue (.vscatc st c d a b o m) (bodyVscatc d a b o m) s

/-! ### Fibre definitions (08 R208 to R210) -/

/-- A fibre descriptor read: 48 bytes at a multiple of 64, through the scalar page tables (08 R208). -/
def Work.readFibre (w : Work) (addr : Word) (pos : Nat) : M (Fibre × Work) := do
  if addr.toNat % 64 ≠ 0 then raise w cMISALIGNED addr else
  let (bytes, w) ← w.loadRun addr 48
  let words := (List.range 6).map (fun i => BitVec.ofNat 64 (leNat ((bytes.drop (8 * i)).take 8)))
  .ok ({ desc := addr, words := words, pos := pos }, w)

/-- 08 R208: declares the slot's fibre definition from the descriptor at X[A]. -/
def bodyFibdef (a : Reg) (w : Work) : M Work :=
  do
    let (f, w1) ← w.readFibre (w.x a.val) 0
    .ok (w1.mapThr (fun t => { t with fibre := some f }))

def execFibdef (st : Fin 16) (c : Bool) (a : Reg) (s : State) : Host.Outcome State Fault Refusal :=
  issue (.fibdef st c a) (bodyFibdef a) s

/-- 08 R210: removes the slot's fibre definition. -/
def bodyFibend (w : Work) : M Work := .ok (w.mapThr (fun t => { t with fibre := none }))

def execFibend (st : Fin 16) (c : Bool) (s : State) : Host.Outcome State Fault Refusal :=
  issue (.fibend st c) bodyFibend s

/-- 08 R209: the scanner reads ahead for a slot's definition and fetches fibre lines. -/
def bodyFibrePrefetch (slot : Nat) (w : Work) : M Work :=
  match (w.m.slot slot).thr.fibre with
  | none => .error (.wait .token)
  | some f => .ok (w.prefetchFibres slot f)

def execFibrePrefetch (slot : Nat) (s : State) : Host.Outcome State Fault Refusal :=
  event (bodyFibrePrefetch slot) s

end Sys2Proof.Machine
end

