-- ==== Sys2Proof/Machine/System.lean ====
section
/-! DEFINITION. System instructions: `trap`, `eret`, `mcall`, `halt`, `vptwr`, `tlbinv`, `ctxsave` and `ctxrest` (15 R374 to
R390). -/

namespace Sys2Proof.Machine

/-! ### Traps and returns (15 R389) -/

/-- 15 R389: completes, then takes SVCALL with the code of B; `sepc` holds the address past it. -/
def bodyTrap (st : Fin 16) (b : Reg) (w : Work) : M Work :=
  raise (w.retire (.trap st b) w.s) cSVCALL (BitVec.ofNat 64 b.val)

def execTrap (st : Fin 16) (b : Reg) (s : State) : Host.Outcome State Fault Refusal :=
  issue (.trap st b) (bodyTrap st b) s

/-- 15 R389; 02 R33: returns from a trap: the level from SPP, INTRAP := 0, links cleared, the stash reopened, on at `sepc`. -/
def bodyEret (w : Work) : M Work :=
  .ok { w.returnFromTrap with npc := w.s.sup.sepc }

def execEret (st : Fin 16) (s : State) : Host.Outcome State Fault Refusal :=
  issue (.eret st) bodyEret s

/-! ### Suspension by the unit itself (15 R381, R382, R387, R389) -/

/-- The wait of `halt` for what the unit has outstanding (14 R356; 15 R389). -/
def Work.drained (w : Work) : M Unit := do
  let u := w.s.unit
  if w.m.copiesOf u.lid u.unit ≠ [] then .error (.wait .copyEngine)
  else if w.s.mseq.st = .running ∨ w.s.cseq.st = .running then .error (.wait .sequencer)
  else w.performed

/-- The unit halted for a debugger by the instruction at `pc`, with an address in `sepc`, and the halt reported (15 R389). -/
def Work.haltUnit (w : Work) (pc sepc : Word) : Work :=
  let lid := w.s.unit.lid
  let w := (w.mapSup (fun p => { p with sepc := keepBits sepc 2 55 })).mapUnit (fun u => { u with halted := true, exitAt := some pc })
  let w := w.suspendUnit w.m.cur none
  { w with m := { w.m with mgmt := { w.m.mgmt with reports := w.m.mgmt.reports ++ [BitVec.ofNat 64 lid] } } }

/-- 15 R381, R382: calls a service of Umante by the function in x24: a page request, the end of the unit, or the generation of its context. -/
def bodyMcall (st : Fin 16) (w : Work) : M Work :=
  do
    let w := w.mapThr (fun t => { t with wins := [] })
    w.performed
    let arg := w.x 25
    let val := w.x 26
    if w.x 24 = 1 then
      let u := w.s.unit
      let w := w.retire (.mcall st) w.s
      let (num, m) := w.m.postRequest u.ctx u.lid u.unit (some w.m.cur) none none (keepBits arg 0 57) (bitsN val 0 8) (bitsN val 8 2)
      let w := ({ w with m := m }).mapUnit (fun u => { u with byCall := true })
      .ok (w.suspendUnit w.m.cur (some num))
    else if w.x 24 = 2 then
      .ok (w.killUnit w.m.cur
        { cause := bitsN arg 0 8, detail := bitsN val 57 7, pc := w.s.sup.sepc, addr := keepBits val 0 57,
          unit := w.s.unit.unit, treg := 0, token := 0 })
    else if w.x 24 = 3 then .ok (w.setX 24 (BitVec.ofNat 64 w.ctx.gen))
    else .ok (w.setX 24 0xFFFFFFFFFFFFFFFF)

def execMcall (st : Fin 16) (s : State) : Host.Outcome State Fault Refusal :=
  issue (.mcall st) (bodyMcall st) s

/-- 15 R389: drains the slot, then suspends the unit as halted, with `sepc` := its address + 4. -/
def bodyHalt (st : Fin 16) (w : Work) : M Work :=
  do
    w.drained
    let pc := w.s.regs.pc
    .ok ((w.retire (.halt st) w.s).haltUnit pc (pc + 4))

def execHalt (st : Fin 16) (s : State) : Host.Outcome State Fault Refusal :=
  issue (.halt st) (bodyHalt st) s

/-! ### Translation (15 R374, R375, R378) -/

/-- The wait for every access of the context's units that was translated before to be performed: remote ones until they are
acknowledged (15 R375, R378). -/
def Work.contextQuiet (w : Work) : M Unit :=
  let ctx := w.s.unit.ctx
  if w.m.slots.any (fun p => p.2.unit.st.runs && p.2.unit.ctx == ctx && p.2.unit.remoteOut != 0) then .error (.wait .remote)
  else .ok ()

/-- 15 R378: writes entry xa of the context's vector page table; the entry is not checked, and its hotness counters stay. -/
def bodyVptwr (a b : Reg) (w : Work) : M Work :=
  do
    let n := w.x a.val
    if bitsN n 12 52 ≠ 0 then raise w cSHAPE_INVALID 12
    else do
      w.contextQuiet
      .ok (w.setCtx { w.ctx with vpt := tabSet w.ctx.vpt n.toNat (w.x b.val) })

def execVptwr (st : Fin 16) (a b : Reg) (s : State) : Host.Outcome State Fault Refusal :=
  issue (.vptwr st a b) (bodyVptwr a b) s

/-- Whether a copy of a context keeps the place that a walk found for a byte of its destination (11 R269; 15 R375). -/
def Mach.copyTranslated (m : Mach) (ctx : Nat) : Bool :=
  m.engines.any (fun e => e.2.cmds.any (fun c => c.ctx == ctx && c.placed.any (fun l => l.any (fun p => decide (p < 2 ^ 40) || isRemote p))))

/-- 15 R375: removes kept translations; the model keeps none between accesses (log 5), but for those of a copy's destination, whose
copies are waited for. -/
def bodyTlbinv (b : Reg) (w : Work) : M Work :=
  do
    let k := w.x b.val
    if bitsN k 2 62 ≠ 0 ∨ bitsN k 0 2 = 3 then raise w cSHAPE_INVALID 12
    else do
      w.contextQuiet
      if w.m.copyTranslated w.s.unit.ctx then .error (.wait .copyEngine) else .ok w

def execTlbinv (st : Fin 16) (a b : Reg) (s : State) : Host.Outcome State Fault Refusal :=
  issue (.tlbinv st a b) (bodyTlbinv b) s

/-! ### Context images (15 R386) -/

/-- The part mask of an image operand. -/
def imageMask (a : Word) : Nat := bitsN a 0 12

/-- Whether a mask has a reserved bit (15 R385). -/
def maskReserved (mask : Nat) : Bool := partOn mask 7 || partOn mask 10 || partOn mask 11

/-- Whether a copy's token goes to a register of the supervisor bank. -/
def Copy.inBank (c : Copy) : Bool := c.sup && decide (24 ≤ c.treg) && !c.bySeq

/-- The registers x1 to x31 and the sequencers of slot n replaced: their outstanding tokens go to saved images only, while the
supervisor bank keeps what it awaits (11 R286; 15 R386). -/
def Mach.forgetTokens (m : Mach) (n : Nat) : Mach :=
  m.mapCopies (fun c => if (c.home = .slot n ∨ c.home = .sequencer n) ∧ !c.inBank then { c with home := .gone } else c)

/-- 15 R386: writes the selected parts of the slot's context to the image at xa. -/
def bodyCtxsave (a : Reg) (w : Work) : M Work :=
  do
    let a := w.x a.val
    let mask := imageMask a
    if maskReserved mask then raise w cSHAPE_INVALID 12
    else do
      let n := w.m.cur
      let base := keepBits a 12 52
      let im : ImageAt := { base := base, slot := n, spt := w.ctx.spt, sup := true }
      let w ← im.probed 1 mask w
      let owns := w.core.owner == some n
      let drop (p : Nat) (keep : Bool) (k : Nat) : Nat := if partOn k p && !keep then k - 2 ^ p else k
      let kept := drop 9 false (drop pT owns (drop pC w.s.unit.ccs (drop pL w.s.unit.clsp mask)))
      if im.runsBusy kept false w then .error (.wait .ownedLine) else
      let w := w.mapThr (fun t => { t with wins := [] })
      let w ← im.writeApart kept w
      let m := w.m.putSide n base kept
      let w := { w with m := if partOn kept pS then m.awaitTokens n base else m }
      let w := (w.setS w.s.clearLinks).mapThr (fun t => { t with fibre := none })
      .ok (if partOn mask 9 && partOn kept pT then w.releaseTile n else w)

def execCtxsave (st : Fin 16) (a : Reg) (s : State) : Host.Outcome State Fault Refusal :=
  issue (.ctxsave st a) (bodyCtxsave a) s

/-- Whether a restore of the parts of a mask writes a register: the windows open on it close, as a variable-latency result closes them
(02 R31, R32). -/
def restoresReg (mask : Nat) : OldReg → Bool
  | .x sup _ _ => partOn mask pS && !sup
  | .v _ _ => partOn mask pV
  | .m _ _ => partOn mask pM
  | .k _ _ => partOn mask pK

/-- 15 R386; 08 R210; 11 R286: restores the selected parts of the image at xa into the slot. -/
def bodyCtxrest (a : Reg) (w : Work) : M Work :=
  do
    let a := w.x a.val
    let mask := imageMask a
    if maskReserved mask || partOn mask 9 || (partOn mask 8 && mask != 256) then raise w cSHAPE_INVALID 12
    else do
      let w1 ← w.restoreParts (keepBits a 12 52) mask
      let w1 := w1.mapThr (fun t => { t with wins := dropRegs (restoresReg mask) t.wins })
      if partOn mask pS then
        let w2 := (Work.mapThr { w1 with m := w1.m.forgetTokens w1.m.cur } (fun t => { t with pend := t.pend.filter (fun p => p.sup) }))
        match w2.s.thr.fibre with
        | none => .ok w2
        | some f =>
          match w2.readFibre f.desc f.pos with
          | .ok (g, w3) => .ok (w3.mapThr (fun t => { t with fibre := some g }))
          | .error (.trap _ t) => .error (.trap w t)
          | .error e => .error e
      else .ok w1

def execCtxrest (st : Fin 16) (a : Reg) (s : State) : Host.Outcome State Fault Refusal :=
  issue (.ctxrest st a) (bodyCtxrest a) s

end Sys2Proof.Machine
end

