-- ==== Sys2Proof/Machine/Observe.lean ====
section
/-! DEFINITION. Debug and trace instructions: `brk`, `tmark` and `smpl` (16 R394 to R401). -/

namespace Sys2Proof.Machine

/-- 16 R397: BREAKPOINT with the code of B; with `dbgctl`.BH the unit halts instead. The `brk` does not complete. -/
def bodyBrk (b : Reg) (w : Work) : M Work :=
  if bitB w.s.sup.dbgctl 4 then do
    w.drained
    .ok (w.haltUnit w.s.regs.pc w.s.regs.pc)
  else raise w cBREAKPOINT (BitVec.ofNat 64 b.val)

def execBrk (st : Fin 16) (b : Reg) (s : State) : Host.Outcome State Fault Refusal :=
  issue (.brk st b) (bodyBrk b) s

/-- 16 R394: writes a mark record with xa where `trcctl`.MARK is 1, once every earlier access of the thread is performed. -/
def bodyTmark (a : Reg) (w : Work) : M Work :=
  if bitB w.s.sup.trcctl 1 then do
    w.performed
    w.trace 2 (w.s.ctl.vstripno.toNat + 2 ^ 32 - 1) w.s.regs.pc (w.x a.val) 0 0 0
  else .ok w

def execTmark (st : Fin 16) (a : Reg) (s : State) : Host.Outcome State Fault Refusal :=
  issue (.tmark st a) (bodyTmark a) s

/-- 16 R399: arms the next sample and gives it xa as its tag. -/
def bodySmpl (a : Reg) (w : Work) : M Work :=
  .ok (w.mapSup (fun p => { p with smplctl := putBit p.smplctl 20 true, smplTag := w.x a.val }))

def execSmpl (st : Fin 16) (a : Reg) (s : State) : Host.Outcome State Fault Refusal :=
  issue (.smpl st a) (bodySmpl a) s

end Sys2Proof.Machine
end

