-- ==== Sys2Proof/Machine/Ordering.lean ====
section
/-! DEFINITION. Scopes, barriers and watermark waits (12 R296 to R311). -/

namespace Sys2Proof.Machine

/-! ### fence, acq, rel (12 R298, R301, R302) -/

/-- 12 R298: at system scope it waits until every earlier access of the thread is performed at its home; otherwise it has no effect. -/
def bodyFence (k : Fin 8) (w : Work) : M Work :=
  if k.val = 3 ∧ w.s.unit.remoteOut ≠ 0 then .error (.wait .remote) else .ok w

def execFence (st : Fin 16) (k : Fin 8) (s : State) : Host.Outcome State Fault Refusal :=
  issue (.fence st k) (bodyFence k) s

/-- 12 R298: at system scope it waits for the values of earlier loads, which every earlier load of the model has returned. -/
def bodyAcq (w : Work) : M Work :=  .ok w

def execAcq (st : Fin 16) (k : Fin 8) (s : State) : Host.Outcome State Fault Refusal :=
  issue (.acq st k) bodyAcq s

/-- 12 R298, R302: at system scope it waits until every earlier access of the thread, and every earlier write of the package, is performed at its home. -/
def bodyRel (k : Fin 8) (w : Work) : M Work :=
  if k.val = 3 ∧ w.m.slots.any (fun p => p.2.unit.remoteOut != 0) then .error (.wait .remote) else .ok w

def execRel (st : Fin 16) (k : Fin 8) (s : State) : Host.Outcome State Fault Refusal :=
  issue (.rel st k) (bodyRel k) s

/-! ### Barriers (12 R304 to R308, R310) -/

/-- The index of the barrier slot that a number and G name at a cluster. -/
def Work.barrierSlot (w : Work) (pkg : Bool) (cluster : Nat) (s : Nat) : M (Nat × Barrier) :=
  let ix := barrierIx pkg cluster s
  let b := w.m.barrier ix
  if b.ctx = some w.s.unit.ctx then .ok (ix, b)
  else raise w cACCESS_VIOLATION (detailAddr 12 (BitVec.ofNat 64 s))

/-- The cluster of the running slot's core. -/
def Work.cluster (w : Work) : Nat := clusterOf w.m.cur

/-- 12 R306: EXPECT := X[B], ARRIVED := 0, GEN advances. -/
def bodyBarinit (a b : Reg) (g : Bool) (w : Work) : M Work :=
  do
    let s := w.x a.val
    let n := w.x b.val
    if 63 < s.toNat then raise w cBOUNDS s
    else if 0xFFFFFFFF < n.toNat then raise w cBOUNDS n
    else do
      let (ix, slot) ← w.barrierSlot g w.cluster s.toNat
      .ok { w with m := w.m.setBarrier ix { slot with expect := n.setWidth 32, arrived := 0, gen := slot.gen + 1 } }

def execBarinit (st : Fin 16) (a b : Reg) (g : Bool) (s : State) : Host.Outcome State Fault Refusal :=
  issue (.barinit st a b g) (bodyBarinit a b g) s

/-- 12 R307: arrives with the active set bits of mb, as they stand now; `barseq` gets the ticket. -/
def bodyBararr (a b : Reg) (g : Bool) (w : Work) : M Work :=
  do
    let s := w.x a.val
    if 63 < s.toNat then raise w cBOUNDS s
    else do
      let (ix, slot) ← w.barrierSlot g w.cluster s.toNat
      let mask := w.s.regs.getM b.val
      let n := (w.active.filter (fun e => bitB mask e)).length
      let exp := slot.expect.toNat
      let total := slot.arrived.toNat + n
      let tick := if exp = 0 ∨ n = 0 then slot.gen else slot.gen + BitVec.ofNat 32 ((total - 1) / exp)
      let new := if exp = 0 then slot else
        { slot with gen := slot.gen + BitVec.ofNat 32 (total / exp), arrived := BitVec.ofNat 32 (total % exp) }
      let seq := BitVec.ofNat 64 (s.toNat + at_ 6 g.toNat + at_ 7 1 + at_ 8 (if g then 0 else w.cluster) + at_ 32 tick.toNat)
      .ok ({ w with m := w.m.setBarrier ix new }.mapCtl (fun c => { c with barseq := seq, vstart := 0 }))

def execBararr (st : Fin 16) (a b : Reg) (g : Bool) (s : State) : Host.Outcome State Fault Refusal :=
  issue (.bararr st a b g) (bodyBararr a b g) s

/-- The barrier slot of a `barwait`, checked once, before the wait begins: a waiter whose slot has meanwhile been reclaimed or assigned
anew reads what stands there (12 R304, R308). A ticket whose CLID is 48 to 63 names no cluster and so no assigned slot (DESIGN CHOICE,
log 56: no rule says what such a ticket does). -/
def Work.waitedSlot (w : Work) (pkg : Bool) (cluster s : Nat) : M Barrier :=
  if !pkg && decide (48 ≤ cluster) then raise w cACCESS_VIOLATION (detailAddr 12 (BitVec.ofNat 64 s))
  else match w.s.unit.waiting with
    | some (.barrier _) => .ok (w.m.barrier (barrierIx pkg cluster s))
    | _ => (w.barrierSlot pkg cluster s).map (fun p => p.2)

/-- 12 R308: waits until the ticketed generation, or without a ticket the present one, has opened. -/
def bodyBarwait (a : Reg) (g : Bool) (w : Work) : M Work :=
  do
    if w.m.cancelledLid w.s.unit.lid then raise w cCANCELLED 0 else
    let s := w.x a.val
    if 63 < s.toNat then raise w cBOUNDS s
    else do
      let q := w.s.ctl.barseq
      let ticket := bitB q 7 && bitsN q 0 6 == s.toNat && bitB q 6 == g
      let slot ← w.waitedSlot g (if ticket then bitsN q 8 6 else w.cluster) s.toNat
      let target : BitVec 32 := if ticket then BitVec.ofNat 32 (bitsN q 32 32) else
        match w.s.unit.waiting with
        | some (.barrier (some t)) => t
        | _ => slot.gen
      if slot.expect = 0 ∨ slot.gen ≠ target then .ok w
      else .error (.wait (.barrier (if ticket then none else some target)))

def execBarwait (st : Fin 16) (a : Reg) (g : Bool) (s : State) : Host.Outcome State Fault Refusal :=
  issue (.barwait st a g) (bodyBarwait a g) s

/-- 12 R309: waits until every inbound watermark has passed the element bound X[A]. -/
def bodyWmwait (a : Reg) (w : Work) : M Work :=
  if w.m.cancelledLid w.s.unit.lid then raise w cCANCELLED 0
  else w.passWatermarks (w.x a.val).toNat w.s.unit.wms

def execWmwait (st : Fin 16) (a : Reg) (s : State) : Host.Outcome State Fault Refusal :=
  issue (.wmwait st a) (bodyWmwait a) s

/-- 12 R308: a waiting `barwait` is released when its slot's generation has changed or EXPECT has become 0. -/
def execBarwaitRelease (slot : Nat) (s : State) : Host.Outcome State Fault Refusal :=
  heldEvent slot (fun y => match y with | .barrier _ => true | _ => false) (fun i => match i with
    | .barwait _ a g => some (bodyBarwait a g)
    | _ => none) s

/-- 03 R78; 12 R309: a waiting `setvl` or `wmwait` proceeds when its watermarks are satisfied. -/
def execWatermarkSatisfied (slot : Nat) (s : State) : Host.Outcome State Fault Refusal :=
  heldEvent slot (fun y => y == .watermark) (fun i => match i with
    | .setvl _ d a => some (bodySetvl d a)
    | .wmwait _ a => some (bodyWmwait a)
    | _ => none) s

end Sys2Proof.Machine
end

