-- ==== Sys2Proof/Machine/Shake.lean ====
section
/-! DEFINITION. SHAKE256 (13 R321), as the seal hash needs it: one squeeze of 32 bytes. The state is five planes of five
64-bit lanes; what a round needs by number (its constant, the places and the rotations of the lanes) is computed, not listed. -/

namespace Sys2Proof.Machine

/-- A plane: the five lanes of one row. -/
abbrev Plane := List Word

def Plane.xor (p q : Plane) : Plane := List.zipWith (· ^^^ ·) p q

/-- The sum of a sheet's two neighbouring columns is added to each of its lanes. -/
def mixColumns (s : List Plane) : List Plane :=
  let parity := s.foldl Plane.xor (List.replicate 5 0)
  let sum := Plane.xor (parity.rotateRight 1) ((parity.rotateLeft 1).map (fun v => v.rotateLeft 1))
  s.map (Plane.xor sum)

/-- The lanes other than (0, 0) follow one another in a cycle that starts at (1, 0): each goes to its successor's place, the
t-th turned by the t-th triangular number. -/
def moveLanes : Nat → Nat → Nat × Nat → Word → List Plane → List Plane
  | 0, _, _, _, s => s
  | k + 1, t, (x, y), carried, s =>
    let x' := y
    let y' := (2 * x + 3 * y) % 5
    let next := (s.getD y' []).getD x' 0
    moveLanes k (t + 1) (x', y') next (s.modify y' (fun p => p.set x' (carried.rotateLeft (t * (t + 1) / 2 % 64))))

/-- Within a plane, a lane is complemented where the next is 0 and the one after it 1. -/
def mixPlane (p : Plane) : Plane :=
  p.xor (List.zipWith (fun u v => v &&& ~~~u) (p.rotateLeft 1) (p.rotateLeft 2))

/-- The shift register of the round constants, over x^8 + x^6 + x^5 + x^4 + 1. -/
def stepRc (r : Nat) : Nat := if r < 128 then 2 * r else (2 * r) ^^^ 0x171

/-- The constant of a round takes seven bits of the register to its bits 0, 1, 3, 7, 15, 31 and 63; with it, the register
afterwards. -/
def roundConstant (r : Nat) : Word × Nat :=
  (List.range 7).foldl (fun a j => (if a.2 % 2 = 1 then a.1 ||| BitVec.twoPow 64 (2 ^ j - 1) else a.1, stepRc a.2)) (0, r)

/-- The rounds of the permutation that remain. -/
def permuteLanes : Nat → Nat → List Plane → List Plane
  | 0, _, s => s
  | k + 1, r, s =>
    let (rc, r') := roundConstant r
    let m := mixColumns s
    let moved := moveLanes 24 1 (1, 0) ((m.getD 0 []).getD 1 0) m
    permuteLanes k r' ((moved.map mixPlane).modify 0 (fun p => p.modify 0 (· ^^^ rc)))

/-- A message block of 136 bytes as planes; the last eight lanes are the capacity. -/
def blockPlanes (b : List Byte) : List Plane :=
  (List.range 5).map (fun y => (List.range 5).map (fun x => BitVec.ofNat 64 (leNat ((b.drop (40 * y + 8 * x)).take 8))))

/-- Byte i of the last block: what is left of the message, then 1111, a 1, and zeros up to a last 1 that ends the block. -/
def paddedByte (rest : List Byte) (i : Nat) : Byte :=
  rest.getD i (if i = rest.length then 0x1F else 0) ^^^ (if i = 135 then 0x80 else 0)

/-- The first 256 bits of SHAKE256, in output order. -/
def shake256 (m : List Byte) : List Byte :=
  let eat (s : List Plane) (b : List Byte) := permuteLanes 24 1 (List.zipWith Plane.xor s (blockPlanes b))
  let (s, rest) := (List.range (m.length / 136)).foldl (fun a _ => (eat a.1 (a.2.take 136), a.2.drop 136))
    (List.replicate 5 (List.replicate 5 0), m)
  (((eat s ((List.range 136).map (paddedByte rest))).getD 0 []).take 4).flatMap (fun w => leBytes 8 w.toNat)

end Sys2Proof.Machine
end

