-- ==== Sys2Proof/Machine/Recovery.lean ====
section
/-! DEFINITION. Recovery-scope instructions: durability, checkpoint records and their verification (13 R317 to R331). -/

namespace Sys2Proof.Machine

/-! ### Durability (13 R317) -/

/-- RECOVERY_FAULT, detail 1, where the recovery instructions are not enabled (13 R323). -/
def Work.recoveryOn (w : Work) : M Unit :=
  if bitB w.ctx.ckpctl 0 then .ok () else raise w cRECOVERY_FAULT (detailAddr 1 0)

/-- The waits of `relrcv`: the unit's copies complete, its remote accesses acknowledged, its Almanac writes at the
persistence point (13 R317). -/
def Work.durable (w : Work) : M Unit :=
  let u := w.s.unit
  if w.m.copiesOf u.lid u.unit ≠ [] then .error (.wait .copyEngine)
  else if u.remoteOut ≠ 0 then .error (.wait .remote)
  else if u.notDurable ≠ [] then .error (.wait .persist)
  else .ok ()

/-- 13 R317: waits until the thread's covered Almanac writes are at the persistence point. -/
def bodyRelrcv (w : Work) : M Work :=
  do
    w.recoveryOn
    w.durable
    .ok w

def execRelrcv (st : Fin 16) (s : State) : Host.Outcome State Fault Refusal :=
  issue (.relrcv st) bodyRelrcv s

/-! ### Runs of virtual addresses -/

/-- The pieces of a range that lie in one page each: address and length. -/
def pageRuns (a : Word) (len : Nat) : List (Word × Nat) :=
  (pagePieces (a.toNat % 0x1000) len (len / 0x1000 + 2)).map (fun p => (a + BitVec.ofNat 64 (p.1 - a.toNat % 0x1000), p.2))

/-- The places of a range, through the scalar page tables at the thread's level; the lowest failing byte's fault is raised
(03 R68). -/
def Work.runPlaces (w : Work) (acc : Nat) : List (Word × Nat) → M (List (Nat × Nat) × Work)
  | [] => .ok ([], w)
  | (a, n) :: rest => do
    let (l, w) ← liftMiss w a acc (scalarPlace w w.m.cur w.ctx.spt (w.s.regs.level == .supervisor) a acc)
    let (ls, w) ← w.runPlaces acc rest
    .ok ((l, n) :: ls, w)

/-- Whether every byte of a run is an Almanac byte. -/
def Mach.almanacRun (m : Mach) (loc n : Nat) : Bool :=
  m.jobs.any (fun j => j.2.live && j.2.almanac.any (fun r => decide (r.1 ≤ loc) && decide (loc + n ≤ r.1 + r.2))) ||
  (List.range n).all (fun i => m.almanac (loc + i))

/-- The size of a header area: the seal block and the footprint list (13 R319). -/
def headerSize : Nat := 2097280

/-- The record that is open in the running slot. -/
def Work.record (w : Work) : Option OpenRecord := w.s.unit.record

/-- The open record closed. -/
def Work.dropRecord (w : Work) : Work := w.mapUnit (fun u => { u with record := none })

/-- RECOVERY_FAULT with a header address. -/
def raiseRecovery {α : Type} (w : Work) (d : Nat) (h : Word) : M α := raise w cRECOVERY_FAULT (detailAddr d h)

/-- The places of runs, byte by byte. -/
def runLocs (l : List (Nat × Nat)) : List Nat := l.flatMap (fun p => span p.1 p.2)

/-- Bytes of a record written by its own instruction: Almanac writes of the unit that are not yet at the persistence point, one
single-copy atomic write where `whole`. They enter no footprint (13 R319, R325, R326). -/
def Work.putRecord (w : Work) (whole : Bool) (locs : List Nat) (data : List Byte) : Work :=
  let w := w.noteBytes w.s.unit.lid w.s.unit.unit whole (locs.zip data)
  let w := (locs.zip data).foldl (fun w p => w.putByte p.1 p.2) w
  w.mapUnit (fun u => { u with notDurable := locs.foldl (fun l x => insertLine (lineOf x) l) u.notDurable })

/-- The bytes of runs. -/
def Work.getRuns (w : Work) (l : List (Nat × Nat)) : List Byte := l.flatMap (fun p => w.bytes p.1 p.2)

/-- The result of a walk over the pages of a header area whose check fails: the trap has no effect, but for the errors that its reads
corrected (13 R314, R325). -/
def Work.noEffect {α : Type} (w : Work) : M α → M α
  | .error (.trap w1 t) => .error (.trap (w.corrected w1) t)
  | r => r

/-- The checks of `ckpbeg`, in the order of 13 R325, and its wait: the places of the seal block. -/
def Work.beginRecord (w : Work) (a b : Reg) : M (List Nat × Work) := do
  w.recoveryOn
  let h := w.x b.val
  if w.record.isSome then raiseRecovery w 2 (match w.record with | some r => r.hdr | none => 0)
  else if w.x a.val = 0 then raiseRecovery w 5 h
  else if h.toNat % 128 ≠ 0 then raise w cMISALIGNED h 1
  else do
    let (places, w1) ← w.noEffect (w.runPlaces 1 (pageRuns h headerSize))
    if !places.all (fun p => w1.m.almanacRun p.1 p.2) then raiseRecovery (w.corrected w1) 4 h
    else do
      let w := w1
      w.performed
      let block := (places.take 1).flatMap (fun p => span p.1 128)
      liftMiss w h 1 (writable w.m w.m.cur block)
      .ok (block, w)

/-- The write of `ckpbeg`: 128 zero bytes over the seal block (13 R325). -/
def Work.clearSeal (w : Work) (a b : Reg) : M Work := do
  let (block, w) ← w.beginRecord a b
  .ok (w.putRecord false block (List.replicate 128 0))

/-- The wait for the instruction's own write to be at the persistence point (13 R325, R326). -/
def Work.persisted (w : Work) : M Unit := if w.s.unit.notDurable = [] then .ok () else .error (.wait .persist)

/-- 13 R325: `ckpbeg` clears the seal block, waits until that is at the persistence point, and opens a record. -/
def bodyCkpbeg (a b : Reg) (w : Work) : M Work :=
  if w.s.unit.stage = 0 then do
    let _ ← w.beginRecord a b
    .error (.wait .persist)
  else do
    w.persisted
    let r : OpenRecord := {
      hdr := w.x b.val, seq := w.x a.val, gen := w.ctx.rpgen, ovf := false, cerr := false, listed := 0, lines := [] }
    .ok (w.mapUnit (fun u => { u with record := some r }))

def execCkpbeg (st : Fin 16) (a b : Reg) (s : State) : Host.Outcome State Fault Refusal :=
  if s.work.s.unit.stage = 0 then issueStage (.ckpbeg st a b) (fun w => w.clearSeal a b) s
  else issue (.ckpbeg st a b) (bodyCkpbeg a b) s

/-- The bytes of the seal's message for one footprint line (13 R321). -/
def Work.lineMessage (w : Work) (l : Nat × Nat) : List Byte := leBytes 8 l.1 ++ w.bytes l.2 64

/-- The seal hash (13 R321). -/
def Work.sealHash (w : Work) (seq : Word) (gen : Nat) (resume : Word) (lines : List (Nat × Nat)) : List Byte :=
  shake256 (leBytes 8 seq.toNat ++ leBytes 8 gen ++ leBytes 8 lines.length ++ leBytes 8 resume.toNat ++
    lines.flatMap w.lineMessage)

/-- Whether the resume table lies in footprint lines and is well formed (13 R329). -/
def Work.resumeOk (w : Work) (r : OpenRecord) (resume : Word) : Bool :=
  resume.toNat % 64 == 0 &&
  (match r.lines.find? (fun l => l.1 = resume.toNat) with
   | none => false
   | some l =>
     let count := w.num l.2 8
     decide (1 ≤ count) && decide (count ≤ 16384) &&
     (List.range (ceilDiv (64 + 32 * count) 64)).all (fun i => r.lines.any (fun e => e.1 == resume.toNat + 64 * i)))

/-- The lines of runs that have one good copy scrubbed, as their reads do it (13 R314). -/
def Work.scrubRuns (w : Work) (l : List (Nat × Nat)) : Work := l.foldl (fun w p => w.scrubRange p.1 p.2) w

/-- The open record of `ckpseal`, with the two checks that come first, before its first write (13 R326). -/
def Work.toSeal (w : Work) : M OpenRecord := do
  if w.s.unit.stage = 0 then w.recoveryOn else .ok ()
  match w.record with
  | none => raiseRecovery w 3 0
  | some r => .ok r

/-- The wait and the checks of `ckpseal`, in the order of 13 R326. -/
def Work.sealable (w : Work) (r : OpenRecord) (resume : Word) : M Unit := do
  w.durable
  if r.ovf then raiseRecovery w.dropRecord 6 r.hdr
  else if r.cerr then raiseRecovery w.dropRecord 7 r.hdr
  else if r.lines.any (fun l => decide (r.hdr.toNat < l.1 + 64) && decide (l.1 < r.hdr.toNat + headerSize)) then
    raiseRecovery w.dropRecord 9 r.hdr
  else if resume ≠ 0 ∧ !w.resumeOk r resume then raiseRecovery w 8 r.hdr
  else .ok ()

/-- Bytes 0 to 7 of a seal block (13 R320). -/
def sealHead (lines : Nat) : List Byte := leBytes 4 0x5EA10002 ++ leBytes 4 lines

/-- Bytes 8 to 127 of the seal block of a record, with the recovery point of the context (13 R320, R321). -/
def Work.sealBody (w : Work) (r : OpenRecord) (resume : Word) : List Byte :=
  leBytes 8 r.seq.toNat ++ leBytes 8 r.gen.toNat ++ leBytes 8 resume.toNat ++ leBytes 8 w.ctx.rpbase.toNat ++
  leBytes 8 w.ctx.rpseq.toNat ++ List.replicate 16 0 ++ w.sealHash r.seq r.gen.toNat resume r.lines ++ List.replicate 32 0

/-- The footprint list of a record (13 R320). -/
def OpenRecord.list (r : OpenRecord) : List Byte := r.lines.flatMap (fun l => leBytes 8 l.1)

/-- The places of n bytes of a record from an offset, to be written now. -/
def Work.recordPlaces (w : Work) (h : Word) (off n : Nat) : M (List Nat × Work) := do
  let (places, w) ← w.runPlaces 1 (pageRuns (h + BitVec.ofNat 64 off) n)
  liftMiss w h 1 (writable w.m w.m.cur (runLocs places))
  .ok (runLocs places, w)

/-- The first write of `ckpseal`: the footprint list, and bytes 8 to 127 of the seal block. -/
def Work.writeSeal (w : Work) (r : OpenRecord) (a : Reg) : M Work := do
  let resume := w.x a.val
  w.sealable r resume
  let (locs, w) ← w.recordPlaces r.hdr 8 (120 + r.list.length)
  let w := w.scrubRuns (r.lines.map (fun l => (l.2, 64)))
  let w := w.putRecord false locs (w.sealBody r resume ++ r.list)
  .ok (w.mapUnit (fun u => { u with record := some { r with listed := r.lines.length } }))

/-- The second write of `ckpseal`: bytes 0 to 7, MAGIC and LINES, as one. -/
def Work.writeMagic (w : Work) (r : OpenRecord) : M Work := do
  w.persisted
  let (locs, w) ← w.recordPlaces r.hdr 0 8
  .ok (w.putRecord true locs (sealHead r.listed))

/-- The write that `ckpseal` makes next (13 R326). -/
def Work.sealStep (w : Work) (a : Reg) : M Work := do
  let r ← w.toSeal
  if w.s.unit.stage = 0 then w.writeSeal r a else w.writeMagic r

/-- 13 R326: `ckpseal` makes the record durable, writes the footprint list and the seal block, MAGIC last, and closes the record
once its own writes are at the persistence point. -/
def bodyCkpseal (a : Reg) (w : Work) : M Work := do
  let r ← w.toSeal
  if w.s.unit.stage = 0 then do
    w.sealable r (w.x a.val)
    .error (.wait .persist)
  else if w.s.unit.stage = 1 then .error (.wait .persist)
  else do
    w.persisted
    .ok w.dropRecord

def execCkpseal (st : Fin 16) (a : Reg) (s : State) : Host.Outcome State Fault Refusal :=
  if s.work.s.unit.stage < 2 then issueStage (.ckpseal st a) (fun w => w.sealStep a) s
  else issue (.ckpseal st a) (bodyCkpseal a) s

/-! ### Verification (13 R328) -/

/-- A sealed record as its header holds it. -/
structure SealBlock where
  magic : Nat
  count : Nat
  seq : Word
  gen : Nat
  resume : Word
  prev : Word
  pseq : Word
  reserved : Bool
  hash : List Byte
  deriving DecidableEq, Repr

/-- The seal block in 128 bytes (13 Table 13.1). -/
def readSeal (b : List Byte) : SealBlock :=
  let g (o n : Nat) : Nat := leNat ((b.drop o).take n)
  { magic := g 0 4, count := g 4 4, seq := BitVec.ofNat 64 (g 8 8), gen := g 16 4, resume := BitVec.ofNat 64 (g 24 8),
    prev := BitVec.ofNat 64 (g 32 8), pseq := BitVec.ofNat 64 (g 40 8),
    reserved := g 20 4 != 0 || g 48 16 != 0 || g 96 32 != 0, hash := (b.drop 64).take 32 }

/-- Numbers strictly rising. -/
def rising : List Nat → Bool
  | x :: y :: t => decide (x < y) && rising (y :: t)
  | _ => true

/-- The place of a footprint line: through the scalar page tables or the vector page table (13 R314). -/
def Work.linePlace (w : Work) (a : Nat) : Option Nat :=
  match scalarPlace w w.m.cur w.ctx.spt (w.s.regs.level == .supervisor) (BitVec.ofNat 64 a) 0 with
  | .ok (l, _) => some l
  | .error _ => match vectorPlace w.m w.m.cur (BitVec.ofNat 64 a) false false with
    | .ok l => some l
    | .error _ => none

/-- The first bytes of the lines of runs. -/
def linesRun (l : List (Nat × Nat)) : List Nat :=
  l.flatMap (fun p => (List.range (ceilDiv (p.1 + p.2) 64 - p.1 / 64)).map (fun i => 64 * (p.1 / 64 + i)))

/-- The bytes of runs as a check of a record reads them: those of a line that is bad in every copy are free values. -/
def Work.checkRuns (w : Work) (i : Nat) (l : List (Nat × Nat)) : List Byte :=
  if (linesRun l).any w.m.poisoned then
    (runLocs l).map (fun x => if w.m.poisoned x then Config.unreadable i x else w.byte x)
  else w.getRuns l

/-- Whether a seal block says that its record is sealed (13 R328). -/
def SealBlock.sealed (b : SealBlock) : Bool := b.magic == 0x5EA10002 && decide (b.count ≤ 262144) && !b.reserved

/-- The entries of a footprint list; none where one is no multiple of 64 or they do not rise (13 R328). -/
def listLines (count : Nat) (bytes : List Byte) : List Nat :=
  let lines := (List.range count).map (fun i => leNat ((bytes.drop (8 * i)).take 8))
  if lines.all (fun l => l % 64 == 0) && rising lines then lines else []

/-- The footprint lines of a list, each with its place as `place` translates it; none where an entry fails a test of 13 R328. -/
def Work.listed (w : Work) (place : Nat → Option Nat) (count : Nat) (bytes : List Byte) : Option (List (Nat × Nat)) :=
  let lines := listLines count bytes
  if lines.length = count then lines.mapM (fun l => (place l).bind (fun x => if w.m.almanac x then some (l, x) else none)) else none

/-- What the check of a record has found: its STATUS, the runs that it has read, and the addresses that it has translated. -/
structure Checked where
  status : Nat
  read : List (Nat × Nat)
  pages : List Nat
  deriving DecidableEq, Repr

/-- STATUS of a record whose seal block, an Almanac block, is read, given how a footprint line's address is translated; `i` names
the check to the free values (13 R328). -/
def Work.verify (w : Work) (i : Nat) (place : Nat → Option Nat) (b : SealBlock) (block list : List (Nat × Nat)) : Checked :=
  if !b.sealed then { status := 1, read := block, pages := [] }
  else match w.listed place b.count (w.checkRuns i list) with
    | none => { status := 3, read := block ++ list, pages := listLines b.count (w.checkRuns i list) }
    | some lines =>
      let read := block ++ list ++ lines.map (fun l => (l.2, 64))
      { status := if (linesRun read).any w.m.poisoned then 4 else if w.sealHash b.seq b.gen b.resume lines ≠ b.hash then 2 else 0
        read := read
        pages := lines.map (fun l => l.1) }

/-- The check of `ckpverify` at header address h: the seal block and what was found. It never raises MEMORY_POISON: a record whose
header or list cannot be translated because a table entry is bad in every copy is unreadable (STATUS 4), while a footprint entry that
cannot is one that fails translation (STATUS 3) (DESIGN CHOICE, log 58: 13 R328 does not say which STATUS that is). -/
def Work.checkRecord (w : Work) (h : Word) : M (SealBlock × Checked × Work) :=
  let unread (r : M (SealBlock × Checked × Work)) : M (SealBlock × Checked × Work) :=
    match r with
    | .error (.trap w1 t) =>
      if t.cause = cMEMORY_POISON then .ok (readSeal [], { status := 4, read := [], pages := [] }, w1) else .error (.trap w1 t)
    | r => r
  unread (do
    let (block, w) ← w.runPlaces 0 (pageRuns h 128)
    liftMiss w h 0 (readable w.m (linesRun block))
    let memory := w.base
    let w ← w.readApart (fun _ => runLocs block)
    let (i, w) := w.draw
    let b := readSeal (w.checkRuns i block)
    if !block.all (fun p => w.m.almanac p.1) then .ok (b, { status := 3, read := block, pages := [] }, { w with base := memory })
    else if !b.sealed then .ok (b, w.verify i w.linePlace b block [], { w with base := memory })
    else do
      let (list, w) ← w.runPlaces 0 (pageRuns (h + 128) (8 * b.count))
      let w ← w.readApart (fun _ => runLocs list)
      let r := w.verify i w.linePlace b block list
      liftMiss w h 0 (readable w.m (linesRun r.read))
      let w ← w.readApart (fun _ => runLocs (r.read.drop (block.length + list.length)))
      .ok (b, w.verify i w.linePlace b block list, { w with base := memory }))

/-- The walks of a check through a context's page tables, as agent `who`, with the good Almanac copies of their entries written back
(13 R314). -/
def Work.scrubWalks (w : Work) (who : Nat) (spt : Word) (pages : List Nat) : Work :=
  pages.foldl (fun w a => w.scrubWalk who spt a) w

/-- 13 R328: verifies a sealed record and, where asked, advances the recovery point. -/
def bodyCkpverify (d a : Reg) (w : Work) : M Work :=
  do
    w.recoveryOn
    let v := w.x a.val
    if bitsN v 1 6 ≠ 0 then raise w cMISALIGNED v
    else do
      let h := putBit v 0 false
      let (b, r, w) ← w.checkRecord h
      let w := (w.scrubRuns r.read).scrubWalks w.m.cur w.ctx.spt r.pages
      let status := r.status
      let x := w.ctx
      let reason := if status ≠ 0 ∨ !bitB v 0 then 0
        else if !bitB x.ckpctl 1 then 1
        else if b.gen ≠ x.rpgen.toNat then 2
        else if b.seq.toNat ≤ x.rpseq.toNat then 3 else 0
      let adv := status = 0 ∧ bitB v 0 ∧ reason = 0
      let w1 := if adv then w.setCtx { x with rpbase := h, rpseq := b.seq } else w
      .ok (w1.setX d.val (BitVec.ofNat 64 (status + at_ 4 (if adv then 1 else 0) + at_ 5 reason)))

def execCkpverify (st : Fin 16) (d a : Reg) (s : State) : Host.Outcome State Fault Refusal :=
  issue (.ckpverify st d a) (bodyCkpverify d a) s

/-- 13 R327: closes an open record and writes nothing. -/
def bodyCkpabort (w : Work) : M Work :=
  do
    w.recoveryOn
    .ok w.dropRecord

def execCkpabort (st : Fin 16) (s : State) : Host.Outcome State Fault Refusal :=
  issue (.ckpabort st) bodyCkpabort s

/-- 13 R331: reads `rpbase`, `rpseq` or `rpgen` of the slot's context. -/
def bodyRprd (d b : Reg) (w : Work) : M Work :=
  let x := w.ctx
  .ok (w.setX d.val (if b.val = 0 then x.rpbase else if b.val = 1 then x.rpseq else x.rpgen.setWidth 64))

def execRprd (st : Fin 16) (d b : Reg) (s : State) : Host.Outcome State Fault Refusal :=
  issue (.rprd st d b) (bodyRprd d b) s

end Sys2Proof.Machine
end

