-- ==== Sys2Proof/Machine/Scalar.lean ====
section
/-! DEFINITION. Scalar integer instructions (03 R60 to R66). -/

namespace Sys2Proof.Machine

/-! ### Division (03 R62) -/

/-- The quotient of `div` and `divn` on the integers that the operands stand for. -/
def quotient (bits : Nat) (a b : Int) : Nat := if b = 0 then 2 ^ bits - 1 else intBits bits (a.tdiv b)

/-- The remainder. -/
def remainder (bits : Nat) (a b : Int) : Nat := if b = 0 then intBits bits a else intBits bits (a.tmod b)

/-! ### Bit fields and counts (03 R63, R64) -/

/-- Position and width of the field that xB describes, cut at bit 63. -/
def fieldPos (b : Word) : Nat := bitsN b 0 6
def fieldWidth (b : Word) : Nat := min (bitsN b 6 6 + 1) (64 - fieldPos b)

/-- The number of one bits among the low n. -/
def countOnes (x : Word) : Nat → Nat
  | 0 => 0
  | n + 1 => countOnes x n + (bitB x n).toNat

/-- The place of the lowest one bit at or above 64 - n, 64 where there is none. -/
def lowestOne (x : Word) : Nat → Nat
  | 0 => 64
  | n + 1 => if bitB x (63 - n) then 63 - n else lowestOne x n

/-- The number of zero bits above the highest one bit. -/
def leadingZeros (x : Word) : Nat := if x = 0 then 64 else 63 - Nat.log2 x.toNat

/-! ### Register forms (03 R61 to R64) -/

/-- 03 Table 3.1: X[D] := A + B. -/
def bodyAdd (d a b : Reg) (w : Work) : M Work := w.alu d a b (fun x y => x + y)

def execAdd (st : Fin 16) (d a b : Reg) (s : State) : Host.Outcome State Fault Refusal :=
  issue (.add st d a b) (bodyAdd d a b) s

/-- 03 Table 3.1: X[D] := A - B. -/
def bodySub (d a b : Reg) (w : Work) : M Work := w.alu d a b (fun x y => x - y)

def execSub (st : Fin 16) (d a b : Reg) (s : State) : Host.Outcome State Fault Refusal :=
  issue (.sub st d a b) (bodySub d a b) s

/-- 03 Table 3.1: bitwise AND. -/
def bodyAnd (d a b : Reg) (w : Work) : M Work := w.alu d a b (fun x y => x &&& y)

def execAnd (st : Fin 16) (d a b : Reg) (s : State) : Host.Outcome State Fault Refusal :=
  issue (.and st d a b) (bodyAnd d a b) s

/-- 03 Table 3.1: bitwise OR. -/
def bodyOr (d a b : Reg) (w : Work) : M Work := w.alu d a b (fun x y => x ||| y)

def execOr (st : Fin 16) (d a b : Reg) (s : State) : Host.Outcome State Fault Refusal :=
  issue (.or st d a b) (bodyOr d a b) s

/-- 03 Table 3.1: bitwise XOR. -/
def bodyXor (d a b : Reg) (w : Work) : M Work := w.alu d a b (fun x y => x ^^^ y)

def execXor (st : Fin 16) (d a b : Reg) (s : State) : Host.Outcome State Fault Refusal :=
  issue (.xor st d a b) (bodyXor d a b) s

/-- 03 Table 3.1: shift left by B[5:0], zeros in. -/
def bodySll (d a b : Reg) (w : Work) : M Work := w.alu d a b (fun x y => x <<< bitsN y 0 6)

def execSll (st : Fin 16) (d a b : Reg) (s : State) : Host.Outcome State Fault Refusal :=
  issue (.sll st d a b) (bodySll d a b) s

/-- 03 Table 3.1: shift right by B[5:0], zeros in. -/
def bodySrl (d a b : Reg) (w : Work) : M Work := w.alu d a b (fun x y => x >>> bitsN y 0 6)

def execSrl (st : Fin 16) (d a b : Reg) (s : State) : Host.Outcome State Fault Refusal :=
  issue (.srl st d a b) (bodySrl d a b) s

/-- 03 Table 3.1: shift right by B[5:0], copies of A[63] in. -/
def bodySra (d a b : Reg) (w : Work) : M Work := w.alu d a b (fun x y => x.sshiftRight (bitsN y 0 6))

def execSra (st : Fin 16) (d a b : Reg) (s : State) : Host.Outcome State Fault Refusal :=
  issue (.sra st d a b) (bodySra d a b) s

/-- 03 Table 3.1: 1 if A < B signed. -/
def bodySlt (d a b : Reg) (w : Work) : M Work := w.alu d a b (fun x y => boolWord (x.slt y))

def execSlt (st : Fin 16) (d a b : Reg) (s : State) : Host.Outcome State Fault Refusal :=
  issue (.slt st d a b) (bodySlt d a b) s

/-- 03 Table 3.1: 1 if A < B unsigned. -/
def bodySltn (d a b : Reg) (w : Work) : M Work := w.alu d a b (fun x y => boolWord (x.ult y))

def execSltn (st : Fin 16) (d a b : Reg) (s : State) : Host.Outcome State Fault Refusal :=
  issue (.sltn st d a b) (bodySltn d a b) s

/-- 03 Table 3.1: the signed minimum. -/
def bodyMin (d a b : Reg) (w : Work) : M Work := w.alu d a b (fun x y => if y.slt x then y else x)

def execMin (st : Fin 16) (d a b : Reg) (s : State) : Host.Outcome State Fault Refusal :=
  issue (.min st d a b) (bodyMin d a b) s

/-- 03 Table 3.1: the signed maximum. -/
def bodyMax (d a b : Reg) (w : Work) : M Work := w.alu d a b (fun x y => if x.slt y then y else x)

def execMax (st : Fin 16) (d a b : Reg) (s : State) : Host.Outcome State Fault Refusal :=
  issue (.max st d a b) (bodyMax d a b) s

/-- 03 Table 3.1: the unsigned minimum. -/
def bodyMinn (d a b : Reg) (w : Work) : M Work := w.alu d a b (fun x y => if y.ult x then y else x)

def execMinn (st : Fin 16) (d a b : Reg) (s : State) : Host.Outcome State Fault Refusal :=
  issue (.minn st d a b) (bodyMinn d a b) s

/-- 03 Table 3.1: the unsigned maximum. -/
def bodyMaxn (d a b : Reg) (w : Work) : M Work := w.alu d a b (fun x y => if x.ult y then y else x)

def execMaxn (st : Fin 16) (d a b : Reg) (s : State) : Host.Outcome State Fault Refusal :=
  issue (.maxn st d a b) (bodyMaxn d a b) s

/-- 03 Table 3.1: bits [63:0] of A x B. -/
def bodyMul (d a b : Reg) (w : Work) : M Work := w.alu d a b (fun x y => x * y)

def execMul (st : Fin 16) (d a b : Reg) (s : State) : Host.Outcome State Fault Refusal :=
  issue (.mul st d a b) (bodyMul d a b) s

/-- 03 Table 3.1: bits [127:64] of the signed product. -/
def bodyMulh (d a b : Reg) (w : Work) : M Work := w.alu d a b (fun x y => wordOfInt (x.toInt * y.toInt / 2 ^ 64))

def execMulh (st : Fin 16) (d a b : Reg) (s : State) : Host.Outcome State Fault Refusal :=
  issue (.mulh st d a b) (bodyMulh d a b) s

/-- 03 Table 3.1: bits [127:64] of the unsigned product. -/
def bodyMulhn (d a b : Reg) (w : Work) : M Work := w.alu d a b (fun x y => BitVec.ofNat 64 (x.toNat * y.toNat / 2 ^ 64))

def execMulhn (st : Fin 16) (d a b : Reg) (s : State) : Host.Outcome State Fault Refusal :=
  issue (.mulhn st d a b) (bodyMulhn d a b) s

/-- 03 Table 3.1: signed quotient, toward zero; the corners of R62. -/
def bodyDiv (d a b : Reg) (w : Work) : M Work := w.alu d a b (fun x y => BitVec.ofNat 64 (quotient 64 x.toInt y.toInt))

def execDiv (st : Fin 16) (d a b : Reg) (s : State) : Host.Outcome State Fault Refusal :=
  issue (.div st d a b) (bodyDiv d a b) s

/-- 03 Table 3.1: unsigned quotient. -/
def bodyDivn (d a b : Reg) (w : Work) : M Work := w.alu d a b (fun x y => BitVec.ofNat 64 (quotient 64 x.toNat y.toNat))

def execDivn (st : Fin 16) (d a b : Reg) (s : State) : Host.Outcome State Fault Refusal :=
  issue (.divn st d a b) (bodyDivn d a b) s

/-- 03 Table 3.1: signed remainder, with the sign of A. -/
def bodyRem (d a b : Reg) (w : Work) : M Work := w.alu d a b (fun x y => BitVec.ofNat 64 (remainder 64 x.toInt y.toInt))

def execRem (st : Fin 16) (d a b : Reg) (s : State) : Host.Outcome State Fault Refusal :=
  issue (.rem st d a b) (bodyRem d a b) s

/-- 03 Table 3.1: unsigned remainder. -/
def bodyRemn (d a b : Reg) (w : Work) : M Work := w.alu d a b (fun x y => BitVec.ofNat 64 (remainder 64 x.toNat y.toNat))

def execRemn (st : Fin 16) (d a b : Reg) (s : State) : Host.Outcome State Fault Refusal :=
  issue (.remn st d a b) (bodyRemn d a b) s

/-- 03 R63: the field of xa, zero-extended. -/
def bodyBext (d a b : Reg) (w : Work) : M Work := w.alu d a b (fun x y => BitVec.ofNat 64 (bitsN x (fieldPos y) (fieldWidth y)))

def execBext (st : Fin 16) (d a b : Reg) (s : State) : Host.Outcome State Fault Refusal :=
  issue (.bext st d a b) (bodyBext d a b) s

/-- 03 R63: the field of xd replaced with the low bits of xa; xd is read. -/
def bodyBins (d a b : Reg) (w : Work) : M Work :=
  .ok (w.setX d.val (putBits (w.x d.val) (fieldPos (w.x b.val)) (fieldWidth (w.x b.val)) (w.x a.val).toNat))

def execBins (st : Fin 16) (d a b : Reg) (s : State) : Host.Outcome State Fault Refusal :=
  issue (.bins st d a b) (bodyBins d a b) s

/-- 03 R64: leading zero bits; 64 for zero. -/
def bodyClz (d a : Reg) (w : Work) : M Work := w.alu1 d a (fun x => BitVec.ofNat 64 (leadingZeros x))

def execClz (st : Fin 16) (d a : Reg) (s : State) : Host.Outcome State Fault Refusal :=
  issue (.clz st d a) (bodyClz d a) s

/-- 03 R64: trailing zero bits; 64 for zero. -/
def bodyCtz (d a : Reg) (w : Work) : M Work := w.alu1 d a (fun x => BitVec.ofNat 64 (lowestOne x 64))

def execCtz (st : Fin 16) (d a : Reg) (s : State) : Host.Outcome State Fault Refusal :=
  issue (.ctz st d a) (bodyCtz d a) s

/-- 03 R64: one bits. -/
def bodyPopc (d a : Reg) (w : Work) : M Work := w.alu1 d a (fun x => BitVec.ofNat 64 (countOnes x 64))

def execPopc (st : Fin 16) (d a : Reg) (s : State) : Host.Outcome State Fault Refusal :=
  issue (.popc st d a) (bodyPopc d a) s

/-! ### Immediate forms (03 R65, R66) -/

/-- 03 R65: shift left by n. -/
def bodySlli (d a : Reg) (n : Fin 32) (h : Bool) (w : Work) : M Work := w.alu1 d a (fun x => x <<< shiftAmount n h)

def execSlli (st : Fin 16) (d a : Reg) (n : Fin 32) (h : Bool) (s : State) : Host.Outcome State Fault Refusal :=
  issue (.slli st d a n h) (bodySlli d a n h) s

/-- 03 R65: shift right by n, zeros in. -/
def bodySrli (d a : Reg) (n : Fin 32) (h : Bool) (w : Work) : M Work := w.alu1 d a (fun x => x >>> shiftAmount n h)

def execSrli (st : Fin 16) (d a : Reg) (n : Fin 32) (h : Bool) (s : State) : Host.Outcome State Fault Refusal :=
  issue (.srli st d a n h) (bodySrli d a n h) s

/-- 03 R65: shift right by n, copies of the sign in. -/
def bodySrai (d a : Reg) (n : Fin 32) (h : Bool) (w : Work) : M Work := w.alu1 d a (fun x => x.sshiftRight (shiftAmount n h))

def execSrai (st : Fin 16) (d a : Reg) (n : Fin 32) (h : Bool) (s : State) : Host.Outcome State Fault Refusal :=
  issue (.srai st d a n h) (bodySrai d a n h) s

/-- 03 R65: xa plus the sign-extended IMM11. -/
def bodyAddi (d a : Reg) (imm : BitVec 11) (w : Work) : M Work := w.alu1 d a (fun x => x + imm11 imm)

def execAddi (st : Fin 16) (d a : Reg) (imm : BitVec 11) (s : State) : Host.Outcome State Fault Refusal :=
  issue (.addi st d a imm) (bodyAddi d a imm) s

/-- 03 R65: xa AND the sign-extended IMM11. -/
def bodyAndi (d a : Reg) (imm : BitVec 11) (w : Work) : M Work := w.alu1 d a (fun x => x &&& imm11 imm)

def execAndi (st : Fin 16) (d a : Reg) (imm : BitVec 11) (s : State) : Host.Outcome State Fault Refusal :=
  issue (.andi st d a imm) (bodyAndi d a imm) s

/-- 03 R65: xa OR the sign-extended IMM11. -/
def bodyOri (d a : Reg) (imm : BitVec 11) (w : Work) : M Work := w.alu1 d a (fun x => x ||| imm11 imm)

def execOri (st : Fin 16) (d a : Reg) (imm : BitVec 11) (s : State) : Host.Outcome State Fault Refusal :=
  issue (.ori st d a imm) (bodyOri d a imm) s

/-- 03 R65: xa XOR the sign-extended IMM11. -/
def bodyXori (d a : Reg) (imm : BitVec 11) (w : Work) : M Work := w.alu1 d a (fun x => x ^^^ imm11 imm)

def execXori (st : Fin 16) (d a : Reg) (imm : BitVec 11) (s : State) : Host.Outcome State Fault Refusal :=
  issue (.xori st d a imm) (bodyXori d a imm) s

/-- 03 R66: X[D] shifted left by 16, OR the zero-extended IMM16. -/
def bodyLih (d : Reg) (imm : BitVec 16) (w : Work) : M Work := w.alu1 d d (fun x => (x <<< 16) ||| imm.setWidth 64)

def execLih (st : Fin 16) (d : Reg) (imm : BitVec 16) (s : State) : Host.Outcome State Fault Refusal :=
  issue (.lih st d imm) (bodyLih d imm) s

/-- 03 R66: the address of the instruction plus 4 times the sign-extended IMM16. -/
def bodyAdpc (d : Reg) (imm : BitVec 16) (w : Work) : M Work := .ok (w.setX d.val (target w.s.regs.pc imm))

def execAdpc (st : Fin 16) (d : Reg) (imm : BitVec 16) (s : State) : Host.Outcome State Fault Refusal :=
  issue (.adpc st d imm) (bodyAdpc d imm) s

end Sys2Proof.Machine
end

