-- ==== Sys2Proof/Machine/VecFp.lean ====
section
/-! DEFINITION. Floating-point vector instructions (04 R108 to R113, R116 to R119; 05 R135). -/

namespace Sys2Proof.Machine

/-! ### Floating element operations (04 R108 to R112) -/

/-- An element-wise operation on the values of a and b, in the format and mode of the running slot. -/
def Work.fltOp (w : Work) (d a b : Reg) (sx : Bool) (f : FFmt → Nat → FVal → FVal → FRes) : M Work :=
  w.mapV d (fun e => f w.ffmt w.rm (w.valV a e) (w.valB sx b e))

/-- A fused operation on a, b and the old element of d. -/
def Work.fmaOp (w : Work) (d a b : Reg) (sx negP negD : Bool) : M Work :=
  w.mapV d (fun e => fFma w.ffmt w.rm negP negD (w.valV a e) (w.valB sx b e) (w.valV d e))

/-- 04 Table 4.5: round(a + b). -/
def bodyVaddF (d a b : Reg) (x : Bool) (w : Work) : M Work := w.fltOp d a b x fAdd

def execVaddF (st : Fin 16) (c : Bool) (d a b : Reg) (x : Bool) (s : State) : Host.Outcome State Fault Refusal :=
  issue (.vaddF st c d a b x) (bodyVaddF d a b x) s

/-- 04 Table 4.5: round(a - b). -/
def bodyVsubF (d a b : Reg) (x : Bool) (w : Work) : M Work := w.fltOp d a b x fSub

def execVsubF (st : Fin 16) (c : Bool) (d a b : Reg) (x : Bool) (s : State) : Host.Outcome State Fault Refusal :=
  issue (.vsubF st c d a b x) (bodyVsubF d a b x) s

/-- 04 R110: minimumNumber. -/
def bodyVminF (d a b : Reg) (x : Bool) (w : Work) : M Work := w.mapV d (fun e => fMinMax w.ffmt false (w.elemV a e) (w.elemB x b e))

def execVminF (st : Fin 16) (c : Bool) (d a b : Reg) (x : Bool) (s : State) : Host.Outcome State Fault Refusal :=
  issue (.vminF st c d a b x) (bodyVminF d a b x) s

/-- 04 R110: maximumNumber. -/
def bodyVmaxF (d a b : Reg) (x : Bool) (w : Work) : M Work := w.mapV d (fun e => fMinMax w.ffmt true (w.elemV a e) (w.elemB x b e))

def execVmaxF (st : Fin 16) (c : Bool) (d a b : Reg) (x : Bool) (s : State) : Host.Outcome State Fault Refusal :=
  issue (.vmaxF st c d a b x) (bodyVmaxF d a b x) s

/-- 04 R111: the sign bit cleared; a NaN gives the canonical NaN. -/
def bodyVabsF (d a : Reg) (w : Work) : M Work := w.mapV d (fun e => plain (fAbs w.ffmt (w.elemV a e)))

def execVabsF (st : Fin 16) (c : Bool) (d a : Reg) (s : State) : Host.Outcome State Fault Refusal :=
  issue (.vabsF st c d a) (bodyVabsF d a) s

/-- 04 R111: the sign bit inverted; a NaN gives the canonical NaN. -/
def bodyVnegF (d a : Reg) (w : Work) : M Work := w.mapV d (fun e => plain (fNeg w.ffmt (w.elemV a e)))

def execVnegF (st : Fin 16) (c : Bool) (d a : Reg) (s : State) : Host.Outcome State Fault Refusal :=
  issue (.vnegF st c d a) (bodyVnegF d a) s

/-- 04 Table 4.5: round(a x b). -/
def bodyVmulF (d a b : Reg) (x : Bool) (w : Work) : M Work := w.fltOp d a b x fMul

def execVmulF (st : Fin 16) (c : Bool) (d a b : Reg) (x : Bool) (s : State) : Host.Outcome State Fault Refusal :=
  issue (.vmulF st c d a b x) (bodyVmulF d a b x) s

/-- 04 Table 4.5: round(a x b + d), fused. -/
def bodyVmaddF (d a b : Reg) (x : Bool) (w : Work) : M Work := w.fmaOp d a b x false false

def execVmaddF (st : Fin 16) (c : Bool) (d a b : Reg) (x : Bool) (s : State) : Host.Outcome State Fault Refusal :=
  issue (.vmaddF st c d a b x) (bodyVmaddF d a b x) s

/-- 04 Table 4.5: round(a x b - d), fused. -/
def bodyVmsubF (d a b : Reg) (x : Bool) (w : Work) : M Work := w.fmaOp d a b x false true

def execVmsubF (st : Fin 16) (c : Bool) (d a b : Reg) (x : Bool) (s : State) : Host.Outcome State Fault Refusal :=
  issue (.vmsubF st c d a b x) (bodyVmsubF d a b x) s

/-- 04 Table 4.5: round(d - a x b), fused. -/
def bodyVnmaddF (d a b : Reg) (x : Bool) (w : Work) : M Work := w.fmaOp d a b x true false

def execVnmaddF (st : Fin 16) (c : Bool) (d a b : Reg) (x : Bool) (s : State) : Host.Outcome State Fault Refusal :=
  issue (.vnmaddF st c d a b x) (bodyVnmaddF d a b x) s

/-- 04 Table 4.5: round(a / b). -/
def bodyVdivF (d a b : Reg) (x : Bool) (w : Work) : M Work := w.fltOp d a b x fDiv

def execVdivF (st : Fin 16) (c : Bool) (d a b : Reg) (x : Bool) (s : State) : Host.Outcome State Fault Refusal :=
  issue (.vdivF st c d a b x) (bodyVdivF d a b x) s

/-- The wide format of a floating format: f32 for the 16-bit formats, f64 for f32 (04 R113). -/
def wideFmt (f : FFmt) : FFmt := if f.w = 16 then f32 else f64

/-- 04 R113: a + b rounded once to the wide format, into a register pair. -/
def bodyVwaddF (d a b : Reg) (x : Bool) (w : Work) : M Work := w.mapWide d (fun e => fAdd (wideFmt w.ffmt) w.rm (w.valV a e) (w.valB x b e))

def execVwaddF (st : Fin 16) (c : Bool) (d a b : Reg) (x : Bool) (s : State) : Host.Outcome State Fault Refusal :=
  issue (.vwaddF st c d a b x) (bodyVwaddF d a b x) s

/-- 04 R113: a x b in the wide format, into a register pair; of the flags only NV is raised. -/
def bodyVwmulF (d a b : Reg) (x : Bool) (w : Work) : M Work :=
  w.mapWide d (fun e =>
    let r := fMul (wideFmt w.ffmt) w.rm (w.valV a e) (w.valB x b e)
    (r.1, r.2 &&& fNV))

def execVwmulF (st : Fin 16) (c : Bool) (d a b : Reg) (x : Bool) (s : State) : Host.Outcome State Fault Refusal :=
  issue (.vwmulF st c d a b x) (bodyVwmulF d a b x) s

/-- 04 Table 4.5: round(square root of a). -/
def bodyVsqrt (d a : Reg) (w : Work) : M Work := w.mapV d (fun e => fSqrt w.ffmt w.rm (w.valV a e))

def execVsqrt (st : Fin 16) (c : Bool) (d a : Reg) (s : State) : Host.Outcome State Fault Refusal :=
  issue (.vsqrt st c d a) (bodyVsqrt d a) s

/-! ### Estimates, classes and comparison (04 R112, R116 to R119; 05 R135) -/

/-- 04 R116: the 12-bit estimate of 1 / a. -/
def bodyVrcpa (d a : Reg) (w : Work) : M Work := w.mapV d (fun e => fRcpa w.ffmt (w.valV a e))

def execVrcpa (st : Fin 16) (c : Bool) (d a : Reg) (s : State) : Host.Outcome State Fault Refusal :=
  issue (.vrcpa st c d a) (bodyVrcpa d a) s

/-- 04 R117: the 12-bit estimate of 1 / square root of a. -/
def bodyVrsqa (d a : Reg) (w : Work) : M Work := w.mapV d (fun e => fRsqa w.ffmt (w.valV a e))

def execVrsqa (st : Fin 16) (c : Bool) (d a : Reg) (s : State) : Host.Outcome State Fault Refusal :=
  issue (.vrsqa st c d a) (bodyVrsqa d a) s

/-- 04 R119: 2 - a x. -/
def bodyVrcps (d a b : Reg) (w : Work) : M Work := w.mapV d (fun e => fRcps w.ffmt w.rm (w.valV a e) (w.valV b e))

def execVrcps (st : Fin 16) (c : Bool) (d a b : Reg) (s : State) : Host.Outcome State Fault Refusal :=
  issue (.vrcps st c d a b) (bodyVrcps d a b) s

/-- 04 R119: (3 - a x x) / 2. -/
def bodyVrsqs (d a b : Reg) (w : Work) : M Work := w.mapV d (fun e => fRsqs w.ffmt w.rm (w.valV a e) (w.valV b e))

def execVrsqs (st : Fin 16) (c : Bool) (d a b : Reg) (s : State) : Host.Outcome State Fault Refusal :=
  issue (.vrsqs st c d a b) (bodyVrsqs d a b) s

/-- 05 R135: the one-hot class of each element. -/
def bodyVclass (d a : Reg) (w : Work) : M Work := w.mapV d (fun e => plain (fClass w.ffmt (w.elemV a e)))

def execVclass (st : Fin 16) (c : Bool) (d a : Reg) (s : State) : Host.Outcome State Fault Refusal :=
  issue (.vclass st c d a) (bodyVclass d a) s

/-- 04 R112: mask bits of IEEE comparisons. -/
def bodyVcmpF (d a b : Reg) (x : Bool) (q : Fin 4) (w : Work) : M Work := w.mapM d (fun e => fCmp w.ffmt q.val (w.elemV a e) (w.elemB x b e))

def execVcmpF (st : Fin 16) (c : Bool) (d a b : Reg) (x : Bool) (q : Fin 4) (s : State) : Host.Outcome State Fault Refusal :=
  issue (.vcmpF st c d a b x q) (bodyVcmpF d a b x q) s

end Sys2Proof.Machine
end

