-- ==== Sys2Proof/Machine/VecInt.lean ====
section
/-! DEFINITION. Integer vector instructions, moves and mask instructions (04 R101 to R107, R113 to R115, R120 to R122). -/

namespace Sys2Proof.Machine

/-! ### Element-wise integer operations (04 R105, R106) -/

/-- An element-wise operation on the integers of a and b, wrapped to the element width. -/
def Work.intOp (w : Work) (d a b : Reg) (sx : Bool) (f : Int → Int → Int) : M Work :=
  w.mapV d (fun e => plain (intBits w.ew (f (w.intV a e) (w.intB sx b e))))

/-- The same with the old element of d as a third operand. -/
def Work.intOp3 (w : Work) (d a b : Reg) (sx : Bool) (f : Int → Int → Int → Int) : M Work :=
  w.mapV d (fun e => plain (intBits w.ew (f (w.intV a e) (w.intB sx b e) (w.intV d e))))

/-- An element-wise operation on the bits of a and b. -/
def Work.bitOp (w : Work) (d a b : Reg) (sx : Bool) (f : Nat → Nat → Nat) : M Work :=
  w.mapV d (fun e => plain (f (w.elemV a e) (w.elemB sx b e)))

/-- A value clamped to the format's extremes. -/
def clampInt (code : Nat) (i : Int) : Int := max (intMin code) (min (intMax code) i)

/-- The shift amount b[log2(w) - 1 : 0] of an element. -/
def shiftOf (width b : Nat) : Nat := b % width

/-- 04 Table 4.4: wrap(a + b). -/
def bodyVadd (d a b : Reg) (x : Bool) (w : Work) : M Work := w.intOp d a b x (fun p q => p + q)

def execVadd (st : Fin 16) (c : Bool) (d a b : Reg) (x : Bool) (s : State) : Host.Outcome State Fault Refusal :=
  issue (.vadd st c d a b x) (bodyVadd d a b x) s

/-- 04 Table 4.4: wrap(a - b). -/
def bodyVsub (d a b : Reg) (x : Bool) (w : Work) : M Work := w.intOp d a b x (fun p q => p - q)

def execVsub (st : Fin 16) (c : Bool) (d a b : Reg) (x : Bool) (s : State) : Host.Outcome State Fault Refusal :=
  issue (.vsub st c d a b x) (bodyVsub d a b x) s

/-- 04 Table 4.4: the smaller of a and b. -/
def bodyVmin (d a b : Reg) (x : Bool) (w : Work) : M Work := w.intOp d a b x (fun p q => min p q)

def execVmin (st : Fin 16) (c : Bool) (d a b : Reg) (x : Bool) (s : State) : Host.Outcome State Fault Refusal :=
  issue (.vmin st c d a b x) (bodyVmin d a b x) s

/-- 04 Table 4.4: the larger of a and b. -/
def bodyVmax (d a b : Reg) (x : Bool) (w : Work) : M Work := w.intOp d a b x (fun p q => max p q)

def execVmax (st : Fin 16) (c : Bool) (d a b : Reg) (x : Bool) (s : State) : Host.Outcome State Fault Refusal :=
  issue (.vmax st c d a b x) (bodyVmax d a b x) s

/-- 04 Table 4.4: a + b clamped. -/
def bodyVaddsat (d a b : Reg) (x : Bool) (w : Work) : M Work := w.intOp d a b x (fun p q => clampInt w.fmt (p + q))

def execVaddsat (st : Fin 16) (c : Bool) (d a b : Reg) (x : Bool) (s : State) : Host.Outcome State Fault Refusal :=
  issue (.vaddsat st c d a b x) (bodyVaddsat d a b x) s

/-- 04 Table 4.4: a - b clamped. -/
def bodyVsubsat (d a b : Reg) (x : Bool) (w : Work) : M Work := w.intOp d a b x (fun p q => clampInt w.fmt (p - q))

def execVsubsat (st : Fin 16) (c : Bool) (d a b : Reg) (x : Bool) (s : State) : Host.Outcome State Fault Refusal :=
  issue (.vsubsat st c d a b x) (bodyVsubsat d a b x) s

/-- 04 Table 4.4: wrap(|a|). -/
def bodyVabs (d a : Reg) (w : Work) : M Work := w.mapV d (fun e => plain (intBits w.ew ((w.intV a e).natAbs : Int)))

def execVabs (st : Fin 16) (c : Bool) (d a : Reg) (s : State) : Host.Outcome State Fault Refusal :=
  issue (.vabs st c d a) (bodyVabs d a) s

/-- 04 Table 4.4: wrap(-a). -/
def bodyVneg (d a : Reg) (w : Work) : M Work := w.mapV d (fun e => plain (intBits w.ew (-(w.intV a e))))

def execVneg (st : Fin 16) (c : Bool) (d a : Reg) (s : State) : Host.Outcome State Fault Refusal :=
  issue (.vneg st c d a) (bodyVneg d a) s

/-- 04 Table 4.4: bitwise AND. -/
def bodyVand (d a b : Reg) (x : Bool) (w : Work) : M Work := w.bitOp d a b x (fun p q => p &&& q)

def execVand (st : Fin 16) (c : Bool) (d a b : Reg) (x : Bool) (s : State) : Host.Outcome State Fault Refusal :=
  issue (.vand st c d a b x) (bodyVand d a b x) s

/-- 04 Table 4.4: bitwise OR. -/
def bodyVor (d a b : Reg) (x : Bool) (w : Work) : M Work := w.bitOp d a b x (fun p q => p ||| q)

def execVor (st : Fin 16) (c : Bool) (d a b : Reg) (x : Bool) (s : State) : Host.Outcome State Fault Refusal :=
  issue (.vor st c d a b x) (bodyVor d a b x) s

/-- 04 Table 4.4: bitwise XOR. -/
def bodyVxor (d a b : Reg) (x : Bool) (w : Work) : M Work := w.bitOp d a b x (fun p q => p ^^^ q)

def execVxor (st : Fin 16) (c : Bool) (d a b : Reg) (x : Bool) (s : State) : Host.Outcome State Fault Refusal :=
  issue (.vxor st c d a b x) (bodyVxor d a b x) s

/-- 04 Table 4.4: a shifted left by s, zeros in, low w bits. -/
def bodyVsll (d a b : Reg) (x : Bool) (w : Work) : M Work := w.bitOp d a b x (fun p q => p * 2 ^ shiftOf w.ew q % 2 ^ w.ew)

def execVsll (st : Fin 16) (c : Bool) (d a b : Reg) (x : Bool) (s : State) : Host.Outcome State Fault Refusal :=
  issue (.vsll st c d a b x) (bodyVsll d a b x) s

/-- 04 Table 4.4: a shifted right by s, zeros in. -/
def bodyVsrl (d a b : Reg) (x : Bool) (w : Work) : M Work := w.bitOp d a b x (fun p q => p / 2 ^ shiftOf w.ew q)

def execVsrl (st : Fin 16) (c : Bool) (d a b : Reg) (x : Bool) (s : State) : Host.Outcome State Fault Refusal :=
  issue (.vsrl st c d a b x) (bodyVsrl d a b x) s

/-- 04 Table 4.4: a shifted right by s, copies of bit w - 1 in. -/
def bodyVsra (d a b : Reg) (x : Bool) (w : Work) : M Work := w.bitOp d a b x (fun p q => intBits w.ew (toSigned w.ew p / (2 ^ shiftOf w.ew q : Nat)))

def execVsra (st : Fin 16) (c : Bool) (d a b : Reg) (x : Bool) (s : State) : Host.Outcome State Fault Refusal :=
  issue (.vsra st c d a b x) (bodyVsra d a b x) s

/-- 04 Table 4.4: wrap(a x b). -/
def bodyVmul (d a b : Reg) (x : Bool) (w : Work) : M Work := w.intOp d a b x (fun p q => p * q)

def execVmul (st : Fin 16) (c : Bool) (d a b : Reg) (x : Bool) (s : State) : Host.Outcome State Fault Refusal :=
  issue (.vmul st c d a b x) (bodyVmul d a b x) s

/-- 04 Table 4.4: bits [2w-1:w] of the exact product. -/
def bodyVmulh (d a b : Reg) (x : Bool) (w : Work) : M Work := w.intOp d a b x (fun p q => p * q / (2 ^ w.ew : Nat))

def execVmulh (st : Fin 16) (c : Bool) (d a b : Reg) (x : Bool) (s : State) : Host.Outcome State Fault Refusal :=
  issue (.vmulh st c d a b x) (bodyVmulh d a b x) s

/-- 04 Table 4.4: wrap(a x b + d). -/
def bodyVmadd (d a b : Reg) (x : Bool) (w : Work) : M Work := w.intOp3 d a b x (fun p q r => p * q + r)

def execVmadd (st : Fin 16) (c : Bool) (d a b : Reg) (x : Bool) (s : State) : Host.Outcome State Fault Refusal :=
  issue (.vmadd st c d a b x) (bodyVmadd d a b x) s

/-- 04 Table 4.4: wrap(a x b - d). -/
def bodyVmsub (d a b : Reg) (x : Bool) (w : Work) : M Work := w.intOp3 d a b x (fun p q r => p * q - r)

def execVmsub (st : Fin 16) (c : Bool) (d a b : Reg) (x : Bool) (s : State) : Host.Outcome State Fault Refusal :=
  issue (.vmsub st c d a b x) (bodyVmsub d a b x) s

/-- 04 Table 4.4: wrap(d - a x b). -/
def bodyVnmadd (d a b : Reg) (x : Bool) (w : Work) : M Work := w.intOp3 d a b x (fun p q r => r - p * q)

def execVnmadd (st : Fin 16) (c : Bool) (d a b : Reg) (x : Bool) (s : State) : Host.Outcome State Fault Refusal :=
  issue (.vnmadd st c d a b x) (bodyVnmadd d a b x) s

/-- 04 R106: the quotient as `div` and `divn` compute it, at width w. -/
def bodyVdiv (d a b : Reg) (x : Bool) (w : Work) : M Work := w.mapV d (fun e => plain (quotient w.ew (w.intV a e) (w.intB x b e)))

def execVdiv (st : Fin 16) (c : Bool) (d a b : Reg) (x : Bool) (s : State) : Host.Outcome State Fault Refusal :=
  issue (.vdiv st c d a b x) (bodyVdiv d a b x) s

/-! ### Widening and comparison (04 R107, R113) -/

/-- 04 R113: a + b, exact in 2w bits, into a register pair. -/
def bodyVwadd (d a b : Reg) (x : Bool) (w : Work) : M Work := w.mapWide d (fun e => plain (intBits (2 * w.ew) (w.intV a e + w.intB x b e)))

def execVwadd (st : Fin 16) (c : Bool) (d a b : Reg) (x : Bool) (s : State) : Host.Outcome State Fault Refusal :=
  issue (.vwadd st c d a b x) (bodyVwadd d a b x) s

/-- 04 R113: a x b, exact in 2w bits, into a register pair. -/
def bodyVwmul (d a b : Reg) (x : Bool) (w : Work) : M Work := w.mapWide d (fun e => plain (intBits (2 * w.ew) (w.intV a e * w.intB x b e)))

def execVwmul (st : Fin 16) (c : Bool) (d a b : Reg) (x : Bool) (s : State) : Host.Outcome State Fault Refusal :=
  issue (.vwmul st c d a b x) (bodyVwmul d a b x) s

/-- The conditions eq, ne, lt, le of integers (04 R107). -/
def intCond (q : Nat) (a b : Int) : Bool :=
  if q = 0 then a == b else if q = 1 then a != b else if q = 2 then decide (a < b) else decide (a ≤ b)

/-- 04 R107: mask bits of eq, ne, lt or le. -/
def bodyVcmp (d a b : Reg) (x : Bool) (q : Fin 4) (w : Work) : M Work := w.mapM d (fun e => (intCond q.val (w.intV a e) (w.intB x b e), 0))

def execVcmp (st : Fin 16) (c : Bool) (d a b : Reg) (x : Bool) (q : Fin 4) (s : State) : Host.Outcome State Fault Refusal :=
  issue (.vcmp st c d a b x q) (bodyVcmp d a b x q) s

/-! ### Select, move and broadcast (04 R114, R115) -/

/-- 04 R114: the mask of `vmsel` selects between va and the B operand. -/
def bodyVsel (d a b : Reg) (x : Bool) (w : Work) : M Work :=
  .ok (w.putV d.val w.ew (w.range.map (fun e => (e, if w.selected e then w.elemV a e else w.elemB x b e))))

def execVsel (st : Fin 16) (c : Bool) (d a b : Reg) (x : Bool) (s : State) : Host.Outcome State Fault Refusal :=
  issue (.vsel st c d a b x) (bodyVsel d a b x) s

/-- 04 R115: copies the bits of active elements. -/
def bodyVmv (d a : Reg) (w : Work) : M Work := w.mapV d (fun e => plain (w.elemV a e))

def execVmv (st : Fin 16) (c : Bool) (d a : Reg) (s : State) : Host.Outcome State Fault Refusal :=
  issue (.vmv st c d a) (bodyVmv d a) s

/-- 04 R115: the low bits of xa into each active element. -/
def bodyVbcast (d a : Reg) (w : Work) : M Work := w.mapV d (fun _ => plain (bitsN (w.x a.val) 0 w.ew))

def execVbcast (st : Fin 16) (c : Bool) (d a : Reg) (s : State) : Host.Outcome State Fault Refusal :=
  issue (.vbcast st c d a) (bodyVbcast d a) s

/-! ### Mask instructions (04 R120 to R122) -/

/-- 04 R120: AND of mask bits `vstart` to `vl` - 1. -/
def bodyMand (d a b : Reg) (w : Work) : M Work :=
  let r := w.mr a.val &&& w.mr b.val
  .ok (w.putM d.val (w.range.map (fun e => (e, bitB r e))))

def execMand (st : Fin 16) (c : Bool) (d a b : Reg) (s : State) : Host.Outcome State Fault Refusal :=
  issue (.mand st c d a b) (bodyMand d a b) s

/-- 04 R120: OR of mask bits `vstart` to `vl` - 1. -/
def bodyMor (d a b : Reg) (w : Work) : M Work :=
  let r := w.mr a.val ||| w.mr b.val
  .ok (w.putM d.val (w.range.map (fun e => (e, bitB r e))))

def execMor (st : Fin 16) (c : Bool) (d a b : Reg) (s : State) : Host.Outcome State Fault Refusal :=
  issue (.mor st c d a b) (bodyMor d a b) s

/-- 04 R120: XOR of mask bits `vstart` to `vl` - 1. -/
def bodyMxor (d a b : Reg) (w : Work) : M Work :=
  let r := w.mr a.val ^^^ w.mr b.val
  .ok (w.putM d.val (w.range.map (fun e => (e, bitB r e))))

def execMxor (st : Fin 16) (c : Bool) (d a b : Reg) (s : State) : Host.Outcome State Fault Refusal :=
  issue (.mxor st c d a b) (bodyMxor d a b) s

/-- 04 R120: complement of mask bits `vstart` to `vl` - 1. -/
def bodyMnot (d a : Reg) (w : Work) : M Work :=
  let r := ~~~w.mr a.val
  .ok (w.putM d.val (w.range.map (fun e => (e, bitB r e))))

def execMnot (st : Fin 16) (c : Bool) (d a : Reg) (s : State) : Host.Outcome State Fault Refusal :=
  issue (.mnot st c d a) (bodyMnot d a) s

/-- Whether any of the first elements of a list has its mask bit set. -/
def seenBefore (m : MReg) (l : List Nat) (e : Nat) : Nat := (l.filter (fun i => decide (i < e) && bitB m i)).length

/-- 04 R122: 1 before the first set active bit, 0 from it on. -/
def bodyMsbf (d a : Reg) (w : Work) : M Work :=
  let m := w.mr a.val
  .ok (w.putM d.val (w.active.map (fun e => (e, !bitB m e && seenBefore m w.active e == 0))))

def execMsbf (st : Fin 16) (c : Bool) (d a : Reg) (s : State) : Host.Outcome State Fault Refusal :=
  issue (.msbf st c d a) (bodyMsbf d a) s

/-- 04 R121: all 2,048 bits: 1 below X[A], 0 from it on. -/
def bodyMset (d a : Reg) (w : Work) : M Work := .ok (w.setM d.val (BitVec.ofNat 2048 (2 ^ min (w.x a.val).toNat 2048 - 1)))

def execMset (st : Fin 16) (c : Bool) (d a : Reg) (s : State) : Host.Outcome State Fault Refusal :=
  issue (.mset st c d a) (bodyMset d a) s

/-- 04 R122: the number of active elements whose bit is set. -/
def bodyMpopc (d a : Reg) (w : Work) : M Work :=
  .ok (w.setX d.val (BitVec.ofNat 64 (w.active.filter (fun e => bitB (w.mr a.val) e)).length))

def execMpopc (st : Fin 16) (c : Bool) (d a : Reg) (s : State) : Host.Outcome State Fault Refusal :=
  issue (.mpopc st c d a) (bodyMpopc d a) s

/-- 04 R122: the lowest active element whose bit is set, or all ones. -/
def bodyMfirst (d a : Reg) (w : Work) : M Work :=
  .ok (w.setX d.val (match w.active.find? (fun e => bitB (w.mr a.val) e) with
    | some e => BitVec.ofNat 64 e
    | none => 0xFFFFFFFFFFFFFFFF))

def execMfirst (st : Fin 16) (c : Bool) (d a : Reg) (s : State) : Host.Outcome State Fault Refusal :=
  issue (.mfirst st c d a) (bodyMfirst d a) s

/-- 04 R122: the count of set active bits below each active element, modulo 2^w. -/
def bodyViota (d a : Reg) (w : Work) : M Work :=
  let m := w.mr a.val
  w.mapV d (fun e => plain (seenBefore m w.active e % 2 ^ w.ew))

def execViota (st : Fin 16) (c : Bool) (d a : Reg) (s : State) : Host.Outcome State Fault Refusal :=
  issue (.viota st c d a) (bodyViota d a) s

end Sys2Proof.Machine
end

