-- ==== Sys2Proof/Machine/Bodies.lean ====
section
/-! DEFINITION. The meaning of an instruction word as work on its slot, one arm per constructor: what the words of an episode do
(07 R186). Events of the machine, and the words that only an episode or a sequencer runs, do nothing here. -/

namespace Sys2Proof.Machine

/-- The work of an instruction word. -/
def bodyOf (i : Instr) : Work → M Work :=
  match i with
  | .add _ d a b => bodyAdd d a b
  | .sub _ d a b => bodySub d a b
  | .and _ d a b => bodyAnd d a b
  | .or _ d a b => bodyOr d a b
  | .xor _ d a b => bodyXor d a b
  | .sll _ d a b => bodySll d a b
  | .srl _ d a b => bodySrl d a b
  | .sra _ d a b => bodySra d a b
  | .slt _ d a b => bodySlt d a b
  | .sltn _ d a b => bodySltn d a b
  | .min _ d a b => bodyMin d a b
  | .max _ d a b => bodyMax d a b
  | .minn _ d a b => bodyMinn d a b
  | .maxn _ d a b => bodyMaxn d a b
  | .mul _ d a b => bodyMul d a b
  | .mulh _ d a b => bodyMulh d a b
  | .mulhn _ d a b => bodyMulhn d a b
  | .div _ d a b => bodyDiv d a b
  | .divn _ d a b => bodyDivn d a b
  | .rem _ d a b => bodyRem d a b
  | .remn _ d a b => bodyRemn d a b
  | .bext _ d a b => bodyBext d a b
  | .bins _ d a b => bodyBins d a b
  | .clz _ d a => bodyClz d a
  | .ctz _ d a => bodyCtz d a
  | .popc _ d a => bodyPopc d a
  | .slli _ d a n h => bodySlli d a n h
  | .srli _ d a n h => bodySrli d a n h
  | .srai _ d a n h => bodySrai d a n h
  | .addi _ d a imm => bodyAddi d a imm
  | .andi _ d a imm => bodyAndi d a imm
  | .ori _ d a imm => bodyOri d a imm
  | .xori _ d a imm => bodyXori d a imm
  | .lih _ d imm => bodyLih d imm
  | .adpc _ d imm => bodyAdpc d imm
  | .ld8 _ d a off => bodyLd8 d a off
  | .ld16 _ d a off => bodyLd16 d a off
  | .ld32 _ d a off => bodyLd32 d a off
  | .ld64 _ d a off => bodyLd64 d a off
  | .ld8N _ d a off => bodyLd8N d a off
  | .ld16N _ d a off => bodyLd16N d a off
  | .ld32N _ d a off => bodyLd32N d a off
  | .st8 _ d a off => bodySt8 d a off
  | .st16 _ d a off => bodySt16 d a off
  | .st32 _ d a off => bodySt32 d a off
  | .st64 _ d a off => bodySt64 d a off
  | .ldl _ d a => bodyLdl d a
  | .stc _ d a b => bodyStc d a b
  | .jal _ off => bodyJal off
  | .beq _ d a off => bodyBeq d a off
  | .bne _ d a off => bodyBne d a off
  | .blt _ d a off => bodyBlt d a off
  | .bge _ d a off => bodyBge d a off
  | .bltn _ d a off => bodyBltn d a off
  | .bgen _ d a off => bodyBgen d a off
  | .jalr _ d a => bodyJalr d a
  | .wait _ d a => bodyWait d a
  | .setvl _ d a => bodySetvl d a
  | .setvt _ d a => bodySetvt d a
  | .nop _ => bodyNop
  | .rdc _ d r => bodyRdc d r
  | .wrc _ d r => bodyWrc d r
  | .writeVl _ => Except.ok
  | .writeVtype _ => Except.ok
  | .writeFflags _ => Except.ok
  | .writeWaypart _ => Except.ok
  | .writeVstate _ => Except.ok
  | .writeTstate _ => Except.ok
  | .writeVhot _ => Except.ok
  | .vadd _ _ d a b x => bodyVadd d a b x
  | .vsub _ _ d a b x => bodyVsub d a b x
  | .vmin _ _ d a b x => bodyVmin d a b x
  | .vmax _ _ d a b x => bodyVmax d a b x
  | .vaddsat _ _ d a b x => bodyVaddsat d a b x
  | .vsubsat _ _ d a b x => bodyVsubsat d a b x
  | .vabs _ _ d a => bodyVabs d a
  | .vneg _ _ d a => bodyVneg d a
  | .vand _ _ d a b x => bodyVand d a b x
  | .vor _ _ d a b x => bodyVor d a b x
  | .vxor _ _ d a b x => bodyVxor d a b x
  | .vsll _ _ d a b x => bodyVsll d a b x
  | .vsrl _ _ d a b x => bodyVsrl d a b x
  | .vsra _ _ d a b x => bodyVsra d a b x
  | .vmul _ _ d a b x => bodyVmul d a b x
  | .vmulh _ _ d a b x => bodyVmulh d a b x
  | .vmadd _ _ d a b x => bodyVmadd d a b x
  | .vmsub _ _ d a b x => bodyVmsub d a b x
  | .vnmadd _ _ d a b x => bodyVnmadd d a b x
  | .vdiv _ _ d a b x => bodyVdiv d a b x
  | .vwadd _ _ d a b x => bodyVwadd d a b x
  | .vwmul _ _ d a b x => bodyVwmul d a b x
  | .vcmp _ _ d a b x q => bodyVcmp d a b x q
  | .vsel _ _ d a b x => bodyVsel d a b x
  | .vmv _ _ d a => bodyVmv d a
  | .vbcast _ _ d a => bodyVbcast d a
  | .vaddF _ _ d a b x => bodyVaddF d a b x
  | .vsubF _ _ d a b x => bodyVsubF d a b x
  | .vminF _ _ d a b x => bodyVminF d a b x
  | .vmaxF _ _ d a b x => bodyVmaxF d a b x
  | .vabsF _ _ d a => bodyVabsF d a
  | .vnegF _ _ d a => bodyVnegF d a
  | .vmulF _ _ d a b x => bodyVmulF d a b x
  | .vmaddF _ _ d a b x => bodyVmaddF d a b x
  | .vmsubF _ _ d a b x => bodyVmsubF d a b x
  | .vnmaddF _ _ d a b x => bodyVnmaddF d a b x
  | .vdivF _ _ d a b x => bodyVdivF d a b x
  | .vwaddF _ _ d a b x => bodyVwaddF d a b x
  | .vwmulF _ _ d a b x => bodyVwmulF d a b x
  | .vsqrt _ _ d a => bodyVsqrt d a
  | .vrcpa _ _ d a => bodyVrcpa d a
  | .vrsqa _ _ d a => bodyVrsqa d a
  | .vrcps _ _ d a b => bodyVrcps d a b
  | .vrsqs _ _ d a b => bodyVrsqs d a b
  | .vclass _ _ d a => bodyVclass d a
  | .vcmpF _ _ d a b x q => bodyVcmpF d a b x q
  | .vcvt _ _ d a b m => bodyVcvt d a b m
  | .vldsc _ _ d a b => bodyVldsc d a b
  | .vmvscToScale _ _ d a => bodyVmvscToScale d a
  | .vmvscFromScale _ _ d a => bodyVmvscFromScale d a
  | .vapsc _ _ d a b => bodyVapsc d a b
  | .mand _ _ d a b => bodyMand d a b
  | .mor _ _ d a b => bodyMor d a b
  | .mxor _ _ d a b => bodyMxor d a b
  | .mnot _ _ d a => bodyMnot d a
  | .msbf _ _ d a => bodyMsbf d a
  | .mset _ _ d a => bodyMset d a
  | .mpopc _ _ d a => bodyMpopc d a
  | .mfirst _ _ d a => bodyMfirst d a
  | .viota _ _ d a => bodyViota d a
  | .vld _ _ d a o => bodyVld d a o
  | .vlds _ _ d a o => bodyVlds d a o
  | .vldx _ _ d a b o k => bodyVldx d a b o k
  | .vldt _ _ d a b o => bodyVldt d a b o
  | .vpf _ _ _ _ => bodyVpf
  | .vst _ _ d a o n => bodyVst d a o n
  | .vsts _ _ d a o n => bodyVsts d a o n
  | .vstx _ _ d a b o n k => bodyVstx d a b o n k
  | .vstxu _ _ d a b o n k => bodyVstxu d a b o n k
  | .vstt _ _ d a b o n => bodyVstt d a b o n
  | .vlseg _ _ d a b o n => bodyVlseg d a b o n
  | .vsseg _ _ d a b o t n => bodyVsseg d a b o t n
  | .vbind _ _ d a => bodyVbind d a
  | .vunbind _ _ d => bodyVunbind d
  | .vperm _ _ d a b => bodyVperm d a b
  | .vslu _ _ d a b => bodyVslu d a b
  | .vsld _ _ d a b => bodyVsld d a b
  | .vcompress _ _ d a => bodyVcompress d a
  | .vexpand _ _ d a => bodyVexpand d a
  | .vred _ _ d a b f p => bodyVred d a b f p
  | .vscan _ _ d a b f p => bodyVscan d a b f p
  | .vfetch _ _ _ => Except.ok
  | .vpbr _ _ _ => Except.ok
  | .vpend _ _ => Except.ok
  | .vpsend _ _ _ => Except.ok
  | .vprecv _ _ _ => Except.ok
  | .vconf _ _ d a => bodyVconf d a
  | .vcomb _ _ d a b => bodyVcomb d a b
  | .visect _ _ d a b => bodyVisect d a b
  | .cins _ _ d a => bodyCins d a
  | .clook _ _ d a b => bodyClook d a b
  | .cacc _ _ a b => bodyCacc a b
  | .cdrain _ _ d => bodyCdrain d
  | .cclr _ _ => bodyCclr
  | .vgathl _ _ d a b o => bodyVgathl d a b o
  | .vscatc _ _ d a b o m => bodyVscatc d a b o m
  | .fibdef _ _ a => bodyFibdef a
  | .fibend _ _ => bodyFibend
  | .fibrePrefetch _ => Except.ok
  | .ten _ => bodyTen
  | .tdis _ => bodyTdis
  | .tzero _ p t => bodyTzero p t
  | .tmop _ p t a b => bodyTmop p t a b
  | .tmma _ p t a b l o => bodyTmma p t a b l o
  | .tmms _ p t a b l o => bodyTmms p t a b l o
  | .tmf64 _ p t a b l o => bodyTmf64 p t a b l o
  | .tld _ t a o => bodyTld t a o
  | .tst _ t a o => bodyTst t a o
  | .trowmv _ t a b k => bodyTrowmv t a b k
  | .tcolmv _ t a b k => bodyTcolmv t a b k
  | .tvmv _ t a k => bodyTvmv t a k
  | .wbld _ a b => bodyWbld a b
  | .wbfmt _ a => bodyWbfmt a
  | .tchk _ a => bodyTchk a
  | .tchkrd _ a => bodyTchkrd a
  | .tileOpComplete _ => Except.ok
  | .matrixCommandAccept _ => Except.ok
  | .cpy _ d a u t => bodyCpy d a u t
  | .cpy2 _ d a u t => bodyCpy2 d a u t
  | .cpyt _ d a b u t => bodyCpyt d a b u t
  | .cpyr _ d a u t => bodyCpyr d a u t
  | .cpym _ d a u t => bodyCpym d a u t
  | .cpyx _ d a u t => bodyCpyx d a u t
  | .cpyfill _ d a u => bodyCpyfill d a u
  | .cpybc _ d a u t => bodyCpybc d a u t
  | .copyEngineAccept _ => Except.ok
  | .copyCompletion _ _ => Except.ok
  | .fence _ k => bodyFence k
  | .acq _ _ => bodyAcq
  | .rel _ k => bodyRel k
  | .barinit _ a b g => bodyBarinit a b g
  | .bararr _ a b g => bodyBararr a b g
  | .barwait _ a g => bodyBarwait a g
  | .wmwait _ a => bodyWmwait a
  | .barwaitRelease _ => Except.ok
  | .watermarkSatisfied _ => Except.ok
  | .waitWake _ => Except.ok
  | .waitTimeout _ => Except.ok
  | .linkHoldExpiry _ => Except.ok
  | .relrcv _ => bodyRelrcv
  | .ckpbeg _ a b => bodyCkpbeg a b
  | .ckpseal _ a => bodyCkpseal a
  | .ckpverify _ d a => bodyCkpverify d a
  | .ckpabort _ => bodyCkpabort
  | .rprd _ d b => bodyRprd d b
  | .launch _ a => bodyLaunch a
  | .launchn _ d a => bodyLaunchn d a
  | .cancel _ a b => bodyCancel a b
  | .cntrd _ d a => bodyCntrd d a
  | .fork _ a b => bodyFork a b
  | .join _ => bodyJoin
  | .send _ => Except.ok
  | .yield st => bodyYield st
  | .uexit _ => bodyUexit
  | .notify _ a => bodyNotify a
  | .trap st b => bodyTrap st b
  | .eret _ => bodyEret
  | .mcall st => bodyMcall st
  | .halt st => bodyHalt st
  | .vptwr _ a b => bodyVptwr a b
  | .tlbinv _ _ b => bodyTlbinv b
  | .ctxsave _ a => bodyCtxsave a
  | .ctxrest _ a => bodyCtxrest a
  | .brk _ b => bodyBrk b
  | .tmark _ a => bodyTmark a
  | .smpl _ a => bodySmpl a
  | .vectorCommit _ => Except.ok
  | .variableLatencyResult _ => Except.ok
  | .rendezvousArrival _ _ => Except.ok
  | .rendezvousComplete _ => Except.ok
  | .trapEntry _ => Except.ok
  | .windowReplay _ => Except.ok
  | .laneMismatch _ _ => Except.ok
  | .lockstepMismatch _ => Except.ok
  | .notifyRegisterWrite _ => Except.ok
  | .serveQueue _ => Except.ok
  | .spillReturn _ => Except.ok
  | .mapRequest _ => Except.ok
  | .queueMap _ => Except.ok
  | .queueDestroy _ => Except.ok
  | .counterCreate _ _ => Except.ok
  | .counterClose _ _ => Except.ok
  | .hostVptEntryWrite _ _ _ => Except.ok
  | .hostHotnessClear _ _ => Except.ok
  | .umanteDispatch => Except.ok
  | .bind _ => Except.ok
  | .bindResume _ => Except.ok
  | .preempt _ => Except.ok
  | .kill _ _ => Except.ok
  | .unitLoadComplete _ => Except.ok
  | .preemptionLands _ => Except.ok
  | .saveComplete _ => Except.ok
  | .unitRetire _ => Except.ok
  | .launchCompletion _ => Except.ok
  | .pageRequestAnswer _ _ _ => Except.ok
  | .partitionSwap _ => Except.ok
  | .computeDieReset _ => Except.ok
  | .recoveryRestore _ _ => Except.ok
  | .remoteAckTimeout _ _ _ => Except.ok
  | .spareSwitch _ => Except.ok
  | .linkRetrain _ _ => Except.ok
  | .thermalClockReduction => Except.ok
  | .thermalShutdown => Except.ok
  | .powerOnBoot _ _ => Except.ok
  | .itrusPartitionControl _ => Except.ok
  | .itrusDebug _ => Except.ok
  | .itrusTrace _ => Except.ok
  | .itrusAnnals _ => Except.ok
  | .itrusRecovery _ => Except.ok
  | .itrusFirmwareUpdate _ => Except.ok
  | .itrusAttestation _ => Except.ok
  | .itrusPower _ => Except.ok
  | .remoteAccessArrival _ => Except.ok
  | .remoteAcknowledgement _ => Except.ok
  | .persistencePointReached _ => Except.ok
  | .powerLoss => Except.ok
  | .baseDieFailure _ => Except.ok
  | .queueUnmap _ => Except.ok
  | .itrusConnection _ => Except.ok
  | .annalsObservation _ _ _ => Except.ok

end Sys2Proof.Machine
end

