-- ==== Sys2Proof/Machine/Fetch.lean ====
section
/-! DEFINITION. Fetching instruction words and convoys (02 R24, R36 to R38, R42, R45; 15 R371, R427). -/

namespace Sys2Proof.Machine

/-- The instruction word at an address, for slot n at a level through the scalar page tables: an instruction fetch
(15 R371, R427; 03 R68). -/
def Work.fetchFor (w : Work) (n : Nat) (spt : Word) (sup : Bool) (pc : Word) : M (Nat × Work) := do
  let (loc, w) ← liftMiss w pc 2 (scalarPlace w n spt sup pc 2)
  liftMiss w pc 2 (readable w.m [loc])
  if w.m.poisoned loc then raise (w.countBad [loc]) cMEMORY_POISON pc 2
  else .ok (w.num loc 4, w.scrub loc)

/-- The word at an address of the running thread. -/
def Work.fetch (w : Work) (pc : Word) : M (Nat × Work) :=
  w.fetchFor w.m.cur w.ctx.spt (w.s.regs.level == .supervisor) pc

/-- The convoy bit of a word (02 R24). -/
def wordC (word : Nat) : Bool := flag word 27

/-- The words of the convoy that begins at an address: as far as C is 1, at most `k` of them (02 R36). -/
def Work.members (w : Work) (pc : Word) : Nat → M (List Nat × Work)
  | 0 => .ok ([], w)
  | k + 1 => do
    let (word, w) ← w.fetch pc
    if wordC word then
      let (rest, w) ← w.members (pc + 4) k
      .ok (word :: rest, w)
    else .ok ([word], w)

/-- A decoded member of a convoy; none for an illegal word. -/
def decodedWord (word : Nat) : Option Instr :=
  match decodeWord word with
  | .ok i => some i
  | .error _ => none

/-- What R36 counts: arithmetic, LD, ST, SF and XL members. -/
structure ConvoyCount where
  arith : Nat
  ld : Nat
  st : Nat
  sf : Nat
  xl : Nat
  deriving DecidableEq, Repr

def ConvoyCount.zero : ConvoyCount := { arith := 0, ld := 0, st := 0, sf := 0, xl := 0 }

def ConvoyCount.add (n : ConvoyCount) : Cls → ConvoyCount
  | .va => { n with arith := n.arith + 1 }
  | .va0 => { n with arith := n.arith + 1 }
  | .ld => { n with ld := n.ld + 1 }
  | .st => { n with st := n.st + 1 }
  | .sf => { n with sf := n.sf + 1 }
  | .xl => { n with xl := n.xl + 1 }
  | .scalar => n
  | .none => n

/-- The lowest reason code that member m breaks, 0 for none, where `n` counts members 0 to m and `f` is member m
(02 R38, Table 2.11). -/
def breaks (n : ConvoyCount) (m : Nat) (f : Info) : Nat :=
  let arith := f.cls == .va || f.cls == .va0
  if arith && n.arith == 3 then 1
  else if f.cls == .ld && n.ld == 2 then 2
  else if f.cls == .st && n.st == 2 then 3
  else if f.cls == .sf && n.sf == 2 then 4
  else if f.cls == .xl && (f.conv || decide (2 ≤ n.xl)) then 5
  else if f.cls == .none || (f.cls == .scalar && decide (0 < m)) then 6
  else if m = 6 then 7
  else if f.conv && f.st != 0 then 8
  else 0

/-- The first member that breaks a limit, with the reason (02 R38). -/
def conflict (n : ConvoyCount) (m : Nat) : List Info → Option (Nat × Nat)
  | [] => none
  | f :: fs =>
    let n := n.add f.cls
    let r := breaks n m f
    if r ≠ 0 then some (m, r) else conflict n (m + 1) fs

/-- The first member that would make a stale read, with its producer, each member counted 1 + S before the next
(02 R30, R34, R37). -/
def Work.convoyStale (w : Work) (pc : Word) (m : Nat) : List Instr → Option (Nat × Word)
  | [] => none
  | i :: is =>
    match w.staleRead i with
    | some p => some (m, p)
    | none =>
      let f := infoOf w.s.ctl.fmt i
      let s := w.s
      let wins := openWindow pc f.st f.lat true (f.wr.filterMap (RegName.old s)) s.thr.wins
      (w.mapThr (fun t => { t with wins := wins })).convoyStale (pc + 4) (m + 1) is

/-- The first member for which p answers. -/
def firstMember {α β : Type} (p : α → Option β) (m : Nat) : List α → Option (Nat × β)
  | [] => none
  | x :: xs =>
    match p x with
    | some b => some (m, b)
    | none => firstMember p (m + 1) xs

/-- The first trap of the checks 2 to 6 over the words of a convoy, check by check (02 R42, R43). -/
def Work.convoyTrap (w : Work) (words : List Nat) : Option Trap :=
  let is := words.map (fun x => (x, decodedWord x))
  let bad (p : Nat × Option Instr) : Option Nat :=
    match p.2 with
    | some i => if w.legal i then none else some p.1
    | none => some p.1
  match firstMember bad 0 is with
  | some (m, x) => some { cause := cILLEGAL, acc := 0, stval := memberVal m x }
  | none =>
    let code := is.filterMap (fun p => p.2)
    match firstMember (fun i => if w.allowed i then none else some (encode i)) 0 code with
    | some (m, x) => some { cause := cPRIVILEGED, acc := 0, stval := memberVal m x }
    | none =>
      match firstMember w.enabledTrap 0 code with
      | some (_, t) => some t
      | none =>
        match conflict .zero 0 (code.map (infoOf w.s.ctl.fmt)) with
        | some (m, r) => some { cause := cCONVOY_CONFLICT, acc := 0, stval := memberVal m r }
        | none =>
          (w.convoyStale w.s.regs.pc 0 code).map
            (fun p => { cause := cSTALL_SHORT, acc := 0, stval := memberVal p.1 (bitsN p.2 0 57) })

/-- The word that the running thread executes next: the one that stands in its convoy, or the one at its pc, with the
checks of a new convoy done (02 R36, R42). -/
def Work.nextWord (w : Work) : M (Nat × Work) :=
  match w.s.thr.convoy with
  | word :: _ => .ok (word, w)
  | [] => do
    let (words, w) ← w.members w.s.regs.pc (2 ^ 55)
    match words with
    | [] => raise w cILLEGAL 0
    | [word] => if wordC word then raise w cILLEGAL (memberVal 0 word) else .ok (word, w)
    | word :: _ =>
      match w.convoyTrap words with
      | some t => .error (.trap w t)
      | none => .ok (word, w.mapThr (fun t => { t with convoy := words }))

end Sys2Proof.Machine
end

