-- ==== Sys2Proof/Machine/Aib.lean ====
section
/-! DEFINITION. Episodes: `vfetch` and the words that only an episode runs (07 R174, R184 to R187; 02 R44). -/

namespace Sys2Proof.Machine

/-! ### Blocks (07 R185; 02 R44) -/

/-- Whether a word may stand in a block. -/
def inBlock (f : BitVec 4) (i : Instr) : Bool :=
  match i with
  | .vpbr st c _ => st.val == 0 && !c
  | .vpend st c => st.val == 0 && !c
  | .vpsend st c _ => st.val == 0 && !c
  | .vprecv st c _ => st.val == 0 && !c
  | .vldsc _ _ _ _ _ => false
  | .vmvscToScale _ _ _ _ => false
  | .vmvscFromScale _ _ _ _ => false
  | .clook _ _ _ _ _ => false
  | .vgathl _ _ _ _ _ _ => false
  | .vscatc _ _ _ _ _ _ _ => false
  | .vpf _ _ _ _ => false
  | i =>
    let n := infoOf f i
    let cls := n.cls == .va || n.cls == .va0 || n.cls == .sf || n.cls == .ld || n.cls == .st
    cls && n.st == 0 && !n.conv && fmtOk f i

/-- Whether a word ends its block. -/
def endsBlock : Instr → Bool
  | .vpbr _ _ _ => true
  | .vpend _ _ => true
  | _ => false

/-- The words of the block at an address, `k` of them left to look at: fetched and checked word by word, so that the lowest failing word
raises its failure (DESIGN CHOICE, log 58: 07 R185 names no order inside a block). -/
def Work.checkBlock (w : Work) (pc : Word) : Nat → M (List Instr × Work)
  | 0 => .ok ([], w)
  | k + 1 => do
    let (word, w) ← w.fetch pc
    match decodeWord word with
    | .error _ => raise w cILLEGAL (memberVal 0 word)
    | .ok i =>
      if !inBlock w.s.ctl.fmt i then raise w cILLEGAL (memberVal 0 word)
      else if endsBlock i then .ok ([i], w)
      else if k = 0 then raise w cILLEGAL (memberVal 0 word)
      else do
        let (rest, w) ← w.checkBlock (pc + 4) k
        .ok (i :: rest, w)

/-! ### Virtual processors (07 R186, R187) -/

/-- A virtual processor on its way: the machine, the values that the one before it sent and it has not received, those that it
has sent, and the vector registers that it has written. -/
structure Vp where
  w : Work
  inbox : List Nat
  sent : List Nat
  written : List Nat
  deriving DecidableEq, Repr

/-- The vector registers that a word writes. -/
def writtenV (f : BitVec 4) (i : Instr) : List Nat :=
  (infoOf f i).wr.filterMap (fun r => match r with | .v n => some n.val | _ => none)

/-- The running slot's pc moved to an address, as a sampled word of a block records it (16 R392). -/
def Work.atPc (w : Work) (pc : Word) : Work := w.mapRegs (fun r => { r with pc := pc })

/-- One word of a block, at address `at_`, run by VP e. It waits for the copy tokens of the x registers that it reads, and a failed
token that it reads is known (07 R184; 11 R267, R284). -/
def Vp.word (p : Vp) (e : Nat) (at_ : Word) (i : Instr) : M Vp := do
  if p.w.s.tokenPending i then .error (.wait .token) else
  let f := infoOf p.w.s.ctl.fmt i
  let w := p.w.mapThr (fun t => { t with failed := p.w.s.failedAfter f.rd f.wr })
  let w1 := (w.atPc at_).mapCtl (fun c => { c with vl := BitVec.ofNat 12 (e + 1), vstart := BitVec.ofNat 11 e })
  match i with
  | .vpsend _ _ a => .ok { p with w := w, sent := p.sent ++ [w.elemV a e] }
  | .vprecv _ _ d =>
    match p.inbox with
    | [] => .ok { p with w := w }
    | x :: rest => .ok { p with w := w.putV d.val w.ew [(e, x)], inbox := rest, written := d.val :: p.written }
  | .mset _ _ d a => .ok { p with w := w.putM d.val [(e, decide (e < (w.x a.val).toNat))] }
  | i => do
    let w2 ← bodyOf i w1
    .ok { p with w := w2.atPc w.s.regs.pc, written := writtenV w.s.ctl.fmt i ++ p.written }

/-- The words of a block up to its end: the processor after them, and the block that a `vpbr` selects. -/
def Vp.words (p : Vp) (e : Nat) (at_ : Word) : List Instr → M (Vp × Option Nat)
  | [] => .ok (p, none)
  | .vpend _ _ :: _ => .ok (p, none)
  | .vpbr _ _ a :: _ => .ok (p, some (p.w.elemV a e % 256))
  | i :: is => do
    let p ← p.word e at_ i
    p.words e (at_ + 4) is

/-- VP e from a checked block at `at_` on, `k` more branches allowed. A block that a branch selects is fetched and checked at every branch to
it, also where an earlier VP of the episode selected it (DESIGN CHOICE, log 56: 07 R185 places the check at the first VP that selects it,
and no rule says whether later ones fetch its words again). -/
def Vp.path (p : Vp) (e : Nat) (base at_ : Word) (block : List Instr) : Nat → M Vp
  | 0 => do
    let (p, next) ← p.words e at_ block
    match next with
    | none => .ok p
    | some _ => raise p.w cBOUNDS 9
  | k + 1 => do
    let (p, next) ← p.words e at_ block
    match next with
    | none => .ok p
    | some jb => do
      let next := base + BitVec.ofNat 64 (256 * jb)
      let (words, w) ← p.w.checkBlock next 64
      Vp.path { p with w := w } e base next words k

/-- The end of an episode, or the state that a fault of VP f leaves: `vl` and `vstart` as given, the bindings back but for
the registers written. -/
def Vp.close (p : Vp) (before : Slot) (vstart : Nat) : Work :=
  let w := p.w.mapCtl (fun c => { c with vl := before.ctl.vl, vstart := BitVec.ofNat 11 vstart })
  let w := w.mapThr (fun t => { t with binds := before.thr.binds })
  p.written.eraseDups.foldl (fun w n => w.unbind n) w

/-- The virtual processors of an episode in order; `last` is the one before, with what it sent. A fault of one leaves what those
below it did. -/
def Vp.episode (p : Vp) (before : Slot) (base : Word) (block : List Instr) (last : Option Nat) : List Nat → M Work
  | [] => .ok (p.close before before.ctl.vstart.toNat)
  | e :: es =>
    let inbox := if last = some (e - 1) ∧ e ≠ 0 then p.sent else []
    match Vp.path { p with inbox := inbox, sent := [] } e base base block 7 with
    | .ok q => q.episode before base block (some e) es
    | .error (.trap _ t) => .error (.trap (p.close before e) t)
    | .error x => .error x

/-- 07 R184 to R187: runs an episode: the base block is checked, then each active element runs it as a virtual processor. -/
def bodyVfetch (a : Reg) (w : Work) : M Work :=
  do
    let w := w.mapThr (fun t => { t with wins := [] })
    let base := w.x a.val
    if base.toNat % 256 ≠ 0 then raise w cMISALIGNED base
    else do
      let (block, w1) ← match w.checkBlock base 64 with
        | .ok r => .ok r
        | .error (.trap _ t) => .error (.trap w t)
        | .error x => .error x
      let p : Vp := { w := w1.mapThr (fun t => { t with binds := [] }), inbox := [], sent := [], written := [] }
      p.episode w.s base block none w.active

def execVfetch (st : Fin 16) (c : Bool) (a : Reg) (s : State) : Host.Outcome State Fault Refusal :=
  issue (.vfetch st c a) (bodyVfetch a) s

/-! ### The words of blocks in a control thread

They are illegal there (07 R186): the checks of issue raise ILLEGAL_INSTRUCTION before any meaning. -/

/-- 07 R186: `vpbr` stands in blocks only. -/
def bodyVpbr (w : Work) : M Work := .ok w

def execVpbr (st : Fin 16) (c : Bool) (a : Reg) (s : State) : Host.Outcome State Fault Refusal :=
  issue (.vpbr st c a) bodyVpbr s

/-- 07 R186: `vpend` stands in blocks only. -/
def bodyVpend (w : Work) : M Work := .ok w

def execVpend (st : Fin 16) (c : Bool) (s : State) : Host.Outcome State Fault Refusal :=
  issue (.vpend st c) bodyVpend s

/-- 07 R186: `vpsend` stands in blocks only. -/
def bodyVpsend (w : Work) : M Work := .ok w

def execVpsend (st : Fin 16) (c : Bool) (a : Reg) (s : State) : Host.Outcome State Fault Refusal :=
  issue (.vpsend st c a) bodyVpsend s

/-- 07 R186: `vprecv` stands in blocks only. -/
def bodyVprecv (w : Work) : M Work := .ok w

def execVprecv (st : Fin 16) (c : Bool) (d : Reg) (s : State) : Host.Outcome State Fault Refusal :=
  issue (.vprecv st c d) bodyVprecv s

end Sys2Proof.Machine
end

