-- ==== Sys2Proof/Machine/Horizon.lean ====
section
/-! DEFINITION. Horizon's bind records and the states of an issue slot (14 R344 to R346, R356; 15 R387). -/

namespace Sys2Proof.Machine

/-! ### Bind records (14 R345, R346) -/

/-- Work done as slot n; the current slot stays current. -/
def Work.onSlot (w : Work) (n : Nat) (f : Work → M Work) : M Work := do
  let old := w.m.cur
  let r ← f { w with m := { w.m with cur := n } }
  .ok { r with m := { r.m with cur := old } }

/-- Slot n changed. -/
def Work.modSlot (w : Work) (n : Nat) (f : Slot → Slot) : Work := { w with m := w.m.setSlot n (f (w.m.slot n)) }

/-- Horizon answers a bind record: RESULT, and CMD cleared. -/
def Work.answer (w : Work) (n r : Nat) : Work :=
  w.modSlot n (fun s => { s with unit := { s.unit with cmd := 0, result := r } })

/-- Whether a claim of a bind record is held by the other slot of the core (01 R11). -/
def Mach.claimHeld (m : Mach) (n : Nat) (clsp ccs : Bool) : Bool :=
  let o := (m.slot (otherSlot n)).unit
  o.st != .idle && ((clsp && o.clsp) || (ccs && o.ccs))

/-- The address one byte past the top of slot n's stack (01 R12). -/
def stackTop (n : Nat) : Nat := lspBase + 0xF0000 + n % 2 * 0x8000 + 0x8000

/-- The debug settings of a unit (16 R395). -/
def Mach.debugOf (m : Mach) (lid unit : Nat) : Word × Word :=
  match m.sched.controls.find? (fun d => d.1 = (lid, unit)) with
  | some d => d.2
  | none => (0, 0)

/-- The slot as Horizon sets it for a fresh unit of a launch (01 R17; 03 R86; 06 R167; 15 R359, R360; 16 R393, R395). -/
def freshSlot (m : Mach) (n : Nat) (l : Launch) (u : SlotUnit) : Slot :=
  let x := m.context u.ctx
  let args := (List.range 8).map (fun i => (6 + i, l.args.getD i 0))
  let regs := [(2, BitVec.ofNat 64 (stackTop n)), (3, u.start), (4, u.stop), (5, BitVec.ofNat 64 l.count)] ++ args ++
    [(14, BitVec.ofNat 64 u.lid), (15, BitVec.ofNat 64 u.unit)]
  let d := m.debugOf u.lid u.unit
  { Slot.reset with
    regs := { SlotRegs.reset with x := regs, pc := l.entry }
    ctl := { SlotCtl.reset with
      vwbase := x.vwbase, vcursor := u.start, vstripno := BitVec.ofNat 32 u.ord, vprog := keepBits l.prog 3 54 }
    sup := { SlotSup.reset with
      stvec := x.stvec, sscratch := x.sscratch, dbgctl := d.1, dbgpc := d.2,
      trcctl := (m.job x.job).trcctl.setWidth 64 }
    unit := { SlotUnit.reset with
      st := .load, ctx := u.ctx, clsp := u.clsp, ccs := u.ccs, lid := u.lid, unit := u.unit, ord := u.ord,
      start := u.start, stop := u.stop, wms := l.wms } }

/-- Whether a die takes units: it has power, and its base die is in service (17 R422, R423). -/
def Pkg.inService (p : Pkg) (die : Nat) : Bool := !p.diesOff.contains die && !p.basesFailed.contains die

/-- A BIND record refused before its kind is looked at: the slot is not IDLE, or the command does not fit (14 R346). -/
def refusal (u : SlotUnit) : Option Nat :=
  if u.st ≠ .idle then some 1 else if 4 ≤ u.cmd then some 4 else if 2 ≤ u.cmd then some 1 else none

/-- The slot's stack cleared, and the LSP body where the unit claims it: no value that a previous unit left there is visible (01
R17; log 2). -/
def Work.clearLocal (w : Work) (n : Nat) (clsp : Bool) : Work :=
  let w := w.clearBytes (lspLoc (coreOf n) (0xF0000 + n % 2 * 0x8000)) 0x8000
  if clsp then w.clearBytes (lspLoc (coreOf n) 0) 0xF0000 else w

/-- Units by rising number. -/
def insertUnit (t : Nat × Word × Nat) : List (Nat × Word × Nat) → List (Nat × Word × Nat)
  | [] => [t]
  | x :: xs => if t.1 < x.1 then t :: x :: xs else x :: insertUnit t xs

/-- The launches of an ID changed. -/
def Mach.mapLaunch (m : Mach) (lid : Nat) (f : Launch → Launch) : Mach :=
  m.setSched (fun s => { s with launches := s.launches.map (fun l => if l.lid = lid then f l else l) })

/-- A fresh BIND record of slot n refused with RESULT r: its unit is again one that its launch has to bind, unless the launch has been
discarded since (14 R343, R346, R352). -/
def Work.refuseUnit (w : Work) (n r : Nat) : Work :=
  let u := (w.m.slot n).unit
  let w := w.answer n r
  if w.m.sched.launches.any (fun l => l.lid == u.lid && !l.dropped) then
    { w with m := (w.m.mapLaunch u.lid (fun l => { l with back := insertUnit (u.unit, u.start, u.ord) l.back })).noteRoom }
  else { w with m := w.m.unitGone u.lid }

/-- 14 R346: a BIND record with RESUME 0 acts on slot n. -/
def bindFresh (n : Nat) (w : Work) : M Work :=
  let u := (w.m.slot n).unit
  match refusal u with
  | some r => .ok (w.answer n r)
  | none =>
    if u.cmd ≠ 1 ∨ u.resume ∨ !w.m.pkg.inService (dieOf n) then .error (.wait .landing)
    else if !(w.m.context u.ctx).resident then .ok (w.refuseUnit n 3)
    else if w.m.claimHeld n u.clsp u.ccs then .ok (w.refuseUnit n 2)
    else match w.m.sched.launches.find? (fun l => l.lid = u.lid) with
    | none => .error (.wait .landing)
    | some l =>
      let m := (w.m.mapLaunch u.lid (fun l => { l with bound := true })).setSlot n (freshSlot w.m n l u)
      .ok (({ w with m := if u.ccs then m.setCore (coreOf n) (m.core (coreOf n)).emptyStore else m }).clearLocal n u.clsp)

/-- 14 R346; 01 R17: starts a fresh unit. -/
def bodyBind (slot : Nat) (w : Work) : M Work :=  bindFresh slot w

def execBind (slot : Nat) (s : State) : Host.Outcome State Fault Refusal :=
  event (bodyBind slot) s

/-! ### Resuming a suspended unit (15 R387) -/

/-- Whether an outstanding copy's token is still to be written into an image (11 R286). -/
def Mach.imageAwaits (m : Mach) (ctx : Nat) (base : Word) : Bool :=
  m.engines.any (fun e => e.2.cmds.any (fun c => c.images.contains base && c.ctx == ctx))

/-- The open record that Horizon reinstates: `ckpopen` of the image, and what the controllers have kept and noted of it while the
unit was out (13 R322). -/
def OpenRecord.reinstate (kept : Option OpenRecord) (v : Word) : Option OpenRecord :=
  if bitB v 0 then kept.map (fun r => { r with hdr := keepBits v 7 50, ovf := r.ovf || bitB v 1, cerr := r.cerr || bitB v 2 })
  else none

/-- The slot with the parts of its image but T, as Horizon restores them (15 R387). A fibre definition whose descriptor cannot be
read again stays without its lines (DESIGN CHOICE, log 53: no rule says what a failing read does at RESUME). -/
def Work.loadImage (w : Work) (base : Word) : M Work := do
  let n := w.m.cur
  let im : ImageAt := { base := base, slot := n, spt := w.ctx.spt, sup := true }
  let w ← im.probed 0 0 w
  let parts := im.field w 0 8 % 512
  let mask := if partOn parts pT then parts - 16 else parts
  let w ← im.probed 0 mask w
  if im.runsBusy mask true w then .error (.wait .ownedLine) else
  match im.poison w (maskPieces mask) with
  | some (loc, a) => raise (w.countBad [loc]) cMEMORY_POISON a 0
  | none =>
    let w := im.scrub w ((0, 8) :: maskPieces mask)
    let side := w.m.sideOf w.s.unit.ctx base
    let s := restoreSup im w (restoreS im w side w.s)
    let s := { s with unit := { s.unit with record := OpenRecord.reinstate s.unit.record (im.word w 0x198) } }
    let s := if partOn mask pV then restoreV im w s else s
    let s := if partOn mask pM then restoreM im w s else s
    let s := if partOn mask pK then restoreK im w s else s
    let (c, k) := restoreStore im w mask s.unit.ccs side.cstat w.core
    let w' := im.readRuns mask w
    let m := (w'.m.setSlot n { s with sup := { s.sup with simg := base } }).setCore (coreOf n) c
    let w' := { w' with m := { m with fresh := w'.m.fresh + k } }
    match w'.s.thr.fibre with
    | none => .ok w'
    | some f =>
      match w'.readFibre f.desc f.pos with
      | .ok (g, w'') => .ok (w''.mapThr (fun t => { t with fibre := some g }))
      | .error _ => .ok w'

/-- What the answer to its page request leaves of a unit that `mcall` suspended (15 R381, R382). -/
def Slot.takeAnswer (s : Slot) (answered success byCall : Bool) : Slot :=
  if !(answered && byCall) then s else
  let regs := { s.regs with sx := tabSet s.regs.sx 24 (if success then 0 else 1) }
  let stval := if success then s.sup.stval else putBits s.sup.stval 57 7 0x7F
  { s with regs := regs, sup := { s.sup with stval := stval } }

/-- Where a resumed unit goes on: a halted one at Supervisor level at `sepc` (15 R389), any other where it stood; a User
thread's windows are reopened (02 R33). -/
def Slot.goOn (s : Slot) (g : Suspended) : Slot :=
  let level := if g.slot.unit.halted then Level.supervisor else g.slot.regs.level
  let pc := if g.slot.unit.halted then s.sup.sepc else g.slot.regs.pc
  let user := level = .user
  let regs := { s.regs with level := level, pc := pc }
  let thr := { s.thr with
    wins := if user then s.thr.reopened pc else [], stash := if user then [] else s.thr.stash
    stashRun := if user then none else s.thr.stashRun, convoy := [], window := [], pend := [] }
  { s with regs := regs, thr := thr }

/-- 15 R387: a BIND record with RESUME 1 acts on slot n. -/
def resumeUnit (n : Nat) (w : Work) : M Work :=
  let u := (w.m.slot n).unit
  match refusal u with
  | some r => .ok (w.answer n r)
  | none =>
    if u.cmd ≠ 1 ∨ !u.resume ∨ !w.m.pkg.inService (dieOf n) then .error (.wait .landing)
    else match w.m.sched.suspended.find? (fun g => g.resuming = some n) with
    | none => .error (.wait .landing)
    | some g =>
      let c := w.m.core (coreOf n)
      let back := w.m.setSched (fun s => { s with
        suspended := s.suspended.map (fun h => if h.resuming = some n then { h with resuming := none } else h) })
      if !(w.m.context u.ctx).resident then .ok ({ w with m := back }.answer n 3)
      else if w.m.claimHeld n u.clsp u.ccs || (g.hasTile && c.owner == some (otherSlot n)) then
        .ok ({ w with m := back }.answer n 2)
      else if w.m.imageAwaits u.ctx g.image then .error (.wait .token)
      else
        let unit := { g.slot.unit with
          st := .load, cmd := 0, result := 0, waiting := none, held := none, lost := [], stage := 0, request := none, byCall := false,
          halted := false, exitAt := none }
        let m := w.m.setSched (fun s => { s with suspended := s.suspended.filter (fun h => h.resuming ≠ some n) })
        let m := m.setSlot n { g.slot with unit := unit }
        let m := if u.ccs then m.setCore (coreOf n) (m.core (coreOf n)).emptyStore else m
        ({ w with m := m }).onSlot n (fun w =>
          match w.loadImage g.image with
          | .ok w =>
            let w := w.setS ((w.s.takeAnswer g.answered g.success g.slot.unit.byCall).goOn g)
            if g.hasTile then
              let im : ImageAt := { base := g.image, slot := n, spt := w.ctx.spt, sup := true }
              let elt := im.field w 0x73008 8 % 4
              let w := w.claimTile n
              .ok (w.setCore { w.core with nr := true, nrElt := some elt })
            else .ok w
          | .error (.trap w t) => .ok (w.endUnit t.cause t.stval)
          | .error e => .error e)

/-- 15 R387: restores a suspended unit's image, claiming its tile group with NR set. -/
def bodyBindResume (slot : Nat) (w : Work) : M Work :=  resumeUnit slot w

def execBindResume (slot : Nat) (s : State) : Host.Outcome State Fault Refusal :=
  event (bodyBindResume slot) s

/-! ### The slot's other events (14 R344, R346, R356) -/

/-- 14 R346: a PREEMPT record moves a running slot to STOP. -/
def bodyPreempt (slot : Nat) (w : Work) : M Work :=
  .ok (if (w.m.slot slot).unit.st = .run then
      (w.answer slot 0).modSlot slot (fun s => { s with unit := { s.unit with st := .stop } })
    else w.answer slot 1)

def execPreempt (slot : Nat) (s : State) : Host.Outcome State Fault Refusal :=
  event (bodyPreempt slot) s

/-- 14 R346: a KILL record drops a running unit and marks its launch FAILED with the cause in the record; DETAIL, PC and ADDR no rule states. -/
def bodyKill (slot cause : Nat) (w : Work) : M Work :=
  let s := w.m.slot slot
  if s.unit.st = .run then
    let (i, w) := w.draw
    let f : Failure := {
      cause := cause, detail := bitsN (Config.openWord i) 0 7, pc := keepBits s.regs.pc 0 57, addr := Config.openWord i,
      unit := s.unit.unit, treg := 0, token := 0 }
    .ok ((w.answer slot 0).killUnit slot f)
  else .ok (w.answer slot 1)

def execKill (slot cause : Nat) (s : State) : Host.Outcome State Fault Refusal :=
  event (bodyKill slot cause) s

/-- 14 R346: loading finishes and the slot enters RUN. -/
def bodyUnitLoadComplete (slot : Nat) (w : Work) : M Work :=
  if (w.m.slot slot).unit.st = .load then
    .ok (w.modSlot slot (fun s => { s with unit := { s.unit with st := .run } }))
  else .error (.wait .landing)

def execUnitLoadComplete (slot : Nat) (s : State) : Host.Outcome State Fault Refusal :=
  event (bodyUnitLoadComplete slot) s

/-- Whether a slot stands at a point where a pre-emption may land (14 R344; 03 R79; 12 R310). -/
def SlotUnit.mayLand (u : SlotUnit) : Bool :=
  u.st == .stop && (match u.waiting with
    | some .landing => true
    | some .watermark => true
    | some (.barrier _) => true
    | _ => false)

/-- Whether the instruction at which a slot waits has its address put into `sepc` by a landing (03 R79; 12 R310). -/
def SlotUnit.landsAt (u : SlotUnit) : Bool :=
  match u.held with
  | some (.setvl _ _ _) => true
  | some (.barwait _ _ _) => true
  | some (.wmwait _ _) => true
  | _ => false

/-- 14 R344; 15 R387: a requested pre-emption lands, and the unit's state is saved. -/
def bodyPreemptionLands (slot : Nat) (w : Work) : M Work :=
  let u := (w.m.slot slot).unit
  if u.mayLand then .ok (w.suspendUnit slot none u.landsAt) else .error (.wait .landing)

def execPreemptionLands (slot : Nat) (s : State) : Host.Outcome State Fault Refusal :=
  event (bodyPreemptionLands slot) s

/-- Whether a unit's page request has ended while its image was being stored: its context is destroyed (15 R380; log 55). -/
def Mach.requestEnded (m : Mach) (request : Option Nat) : Bool :=
  match request with
  | some k => !m.sched.requests.any (fun r => r.num == k)
  | none => false

/-- 14 R346: the image of slot n is stored, or its discard complete. The unit's remote accesses are acknowledged by then, its tile
operations complete (09 R220), and of a unit that is gone for good the copies too (14 R339). -/
def finishSave (n : Nat) (w : Work) : M Work :=
  let u := (w.m.slot n).unit
  let gone := u.discard || w.m.cancelledLid u.lid
  if u.st ≠ .save then .error (.wait .landing)
  else if u.remoteOut ≠ 0 then .error (.wait .remote)
  else if (w.m.core (coreOf n)).owner = some n ∧ (w.m.core (coreOf n)).tileOps ≠ [] then .error (.wait .tileOrder)
  else if gone then
    if w.m.copiesOf u.lid u.unit ≠ [] then .error (.wait .copyEngine)
    else
      let w := w.giveUp n
      .ok { w with m := ((w.m.setSlot n (w.m.slot n).vacated).dropRequests u.lid u.unit).unitGone u.lid }
  else
    let im := w.m.saveImage n
    if im.blocked w (maskPieces (heldParts w.m n)) then .error (.wait .ownedLine)
    else
      let w := w.saveUnit n
      let g : Suspended := {
        slot := w.m.slot n, image := im.base, hasTile := partOn (im.field w 0 8) pT, request := u.request,
        answered := w.m.requestEnded u.request, success := false, halted := u.halted, resuming := none, ended := false }
      let m := w.m.setSlot n (w.m.slot n).vacated
      .ok { w with m := m.setSched (fun c => { c with suspended := c.suspended ++ [g] }) }

/-- 14 R346: the slot becomes IDLE, and Umante holds the unit as suspended. -/
def bodySaveComplete (slot : Nat) (w : Work) : M Work :=  finishSave slot w

def execSaveComplete (slot : Nat) (s : State) : Host.Outcome State Fault Refusal :=
  event (bodySaveComplete slot) s

/-- The failures that a unit carries to its end: a failed copy whose token nobody read, a sequencer that stopped on a fault
and was never joined, an open record (11 R284; 14 R356; 13 R327). -/
def Slot.endFailures (s : Slot) : List Failure :=
  let u := s.unit
  let exit := keepBits (u.exitAt.getD 0) 0 57
  (s.thr.failed.map (fun c => { cause := bitsN c.token 0 8, detail := bitsN c.token 8 7, pc := c.pc, addr := c.addr,
                                unit := u.unit, treg := c.reg, token := c.token })) ++
  (([s.mseq, s.cseq].filter (fun q => q.st == .stopped)).map (fun q => failureOf (q.cause % 256) q.stval (keepBits q.pc 0 57) u.unit)) ++
  (match u.record with
   | some r => [{ cause := cRECOVERY_FAULT, detail := 10, pc := exit, addr := r.hdr, unit := u.unit, treg := 0, token := 0 }]
   | none => [])

/-- 14 R356: the unit of slot n retires. -/
def retireUnit (n : Nat) (w : Work) : M Work :=
  let s := w.m.slot n
  let u := s.unit
  let c := w.m.core (coreOf n)
  if u.st ≠ .drain ∨ u.remoteOut ≠ 0 ∨ w.m.copiesOf u.lid u.unit ≠ [] ∨ s.mseq.st = .running ∨ s.cseq.st = .running ∨
      (c.owner = some n ∧ c.tileOps ≠ []) then
    .error (.wait .copyEngine)
  else
    let w := (s.endFailures.foldl (fun w f => w.failLaunch u.lid f) w).giveUp n
    .ok { w with m := (w.m.setSlot n s.vacated).unitGone u.lid }

/-- 14 R356: draining is complete; the unit retires, its claims are released and its launch's count falls. -/
def bodyUnitRetire (slot : Nat) (w : Work) : M Work :=  retireUnit slot w

def execUnitRetire (slot : Nat) (s : State) : Host.Outcome State Fault Refusal :=
  event (bodyUnitRetire slot) s

end Sys2Proof.Machine
end

