-- ==== Sys2Proof/Machine/Umante.lean ====
section
/-! DEFINITION. Umante's scheduling: the order of units and their binding, page-request answers, partition swaps (14 R342,
R343; 15 R380, R382, R388). -/

namespace Sys2Proof.Machine

/-! ### Which unit runs next (14 R342, R343) -/

/-- A unit that may be bound: its effective priority and age, its claims, the slots of its job's partition, the cores that it avoids
(16 R406, R407), how many units are ready with it, and where it comes from: a launch, or the list of suspended units. -/
structure Candidate where
  prio : Nat
  age : Nat
  ctx : Nat
  clsp : Bool
  ccs : Bool
  tile : Bool
  slots : List Nat
  avoid : List Nat
  units : Nat
  launch : Option Launch
  again : Option Suspended
  deriving DecidableEq, Repr

/-- Whether one candidate goes before another: PRIO, then age (14 R343). -/
def Candidate.before (a b : Candidate) : Bool := decide (a.prio < b.prio) || (a.prio == b.prio && decide (a.age < b.age))

def insertCandidate (c : Candidate) : List Candidate → List Candidate
  | [] => [c]
  | x :: xs => if c.before x then c :: x :: xs else x :: insertCandidate c xs

def Mach.ageOf (m : Mach) (lid : Nat) : Nat :=
  match m.sched.launches.find? (fun l => l.lid = lid) with
  | some l => l.age
  | none => 0

/-- The units that may be bound, first the one that goes first; of one launch its suspended units before its next one. -/
def Mach.candidates (m : Mach) : List Candidate :=
  let old := (m.sched.suspended.filter m.readyAgain).map (fun g =>
    let u := g.slot.unit
    { prio := m.effectiveOf u.lid, age := m.ageOf u.lid, ctx := u.ctx, clsp := u.clsp, ccs := u.ccs, tile := g.hasTile,
      slots := (m.job (m.context u.ctx).job).partition, avoid := u.avoid, units := 1, launch := none, again := some g : Candidate })
  let new := (m.sched.launches.filter m.ready).map (fun l =>
    { prio := m.effective l, age := l.age, ctx := l.ctx, clsp := l.clsp, ccs := l.ccs, tile := false,
      slots := (m.job l.job).partition, avoid := [], units := l.left, launch := some l, again := none : Candidate })
  (old ++ new).foldl (fun a c => insertCandidate c a) []

/-- Whether a slot's cluster trails in a pair whose leader's slot runs a lockstep context's unit (16 R407). -/
def Mach.trails (m : Mach) (n : Nat) : Bool :=
  clusterOf n % 2 == 1 && (let u := (m.slot (n - 8)).unit
    (u.st != .idle || u.cmd == 1) && (m.context u.ctx).lockstep)

/-- Whether a slot is free for a new bind record: IDLE, with no record waiting, on a core in service (16 R408; 17 R422). -/
def Mach.vacant (m : Mach) (n : Nat) : Bool :=
  let u := (m.slot n).unit
  u.st == .idle && u.cmd == 0 && m.pkg.inService (dieOf n) && !(m.site (coreOf n)).mappedOut && !m.trails n

/-- Whether a unit in the core's other slot, or a bind record that waits there, holds a claim (01 R11; 14 R346). -/
def Mach.claimTaken (m : Mach) (n : Nat) (clsp ccs : Bool) : Bool :=
  let o := (m.slot (otherSlot n)).unit
  m.claimHeld n clsp ccs || (o.cmd == 1 && ((clsp && o.clsp) || (ccs && o.ccs)))

/-- Whether a slot can take a candidate: its core is none that the unit avoids, no claim is held by the other slot, and a lockstep
context leads with a free partner behind it (01 R11; 15 R387; 16 R406, R407). -/
def Mach.fits (m : Mach) (c : Candidate) (n : Nat) : Bool :=
  m.vacant n && !c.avoid.contains (coreOf n) && !m.claimTaken n c.clsp c.ccs && !(c.tile && (m.core (coreOf n)).owner.isSome) &&
  (!(m.context c.ctx).lockstep || (clusterOf n % 2 == 0 && m.vacant (n + 8)))

/-- The span Q that Umante chooses for a launch: a multiple of 2^GL (14 R342). -/
def Mach.spanOf (m : Mach) (l : Launch) (i : Nat) : Nat :=
  let j := m.job l.job
  (if bitB j.calmode 0 then Config.calendarSpan l.count l.gl j.partition.length + 1 else Config.unitSpan i + 1) * 2 ^ l.gl

/-- A launch split into units, its entry counting them (14 R338, R342). -/
def Work.split (w : Work) (l : Launch) : Launch × Work :=
  match l.span with
  | some _ => (l, w)
  | none =>
    let (i, w) := w.draw
    let l' := { l with span := some (w.m.spanOf l i) }
    let ix := l.lid % 4096
    let e := w.m.entry ix
    let m := w.m.setEntry ix { e with count := e.count - 1 + l'.units }
    (l', { w with m := m })

/-- The bind record of the next unit of a launch, and the launch after it: first those that a refused record has given back (14 R343,
R346). -/
def Launch.nextUnit (l : Launch) (u : SlotUnit) : SlotUnit × Launch :=
  let q := l.span.getD 1
  let again (t : Nat × Word × Nat) : SlotUnit :=
    { u with unit := t.1, start := t.2.1, stop := BitVec.ofNat 64 (min l.count ((t.1 + 1) * q)), ord := t.2.2 }
  match l.back, l.again with
  | t :: rest, _ => (again t, { l with back := rest })
  | [], some (t :: rest) => (again t, { l with again := some rest })
  | [], _ =>
    ({ u with unit := l.next, start := BitVec.ofNat 64 (l.next * q), stop := BitVec.ofNat 64 (min l.count ((l.next + 1) * q)),
              ord := 0 }, { l with next := l.next + 1 })

/-- A bind record written for a candidate into slot n. -/
def Work.bindTo (w : Work) (c : Candidate) (n : Nat) : Work :=
  let base := { SlotUnit.reset with cmd := 1, ctx := c.ctx, clsp := c.clsp, ccs := c.ccs }
  match c.launch, c.again with
  | some l, _ =>
    let (l, w) := w.split l
    let (u, l) := l.nextUnit { base with lid := l.lid }
    let m := w.m.setSched (fun s => { s with launches := s.launches.map (fun x => if x.age = l.age then l else x) })
    ({ w with m := m.noteRoom }).modSlot n (fun s => { s with unit := u })
  | none, some g =>
    let m := w.m.setSched (fun s => { s with
      suspended := s.suspended.map (fun h => if h = g then { h with resuming := some n } else h) })
    let u := { base with lid := g.slot.unit.lid, unit := g.slot.unit.unit, resume := true }
    ({ w with m := m }).modSlot n (fun s => { s with unit := u })
  | none, none => w

/-- The running unit to pre-empt for a candidate: the largest effective priority above its own, and of those the youngest; only
where no slot of the partition that is in service is free (14 R343). Each ready unit asks for one: `ahead` are the ready units that
go before the candidate's in its partition, and the slots that already give way are theirs. -/
def Mach.victim (m : Mach) (ahead : Nat) (c : Candidate) : Option Nat :=
  let giving := (c.slots.filter (fun n => let u := (m.slot n).unit
    u.st == .stop || u.st == .save || u.cmd == 2)).length
  if c.slots.any m.vacant || decide (ahead + c.units ≤ giving) then none else
  let run := c.slots.filter (fun n => (m.slot n).unit.st == .run && (m.slot n).unit.cmd != 2 && decide (c.prio < m.effectiveOf (m.slot n).unit.lid))
  let key (n : Nat) : Nat × Nat × Nat :=
    let u := (m.slot n).unit
    (m.effectiveOf u.lid, m.ageOf u.lid, u.unit)
  let later (a b : Nat × Nat × Nat) : Bool :=
    decide (b.1 < a.1) || (a.1 == b.1 && (decide (b.2.1 < a.2.1) || (a.2.1 == b.2.1 && decide (b.2.2 < a.2.2))))
  run.foldl (fun best n => match best with
    | none => some n
    | some b => if later (key n) (key b) then some n else some b) none

/-- The ready units of some candidates that wait for slots of the candidate's own partition. -/
def Candidate.rivals (c : Candidate) (before : List Candidate) : Nat :=
  (before.filter (fun b => b.slots.any c.slots.contains)).foldl (fun n b => n + b.units) 0

/-- The first unit to pre-empt for a candidate of a list, `before` being the candidates that go before it. -/
def Mach.victims (m : Mach) (before : List Candidate) : List Candidate → Option Nat
  | [] => none
  | c :: cs => (m.victim (c.rivals before) c).or (m.victims (before ++ [c]) cs)

/-- 14 R343: the first candidate that a free slot of its partition fits is bound there; where none is, a pre-emption is
requested. -/
def dispatch (w : Work) : M Work :=
  let cs := w.m.candidates
  match cs.findSome? (fun c => (c.slots.find? (w.m.fits c)).map (fun n => (c, n))) with
  | some (c, n) => .ok (w.bindTo c n)
  | none => match w.m.victims [] cs with
    | some n => .ok (w.modSlot n (fun s => { s with unit := { s.unit with cmd := 2 } }))
    | none => .error (.wait .queueRoom)

/-- 14 R342, R343: binds the next unit of the first ready launch or suspended unit into an idle slot, or requests a pre-emption. -/
def bodyUmanteDispatch (w : Work) : M Work :=  dispatch w

def execUmanteDispatch (s : State) : Host.Outcome State Fault Refusal :=
  event bodyUmanteDispatch s

/-! ### Page requests answered (15 R380, R382) -/

/-- A suspended unit that ends for good, with a failure: it is gone once its copies have ended (14 R339; 15 R366, R367). -/
def Work.endSuspended (w : Work) (g : Suspended) (f : Failure) : Work :=
  let u := g.slot.unit
  let w := w.failLaunch u.lid f
  let m := w.m.setSched (fun s => { s with suspended := s.suspended.map (fun h => if h = g then { h with ended := true, halted := false } else h) })
  let m := m.mapCopies (fun c => if c.lid = u.lid ∧ c.unit = u.unit then { c with home := .gone } else c)
  { w with m := m.reap }

/-- An answer that names nothing any more is counted (15 R380). -/
def Work.staleAnswer (w : Work) : Work := { w with m := w.m.setSched (fun s => { s with stale := s.stale + 1 }) }

/-- 15 R380: Umante answers page request `num`. A unit whose image is not stored yet keeps the answer waiting. -/
def answerRequest (num gen : Nat) (success : Bool) (w : Work) : M Work :=
  match w.m.sched.requests.find? (fun r => r.num = num) with
  | none => .ok w.staleAnswer
  | some r =>
    let done := w.m.setSched (fun s => { s with requests := s.requests.filter (fun x => x.num ≠ num) })
    if gen ≠ (w.m.context r.ctx).gen then .ok w.staleAnswer
    else match r.ident with
    | some k =>
      if w.m.engines.any (fun e => e.2.cmds.any (fun c => c.ident == k)) then
        .ok { w with m := done.mapCopies (fun c => if c.ident = k then { c with request := none, failedReq := !success } else c) }
      else .ok ({ w with m := done }).staleAnswer
    | none =>
      match w.m.sched.suspended.find? (fun g => g.request = some num) with
      | some g =>
        if !success && !g.slot.unit.byCall then
          .ok (({ w with m := done }).endSuspended g
            (failureOf r.cause (detailAddr 0x7F r.addr) (keepBits g.slot.regs.pc 0 57) g.slot.unit.unit))
        else .ok { w with m := done.setSched (fun s => { s with
          suspended := s.suspended.map (fun h => if h = g then { h with answered := true, success := success } else h) }) }
      | none =>
        match w.m.sched.entries.find? (fun e => e.2.request = some num) with
        | some (ix, e) => .ok { w with m := done.setEntry ix { e with request := none, reqFailed := !success } }
        | none =>
          if w.m.slots.any (fun p => p.2.unit.request == some num) then .error (.wait .pageRequest)
          else .ok ({ w with m := done }).staleAnswer

/-- 15 R380, R382: Umante answers a page request, which lets its waiter go on, or the answer is discarded and counted. -/
def bodyPageRequestAnswer (request generation : Nat) (success : Bool) (w : Work) : M Work :=  answerRequest request generation success w

def execPageRequestAnswer (request generation : Nat) (success : Bool) (s : State) : Host.Outcome State Fault Refusal :=
  event (bodyPageRequestAnswer request generation success) s

/-! ### Partition swap (15 R388) -/

/-- Whether a slot has landed for a swap: IDLE, or stopped where a pre-emption may land, with its remote accesses acknowledged and
its tile operations complete (09 R220). -/
def Mach.landed (m : Mach) (n : Nat) : Bool :=
  let u := (m.slot n).unit
  let c := m.core (coreOf n)
  (u.st == .idle && u.cmd == 0) || (u.mayLand && u.remoteOut == 0 && !(c.owner == some n && c.tileOps != []))

/-- A slot as shadow storage gives it back: a landed unit runs on. -/
def Slot.swapIn (s : Slot) : Slot :=
  if s.unit.st ≠ .stop then s else
  let user := s.regs.level = .user
  let thr := { s.thr with
    wins := if user then s.thr.reopened s.regs.pc else [], stash := if user then [] else s.thr.stash
    stashRun := if user then none else s.thr.stashRun }
  { s with thr := thr, unit := { s.unit with st := .run, waiting := none, held := none } }

/-- A core's live state exchanged with its image in shadow storage, bytes included. -/
def Work.swapCore (w : Work) (core : Nat) : Work :=
  let i := tabGet CoreImage.reset w.m.shadow core
  let out (n : Nat) : Slot := ((w.m.slot n).land (w.m.slot n).unit.landsAt).clearLinks
  let now : CoreImage := { core := w.m.core core, s0 := out (2 * core), s1 := out (2 * core + 1) }
  let m := ((w.m.setSlot (2 * core) i.s0.swapIn).setSlot (2 * core + 1) i.s1.swapIn).setCore core i.core
  let m := { m with shadow := tabSet m.shadow core now }
  let swap (h : TokenHome) : TokenHome := match h with
    | .slot n => if coreOf n = core then .shadow false n else h
    | .sequencer n => if coreOf n = core then .shadow true n else h
    | .shadow q n => if coreOf n = core then (if q then .sequencer n else .slot n) else h
    | .gone => .gone
  let m := m.mapCopies (fun c => { c with home := swap c.home })
  let byte (src n : Nat) : List (Nat × Byte) := ((applyWrs w.base w.ws).filter (fun c => decide (src ≤ c.1) && decide (c.1 < src + n))).map
    (fun c => (c.1 - src, c.2))
  let runs := [(lspLoc core 0, shadowLoc core 0, 2 ^ 20), (wbLoc core 0, shadowLoc core (2 ^ 20), 2 ^ 18)]
  runs.foldl (fun w r =>
    let a := byte r.1 r.2.2
    let b := byte r.2.1 r.2.2
    let w := (w.clearBytes r.1 r.2.2).clearBytes r.2.1 r.2.2
    let w := b.foldl (fun w c => w.putByte (r.1 + c.1) c.2) w
    a.foldl (fun w c => w.putByte (r.2.1 + c.1) c.2) w) { w with m := m }

/-- 15 R388: once every slot of the partition's cores has landed, each core exchanges its live state with its image in shadow
storage. -/
def bodyPartitionSwap (job : Nat) (w : Work) : M Work :=
  let slots := (w.m.job job).partition
  let cores := (slots.map coreOf).eraseDups
  if cores.all (fun k => w.m.landed (2 * k) && w.m.landed (2 * k + 1)) then .ok (cores.foldl Work.swapCore w) else .error (.wait .landing)

def execPartitionSwap (job : Nat) (s : State) : Host.Outcome State Fault Refusal :=
  event (bodyPartitionSwap job) s

end Sys2Proof.Machine
end

