-- ==== Sys2Proof/Machine/Contain.lean ====
section
/-! DEFINITION. Containment and recovery: the reset of a compute die (13 R316; 17 R422), the restore of a job (13 R329,
R332), remote accesses that arrive, are acknowledged or are not (12 R299, R303; 16 R409), the persistence point (13 R315,
R317), power loss and the failure of a base die (17 R422). -/

namespace Sys2Proof.Machine

/-! ### What a job holds -/

/-- The contexts of a job that are resident. -/
def Mach.contextsOf (m : Mach) (job : Nat) : List Nat :=
  (m.contexts.filter (fun c => c.2.resident && c.2.job == job)).map (fun c => c.1)

/-- Whether a context belongs to one of the jobs. -/
def Mach.ofJobs (m : Mach) (jobs : List Nat) (ctx : Nat) : Bool := jobs.contains (m.context ctx).job

/-- Whether a slot holds a unit, or a record for one, of the jobs. -/
def Mach.unitOf (m : Mach) (jobs : List Nat) (s : Slot) : Bool :=
  (s.unit.st != .idle || s.unit.cmd != 0) && m.ofJobs jobs s.unit.ctx

/-- The slots that hold the jobs' units, and the cores whose image in shadow storage does. -/
def Mach.slotsOf (m : Mach) (jobs : List Nat) : List Nat := (m.slots.filter (fun p => m.unitOf jobs p.2)).map (fun p => p.1)

def Mach.shadowsOf (m : Mach) (jobs : List Nat) : List Nat :=
  (m.shadow.filter (fun p => m.unitOf jobs p.2.s0 || m.unitOf jobs p.2.s1)).map (fun p => p.1)

/-- Every unit, copy and page request of the jobs dropped: their slots vacant, suspended units forgotten, nothing retired (13 R332
step 1). -/
def Mach.dropJobs (m : Mach) (jobs : List Nat) : Mach :=
  let entry (e : Entry) : Entry := if jobs.contains e.job then { e with request := none } else e
  { m with
    slots := m.slots.map (fun p => if m.unitOf jobs p.2 then (p.1, if p.2.unit.cmd = 1 then Slot.reset else p.2.vacated) else p)
    engines := m.engines.map (fun e => (e.1, { cmds := e.2.cmds.filter (fun c => !m.ofJobs jobs c.ctx) }))
    pkg := { m.pkg with holds := m.pkg.holds.filter (fun h => !m.unitOf jobs (m.slot h.2)) }
    sched := { m.sched with
      suspended := m.sched.suspended.filter (fun g => !m.ofJobs jobs g.slot.unit.ctx)
      requests := m.sched.requests.filter (fun r => !m.ofJobs jobs r.ctx)
      entries := m.sched.entries.map (fun e => (e.1, entry e.2)) } }

/-- A core's image in shadow storage cleared, bytes included. -/
def Work.clearShadow (w : Work) (k : Nat) : Work :=
  ({ w with m := { w.m with shadow := tabDel w.m.shadow k } }).clearBytes (shadowLoc k 0) (2 ^ 21)

/-- What the unit of slot n holds at its core lost: the tile group, the claims, the stack (13 R316). -/
def Work.loseSlot (w : Work) (n : Nat) : Work := (w.giveUp n).clearLocal n (w.m.slot n).unit.clsp

/-- A core's owned state and local bytes cleared, live and in shadow storage; spares stay (16 R408). -/
def Work.clearCore (w : Work) (k : Nat) : Work :=
  let m := w.m.setCore k .reset
  ((({ w with m := m }).clearShadow k).clearBytes (lspLoc k 0) (2 ^ 20)).clearBytes (wbLoc k 0) (2 ^ 18)

/-! ### The memory of a job (13 R316) -/

/-- The HBM runs, first byte and length, that the leaves of a page table map at this package (15 R371, R372). -/
def hbmLeaves (w : Work) : Nat → Nat → List (Nat × Nat)
  | level, table =>
    let entries := (List.range 512).map (fun i => w.num (hbmLoc (table + 8 * i)) 8)
    entries.flatMap (fun e =>
      if !pteValid e || pteMalformed level e then []
      else if ptePerm e ≠ 0 then
        (if (pteRM e && ptePkg e != Config.packageNumber) || decide (hbmEnd < ptePpn e * 4096 + 2 ^ (12 + 9 * level)) then []
         else [(ptePpn e * 4096, 2 ^ (12 + 9 * level))])
      else match level with
        | 0 => []
        | n + 1 => hbmLeaves w n (ptePpn e * 4096))

/-- The HBM granules that a context's vector page table maps at this package (15 R376, R377). -/
def vptRuns (x : Context) : List (Nat × Nat) :=
  x.vpt.filterMap (fun p =>
    let e := p.2.toNat
    let pa := e / 2 ^ 30 % 2 ^ 22 * 2 ^ 30
    if e % 2 = 1 ∧ (e / 4 % 2 = 0 ∨ e / 2 ^ 52 % 1024 = Config.packageNumber) ∧ pa + granule x.vwbase ≤ hbmEnd then
      some (pa, granule x.vwbase) else none)

/-- The HBM runs of a job's contexts. -/
def Work.jobRuns (w : Work) (job : Nat) : List (Nat × Nat) :=
  (w.m.contextsOf job).flatMap (fun c =>
    let x := w.m.context c
    hbmLeaves w (if bitB x.spt 0 then 4 else 3) (bitsN x.spt 12 40 * 4096) ++ vptRuns x)

/-- A run without the bytes of another. -/
def cutRun (cut : Nat × Nat) (r : Nat × Nat) : List (Nat × Nat) :=
  if cut.1 + cut.2 ≤ r.1 ∨ r.1 + r.2 ≤ cut.1 then [r]
  else (if r.1 < cut.1 then [(r.1, cut.1 - r.1)] else []) ++
    (if cut.1 + cut.2 < r.1 + r.2 then [(cut.1 + cut.2, r.1 + r.2 - (cut.1 + cut.2))] else [])

/-- Runs without the Almanac regions. -/
def Mach.outsideAlmanac (m : Mach) (l : List (Nat × Nat)) : List (Nat × Nat) :=
  ((m.jobs.filter (fun j => j.2.live)).flatMap (fun j => j.2.almanac)).foldl (fun l a => l.flatMap (cutRun a)) l

/-- The value that an Almanac byte keeps: that of its last surviving write, else the covered one (13 R316). -/
def Unsettled.after (u : Unsettled) (reset : Nat) : Byte :=
  u.writes.foldl (fun b x => if Config.survives reset x.ident then x.value else b) u.covered

/-- Every Almanac byte of a region list settled at what survives the reset. -/
def Work.settleAlmanac (w : Work) (regions : List (Nat × Nat)) : Work :=
  let (i, w) := w.draw
  let inside (loc : Nat) : Bool := regions.any (fun r => decide (r.1 ≤ loc) && decide (loc < r.1 + r.2))
  let hit := w.m.pkg.unsettled.filter (fun e => inside e.1)
  let w := hit.foldl (fun w e => w.putByte e.1 (e.2.after i)) w
  { w with m := { w.m with pkg := { w.m.pkg with unsettled := w.m.pkg.unsettled.filter (fun e => !inside e.1) } } }

/-- The jobs that have a unit on a compute die: in a slot or in shadow storage there, or with a copy in an engine there (log 11). -/
def Mach.jobsOn (m : Mach) (die : Nat) : List Nat :=
  (m.jobs.filter (fun j => j.2.live && ((m.slotsOf [j.1]).any (fun n => dieOf n == die) ||
    (m.shadowsOf [j.1]).any (fun k => dieOf (2 * k) == die) ||
    m.engines.any (fun e => e.1 / 12 == die && e.2.cmds.any (fun c => m.ofJobs [j.1] c.ctx))))).map (fun j => j.1)

/-- A cluster's vault ways cleared. -/
def Work.clearVault (w : Work) (v : Nat) : Work :=
  ({ w with m := w.m.setVault v { w.m.vault v with fibreLines := [] } }).clearBytes (vaultLoc v 0 0) (2 ^ 24)

/-- 13 R316, R332: jobs lose what they hold in this package outside the Almanac domain, and stop: units, copies, registers, LSPs,
the vault ways of their clusters, HBM. -/
def Work.loseJobs (w : Work) (jobs : List Nat) : Work :=
  let slots := w.m.slotsOf jobs
  let shadows := w.m.shadowsOf jobs
  let vaults := (slots.map clusterOf ++ shadows.map (fun k => clusterOf (2 * k)) ++
    jobs.flatMap (fun j => (w.m.job j).partition.map clusterOf)).eraseDups
  let w := w.settleAlmanac (jobs.flatMap (fun j => (w.m.job j).almanac))
  let w := (w.m.outsideAlmanac (jobs.flatMap w.jobRuns)).foldl (fun w r => w.clearBytes r.1 r.2) w
  let w := shadows.foldl Work.clearShadow (slots.foldl Work.loseSlot w)
  let m := w.m.dropJobs jobs
  let m := jobs.foldl (fun m j => m.setJob j { m.job j with stopped := true }) m
  vaults.foldl Work.clearVault { w with m := m }

/-- 13 R316; 17 R422: containment resets a compute die: the jobs with a unit there lose all but the Almanac domain, and stop. The vaults
of other jobs stand in the base-die domain and are kept. -/
def resetDie (die : Nat) (w : Work) : M Work :=
  let w := w.loseJobs (w.m.jobsOn die)
  let m : Mach := { w.m with
    slots := w.m.slots.map (fun p => if dieOf p.1 = die then (p.1, Slot.reset) else p)
    engines := w.m.engines.filter (fun e => e.1 / 12 != die) }
  .ok (((List.range 48).map (fun i => die * 48 + i)).foldl Work.clearCore { w with m := m.reap })

/-- 13 R316; 17 R422: containment resets a compute die. -/
def bodyComputeDieReset (die : Fin 4) (w : Work) : M Work := resetDie die.val w

def execComputeDieReset (die : Fin 4) (s : State) : Host.Outcome State Fault Refusal :=
  event (bodyComputeDieReset die) s

/-! ### The restore of a job (13 R329, R332) -/

/-- The byte that an address names through a context's page tables, or its vector page table. -/
def Work.ctxPlace (w : Work) (ctx a : Nat) : Option Nat :=
  if inLocal a then none else
  let x := w.m.context ctx
  match walkPlace w 384 x.spt true a 0 with
  | .ok (l, _) => some l
  | .error _ =>
    match (vptIndex x.vwbase a).map (fun ix => vptPlace w.m x.vwbase (tabGet 0 x.vpt ix).toNat a false) with
    | some (.ok l) => some l
    | _ => none

/-- The places of a range in a context; none where a byte has none. -/
def Work.ctxPlaces (w : Work) (ctx : Nat) (a : Word) (len : Nat) : Option (List (Nat × Nat)) :=
  (pageRuns a len).mapM (fun r => (w.ctxPlace ctx r.1.toNat).map (fun l => (l, r.2)))

/-- The walks of a range through a context's page tables leave what their reads correct (13 R314). -/
def Work.scrubCtx (w : Work) (ctx : Nat) (a : Word) (len : Nat) : Work :=
  w.scrubWalks 384 (w.m.context ctx).spt ((pageRuns a len).map (fun r => r.1.toNat))

/-- A record of a context, its seal block read; none where its header has no place. `i` names the restore to the free values of
unreadable lines. -/
def Work.sealAt (w : Work) (i ctx : Nat) (h : Word) : Option (SealBlock × List (Nat × Nat)) :=
  (w.ctxPlaces ctx h 128).map (fun p => (readSeal (w.checkRuns i p), p))

/-- PREV followed from a header back to the record whose SEQ is S; `k` headers at most. A line of a seal block that has one good
copy is scrubbed as it is read (13 R314, R332 step 3). -/
def Work.followPrev (w : Work) (i ctx : Nat) (s : Word) (h : Word) : Nat → Option Word × Work
  | 0 => (none, w)
  | k + 1 =>
    match w.sealAt i ctx h with
    | none => (none, w.scrubCtx ctx h 128)
    | some (b, block) =>
      let w := (w.scrubCtx ctx h 128).scrubRuns block
      if b.seq = s then (some h, w) else if b.pseq.toNat < s.toNat then (none, w) else w.followPrev i ctx s b.prev k

/-- The check of the record at a header as `ckpverify` makes it, with GEN as it stands; none where the record has no place or is
not sealed in Almanac memory (13 R328, R332 step 4). -/
def Work.checkedAt (w : Work) (i ctx : Nat) (h : Word) : Option Checked :=
  match w.sealAt i ctx h with
  | none => none
  | some (b, block) =>
    if !block.all (fun p => w.m.almanac p.1) || !b.sealed then none
    else (w.ctxPlaces ctx (h + 128) (8 * b.count)).map (w.verify i (w.ctxPlace ctx) b block)

/-- Whether the record at a header verifies. -/
def Work.verifies (w : Work) (i ctx : Nat) (h : Word) : Bool :=
  match w.checkedAt i ctx h with
  | some r => r.status == 0
  | none => false

/-- The lines of a restored record that have one good copy scrubbed, as the reads and the walks of its check do it (13 R314). -/
def Work.scrubRecord (w : Work) (i ctx : Nat) (h : Word) : Work :=
  match w.sealAt i ctx h, w.checkedAt i ctx h with
  | some (b, _), some r =>
    ((w.scrubCtx ctx (h + 128) (8 * b.count)).scrubRuns r.read).scrubWalks 384 (w.m.context ctx).spt r.pages
  | _, _ => w

/-- An entry of a resume table (13 Table 13.5). -/
structure ResumeEntry where
  lid : Nat
  unit : Nat
  cursor : Word
  ord : Nat
  deriving DecidableEq, Repr

/-- The entries of the resume table of the record at a header; none in a record without one. -/
def Work.resumeTable (w : Work) (i ctx : Nat) (h : Word) : List ResumeEntry :=
  match w.sealAt i ctx h with
  | none => []
  | some (b, _) =>
    if b.resume = 0 then [] else
    let g (o n : Nat) : Nat := match w.ctxPlaces ctx (b.resume + BitVec.ofNat 64 o) n with
      | some p => leNat (w.getRuns p)
      | none => 0
    (List.range (g 0 8)).map (fun i =>
      let o := 64 + 32 * i
      { lid := g o 8, unit := g (o + 8) 4, cursor := BitVec.ofNat 64 (g (o + 16) 8), ord := g (o + 24) 4 })

/-- The launch record of a launch ID in a job: of a launch that has not completed, or of one that has. -/
def Mach.recordOf (m : Mach) (job lid : Nat) : Option Launch :=
  (m.sched.launches ++ m.sched.records).find? (fun l => l.lid == lid && l.job == job)

/-- Whether a resume entry names a unit that its launch has. -/
def Mach.accepts (m : Mach) (job : Nat) (r : ResumeEntry) : Bool :=
  match m.recordOf job r.lid with
  | some l => decide (r.unit < l.units)
  | none => false

/-- The element past a unit's last one. -/
def Launch.unitEnd (l : Launch) (unit : Nat) : Nat := min l.count ((unit + 1) * l.span.getD 1)

/-- The launch of a record with its watermarks bound again, their producers held; a producer whose handle is stale by now counts as one
that has completed (14 R336). A launch that has not completed holds its producers still. -/
def Mach.marksAgain (m : Mach) (l : Launch) : Launch × Mach :=
  if m.sched.launches.any (fun x => x.lid = l.lid) then (l, m) else
  let wms := l.wms.map (fun k => { k with producer := k.producer.bind m.handleIx })
  ({ l with wms := wms }, (wms.filterMap (fun k => k.producer)).foldl Mach.hold m)

/-- A launch re-created from its record, to bind the units listed (13 R332 step 6). Its entry is opened again; where its index
carries another serial number by now, the launch is given a new entry and a new launch ID. -/
def Mach.recreate (m : Mach) (l : Launch) (units : List (Nat × Word × Nat)) : Mach :=
  let (l, m) := m.marksAgain l
  let old := m.entry (l.lid % 4096)
  let parent := old.parent.bind (fun p => if (m.entry p).status = 1 then some p else none)
  let e : Entry := { Entry.reset with
    job := l.job, ctx := l.ctx, level := 0, count := units.length, status := 1, closed := true, parent := parent,
    target := old.target, prog := l.prog }
  let fresh : Launch := { l with again := some units, back := [], bound := false, dropped := false, spilled := none }
  let back (lid : Nat) (m : Mach) : Mach := m.setSched (fun s => { s with
    launches := s.launches.filter (fun x => x.lid ≠ l.lid) ++ [{ fresh with lid := lid }]
    records := s.records.filter (fun x => x.lid ≠ l.lid) })
  if handleOf (l.lid % 4096) old.serial = l.lid then
    let was := old.status == 1 || !old.written
    let e := { e with serial := old.serial, released := false, held := old.held }
    let m := m.setEntry (l.lid % 4096) e.settle
    let m := m.setSched (fun s => { s with freed := s.freed.filter (fun i => i ≠ l.lid % 4096) })
    let m := match parent with
      | some p => if was then m else m.setEntry p { m.entry p with count := (m.entry p).count + 1 }
      | none => m
    back l.lid m
  else match m.newEntry { e with parent := none, target := 0 }.settle with
    | some (ix, m) => back (handleOf ix (m.entry ix).serial) m
    | none => m

/-- Every launch of a job that a resume table names re-created, every other one that has not completed cancelled (13 R332
steps 6 and 7). -/
def Mach.rebind (m : Mach) (job : Nat) (named : List ResumeEntry) : Mach :=
  let lids := (named.map (fun r => r.lid)).eraseDups
  let recreated := lids.foldl (fun m lid =>
    match m.recordOf job lid with
    | none => m
    | some l =>
      let mine := (named.filter (fun r => r.lid == lid && decide (r.cursor.toNat < l.unitEnd r.unit))).map
        (fun r => (r.unit, r.cursor, r.ord))
      m.recreate l mine) m
  let rest := (m.sched.launches.filter (fun l => l.job == job && !lids.contains l.lid)).map (fun l => l.lid % 4096)
  (rest.foldl (fun m ix =>
    let e := m.entry ix
    if e.status ≠ 1 then m
    else (m.setEntry ix ({ e with count := 0, cancelled := true }).settle).setSched (fun s => { s with
      launches := s.launches.map (fun l => if l.lid % 4096 = ix then { l with dropped := true, spilled := none } else l) })) recreated).noteRoom

/-- 13 R332: a job restored at S. It is done once the job has stopped and every package agrees on S. -/
def restoreJob (job : Nat) (s : Word) (w : Work) : M Work :=
  let j := w.m.job job
  let ctxs := w.m.contextsOf job
  if !j.live || !j.stopped || j.failedRestore || (j.agreed.isSome && j.agreed != some s) ||
      ctxs.any (fun c => decide ((w.m.context c).rpseq.toNat < s.toNat)) then .error (.wait .queueRoom)
  else
    let (i, w) := ({ w with m := w.m.dropJobs [job] }).draw
    let (heads, w) := ctxs.foldl (fun (p : List (Nat × Option Word) × Work) c =>
      let x := p.2.m.context c
      let r := p.2.followPrev i c s x.rpbase (x.rpseq.toNat + 1)
      (p.1 ++ [(c, r.1)], r.2)) ([], w)
    let w := heads.foldl (fun w p => w.scrubRecord i p.1 (p.2.getD 0)) w
    if heads.any (fun p => match p.2 with | some h => !w.verifies i p.1 h | none => true) then
      let m := w.m.setJob job { j with failedRestore := true }
      .ok { w with m := { m with mgmt := { m.mgmt with reports := m.mgmt.reports ++ [BitVec.ofNat 64 job] } } }
    else
      let heads := heads.map (fun p => (p.1, p.2.getD 0))
      let m := heads.foldl (fun m p =>
        let x := m.context p.1
        m.setContext p.1 { x with rpgen := x.rpgen + 1, rpbase := keepBits p.2 7 50, rpseq := s }) w.m
      let table := heads.flatMap (fun p => w.resumeTable i p.1 p.2)
      let good := table.filter (m.accepts job)
      let m := m.rebind job good
      .ok { w with m := m.setJob job { j with
        stopped := false, ignored := j.ignored + (table.length - good.length), agreed := none } }

/-- 13 R332: Umante restores a job from the record whose SEQ is S. -/
def bodyRecoveryRestore (job : Nat) (agreedSeq : Word) (w : Work) : M Work := restoreJob job agreedSeq w

def execRecoveryRestore (job : Nat) (agreedSeq : Word) (s : State) : Host.Outcome State Fault Refusal :=
  event (bodyRecoveryRestore job agreedSeq) s

/-! ### Remote accesses (12 R299, R303; 16 R409) -/

/-- 16 R409: a remote access of a slot is not acknowledged for 20 ms, or waits for a package that is unreachable already. -/
def bodyRemoteAckTimeout (slot pkg : Nat) (addr : Word) (w : Work) : M Work :=
  let u := (w.m.slot slot).unit
  if u.remoteOut = 0 ∧ u.waiting ≠ some (.lost pkg addr) then .error (.wait .remote)
  else .ok (w.unanswered slot pkg addr)

def execRemoteAckTimeout (slot pkg : Nat) (addr : Word) (s : State) : Host.Outcome State Fault Refusal :=
  event (bodyRemoteAckTimeout slot pkg addr) s

/-- 12 R299: the acknowledgements of a slot's outstanding remote accesses arrive. -/
def bodyRemoteAcknowledgement (slot : Nat) (w : Work) : M Work :=
  .ok (w.modSlot slot (fun s => { s with unit := { s.unit with remoteOut := 0 } }))

def execRemoteAcknowledgement (slot : Nat) (s : State) : Host.Outcome State Fault Refusal :=
  event (bodyRemoteAcknowledgement slot) s

/-- 12 R303: an access from another package is performed at its home here, as one event. A naturally aligned store of up to 8 bytes
is one single-copy atomic write (12 R293). A load that consumes an uncorrectable error is answered with no data (DESIGN CHOICE, log
56: no rule gives the answer over the link); one good Almanac copy is written back (13 R314). -/
def bodyRemoteAccessArrival (access : RemoteAccess) (w : Work) : M Work :=
  match access with
  | .load _ pa size =>
    if 64 < size ∨ hbmEnd < pa + size then .ok w
    else do
      liftMiss w 0 0 (readable w.m (span (hbmLoc pa) size))
      let locs := span (hbmLoc pa) size
      if locs.any w.m.poisoned then
        let w := w.countBad locs
        .ok { w with m := { w.m with pkg := { w.m.pkg with remoteReply := [] } } }
      else
        let w := locs.foldl (fun w x => w.scrub x) w
        .ok { w with m := { w.m with pkg := { w.m.pkg with remoteReply := w.bytes (hbmLoc pa) size } } }
  | .store _ pa bytes =>
    if 64 < bytes.length ∨ hbmEnd < pa + bytes.length then .ok w
    else do
      liftMiss w 0 1 (writable w.m 384 (span (hbmLoc pa) bytes.length))
      let whole := [1, 2, 4, 8].contains bytes.length && pa % bytes.length == 0
      let w := w.noteBytes 0 0 whole (bytes.zipIdx.map (fun p => (hbmLoc pa + p.2, p.1)))
      .ok (w.putBytes (hbmLoc pa) bytes)

def execRemoteAccessArrival (access : RemoteAccess) (s : State) : Host.Outcome State Fault Refusal :=
  event (bodyRemoteAccessArrival access) s

/-- 13 R315, R317: the Almanac writes of a slot's unit reach the persistence point. Slot 384 stands for the writers outside the
slots: the stores that arrived from other packages, whose durability this package then acknowledges, and those of Umante and Horizon
(log 56). -/
def bodyPersistencePointReached (slot : Nat) (w : Work) : M Work :=
  if slot = 384 then
    .ok { w with m := { w.m with pkg := w.m.pkg.settleLines 0 0 (w.m.pkg.unsettled.map (fun e => lineOf e.1)) } }
  else
  let u := (w.m.slot slot).unit
  let w1 : Work := { w with m := { w.m with pkg := w.m.pkg.settleLines u.lid u.unit u.notDurable } }
  .ok (w1.modSlot slot (fun s => { s with unit := { s.unit with notDurable := [] } }))

def execPersistencePointReached (slot : Nat) (s : State) : Host.Outcome State Fault Refusal :=
  event (bodyPersistencePointReached slot) s

/-! ### The package's resets (17 R422) -/

/-- The whole package reset: fuses, the ROM, the Annals and the SRAM key store are kept, and with the Annals store the machine-check log
and the index of the next one-time key (16 R410; 17 R421). -/
def Work.resetPackage (w : Work) : Work :=
  let g := w.m.mgmt
  let kept : Mgmt := { Mgmt.reset with
    fuse := g.fuse, annals := g.annals, machineChecks := g.machineChecks, keyIndex := g.keyIndex, vendorKey := g.vendorKey,
    operatorKey := g.operatorKey }
  let w := w.clearBytes 0 (2 ^ 64)
  { w with m := { Mach.reset with mgmt := kept, agenda := w.m.agenda, fresh := w.m.fresh } }

/-- 17 R422; 13 R315: the package loses power. -/
def bodyPowerLoss (w : Work) : M Work := .ok w.resetPackage

def execPowerLoss (s : State) : Host.Outcome State Fault Refusal :=
  event bodyPowerLoss s

/-- The failure of a unit that the part stops; cause, DETAIL and ADDR no rule states (17 R422, R423). -/
def openFailure (v : Word) (s : Slot) : Failure :=
  { cause := bitsN v 0 8, detail := bitsN v 8 7, pc := keepBits s.regs.pc 0 57, addr := keepBits v 15 49, unit := s.unit.unit,
    treg := 0, token := 0 }

/-- The unit of slot n stopped as a KILL record stops it, one that is being loaded or saved too (17 R422, R423). -/
def Work.stopUnit (w : Work) (n : Nat) : Work :=
  let s := w.m.slot n
  if s.unit.st == .idle || s.unit.discard then w
  else
    let (i, w) := w.draw
    w.killUnit n (openFailure (Config.openWord i) s)

/-- The units of core k's image in shadow storage stopped, and their copies dropped. -/
def Work.stopShadow (w : Work) (k : Nat) : Work :=
  let i := tabGet CoreImage.reset w.m.shadow k
  let w := ([i.s0, i.s1].filter (fun s => s.unit.st != .idle)).foldl (fun w s =>
    let (j, w) := w.draw
    let w := w.failLaunch s.unit.lid (openFailure (Config.openWord j) s)
    let m : Mach := { w.m with engines := w.m.engines.map (fun e =>
      (e.1, { cmds := e.2.cmds.filter (fun c => !(c.lid == s.unit.lid && c.unit == s.unit.unit)) })) }
    { w with m := m.unitGone s.unit.lid }) w
  w.clearShadow k

/-- 17 R422: a base die, or one stack, fails: every job with non-Almanac memory there ends for good, and the die is out of service. The
units of those jobs end at once, and those that the compute die above holds (DESIGN CHOICE, log 58). -/
def bodyBaseDieFailure (die : Fin 4) (w : Work) : M Work :=
  let p := w.m.pkg
  let failed := if p.basesFailed.contains die.val then p.basesFailed else p.basesFailed ++ [die.val]
  let hit (job : Nat) : Bool :=
    (w.m.outsideAlmanac (w.jobRuns job)).any (fun r => Config.rangeInDie r.1 r.2 die.val)
  let jobs := (w.m.jobs.filter (fun j => j.2.live && hit j.1)).map (fun j => j.1)
  let m := jobs.foldl (fun m j =>
    let m := m.cancelJob j
    m.setJob j { m.job j with live := false, stopped := true, ring := none, reference := [] }) w.m
  let w := { w with m := { m with pkg := { m.pkg with basesFailed := failed } } }
  let ends (n : Nat) : Bool := dieOf n == die.val || jobs.contains (w.m.context (w.m.slot n).unit.ctx).job
  let shadows := (w.m.shadowsOf jobs ++ ((w.m.shadow.map (fun p => p.1)).filter (fun k => dieOf (2 * k) == die.val))).eraseDups
  .ok (shadows.foldl Work.stopShadow (((w.m.slots.map (fun p => p.1)).filter ends).foldl Work.stopUnit w))

def execBaseDieFailure (die : Fin 4) (s : State) : Host.Outcome State Fault Refusal :=
  event (bodyBaseDieFailure die) s

end Sys2Proof.Machine
end

