-- ==== Sys2Proof/Machine/Lanes.lean ====
section
/-! DEFINITION. The lanes and the vector queue window seen from outside an instruction: commit, rendezvous, late results, trap entry,
replays and mismatches (03 R57; 04 R94; 07 R175 to R177; 09 R219; 15 R365, R370; 16 R406, R407). A turn of a slot issues and
commits its instruction in one step; these events take an instruction through the window in several (log 6). -/

namespace Sys2Proof.Machine

/-- The work of an instruction word at issue, episodes included. -/
def meaningOf (i : Instr) : Work → M Work :=
  match i with
  | .vfetch _ _ a => bodyVfetch a
  | i => bodyOf i

/-- A turn taken as a slot; the current slot stays current. -/
def asSlot (n : Nat) (turn : State → Host.Outcome State Fault Refusal) (s : State) : Host.Outcome State Fault Refusal :=
  match turn { s with cur := n } with
  | .next t => .next { t with cur := s.cur }
  | o => o

/-! ### Who issues (01 R7; 16 R402, R403) -/

/-- A register changed, x registers apart. -/
def SlotRegs.put (r : SlotRegs) : OldReg → SlotRegs
  | .x _ _ _ => r
  | .v n v => { r with v := tabSet r.v n v }
  | .m n v => { r with m := tabSet r.m n v }
  | .k n v => { r with k := tabSet r.k n v }

/-- A result written to the registers: every lane moves its writes into its slices, the flags are ORed, and the dirty bits set (04
R95, R96; 15 R383). -/
def Work.applyResult (w : Work) (r : FlightResult) : Work :=
  ((w.mapRegs (fun g => r.writes.foldl SlotRegs.put g)).markDirty r.dirty).orFlags r.flags

/-- The instructions that enter the lanes' queues: those of the arithmetic, SF and XL classes, loads and stores, and the tile
operations of the lanes (04 R88; 09 R219). -/
def entersQueue (fmt : BitVec 4) (i : Instr) : Bool :=
  let f := infoOf fmt i
  (f.cls != .scalar && f.cls != .none) || (f.tile && isRendezvous fmt i)

/-- The entries and the shadow writes that a slot has of each lane: half where both slots hold a unit (01 Table 1.3). -/
def Mach.shares (m : Mach) (n : Nat) : Nat × Nat :=
  if (m.slot (otherSlot n)).unit.st == .idle then (64, 32) else (32, 16)

/-- Whether every lane queue of slot n has room for an instruction: for as many entries as the rest of its convoy makes (01 R10; 03
R56). -/
def Mach.queueRoom (m : Mach) (n members : Nat) : Bool :=
  decide (((m.slot n).thr.window.filter (fun f => entersQueue f.ctl.fmt f.instr)).length + members ≤ (m.shares n).1)

/-- The slot as its next instruction finds it: what the entries of the window have produced stands in the registers, whether
a lane holds it in its slices or in its shadow write buffer. -/
def Work.front (w : Work) : Work :=
  let r := w.s.thr.window.foldl (fun w f => match f.result with | some r => w.applyResult r | none => w) w
  (r.mapCtl (fun c => { c with fflags := 0 })).putWindow []

/-- The word that slot n's thread executes next, decoded, with the work that fetching it leaves; none where it cannot be fetched or
decoded. -/
def Work.nextInstr (w : Work) (n : Nat) : Option (Instr × Work) :=
  match ({ w with m := { w.m with cur := n } } : Work).front.nextWord with
  | .error _ => none
  | .ok (word, w1) => (decodedWord word).map (fun i => (i, w1))

/-- Whether slot n's next instruction is ready: the slot may issue and does not wait, no x register that the instruction names awaits
a result, and the lane queues have room for it (03 R56, R59). -/
def Work.readyAt (w : Work) (n : Nat) : Bool :=
  let s := w.m.slot n
  s.issues && s.unit.waiting.isNone &&
  (match w.nextInstr n with
   | none => true
   | some (i, w1) =>
     !w1.s.tokenPending i && (!entersQueue w1.s.ctl.fmt i || w.m.queueRoom n (max 1 w1.s.thr.convoy.length)))

/-- Whether both slots of slot n's core are ready: a tie (01 R7). -/
def Work.tie (w : Work) (n : Nat) : Bool := w.readyAt n && w.readyAt (otherSlot n)

/-- The slot of the core that issues where slot n would: in a tie, the one that did not issue in the last tie (01 R7). -/
def Work.granted (w : Work) (n : Nat) : Nat :=
  if (w.m.site (coreOf n)).lastTie == some n && w.tie n then otherSlot n else n

/-- Slot n's issue noted where it is one of a tie (01 R7). -/
def Work.tied (w : Work) (n : Nat) : Work :=
  if w.tie n then { w with m := w.m.setSite (coreOf n) { w.m.site (coreOf n) with lastTie := some n } } else w

/-- The same in a state. -/
def State.tied (s : State) (n : Nat) : State := { s with toMach := (s.work.tied n).m }

/-- The scalar instructions of fixed latency, which the front end itself executes; `rdc` waits for the lanes (02 R35). -/
def runsScalar (i : Instr) (f : Info) : Bool :=
  f.cls == .scalar && f.lat.isSome && (match i with | .rdc _ _ _ => false | _ => true)

/-- What the lanes produce of an entry from the registers that they find, if they produce it before the entry commits: a rendezvous
forms its results at COMPLETE, and an instruction that traps, waits or changes a control register is left for its commit
point (04 R95; 07 R176). A load's result rests on the memory that it finds, as a strip does; the accesses take place when it commits
(log 6). Flags and dirty bits are its own (04 R96; 15 R383). -/
def Work.forecast (w : Work) (f : InFlight) (later : List InFlight) : Option FlightResult :=
  if isRendezvous f.ctl.fmt f.instr || f.info.cls == .none then none else
  let w := (w.setS (w.s.backTo f later)).mapCtl (fun c => { c with fflags := 0, vstate := c.vstate &&& 1 })
  match w.runMeaning f.instr (meaningOf f.instr) with
  | .error _ => none
  | .ok w =>
    if w.s.ctl.captured { f.ctl with vstart := 0 } = w.s.ctl then
      some { writes := written w.s f.outs, flags := w.s.ctl.fflags, dirty := w.s.ctl.vstate &&& ~~~1 }
    else none

/-- The entries with their results formed in order, as far as they can be: `w` holds the registers that the first of them finds. -/
def Work.formList (w : Work) : List InFlight → List InFlight
  | [] => []
  | f :: fs =>
    match f.result with
    | some r => f :: (w.applyResult r).formList fs
    | none => match w.forecast f fs with
      | some r => { f with result := some r } :: (w.applyResult r).formList fs
      | none => f :: fs

def Work.formed (w : Work) : Work := w.putWindow ((w.putWindow []).formList w.s.thr.window)

/-- The bindings as the instructions after an entry find them: the strips of the sources that it reads are taken, and the registers
that it writes are unbound (06 R170, R171). -/
def InFlight.bindsAfter (f : InFlight) : List Binding :=
  (f.binds.filter (fun b => !f.info.wr.any (fun r => match r with | .v n => n.val == b.reg | _ => false))).map
    (fun b => if f.bound.contains b.reg then { b with pos := b.pos + f.ctl.vl.toNat } else b)

/-- A vector instruction issued without having run: the pc, the windows and the distances move on (02 R30, R32). -/
def Work.passed (w : Work) (i : Instr) : Work := ({ w with npc := w.s.regs.pc + 4 } : Work).retire i w.s

/-- The next instruction of the running slot entered behind what has issued and not committed: a scalar one of fixed latency is
executed, any other one gets an entry for the lanes, and its result as soon as it can be formed. None where it may not enter: at a
trap of issue, where it needs a token or a register that an earlier entry has still to produce, or with the slot's share of the queue
full (01 R10; 15 R370). -/
def Work.enter (w : Work) : Option Work :=
  let l := w.s.thr.window
  if !w.s.issues || w.s.unit.waiting.isSome || l.any (fun f => f.iseq == w.s.thr.iseq) then none else
  match w.front.nextWord with
  | .error _ => none
  | .ok (word, w1) =>
    match decodeWord word with
    | .error _ => none
    | .ok i =>
      let f := w1.newFlight i
      let open_ := (l.filter (fun g => g.result.isNone)).flatMap (fun g => g.info.wr)
      let isX (r : RegName) : Bool := match r with | .x _ => true | _ => false
      let needs := (f.info.rd ++ f.info.wr).filter isX
      if (w1.checkTrap i).isSome || (w1.blocked i).isSome || needs.any (fun r => open_.contains r) then none
      else
        -- the registers, flags and dirty bits of what has committed, and the longer window
        let back (w' : Work) (f : InFlight) : Work := w'.setS { w'.s with
          regs := { w'.s.regs with v := w.s.regs.v, m := w.s.regs.m, k := w.s.regs.k }
          ctl := { w'.s.ctl with fflags := w.s.ctl.fflags, vstate := w.s.ctl.vstate }
          thr := { w'.s.thr with window := l ++ [f] } }
        if runsScalar i f.info then
          match w1.runMeaning i (meaningOf i) with
          | .ok w2 => some (back w2 { f with
              lanes := 0xFFFF, undo := f.info.wr.filterMap (RegName.old w1.s)
              result := some { writes := [], flags := w2.s.ctl.fflags, dirty := 0 } })
          | .error _ => none
        else if entersQueue f.ctl.fmt i && w.m.queueRoom w.m.cur (max 1 w1.s.thr.convoy.length) then
          some (back ((w1.passed i).mapThr (fun t => { t with binds := f.bindsAfter })) f).formed
        else none

/-- The rest of a convoy entered, `k` members at most. -/
def Work.enterRest : Nat → Work → Option Work
  | 0, w => some w
  | k + 1, w => if w.s.thr.convoy = [] then some w else w.enter.bind (Work.enterRest k)

/-- The next instruction entered, a convoy as one unit (04 R88). -/
def Work.enterUnit (w : Work) : Option Work := w.enter.bind (fun w1 => w1.enterRest w1.s.thr.convoy.length)

/-- The next instruction of slot n issued while earlier ones have not committed, where slot n is the one that issues (01 R7). -/
def aheadTurn (n : Nat) (s : State) : Host.Outcome State Fault Refusal :=
  asSlot n (fun s =>
    if s.work.granted s.cur ≠ s.cur then .next s else
    match (s.work.tied s.cur).enterUnit with
    | none => .next s
    | some w => .next (w.finish s)) s

/-- The next instruction of the running slot issued into its empty window, where the slot is the one that issues: the entry, and the
work that holds it. A convoy enters as one unit if it can. None where the instruction may not issue: at a trap of issue, or where a
register awaits a token. -/
def Work.nextFlight (w : Work) : Option (InFlight × Work) :=
  if !w.s.issues || w.s.unit.waiting.isSome || w.granted w.m.cur != w.m.cur then none else
  let w0 := w.tied w.m.cur
  match w0.nextWord with
  | .error _ => none
  | .ok (word, w1) =>
    match decodeWord word with
    | .error _ => none
    | .ok i =>
      if (w1.checkTrap i).isSome || (w1.blocked i).isSome then none
      else match (if 1 < w1.s.thr.convoy.length then w0.enterUnit else none) with
        | some w2 => w2.s.thr.window.head?.map (fun f => (f, w2))
        | none => some (w1.newFlight i, w1.putWindow [w1.newFlight i])

/-- The oldest entry of the running slot's window, with the work that holds it: where the window is empty, the next instruction
issues into it. -/
def Work.inFlight (w : Work) : Option (InFlight × Work) :=
  match w.s.thr.window with
  | f :: _ => some (f, w)
  | [] => w.nextFlight

/-- The window of a slot changed where p holds of its oldest entry. -/
def onFlight (n : Nat) (p : Work → InFlight → Bool) (act : Work → InFlight → Work) (s : State) :
    Host.Outcome State Fault Refusal :=
  asSlot n (fun s =>
    match s.work.inFlight with
    | none => .next s
    | some (f, w) => if p w f then .next ((act w f).finish s) else .next s) s

/-! ### The commit point (04 R94 to R96) -/

/-- The commit point moves over the entries that all lanes have completed, at most k of them: what makes accesses makes them now (04
R94; log 6). -/
def Work.commitDone : Nat → Work → Work
  | 0, w => w
  | k + 1, w =>
    match w.s.thr.window with
    | [] => w
    | f :: fs =>
      match f.result with
      | none => w
      | some r =>
        if f.lanes ≠ 0xFFFF then w
        else if !w.s.toRun f then Work.commitDone k ((w.applyResult r).putWindow fs)
        else match w.runFlight f (meaningOf f.instr) with
          | .ok w' => Work.commitDone k w'
          | .error _ => w

/-- The last lane completes the oldest entry of the window, whose result is formed. -/
def Work.commitOldest (w : Work) : Work :=
  match w.s.thr.window with
  | [] => w
  | f :: fs => (w.putWindow ({ f with lanes := 0xFFFF } :: fs)).commitDone (fs.length + 1)

/-- The shadow entries that an entry takes of a lane: one for each destination register (04 R95). -/
def InFlight.dests (f : InFlight) : Nat := (f.info.wr.filter (fun r => match r with | .x _ => false | _ => true)).length

/-- The shadow writes that lane k holds: those of the entries that it completed ahead of the commit point, until they commit (04
R95). -/
def heldWrites (k : Nat) (l : List InFlight) : Nat := l.foldl (fun a f => if bitB f.shadow k then a + f.dests else a) 0

/-- Lane k completes the next entry of its queue, in order. It starts none that writes a register while its share of shadow
writes is full, unless that entry stands at the commit point (04 R92, R95). -/
def laneEntry (k share : Nat) (l : List InFlight) : List InFlight :=
  match l.findIdx? (fun f => !bitB f.lanes k) with
  | none => l
  | some j =>
    let held := heldWrites k l
    l.modify j (fun f =>
      if f.result.isNone then f
      else if j = 0 then { f with lanes := f.lanes ||| BitVec.twoPow 16 k }
      else if f.dests = 0 ∨ held + f.dests ≤ share then
        { f with lanes := f.lanes ||| BitVec.twoPow 16 k, shadow := f.shadow ||| BitVec.twoPow 16 k }
      else f)

/-- A turn of lane k of slot n. -/
def laneTurn (n k : Nat) (s : State) : Host.Outcome State Fault Refusal :=
  asSlot n (fun s =>
    let w := s.work.formed
    let l := laneEntry k (w.m.shares n).2 w.s.thr.window
    .next (((w.putWindow l).commitDone l.length).finish s)) s

/-! ### Commit and rendezvous -/

/-- The oldest entry of a slot run to its end where p holds of it: it commits, takes its trap or waits. -/
def commitFlight (n : Nat) (p : InFlight → Bool) (s : State) : Host.Outcome State Fault Refusal :=
  asSlot n (fun s =>
    match s.work.inFlight with
    | none => .next s
    | some (f, w) =>
      if !p f then .next s
      else if !w.s.toRun f then .next (w.commitOldest.finish s)
      else settle s (some f.instr) (w.runFlight f (meaningOf f.instr))) s

/-- 04 R94: the slot's vector instruction at the commit point commits. -/
def execVectorCommit (slot : Nat) (s : State) : Host.Outcome State Fault Refusal :=
  commitFlight slot (fun f => f.info.cls != .scalar && !isRendezvous f.ctl.fmt f.instr) s

/-- 03 R57: the result of a variable-latency scalar instruction is written. -/
def execVariableLatencyResult (slot : Nat) (s : State) : Host.Outcome State Fault Refusal :=
  commitFlight slot (fun f =>
    f.info.cls == .scalar && !f.info.tile && !isRendezvous f.ctl.fmt f.instr && f.info.lat.isNone && f.info.wr != []) s

/-! ### The entries of the sequencer and the queue (09 R219, R238) -/

/-- The lane tile operation of the sequencer or the queue that stands next in the queues of slot n's lanes. -/
def Mach.laneOp (m : Mach) (n : Nat) : Option TileOp :=
  let c := m.core (coreOf n)
  if c.owner = some n then c.tileOps.head?.filter (fun op => !unitTile op.instr && (m.slot n).tileReached op) else none

/-- That operation changed. -/
def Work.setLaneOp (w : Work) (n : Nat) (op : TileOp) : Work := w.setTileOp (coreOf n) op

/-- A lane arrives at the operation. -/
def TileOp.arrive (op : TileOp) (lane : Nat) : TileOp := { op with arrivals := op.arrivals ||| BitVec.twoPow 16 lane }

/-- A replay of the entry: it runs again from OPEN, and the Annals count it (07 R177; 15 R370). -/
def Work.replayLaneOp (w : Work) (n : Nat) (op : TileOp) : Work :=
  let w := w.setLaneOp n { op with arrivals := 0 }
  { w with m := w.m.countAnnals (.windowReplay (coreOf n)) }

/-- The acceptance of the core's operations undone, in tile order: the sequencer stands at its one, the commands at the head of the
queue, which may then hold more than 32 (DESIGN CHOICE, log 6: no rule says what becomes of operations behind one that a mismatch
stops). -/
def Work.undoLaneOps (w : Work) (n : Nat) : Work :=
  let c := w.m.core (coreOf n)
  let back := (c.tileOps.filter (fun op => !op.bySeq)).map (fun op =>
    ({ word := op.word, opa := op.src.opa, opb := op.src.opb, ksteps := op.ksteps } : MatrixCommand))
  { w with m := w.m.setCore (coreOf n) { c with tileOps := [], queue := back ++ c.queue } }

/-- A lane arrives at the rendezvous that is the next entry of its queue: it has completed every entry before it (07 R175, R176). -/
def arriveAt (lane : Nat) : List InFlight → List InFlight
  | [] => []
  | f :: fs =>
    if bitB f.lanes lane then f :: arriveAt lane fs
    else if isRendezvous f.ctl.fmt f.instr then { f with arrivals := f.arrivals ||| BitVec.twoPow 16 lane } :: fs
    else f :: fs

/-- 07 R175; 09 R219: a lane arrives at the slot's rendezvous: an operation of the sequencer or the queue that stands in its queues,
else the thread's. -/
def execRendezvousArrival (slot : Nat) (lane : Fin 16) (s : State) : Host.Outcome State Fault Refusal :=
  match s.toMach.laneOp slot with
  | some op => .next ((s.work.setLaneOp slot (op.arrive lane.val)).finish s)
  | none => onFlight slot (fun w f => w.s.thr.window != [f] || isRendezvous f.ctl.fmt f.instr)
    (fun w _ => w.putWindow (arriveAt lane.val w.s.thr.window)) s

/-- 07 R176: every lane has arrived: the rendezvous writes its results and commits. -/
def execRendezvousComplete (slot : Nat) (s : State) : Host.Outcome State Fault Refusal :=
  commitFlight slot (fun f => isRendezvous f.ctl.fmt f.instr && !f.info.tile && f.arrivals == 0xFFFF) s

/-- 09 R219: every lane has arrived at a lane tile operation of the core's owner, whatever its source: the staging copies are
installed. -/
def execTileOpComplete (core : Nat) (s : State) : Host.Outcome State Fault Refusal :=
  match (s.toMach.core core).owner with
  | none => .next s
  | some n => match s.toMach.laneOp n with
    | some op => if op.arrivals = 0xFFFF then event (finishTile core) s else .next s
    | none => commitFlight n (fun f => f.info.tile && isRendezvous f.ctl.fmt f.instr && f.arrivals == 0xFFFF) s

/-- The trap of a slot's next instruction, if it takes one, with the work that it leaves (15 R365). -/
def Work.nextTrap (w : Work) : Option (Work × Trap) :=
  let trapOf (r : M Work) : Option (Work × Trap) := match r with | .error (.trap w t) => some (w, t) | _ => none
  let run (w : Work) (i : Instr) : Option (Work × Trap) :=
    match w.checkTrap i with
    | some t => some (w, t)
    | none => if (w.blocked i).isSome then none else trapOf (w.orReplay (w.newFlight i) (w.runMeaning i (meaningOf i)))
  match w.s.thr.window with
  | f :: _ => if w.s.toRun f then trapOf (w.runFlight f (meaningOf f.instr)) else none
  | [] =>
    if !w.s.issues || w.granted w.m.cur != w.m.cur then none else
    let w := w.tied w.m.cur
    match w.nextWord with
    | .error (.trap w t) => some (w, t)
    | .error _ => none
    | .ok (word, w) =>
      match decodeWord word with
      | .ok i => run w i
      | .error _ => some (w, { cause := cILLEGAL, acc := 0, stval := memberVal 0 word })

/-- 15 R365: the commit point has reached the slot's faulting instruction: the trap is taken. -/
def execTrapEntry (slot : Nat) (s : State) : Host.Outcome State Fault Refusal :=
  asSlot slot (fun s =>
    match s.work.nextTrap with
    | none => .next s
    | some (w, t) => settle s none (.error (.trap w t))) s

/-! ### Replays and mismatches (15 R370; 16 R406, R407) -/

/-- 15 R370: a window replay. -/
def execWindowReplay (slot : Nat) (s : State) : Host.Outcome State Fault Refusal :=
  match s.toMach.laneOp slot with
  | some op => .next ((s.work.replayLaneOp slot op).finish s)
  | none => onFlight slot (fun _ f => f.info.cls != .scalar || f.info.tile) (fun w _ => w.replay) s

/-- The slot stopped where it stands after a second mismatch: a machine-check record, the state of a pre-emption that has landed
at a trap, and the unit bound to none of `avoid` again (16 R406, R407). -/
def Work.stopAt (w : Work) (kind place : Nat) (avoid : List Nat) : Work :=
  let n := w.m.cur
  let w := (w.setS w.s.squash).machineCheck kind place n
  (w.mapUnit (fun u => { u with avoid := avoid ++ u.avoid })).suspendUnit n none

/-- A mismatch: the first one replays the window and is counted; a second one at the replayed instruction writes a machine-check
record and stops the slot there, as a pre-emption that has landed at a trap, and the unit is bound to none of `avoid` again. -/
def Work.mismatch (w : Work) (f : InFlight) (kind place : Nat) (key : AnnalsKey) (avoid : List Nat) : Work :=
  if !f.mismatched then
    let w := { w with m := w.m.countAnnals key }
    (w.putWindow ({ f with mismatched := true } :: w.s.thr.window.drop 1)).replay
  else w.stopAt kind place avoid

/-- A mismatch between the two passes of an operation of the sequencer or the queue: the first one runs it again, a second one
undoes its acceptance and stops the slot (09 R238; 16 R406). -/
def Work.tileMismatch (w : Work) (op : TileOp) (lane : Nat) : Work :=
  let n := w.m.cur
  let core := coreOf n
  if !op.mismatched then
    ({ w with m := w.m.countAnnals (.laneMismatch core lane) }).replayLaneOp n { op with mismatched := true }
  else (w.undoLaneOps n).stopAt mcLane (core * 16 + lane) [core]

/-- 16 R406: lanes k and k + 8 differ at a write-back in protected mode; the unit is bound on another core. -/
def execLaneMismatch (slot : Nat) (lane : Fin 8) (s : State) : Host.Outcome State Fault Refusal :=
  match s.toMach.laneOp slot with
  | some op => asSlot slot (fun s =>
      if s.work.prot && s.work.s.unit.st.runs then .next ((s.work.tileMismatch op lane.val).finish s) else .next s) s
  | none => onFlight slot (fun w f => w.prot && (f.info.cls != .scalar || f.info.tile))
    (fun w f => w.mismatch f mcLane (coreOf slot * 16 + lane.val) (.laneMismatch (coreOf slot) lane.val) [coreOf slot]) s

/-- 16 R407: the two copies of a lockstep unit differ; the unit is bound on another pair of clusters. -/
def execLockstepMismatch (slot : Nat) (s : State) : Host.Outcome State Fault Refusal :=
  onFlight slot (fun w _ => w.ctx.lockstep)
    (fun w f => w.mismatch f mcLockstep (clusterOf slot / 2) (.lockstepDivergence (clusterOf slot / 2))
      ((List.range 8).map (fun i => clusterOf slot / 2 * 8 + i))) s

end Sys2Proof.Machine
end

