-- ==== Sys2Proof/Machine/Between.lean ====
section
/-! DEFINITION. The accesses of an instruction that stand apart in the total order (12 R290, R291, R301; log 4): an instruction or an
operation of a tile unit that makes its accesses in several turns, with those of other agents between; stores that are performed after
later accesses of their thread, loads that are performed after them, and remote loads that were performed before earlier ones. -/

namespace Sys2Proof.Machine

/-! ### What a thread or a tile unit has under way -/

/-- What slot n's thread has under way between two steps; for n = 384 + c, the tile unit of core c. -/
def Mach.part (m : Mach) (n : Nat) : Part := tabGet Part.reset m.parts n

def Mach.setPart (m : Mach) (n : Nat) (p : Part) : Mach :=
  { m with parts := if p = Part.reset then tabDel m.parts n else tabSet m.parts n p }

/-- The core of whose tile unit a number of `parts` speaks. -/
def tilePart (n : Nat) : Option Nat := if 384 ≤ n then some (n - 384) else none

/-- The work of the running slot's instruction i, which issues now or is the oldest entry of its window. -/
def Work.proceed (w : Work) (i : Instr) : M Work :=
  match w.s.thr.window with
  | f :: _ => w.runFlight f (meaningOf i)
  | [] => w.orReplay (w.newFlight i) (w.runMeaning i (meaningOf i))

/-- The instruction of the running slot that would go on now: the oldest entry of its window, or its next instruction, with the work that
fetching it leaves. None in a job in Calendar mode, which fixes the order (16 R403). -/
def Work.atWork (w : Work) : Option (Instr × Work) :=
  if !w.s.issues || w.s.unit.waiting.isSome || w.calendar then none else
  match w.s.thr.window with
  | f :: _ => if w.s.toRun f then some (f.instr, w) else none
  | [] =>
    match w.nextWord with
    | .error _ => none
    | .ok (word, w) => (decodedWord word).bind (fun i => if (w.checkTrap i).isSome || (w.blocked i).isSome then none else some (i, w))

/-! ### Accesses in several turns (12 R290, R291, R293) -/

/-- The instructions whose writes are made in stages of their own (13 R325, R326). -/
def staged : Instr → Bool
  | .ckpbeg _ _ _ => true
  | .ckpseal _ _ => true
  | _ => false

/-- Whether an instruction that has made accesses can be brought to its end: it completes, or, where what it wrote before a trap stays, it
traps. A virtual processor that meets a fault has stored nothing (07 R187). -/
def endsWell (i : Instr) : M Work → Bool
  | .ok _ => true
  | .error (.trap _ _) => match i with | .vfetch _ _ _ => false | _ => true
  | .error _ => false

/-- A work in which the accesses of `p` up to its pause have been made and nothing else of it has taken effect: its writes stand, with the
links that they break, the errors that were corrected, and the links and holds that its reads have set (08 R204, R206, R207). -/
def Work.pausedAt (w p : Work) : Work :=
  let m := w.m.wrote (p.ws.drop (p.ws.length - p.spent))
  let m := { m with
    pkg := { m.pkg with holds := p.m.pkg.holds, poison := p.m.pkg.poison, unsettled := p.m.pkg.unsettled, nextWrite := p.m.pkg.nextWrite }
    mgmt := { m.mgmt with annals := p.m.mgmt.annals } }
  { w with m := m, ws := p.ws, spent := p.spent }

/-- The same where the instruction is a slot's: the links of its elements are the slot's own. -/
def Work.slotPaused (w p : Work) : Work :=
  (w.pausedAt p).mapThr (fun t => { t with elinks := p.s.thr.elinks, linkRun := p.s.thr.linkRun })

/-- The next k accesses of the running slot's instruction i, after those of `made`; none where they would be all that are left, or where
it could not be brought to its end. -/
def Work.goPart (w : Work) (k : Nat) (i : Instr) (made : List Made) : Option Work :=
  if k = 0 || staged i || !endsWell i (({ w with made := made } : Work).proceed i) then none else
  match ({ w with made := made, limit := some (made.length + k) } : Work).proceed i with
  | .error (.pause p) =>
    let w := w.slotPaused p
    some { w with m := w.m.setPart w.m.cur { half := some { instr := i, made := p.made }, seen := [], owed := [] } }
  | _ => none

/-- The current slot's instruction makes its next k accesses. -/
def partTurn (k : Nat) (s : State) : Option State :=
  match (s.toMach.part s.cur).half with
  | some h => (s.work.goPart k h.instr h.made).map (fun w => w.finish s)
  | none => s.work.atWork.bind (fun p => (p.2.goPart k p.1 []).map (fun w => w.finish s))

/-- The accesses of the first operation of a core's tile unit that have been made. -/
def Mach.tileMade (m : Mach) (core : Nat) : List Made := ((m.part (384 + core)).half.map (fun h => h.made)).getD []

/-- The first operation of a core's tile unit makes its next k accesses (09 R217; 12 R291). -/
def tilePartTurn (core k : Nat) (s : State) : State :=
  let m := s.toMach
  let made := m.tileMade core
  match (m.core core).owner, (m.core core).tileOps with
  | some n, op :: _ =>
    let calendar := bitB (m.job (m.context (m.slot n).unit.ctx).job).calmode 0
    if k = 0 || calendar || !(finishTile core { s.work with made := made }).isOk then s else
    match finishTile core { s.work with made := made, limit := some (made.length + k) } with
    | .error (.pause p) =>
      let w := s.work.pausedAt p
      { w with m := w.m.setPart (384 + core) { half := some { instr := op.instr, made := p.made }, seen := [], owed := [] } : Work }.finish s
    | _ => s
  | _, _ => s

/-! ### Accesses out of their program order (12 R301) -/

/-- The eight aligned bytes around a place. Every atomic access of up to 8 bytes lies in eight such bytes (12 R293). -/
def eightOf (loc : Nat) : List Nat := span (loc / 8 * 8) 8

/-- Whether two accesses have bytes in the same eight. -/
def meets (a b : List Nat) : Bool := a.any (fun x => b.any (fun y => x / 8 == y / 8))

/-- Whether two accesses have a byte in common. -/
def shares (a b : List Nat) : Bool := a.any (fun x => b.contains x)

/-- The places of an access that a thread owes. -/
def Owed.locs : Owed → List Nat
  | .store cells => cells.map (fun c => c.1)
  | .load l => l.locs

/-- The bytes that it stores. -/
def Owed.cells : Owed → List Host.Cell
  | .store cells => cells
  | .load _ => []

/-- Whether it has a byte in this package. -/
def Owed.near (x : Owed) : Bool := x.locs.any (fun l => !isRemote l)

def Owed.isLoad : Owed → Bool
  | .store _ => false
  | .load _ => true

/-- Whether an access is performed before a later one of its thread, whatever the agenda: both are in this package, whose order is
consistent with program order (12 R290), or they have a byte in common (12 R301). -/
def Owed.before (a b : Owed) : Bool := (a.near && b.near) || shares a.locs b.locs

/-- The numbers of the accesses that are performed when the j-th of a list is: it, and all that must come before it. -/
def dueWith (l : List Owed) (j : Nat) : List Nat :=
  let first (i k : Nat) : Bool := match l[i]?, l[k]? with | some a, some b => a.before b | _, _ => false
  (List.range (j + 1)).reverse.foldl (fun acc i => if i = j || acc.any (first i) then i :: acc else acc) []

/-- Memory as a thread with accesses under way reads it: the bytes that it has read early, and its own stores that it owes, stand in
it. -/
def State.viewOf (s : State) (n : Nat) : List Host.Cell :=
  let p := s.toMach.part n
  applyWrs s.mem ((p.seen ++ p.owed.flatMap Owed.cells).reverse.map (fun c => .put c.1 c.2))

/-- A late load run on the registers with which it issued. -/
def State.runLate (s : State) (n : Nat) (l : LateLoad) : M Work :=
  let old := s.toMach.slot n
  let slot : Slot := { old with regs := l.regs, ctl := l.ctl, thr := { old.thr with wins := l.wins, binds := [] } }
  meaningOf l.instr { s.work with m := { s.toMach with cur := n }.setSlot n slot }

/-- A register taken over from other registers. -/
def SlotRegs.take (r other : SlotRegs) : RegName → SlotRegs
  | .x n => r.setX (inBank other.level n.val) n.val (other.getX (inBank other.level n.val) n.val)
  | .v n => { r with v := tabSet r.v n.val (other.getV n.val) }
  | .m n => { r with m := tabSet r.m n.val (other.getM n.val) }
  | .k n => { r with k := tabSet r.k n.val (other.getK n.val) }

/-- The registers that a late load writes. -/
def LateLoad.dests (l : LateLoad) : List RegName := (infoOf l.ctl.fmt l.instr).wr

/-- An access that slot n's thread owes is performed: bytes are stored, or registers take what a load reads. -/
def State.perform (s : State) (n : Nat) : Owed → State
  | .store cells => (cells.foldl (fun w c => w.putByte c.1 c.2) s.work).finish s
  | .load l =>
    match s.runLate n l with
    | .ok w =>
      let live := s.toMach.slot n
      let done := w.m.slot n
      { s with toMach := s.toMach.setSlot n { live with
          regs := l.dests.foldl (fun r d => r.take done.regs d) live.regs
          ctl := { live.ctl with fflags := live.ctl.fflags ||| done.ctl.fflags } } }
    | .error _ => s

/-- Some of the accesses that slot n's thread owes performed, in order. -/
def State.performed (s : State) (n : Nat) (js : List Nat) : State :=
  let p := s.toMach.part n
  let t := (js.filterMap (fun j => p.owed[j]?)).foldl (fun s x => s.perform n x) s
  { t with toMach := t.toMach.setPart n { p with owed := (p.owed.zipIdx.filter (fun x => !js.contains x.2)).map (fun x => x.1) } }

/-- The first access that slot n's thread owes at a place is performed, after those that must come before it. -/
def State.arrive (s : State) (n loc : Nat) : State :=
  let l := (s.toMach.part n).owed
  match l.findIdx? (fun x => x.locs.contains loc) with
  | some j => s.performed n (dueWith l j)
  | none => s

/-- Every load that slot n's thread owes performed, after what must come before it, and what it has read early given up: what follows an
`acq.system` follows the loads before it (12 R298, R302). -/
def State.returned (s : State) (n : Nat) : State :=
  let l := (s.toMach.part n).owed
  let loads := (List.range l.length).filter (fun j => (l[j]?.map Owed.isLoad).getD false)
  let due := loads.flatMap (dueWith l)
  let s := s.performed n ((List.range l.length).filter (fun j => due.contains j))
  { s with toMach := s.toMach.setPart n { s.toMach.part n with seen := [] } }

/-- Eight bytes of remote memory are read for loads of slot n's thread to come. The thread may not owe an access to them, and their read
may not wait or fail. -/
def State.sight (s : State) (n loc : Nat) : State :=
  let p := s.toMach.part n
  let l := eightOf loc
  let m := s.toMach
  if !isRemote loc || !(m.slot n).issues || bitB (m.job (m.context (m.slot n).unit.ctx).job).calmode 0 || p.half.isSome ||
      p.owed.any (fun x => meets x.locs l) || !(readable m l).isOk || l.any m.poisoned then s
  else { s with toMach := m.setPart n { p with
    seen := p.seen.filter (fun c => !l.contains c.1) ++ l.map (fun i => (i, memGet s.mem i)) } }

/-! ### Instructions that leave accesses to be performed -/

/-- The instructions that find every earlier access of their thread performed: `fence.system` (12 R298), the copies (11 R266), what
leaves the slot, enters or leaves a handler or stops, and what changes translations, records or images. -/
def settlesFirst : Instr → Bool
  | .fence _ k => k.val == 3
  | .cpy _ _ _ _ _ => true
  | .cpy2 _ _ _ _ _ => true
  | .cpyt _ _ _ _ _ _ => true
  | .cpyr _ _ _ _ _ => true
  | .cpym _ _ _ _ _ => true
  | .cpyx _ _ _ _ _ => true
  | .cpyfill _ _ _ _ => true
  | .cpybc _ _ _ _ _ => true
  | .relrcv _ => true
  | .ckpbeg _ _ _ => true
  | .ckpseal _ _ => true
  | .ckpverify _ _ _ => true
  | .ckpabort _ => true
  | .yield _ => true
  | .uexit _ => true
  | .trap _ _ => true
  | .eret _ => true
  | .mcall _ => true
  | .halt _ => true
  | .brk _ _ => true
  | .vptwr _ _ _ => true
  | .tlbinv _ _ _ => true
  | .ctxsave _ _ => true
  | .ctxrest _ _ => true
  | _ => false

/-- The plain stores: the instructions whose writes may stay to be performed. -/
def plainStore : Instr → Bool
  | .st8 _ _ _ _ => true
  | .st16 _ _ _ _ => true
  | .st32 _ _ _ _ => true
  | .st64 _ _ _ _ => true
  | .vst _ _ _ _ _ _ => true
  | .vsts _ _ _ _ _ _ => true
  | .vstx _ _ _ _ _ _ _ _ => true
  | .vstxu _ _ _ _ _ _ _ _ => true
  | .vstt _ _ _ _ _ _ _ => true
  | .vsseg _ _ _ _ _ _ _ _ => true
  | _ => false

/-- The plain loads: the instructions that may be performed late. -/
def plainLoad : Instr → Bool
  | .ld8 _ _ _ _ => true
  | .ld16 _ _ _ _ => true
  | .ld32 _ _ _ _ => true
  | .ld64 _ _ _ _ => true
  | .ld8N _ _ _ _ => true
  | .ld16N _ _ _ _ => true
  | .ld32N _ _ _ _ => true
  | .vld _ _ _ _ _ => true
  | .vlds _ _ _ _ _ => true
  | .vldx _ _ _ _ _ _ _ => true
  | .vldt _ _ _ _ _ _ => true
  | .vlseg _ _ _ _ _ _ _ => true
  | _ => false

/-- `acq.system`. -/
def acquires : Instr → Bool
  | .acq _ k => k.val == 3
  | _ => false

/-- `rel.system`. -/
def releases : Instr → Bool
  | .rel _ k => k.val == 3
  | _ => false

/-- A read or write of a control register. -/
def namesCsr : Instr → Bool
  | .rdc _ _ _ => true
  | .wrc _ _ _ => true
  | _ => false

/-- The next instruction of the running slot where it would issue now, alone, into an empty window. -/
def Work.plainNext (w : Work) : Option (Instr × Work) :=
  if w.s.thr.window != [] || w.s.thr.convoy != [] then none else w.atWork.filter (fun p => p.2.s.thr.convoy == [])

/-- Whether an instruction may issue while its thread owes accesses: it names no register that a late load still writes, and the order
that it sets is kept. -/
def Part.allows (p : Part) (i : Instr) (f : Info) : Bool :=
  let awaited (r : RegName) : Bool := p.owed.any (fun x => match x with | .load l => l.dests.contains r | .store _ => false)
  p.half.isNone && !settlesFirst i && !(f.rd ++ f.wr).any awaited && !(namesCsr i && p.owed.any Owed.isLoad) &&
  !(releases i && p.owed != [])

/-- The reads and the writes of accesses. -/
def readLocs (l : List Made) : List Nat := (l.filter (fun x => !x.write)).flatMap (fun x => x.locs)
def writeLocs (l : List Made) : List Nat := (l.filter (fun x => x.write)).flatMap (fun x => x.locs)

/-- Whether accesses may be performed now, before those that the thread owes: one in this package only where it owes none there (12 R290), and
none to a byte that it owes an access to (12 R301). -/
def Part.passes (p : Part) (reads now : List Nat) : Bool :=
  !((reads ++ now).any (fun l => !isRemote l) && p.owed.any Owed.near) &&
  !p.owed.any (fun x => shares x.locs (reads ++ now))

/-- The number of accesses that no instruction makes: with it as the limit all are listed. -/
def allAccesses : Nat := 2 ^ 64

/-- The part after writes: what was read early of the bytes around them is dropped, so that the accesses to one byte keep their order. -/
def Part.wrote (p : Part) (l : List Nat) : Part := { p with seen := p.seen.filter (fun c => !meets l [c.1]) }

/-- The state that a work leaves whose listed writes stay to be performed. -/
def Work.finishOwed (w : Work) (s : State) : State :=
  let locs := writeLocs w.made
  let kept (x : Wr) : Bool := match x with | .put loc _ => !locs.contains loc | .clear _ _ => true
  let p := (w.m.part w.m.cur).wrote locs
  let stores := (w.made.filter (fun x => x.write)).map (fun x => Owed.store (x.locs.zip x.bytes))
  let m := w.m.setPart w.m.cur { p with owed := p.owed ++ stores }
  { toMach := m.wrote (w.unspent.filter kept), mem := applyWrs s.mem (w.ws.filter kept) }

/-- The current slot's next instruction, with earlier accesses of its thread still to be performed: a plain store leaves its own writes
so too; every other access is performed now. -/
def looseTurn (s : State) : Option State :=
  let n := s.cur
  let next (s : State) : Option (Instr × Work) := ({ s.work with base := s.viewOf n } : Work).plainNext
  let s := if ((next s).map (fun p => acquires p.1)).getD false then s.returned n else s
  match next s with
  | none => none
  | some (i, w) =>
    let p := s.toMach.part n
    if !p.allows i (infoOf w.s.ctl.fmt i) then none else
    match ({ w with limit := some allAccesses } : Work).proceed i with
    | .ok w1 =>
      let owes := plainStore i && !(writeLocs w1.made).any w1.m.almanac
      let now := if owes then [] else writeLocs w1.made
      if w1.s.thr.window != [] || !p.passes (readLocs w1.made) now then none
      else if owes then some (w1.finishOwed s)
      else some (({ w1 with m := w1.m.setPart n ((w1.m.part n).wrote now) } : Work).finish s)
    | .error _ => none

/-- The current slot's next instruction, a load, issues, and is performed later: its registers await the values (12 R301). -/
def lateTurn (s : State) : Option State :=
  let n := s.cur
  match ({ s.work with base := s.viewOf n } : Work).plainNext with
  | none => none
  | some (i, w) =>
    let p := s.toMach.part n
    if !plainLoad i || !p.allows i (infoOf w.s.ctl.fmt i) || w.s.boundSources i != [] || bitsN w.s.sup.smplctl 0 21 != 0 then none else
    match ({ w with limit := some allAccesses } : Work).proceed i with
    | .ok w1 =>
      let l := readLocs w1.made
      if w1.s.thr.window != [] || l = [] || w1.s.ctl.vl != w.s.ctl.vl then none else
      let late : LateLoad := { instr := i, regs := w.s.regs, ctl := { w.s.ctl with fflags := 0 }, wins := w.s.thr.wins, locs := l }
      let w2 := (w1.mapRegs (fun r => { w.s.regs with pc := r.pc })).mapCtl (fun c => { c with fflags := w.s.ctl.fflags })
      some (({ w2 with m := w2.m.setPart n { p with owed := p.owed ++ [.load late] } } : Work).finish s)
    | .error _ => none

/-! ### Settling -/

/-- Slot n's accesses settled: what it owes is performed, in order, and what it has read early is given up. -/
def State.settled (s : State) (n : Nat) : State :=
  let p := s.toMach.part n
  if p.half.isSome ∨ p = Part.reset then s
  else
    let s := s.performed n (List.range p.owed.length)
    { s with toMach := s.toMach.setPart n Part.reset }

/-- The instruction of the current slot that stands in the middle of its accesses ends. -/
def endHalf (h : Half) (s : State) : Host.Outcome State Fault Refusal :=
  let s : State := { s with toMach := s.toMach.setPart s.cur Part.reset }
  settle s (some h.instr) (({ s.work with made := h.made } : Work).proceed h.instr)

/-- The operation of a core's tile unit that stands in the middle of its accesses ends. -/
def endTile (core : Nat) (s : State) : Host.Outcome State Fault Refusal :=
  let made := s.toMach.tileMade core
  let s : State := { s with toMach := s.toMach.setPart (384 + core) Part.reset }
  event (fun w => finishTile core { w with made := made }) s

/-- All that slot n, or a tile unit, has under way settled. -/
def settleSlot (n : Nat) (s : State) : Host.Outcome State Fault Refusal :=
  match (s.toMach.part n).half, tilePart n with
  | some _, some core => endTile core s
  | some h, none => asSlot n (endHalf h) s
  | none, _ => .next (s.settled n)

/-- Whether that is possible now. -/
def State.canSettle (s : State) (n : Nat) : Bool :=
  let p := s.toMach.part n
  (writable s.toMach n (p.owed.flatMap (fun x => x.cells.map (fun c => c.1)))).isOk &&
  p.owed.all (fun x => match x with | .load l => (s.runLate n l).isOk | .store _ => true) &&
  (match p.half, tilePart n with
   | some h, some core => (finishTile core { s.work with made := h.made }).isOk
   | some h, none => endsWell h.instr (({ s.work with m := { s.toMach with cur := n }, made := h.made } : Work).proceed h.instr)
   | none, _ => true)

/-- All that some slots have under way settled. -/
def settleSlots (l : List Nat) (s : State) : Host.Outcome State Fault Refusal :=
  l.foldl (fun o n => match o with | .next s => settleSlot n s | o => o) (.next s)

/-- All that any slot has under way settled. -/
def settleAll (s : State) : Host.Outcome State Fault Refusal := settleSlots (s.parts.map (fun p => p.1)) s

/-- Whether a turn leaves a slot such that what it has under way may stay so: for an instruction in the middle of its accesses, and
for late loads, nothing of the slot but its sequencers and links has changed, else the unit still runs and no acknowledgement has
come (12 R290, R301). -/
def Slot.leaves (p : Part) (a b : Slot) : Bool :=
  if p.half.isSome || p.owed.any Owed.isLoad then
    { b with mseq := a.mseq, cseq := a.cseq, thr := { b.thr with link := a.thr.link, elinks := a.thr.elinks } } == a
  else
    b.unit.st == a.unit.st && b.unit.lid == a.unit.lid && b.unit.unit == a.unit.unit && b.unit.ctx == a.unit.ctx &&
    b.unit.remoteOut == a.unit.remoteOut

/-- Whether a turn leaves the vector page tables, the windows of the contexts and the ways of the vaults as they were: the checks of an
instruction in the middle of its accesses have been made with them (06 R153, R154). -/
def Mach.sameMaps (a b : Mach) : Bool :=
  (a.contexts ++ b.contexts).all (fun x => (a.context x.1).vpt == (b.context x.1).vpt && (a.context x.1).vwbase == (b.context x.1).vwbase) &&
  (List.range 48).all (fun v => (a.vault v).waypart == (b.vault v).waypart)

end Sys2Proof.Machine
end

