-- ==== Sys2Proof/Machine/Xmss.lean ====
section
/-! DEFINITION. The verification of an XMSS signature of the parameter set XMSS-SHAKE256_20_256 that 17 R419 names. The rule gives
the set and the documents, RFC 8391 and NIST SP 800-208, and not the computation: what follows is taken from those (PRESUMED, log 35). -/

namespace Sys2Proof.Machine

/-- A number in n bytes, most significant first. -/
def beBytes (n v : Nat) : List Byte := (leBytes n v).reverse

def beNat (b : List Byte) : Nat := leNat b.reverse

def xorBytes (a b : List Byte) : List Byte := List.zipWith (· ^^^ ·) a b

/-- The set's hash with a key: 0 in a chain, 1 in a tree, 2 for the message, 3 for keys and masks. -/
def keyedHash (use : Nat) (key m : List Byte) : List Byte := shake256 (beBytes 32 use ++ key ++ m)

/-- Where a hash stands: in a chain (0), in the tree over the chains of a leaf (1), or in the tree over the leaves (2), and three
numbers there. -/
structure HashPlace where
  kind : Nat
  a : Nat
  b : Nat
  c : Nat
  deriving DecidableEq, Repr

/-- Key 0, or mask 1 or 2, of a place. -/
def HashPlace.word (p : HashPlace) (seed : List Byte) (k : Nat) : List Byte :=
  keyedHash 3 seed (beBytes 12 0 ++ [p.kind, p.a, p.b, p.c, k].flatMap (beBytes 4))

/-- One step of a chain. -/
def HashPlace.step (p : HashPlace) (seed x : List Byte) : List Byte :=
  keyedHash 0 (p.word seed 0) (xorBytes x (p.word seed 1))

/-- The node over two nodes. -/
def HashPlace.join (p : HashPlace) (seed l r : List Byte) : List Byte :=
  keyedHash 1 (p.word seed 0) (xorBytes l (p.word seed 1) ++ xorBytes r (p.word seed 2))

/-- Bytes as digits of four bits. -/
def digits (b : List Byte) : List Nat := b.flatMap (fun x => [x.toNat / 16, x.toNat % 16])

/-- The 67 digits that the chains of a leaf sign: those of the message's hash and of their check sum. -/
def chainDigits (m : List Byte) : List Nat :=
  let d := digits m
  let sum := d.foldl (fun a x => a + (15 - x)) 0
  d ++ (digits (beBytes 2 (16 * sum))).take 3

/-- The end of chain i of a leaf, from the place that its digit signs. -/
def chainEnd (seed : List Byte) (leaf i digit : Nat) (x : List Byte) : List Byte :=
  (List.range (15 - digit)).foldl (fun x k => HashPlace.step { kind := 0, a := leaf, b := i, c := digit + k } seed x) x

/-- One level of the tree over the ends of a leaf's chains, from node i on; a last node without a partner moves up. -/
def joinPairs (seed : List Byte) (leaf level : Nat) : Nat → List (List Byte) → List (List Byte)
  | i, l :: r :: rest => HashPlace.join { kind := 1, a := leaf, b := level, c := i } seed l r :: joinPairs seed leaf level (i + 1) rest
  | _, rest => rest

/-- A leaf: the root of the tree over the ends of its 67 chains. -/
def leafOf (seed : List Byte) (leaf : Nat) (ends : List (List Byte)) : List Byte :=
  ((List.range 7).foldl (fun l level => joinPairs seed leaf level 0 l) ends).headD []

/-- The root above a node of leaf `idx` at a level, from the nodes beside its path. -/
def climb (seed : List Byte) (idx : Nat) : Nat → List Byte → List (List Byte) → List Byte
  | _, node, [] => node
  | k, node, s :: rest =>
    let p : HashPlace := { kind := 2, a := 0, b := k, c := idx / 2 ^ (k + 1) }
    climb seed idx (k + 1) (if idx / 2 ^ k % 2 = 0 then p.join seed node s else p.join seed s node) rest

/-- n pieces of 32 bytes. -/
def pieces (b : List Byte) (n : Nat) : List (List Byte) := (List.range n).map (fun i => (b.drop (32 * i)).take 32)

/-- Whether a signature of a message verifies against a public key, its root and its seed: the signature is the number of its leaf in
four bytes, 32 random bytes, the 67 chains and the 20 nodes beside the leaf's path. -/
def xmssVerify (key : BitVec 512) (m sig : List Byte) : Bool :=
  let k := beBytes 64 key.toNat
  let root := k.take 32
  let seed := k.drop 32
  let idx := beNat (sig.take 4)
  let hash := keyedHash 2 ((sig.drop 4).take 32 ++ root ++ beBytes 32 idx) m
  let ends := ((pieces (sig.drop 36) 67).zip (chainDigits hash)).zipIdx.map (fun p => chainEnd seed idx p.2 p.1.2 p.1.1)
  sig.length == 4 + 32 + 67 * 32 + 20 * 32 && decide (idx < 2 ^ 20) &&
    climb seed idx 0 (leafOf seed idx ends) (pieces (sig.drop 2180) 20) == root

end Sys2Proof.Machine
end

