-- ==== Sys2Proof/Machine/Mgmt.lean ====
section
/-! DEFINITION. The management core: boot, Itrus and what it serves, spares, link retrains, power and cooling, and the Annals
(15 R389; 16 R393, R395, R405, R408, R410; 17 R415, R418 to R423). -/

namespace Sys2Proof.Machine

/-! ### Itrus (17 R418) -/

/-- The management core changed. -/
def Work.mgmt (w : Work) (f : Mgmt → Mgmt) : Work := { w with m := { w.m with mgmt := f w.m.mgmt } }

/-- A response with STATUS 0 and its body. -/
def Work.respond (w : Work) (body : List Word) : Work := w.mgmt (fun g => { g with response := some body })

/-- A request refused: it has no effect but the response. -/
def Work.refuse (w : Work) : Work := w.mgmt (fun g => { g with response := none })

/-- A request served from a boot stage on, over an authenticated connection: `act` gives its effect, or none to refuse it. -/
def itrus (stage : Nat) (act : Work → Option Work) (w : Work) : M Work :=
  let g := w.m.mgmt
  if g.stage < stage ∨ !g.conns.any (fun c => c.2) then .ok w.refuse
  else match act w with
    | some w => .ok w
    | none => .ok w.refuse

/-- The words of a bit string, least significant first. -/
def wordsOf {n : Nat} (x : BitVec n) : List Word := (List.range (ceilDiv n 64)).map (fun i => elem 64 x i)

/-- 17 R418: a connection is opened, where fewer than 8 are served and the certificate is good, or closed. -/
def bodyItrusConnection (msg : ConnectionMsg) (w : Work) : M Work :=
  let g := w.m.mgmt
  if g.stage = 0 then .ok w.refuse
  else match msg with
    | .openConn good =>
      if !good || decide (8 ≤ g.conns.length) then .ok w.refuse
      else
        let w1 := w.mgmt (fun g => { g with conns := g.conns ++ [(g.nextConn, true)], nextConn := g.nextConn + 1 })
        .ok (w1.respond [BitVec.ofNat 64 g.nextConn])
    | .closeConn i => .ok ((w.mgmt (fun g => { g with conns := g.conns.filter (fun c => c.1 ≠ i) })).respond [])

def execItrusConnection (msg : ConnectionMsg) (s : State) : Host.Outcome State Fault Refusal :=
  event (bodyItrusConnection msg) s

/-! ### Partitions, contexts and jobs (17 R418) -/

/-- The class of a message (17 Table 17.2). -/
def itrusClass : Instr → Option Nat
  | .itrusPartitionControl _ => some 1
  | .itrusDebug _ => some 2
  | .itrusTrace _ => some 3
  | .itrusAnnals _ => some 4
  | .itrusRecovery _ => some 5
  | .itrusFirmwareUpdate _ => some 6
  | .itrusAttestation _ => some 7
  | .itrusPower _ => some 8
  | _ => none

/-- The header of a response noted. -/
def State.replied (s : State) (r : ItrusReply) : State :=
  { s with toMach := { s.toMach with mgmt := { s.toMach.mgmt with replies := s.toMach.mgmt.replies ++ [r] } } }

/-- A request that comes over a connection with a number and the LENGTH of its body: one of more than 1 MiB is refused, any other one acts
as its class says; the response carries the number (17 R418). Over no connection that is served there is no request. -/
def itrusRequest (conn : Nat) (number : Word) (length cls : Nat) (act : State → Host.Outcome State Fault Refusal) (s : State) :
    Host.Outcome State Fault Refusal :=
  if !s.toMach.mgmt.conns.any (fun c => c.1 == conn && c.2) then .next s
  else if 2 ^ 20 < length then .next (s.replied { conn := conn, number := number, cls := cls, success := false, length := 0 })
  else match act s with
    | .next t =>
      let r := t.toMach.mgmt.response
      .next (t.replied { conn := conn, number := number, cls := cls, success := r.isSome, length := 8 * (r.getD []).length })
    | o => o

/-- Whether a list of slots is a partition: slots of the package, each once. -/
def slotsOk (l : List Nat) : Bool := l.all (fun n => decide (n < 384)) && l.eraseDups.length == l.length

/-- Whether regions of HBM can be designated Almanac: whole lines, at most 64 GiB with the regions that other jobs have
(13 R314). -/
def Mach.almanacOk (m : Mach) (l : List (Nat × Nat)) : Bool :=
  let others := (m.jobs.filter (fun j => j.2.live)).flatMap (fun j => j.2.almanac)
  l.all (fun r => r.1 % 64 == 0 && r.2 % 64 == 0 && decide (r.1 + r.2 ≤ hbmEnd)) &&
  decide ((others ++ l).foldl (fun a r => a + r.2) 0 ≤ 2 ^ 36)

/-- Whether a job's partition may hold these slots: the partition of a job in Calendar mode shares no slot with another live job's
(16 R402). -/
def Mach.exclusive (m : Mach) (job : Nat) (calendar : Bool) (slots : List Nat) : Bool :=
  m.jobs.all (fun j => !j.2.live || j.1 == job || !(calendar || bitB j.2.calmode 0) ||
    j.2.partition.all (fun n => !slots.contains n))

/-- A context that a job's contexts may be created in, as its control block gives it (15 R360, R363, R376; 17 R414). -/
def Context.create (x : Context) (job : Nat) (spt vwbase stvec sscratch : Word) : Context :=
  { Context.reset with
    resident := true, job := job, gen := x.gen, route := x.route, spt := keepBits spt 12 40 ||| keepBits spt 0 1,
    vwbase := vwbaseWord vwbase, stvec := keepBits stvec 6 51 ||| keepBits stvec 0 1, sscratch := sscratch }

/-- The waits of a context that is destroyed end as by an answer with failure, and no answer is counted; the answers that come later
are stale (15 R380; log 55). -/
def Work.endWaits (w : Work) (ctx : Nat) : Work :=
  let mine := w.m.sched.requests.filter (fun r => r.ctx == ctx)
  let ended := mine.foldl (fun w r => match answerRequest r.num (w.m.context ctx).gen false w with
    | .ok w => w
    | .error _ => { w with m := w.m.setSched (fun s => { s with requests := s.requests.filter (fun x => x.num ≠ r.num) }) }) w
  { ended with m := ended.m.setSched (fun s => { s with stale := w.m.sched.stale }) }

/-- A partition control message acted on; none where it is refused. -/
def Work.partition (w : Work) (msg : PartitionMsg) : Option Work :=
  let m := w.m
  let done (m : Mach) : Option Work := some ({ w with m := m }.respond [])
  match msg with
  | .createJob job slots almanac spill save =>
    if (m.job job).live || !slotsOk slots || !m.exclusive job false slots || !m.almanacOk almanac then none
    else done (m.setJob job { Job.reset with
      live := true, partition := slots, almanac := almanac, spillBlocks := spill, saveArea := save })
  | .resizePartition job slots =>
    let j := m.job job
    if !j.live || !slotsOk slots || !m.exclusive job (bitB j.calmode 0) slots then none
    else done (m.setJob job { j with partition := slots })
  | .setCalmode job v =>
    let j := m.job job
    if !j.live || !m.exclusive job (bitB v 0) j.partition then none else done (m.setJob job { j with calmode := v })
  | .destroyJob job =>
    if !(m.job job).live then none
    else
      let m := m.cancelJob job
      done (m.setJob job { m.job job with live := false, ring := none, reference := [] })
  | .createContext ctx job spt vwbase stvec sscratch =>
    let x := m.context ctx.val
    if x.resident || !(m.job job).live then none else done (m.setContext ctx.val (x.create job spt vwbase stvec sscratch))
  | .setProtmode ctx v =>
    if !(m.context ctx.val).resident then none else done (m.setContext ctx.val { m.context ctx.val with prot := v })
  | .setLockstep ctx v =>
    if !(m.context ctx.val).resident then none else done (m.setContext ctx.val { m.context ctx.val with lockstep := v })
  | .assignBarrier cluster s ctx =>
    if (match cluster with | some c => decide (48 ≤ c) | none => false) then none
    else done (m.setBarrier (barrierIx cluster.isNone (cluster.getD 0) s.val) { Barrier.reset with ctx := ctx.map Fin.val })
  | .destroyContext ctx =>
    let x := m.context ctx.val
    if !x.resident then none
    else
      let w1 := w.endWaits ctx.val
      some ({ w1 with m := w1.m.setContext ctx.val { Context.reset with gen := x.gen + 1, route := x.route } }.respond [])
  | .fullReset => some (w.resetPackage.respond [])

/-- 17 R418: Itrus class 0x01: partitions, contexts and jobs. -/
def bodyItrusPartitionControl (msg : PartitionMsg) (w : Work) : M Work := itrus 2 (fun w => w.partition msg) w

def execItrusPartitionControl (msg : PartitionMsg) (s : State) : Host.Outcome State Fault Refusal :=
  event (bodyItrusPartitionControl msg) s

/-! ### Debug and trace (15 R389; 16 R391, R393, R395, R405) -/

/-- The halted unit that a message names. -/
def Mach.haltedUnit (m : Mach) (lid unit : Nat) : Option Suspended :=
  m.sched.suspended.find? (fun g => g.halted && g.slot.unit.lid == lid && g.slot.unit.unit == unit)

/-- A debug message acted on. -/
def Work.debug (w : Work) (msg : DebugMsg) : Option Work :=
  match msg with
  | .setControls lid unit ctl pc =>
    if (w.m.handleIx lid).isNone then none
    else
      let m := w.m.setSched (fun s => { s with controls :=
        ((lid, unit), ctl &&& 0xFFFFFFFF0000001F, keepBits pc 2 55) :: s.controls.filter (fun d => d.1 ≠ (lid, unit)) })
      some ({ w with m := m }.respond [])
  | .resume lid unit =>
    match w.m.haltedUnit lid unit with
    | none => none
    | some g =>
      let m := w.m.setSched (fun s => { s with
        suspended := s.suspended.map (fun h => if h = g then { h with halted := false } else h) })
      some ({ w with m := m }.respond [])
  | .kill lid unit cause detail =>
    match w.m.haltedUnit lid unit with
    | none => none
    | some g =>
      let f : Failure := {
        cause := cause % 256, detail := detail % 128, pc := keepBits (g.slot.unit.exitAt.getD 0) 0 57, addr := 0, unit := unit,
        treg := 0, token := 0 }
      some ((w.endSuspended g f).respond [])

/-- 15 R389; 16 R395: Itrus class 0x02: debug controls, and the resume or kill of a halted unit. -/
def bodyItrusDebug (msg : DebugMsg) (w : Work) : M Work := itrus 2 (fun w => w.debug msg) w

def execItrusDebug (msg : DebugMsg) (s : State) : Host.Outcome State Fault Refusal :=
  event (bodyItrusDebug msg) s

/-- A trace message acted on. -/
def Work.traceSetup (w : Work) (msg : TraceMsg) : Option Work :=
  let set (job : Nat) (f : Job → Job) : Option Work :=
    if !(w.m.job job).live then none else some ({ w with m := w.m.setJob job (f (w.m.job job)) }.respond [])
  match msg with
  | .setRing job base trcctl =>
    let size := w.num (hbmLoc (base + 16)) 1 % 32
    if base % 64 ≠ 0 ∨ size < 8 ∨ 20 < size ∨ hbmEnd < base + 64 + 64 * 2 ^ size then none
    else set job (fun j => { j with ring := some base, trcctl := trcctl })
  | .removeRing job => set job (fun j => { j with ring := none, trcctl := 0 })
  | .setReference job table => set job (fun j => { j with reference := table })

/-- 16 R391, R393, R405: Itrus class 0x03: trace rings and reference tables. -/
def bodyItrusTrace (msg : TraceMsg) (w : Work) : M Work := itrus 2 (fun w => w.traceSetup msg) w

def execItrusTrace (msg : TraceMsg) (s : State) : Host.Outcome State Fault Refusal :=
  event (bodyItrusTrace msg) s

/-! ### The Annals (16 R410) -/

/-- The number of an Annals record and the granule that it counts for, numbered by the model (log 25). -/
def AnnalsKey.place : AnnalsKey → Nat × Nat
  | .corrected s r => (0, s * 64 + r)
  | .uncorrectableStack s => (1, s)
  | .uncorrectableVault v => (2, v)
  | .laneMismatch c l => (3, c * 16 + l)
  | .windowReplay c => (4, c)
  | .checksumReplay c => (5, c)
  | .checksumFail c => (6, c)
  | .lockstepDivergence p => (7, p)
  | .sparesCore c => (8, c)
  | .sparesVault v => (9, v)
  | .sparesStack s => (10, s)
  | .sparesLink p => (11, p)
  | .retrain p => (12, p)
  | .thermal d b => (13, d * 32 + b)
  | .droop d b => (14, d * 32 + b)

/-- A machine-check record as words. -/
def MachineCheck.words (r : MachineCheck) : List Word :=
  [BitVec.ofNat 64 r.kind, BitVec.ofNat 64 r.place, r.pc, BitVec.ofNat 64 r.lid, BitVec.ofNat 64 r.unit, r.time]

/-- 16 R410: Itrus class 0x04: a counter of the Annals, or the machine-check records. -/
def bodyItrusAnnals (msg : AnnalsMsg) (w : Work) : M Work :=
  itrus 2 (fun w =>
    match msg with
    | .readRecord kind index =>
      if 14 < kind then none
      else some (w.respond [BitVec.ofNat 64 (((w.m.mgmt.annals.find? (fun e => e.1.place == (kind, index))).map (fun e => e.2)).getD 0)])
    | .readMachineChecks => some (w.respond (w.m.mgmt.machineChecks.flatMap MachineCheck.words))) w

def execItrusAnnals (msg : AnnalsMsg) (s : State) : Host.Outcome State Fault Refusal :=
  event (bodyItrusAnnals msg) s

/-- The bin of an observation: of a width from a first value, the end bins taking what lies outside (16 Table 16.8; log 25). -/
def annalsBin (first width v : Nat) : Nat := min 31 ((v - first) / width)

/-- 16 R410: a thermal and a voltage-droop observation of a die. -/
def bodyAnnalsObservation (die : Fin 4) (celsius droopMv : Nat) (w : Work) : M Work :=
  .ok { w with m := (w.m.countAnnals (.thermal die.val (annalsBin 40 2 celsius))).countAnnals (.droop die.val (annalsBin 0 5 droopMv)) }

def execAnnalsObservation (die : Fin 4) (celsius droopMv : Nat) (s : State) : Host.Outcome State Fault Refusal :=
  event (bodyAnnalsObservation die celsius droopMv) s

/-! ### Recovery (13 R332) -/

/-- The smallest `rpseq` among a job's contexts here. -/
def Mach.minSeq (m : Mach) (job : Nat) : Option Nat :=
  ((m.contextsOf job).map (fun c => (m.context c).rpseq.toNat)).min?

/-- 13 R332: Itrus class 0x05: the report of a job's recovery, or the agreement on S. An agreement on a job that still runs here
comes after the reset of a compute die of another package: this package's part of the job stops too, and loses what 13 R316 says. -/
def bodyItrusRecovery (msg : RecoveryMsg) (w : Work) : M Work :=
  itrus 2 (fun w =>
    match msg with
    | .report job =>
      let j := w.m.job job
      match w.m.minSeq job with
      | some s =>
        if !j.live then none
        else some (w.respond [BitVec.ofNat 64 s, BitVec.ofNat 64 j.ignored, boolWord j.failedRestore, boolWord j.stopped])
      | none => none
    | .agree job s =>
      let j := w.m.job job
      match w.m.minSeq job with
      | some n =>
        if !j.live || decide (n < s.toNat) then none
        else
          let w := if j.stopped then w else w.loseJobs [job]
          some ({ w with m := w.m.setJob job { w.m.job job with agreed := some s } }.respond [])
      | none => none) w

def execItrusRecovery (msg : RecoveryMsg) (s : State) : Host.Outcome State Fault Refusal :=
  event (bodyItrusRecovery msg) s

/-! ### Boot, firmware and attestation (17 R419 to R421) -/

/-- The key that must have signed an image: the vendor's for Umante, the operator's for the loader (17 R419). -/
def Mgmt.keyFor (g : Mgmt) (i : FirmwareImage) : BitVec 512 := if i.loader then g.operatorKey else g.vendorKey

/-- What the signature of an image covers: its version in eight bytes, its marks in one, and its bytes (DESIGN CHOICE, log 35: no rule
lays an image out). -/
def imageMessage (i : FirmwareImage) : List Byte :=
  leBytes 8 i.version ++ leBytes 1 ((if i.revokesOlder then 1 else 0) + (if i.loader then 2 else 0)) ++ i.content

/-- Whether an image passes both checks of R419: its signature and its version. -/
def Mgmt.verifies (g : Mgmt) (i : FirmwareImage) : Bool :=
  decide (g.fuse ≤ i.version) && xmssVerify (g.keyFor i) (imageMessage i) i.signature

/-- The digest under which an image is recorded (17 R420). -/
def firmwareDigest (i : FirmwareImage) : BitVec 256 := BitVec.ofNat 256 (leNat (shake256 i.content))

/-- Umante runs: it verifies the loader that it has been given and, if that passes, starts the application cores; the measurement log holds
the ROM version, each verified image and the fuse counter (17 R419, R420). -/
def Mgmt.run (g : Mgmt) (umante : FirmwareImage) : Mgmt :=
  let good := g.loader.filter g.verifies
  { g with
    stage := if good.isSome then 3 else 2
    version := umante.version
    log := [Config.romVersion, firmwareDigest umante] ++ (good.map firmwareDigest).toList ++ [BitVec.ofNat 256 g.fuse] }

/-- The fuse counter after an image is taken as an update. -/
def firmwareFuse (i : FirmwareImage) (fuse : Nat) : Nat := if i.revokesOlder then max fuse i.version else fuse

/-- 17 R419, R420: the boot ROM verifies Umante and runs it, Umante verifies the loader and starts the application cores. -/
def bodyPowerOnBoot (umante loader : FirmwareImage) (w : Work) : M Work :=
  let g := w.m.mgmt
  if g.stage ≠ 0 then .error (.wait .queueRoom)
  else
    .ok (w.mgmt (fun g =>
      let g := { g with loader := some { loader with loader := true } }
      let umante := { umante with loader := false }
      if g.verifies umante then g.run umante else { g with stage := 1, log := [Config.romVersion, BitVec.ofNat 256 g.fuse] }))

def execPowerOnBoot (umante loader : FirmwareImage) (s : State) : Host.Outcome State Fault Refusal :=
  event (bodyPowerOnBoot umante loader) s

/-- 17 R419, R420: Itrus class 0x06: an image is verified, and the fuse counter rises where the image revokes older ones. The ROM runs an
Umante image where it waits for one; a loader that passes is measured, and Umante starts the application cores where it waits for one.
A loader sent to the ROM is refused (DESIGN CHOICE, log 35). -/
def bodyItrusFirmwareUpdate (image : FirmwareImage) (w : Work) : M Work :=
  itrus 1 (fun w =>
    let g := w.m.mgmt
    if !g.verifies image || (image.loader && g.stage == 1) then none
    else
      let raised := { g with fuse := firmwareFuse image g.fuse }
      let next :=
        if image.loader then
          let given := { raised with loader := some image }
          if g.stage = 2 then { given with stage := 3, log := g.log.take 2 ++ [firmwareDigest image, BitVec.ofNat 256 raised.fuse] } else given
        else if g.stage = 1 then raised.run image
        else raised
      some ((w.mgmt (fun _ => next)).respond [])) w

def execItrusFirmwareUpdate (image : FirmwareImage) (s : State) : Host.Outcome State Fault Refusal :=
  event (bodyItrusFirmwareUpdate image) s

/-- 17 R421: Itrus class 0x07: a signed attestation report; the index of the next one-time key moves on first. -/
def bodyItrusAttestation (nonce : BitVec 256) (w : Work) : M Work :=
  itrus 2 (fun w =>
    let g := w.m.mgmt
    if 2 ^ 20 ≤ g.keyIndex then none
    else
      let w1 := w.mgmt (fun g => { g with keyIndex := g.keyIndex + 1 })
      let (i, w2) := w1.draw
      some (w2.respond (g.log.flatMap wordsOf ++ wordsOf nonce ++ [Config.identity] ++ wordsOf (Config.attestationSignature i)))) w

def execItrusAttestation (nonce : BitVec 256) (s : State) : Host.Outcome State Fault Refusal :=
  event (bodyItrusAttestation nonce) s

/-! ### Power and cooling (17 R423) -/

/-- 17 R423: Itrus class 0x08: the power cap, 1,500 to 3,000 W in steps of 50 W, or the sensors. -/
def bodyItrusPower (msg : PowerMsg) (w : Work) : M Work :=
  itrus 2 (fun w =>
    match msg with
    | .setCap watts =>
      if watts < 1500 ∨ 3000 < watts ∨ watts % 50 ≠ 0 then none
      else some ((w.mgmt (fun g => { g with powerCap := watts })).respond [])
    | .readSensors =>
      let (i, w) := w.draw
      some (w.respond [Config.sensor i])) w

def execItrusPower (msg : PowerMsg) (s : State) : Host.Outcome State Fault Refusal :=
  event (bodyItrusPower msg) s

/-- 17 R423: the core clock falls by 100 MHz, down to 2.0 GHz. -/
def bodyThermalClockReduction (w : Work) : M Work :=
  .ok (w.mgmt (fun g => { g with clock := max 2000 (g.clock - 100) }))

def execThermalClockReduction (s : State) : Host.Outcome State Fault Refusal :=
  event bodyThermalClockReduction s

/-- 17 R423: at 115 °C every unit stops, in shadow storage too, a machine check is logged, and the compute dies are powered off: their
engines and tile units do nothing more. -/
def bodyThermalShutdown (w : Work) : M Work :=
  let w := w.machineCheck mcThermal 0 w.m.cur
  let w := (w.m.slots.map (fun p => p.1)).foldl Work.stopUnit w
  let w := (w.m.shadow.map (fun p => p.1)).foldl Work.stopShadow w
  .ok { w with m := { w.m with
    shadow := [], engines := [], cores := w.m.cores.map (fun c => (c.1, { c.2 with queue := [], tileOps := [] }))
    pkg := { w.m.pkg with diesOff := [0, 1, 2, 3] } } }

def execThermalShutdown (s : State) : Host.Outcome State Fault Refusal :=
  event bodyThermalShutdown s

/-! ### Spares and links (16 R408; 17 R415) -/

/-- Whether a core's slots stand where a spare lane may be switched in: no unit, or a pre-emption that has landed. -/
def Mach.coreLanded (m : Mach) (k : Nat) : Bool := m.landed (2 * k) && m.landed (2 * k + 1)

/-- 16 R408: a spare is switched in, or a core whose spare is used up is mapped out. -/
def bodySpareSwitch (spare : Spare) (w : Work) : M Work :=
  let m := w.m
  match spare with
  | .lane k =>
    let c := m.site k
    if !m.coreLanded k then .error (.wait .landing)
    else if c.spareUsed then .ok { w with m := m.setSite k { c with mappedOut := true } }
    else .ok { w with m := (m.setSite k { c with spareUsed := true }).countAnnals (.sparesCore k) }
  | .vaultWay v way =>
    let x := m.vault v
    if x.spareWays.contains way then .ok w
    else .ok { w with m := (m.setVault v { x with spareWays := x.spareWays ++ [way] }).countAnnals (.sparesVault v) }
  | .hbmRow stack region =>
    let m1 := { m with pkg := { m.pkg with spareRows := m.pkg.spareRows ++ [(stack.val, region.val)] } }
    .ok { w with m := m1.countAnnals (.sparesStack stack.val) }
  | .linkLane port =>
    let p := m.pkg
    if !p.badLanes.any (fun l => l.1 == port.val) || p.spareLanes.contains port.val then .error (.wait .landing)
    else
      let m1 := { m with pkg := { p with spareLanes := p.spareLanes ++ [port.val] } }
      .ok { w with m := m1.countAnnals (.sparesLink port.val) }
  | .mapOutCore k =>
    if !m.coreLanded k then .error (.wait .landing)
    else .ok { w with m := m.setSite k { m.site k with mappedOut := true } }

def execSpareSwitch (spare : Spare) (s : State) : Host.Outcome State Fault Refusal :=
  event (bodySpareSwitch spare) s

/-- 17 R415: a failed lane of a port is replaced by a spare, and the port retrains. -/
def bodyLinkRetrain (port : Fin 16) (lane : Nat) (w : Work) : M Work :=
  let p := w.m.pkg
  let bad := if p.badLanes.contains (port.val, lane) then p.badLanes else p.badLanes ++ [(port.val, lane)]
  .ok { w with m := ({ w.m with pkg := { p with badLanes := bad } }).countAnnals (.retrain port.val) }

def execLinkRetrain (port : Fin 16) (lane : Nat) (s : State) : Host.Outcome State Fault Refusal :=
  event (bodyLinkRetrain port lane) s

end Sys2Proof.Machine
end

