-- ==== Sys2Proof/Machine/Queues.lean ====
section
/-! DEFINITION. User queues, their mapping and service, counter command slots and the host interface window (14 R341, R347
to R349; 17 R412, R413). -/

namespace Sys2Proof.Machine

/-! ### Control blocks and rings (14 R347 to R349) -/

/-- What an application core does: it runs once the loader has passed, and as long as its base die, of which it is one of four cores in
the order of their numbers, is in service (17 R411, R419, R422; log 58). An access that no core is named for comes from one that runs. -/
def Work.hosted (w : Work) (a : Option (Fin 16)) (f : Work → M Work) : M Work :=
  let down := match a with
    | some a => w.m.pkg.basesFailed.contains (a.val / 4)
    | none => (List.range 4).all (fun d => w.m.pkg.basesFailed.contains d)
  if w.m.mgmt.stage < 3 || down then .error (.wait .queueRoom) else f w

/-- The mapped queue of a hardware queue slot. -/
def Mach.mappedQueue (m : Mach) (hwq : Nat) : Option (Nat × Queue) := m.sched.queues.find? (fun q => q.2.hwq = some hwq)

/-- 14 R348, R349: requests service of the mapped queue; while it is unmapped PEND is set. A register with no queue ignores the write. -/
def bodyNotifyRegisterWrite (hwq : Nat) (w : Work) : M Work :=
  match w.m.mappedQueue hwq with
  | none => .ok w
  | some (k, q) => w.notifyQueue k q

def execNotifyRegisterWrite (hwq : Nat) (s : State) : Host.Outcome State Fault Refusal :=
  event (fun w => w.hosted none (bodyNotifyRegisterWrite hwq)) s

/-- Whether Horizon may read a packet from a user queue: the store and the completion table have room (14 R341). -/
def Mach.readsQueues (m : Mach) : Bool := m.sched.reading && m.tableRoom

/-- The place of a ring byte for an access, or the cause of the queue's error; a wait or a stop otherwise. A ring at an unreachable
package is an error like one that does not translate (DESIGN CHOICE, log 58: 16 R409 speaks of a unit's accesses only). -/
def Work.ringPlace (w : Work) (ctx : Nat) (a : Word) (acc : Nat) : M (Except Nat Nat × Work) :=
  if inLocal a.toNat then .ok (.error cPAGE_FAULT, w) else
  match walkPlace w 384 (w.m.context ctx).spt true a.toNat acc with
  | .error (.flt _ _) => .ok (.error cPAGE_FAULT, w)
  | .error (.walk c d l) => .ok (.error (if c = cMEMORY_POISON then c else cPAGE_FAULT), w.noteMiss (.walk c d l))
  | .error (.hold why) => .error (.wait why)
  | .error (.lost _) => .ok (.error cPAGE_FAULT, w)
  | .error (.stop f) => .error (.fault f)
  | .ok (loc, w) =>
    let lines := [loc, loc + 64]
    match (if acc = 1 then writable w.m 384 [loc] else readable w.m lines) with
    | .error (.lost _) => .ok (.error cPAGE_FAULT, w)
    | .error _ => .error (.wait .ownedLine)
    | .ok () => if w.m.poisoned loc || w.m.poisoned (loc + 64) then .ok (.error cMEMORY_POISON, w.countBad [loc, loc + 64])
      else .ok (.ok loc, (w.scrub loc).scrub (loc + 64))

/-- Queue k left to be served again, by Horizon itself, once there is room (14 R341). -/
def Work.serveLater (w : Work) (k : Nat) : Work :=
  match w.m.queue? k with
  | some q => { w with m := w.m.setQueue k { q with notified := true } }
  | none => w

/-- Packets of queue k read in order, at most `fuel` of them (14 R348). -/
def Work.serve (w : Work) (k : Nat) (block : Nat) : Nat → M Work
  | 0 => .ok w
  | fuel + 1 => do
    let g (o n : Nat) : Nat := w.num (block + o) n
    let ctl : Word := BitVec.ofNat 64 (g 8 8)
    let rd := g 24 8
    if bitsN ctl 8 2 ≠ 0 ∨ g 16 8 ≤ rd then .ok w
    else if !w.m.readsQueues then .ok (w.serveLater k)
    else
      let ctx := g 38 1 % 16
      let a : Word := BitVec.ofNat 64 (g 0 8 + rd % 2 ^ bitsN ctl 0 5 * 128)
      match ← w.ringPlace ctx a 0 with
      | (.error c, w) => .ok (w.queueError block c)
      | (.ok loc, w) =>
        let p := readPacket (w.bytes loc 128)
        if !p.valid then .ok w
        else
          let job := w.m.handleIx (g 32 6)
          let o : Origin := {
            job := (w.m.context ctx).job, ctx := ctx, parent := job, own := none, device := false, queue := some k }
          match w.m.accept o { p with prio := max p.prio (bitsN ctl 10 6) } with
          | none => .ok (w.serveLater k)
          | some (_, m) =>
            match ← ({ w with m := m }).ringPlace ctx a 1 with
            | (.error c, w) => .ok (w.queueError block c)
            | (.ok loc, w) =>
              let w := w.putNoted 0 0 loc (leBytes 1 (w.num loc 1 / 2 * 2))
              (w.putNoted 0 0 (block + 24) (leBytes 8 (rd + 1))).serve k block fuel

/-- Whether queue k is the one that Horizon serves next among those of its job: in Calendar mode Umante accepts host packets by
queue number, then index (16 R402). -/
def Mach.firstQueue (m : Mach) (k : Nat) (q : Queue) : Bool :=
  !bitB (m.job q.job).calmode 0 ||
  m.sched.queues.all (fun e => e.1 == k || e.2.job != q.job || !e.2.notified || e.2.hwq.isNone || e.2.dead || decide (q.num < e.2.num))

/-- 14 R348, R349: queue k is served once, when no copy owns the line of its control block (11 R270); an ERROR that has waited for that
line is written first. -/
def serveOnce (k : Nat) (w : Work) : M Work :=
  match w.m.queue? k with
  | none => .error (.wait .queueRoom)
  | some q =>
    if q.failing.isSome then do
      let b ← q.block
      if w.m.busyLine b then .error (.wait .ownedLine)
      else .ok ({ w with m := w.m.setQueue k { q with failing := none } }.queueError b (q.failing.getD 0))
    else if q.hwq.isNone || q.dead || !q.notified || !w.m.firstQueue k q then .error (.wait .queueRoom)
    else do
      let b ← q.block
      if w.m.busyLine b then .error (.wait .ownedLine)
      else if w.m.poisoned b then
        let m := w.m.setQueue k { q with dead := true, hwq := none, notified := false }
        .ok (({ w with m := { m with mgmt := { m.mgmt with reports := m.mgmt.reports ++ [BitVec.ofNat 64 q.pa] } } }).countBad [b])
      else if w.num (b + 16) 8 ≤ w.num (b + 24) 8 ∨ w.m.readsQueues then
        ({ w with m := w.m.setQueue k { q with notified := false } }.scrub b).serve k b 4096
      else .error (.wait .queueRoom)

/-- 14 R348: Horizon reads the valid packets of a queue in order, accepts them, clears V and advances RDIDX. -/
def bodyServeQueue (queue : Nat) (w : Work) : M Work :=  serveOnce queue w

def execServeQueue (queue : Nat) (s : State) : Host.Outcome State Fault Refusal :=
  event (bodyServeQueue queue) s

/-- 14 R341: spilled entries return from a job's spill area to the store, oldest first, as far as there is room. -/
def bodySpillReturn (job : Nat) (w : Work) : M Work :=
  let oldest := (byAge (w.m.sched.launches.filter (fun l => l.waits && l.spilled.isSome))).take w.m.storeFree
  let back := oldest.filter (fun l => l.spilled = some job)
  if back = [] then .error (.wait .queueRoom)
  else .ok { w with m := (w.m.setSched (fun s => { s with
    launches := s.launches.map (fun l => if back.any (fun o => o.age = l.age) then { l with spilled := none } else l) })).noteRoom }

def execSpillReturn (job : Nat) (s : State) : Host.Outcome State Fault Refusal :=
  event (bodySpillReturn job) s

/-! ### Mapping (14 R349) -/

/-- 14 R349: the host asks Umante to map the queue of a control block; a block not known yet gets the job's next queue number. -/
def bodyMapRequest (pa : Nat) (w : Work) : M Work :=
  if pa % 64 ≠ 0 ∨ w.m.sched.queues.any (fun q => q.2.pa = pa) then .ok w
  else if hbmEnd < pa + 64 then .error (.fault (.recordOutsideHbm pa))
  else if w.m.busyLine (hbmLoc pa) then .error (.wait .ownedLine)
  else
    let job := (w.m.context (w.num (hbmLoc pa + 38) 1 % 16)).job
    let num := (w.m.sched.queues.filter (fun q => q.2.job = job)).length
    if 1024 ≤ num then .ok w
    else
      let q : Queue := { pa := pa, job := job, num := num, hwq := none, unmapping := false, dead := false, notified := false, failing := none }
      .ok { w with m := w.m.setQueue w.m.sched.queues.length q }

def execMapRequest (pa : Nat) (s : State) : Host.Outcome State Fault Refusal :=
  event (fun w => w.hosted none (bodyMapRequest pa)) s

/-- The lowest hardware queue slot that is free; at most 64 of a job's queues are mapped. -/
def Mach.freeHwq (m : Mach) : Option Nat :=
  (List.range 64).find? (fun n => !m.sched.queues.any (fun q => q.2.hwq = some n))

/-- 14 R349: maps a queue, clearing PEND in the same access; the map serves the queue once. -/
def bodyQueueMap (queue : Nat) (w : Work) : M Work :=
  match w.m.queue? queue, w.m.freeHwq with
  | some q, some n =>
    if q.hwq.isSome || q.dead then .error (.wait .queueRoom)
    else do
      let b ← q.block
      let w := w.scrub b
      if bitsN (BitVec.ofNat 64 (w.num (b + 8) 8)) 8 2 = 2 then .error (.wait .queueRoom)
      else
        let w1 : Work := { w with m := w.m.setQueue queue { q with hwq := some n, unmapping := false, notified := true } }
        w1.setBlockBit (b + 8) 16 false
  | _, _ => .error (.wait .queueRoom)

def execQueueMap (queue : Nat) (s : State) : Host.Outcome State Fault Refusal :=
  event (bodyQueueMap queue) s

/-- 14 R349: begins or ends the unmapping of a queue; a notify not served by then sets PEND. -/
def bodyQueueUnmap (queue : Nat) (w : Work) : M Work :=
  match w.m.queue? queue with
  | none => .error (.wait .queueRoom)
  | some q =>
    if q.hwq.isNone then .error (.wait .queueRoom)
    else if !q.unmapping then .ok { w with m := w.m.setQueue queue { q with unmapping := true } }
    else do
      let b ← q.block
      let w1 := { w with m := w.m.setQueue queue { q with hwq := none, unmapping := false, notified := false } }
      if q.notified then w1.setBlockBit (b + 8) 16 true else .ok w1

def execQueueUnmap (queue : Nat) (s : State) : Host.Outcome State Fault Refusal :=
  event (bodyQueueUnmap queue) s

/-- 14 R349: STATE := DESTROYED; every launch accepted from the queue is cancelled at launch level. -/
def bodyQueueDestroy (queue : Nat) (w : Work) : M Work :=
  match w.m.queue? queue with
  | none => .error (.wait .queueRoom)
  | some q => do
    let b ← q.block
    let v := putBits (BitVec.ofNat 64 (w.num (b + 8) 8)) 8 2 2
    let w1 := (w.scrub b).putNoted 0 0 (b + 8) (leBytes 8 v.toNat)
    let mine := (w.m.sched.launches.filter (fun l => l.queue = some queue)).map (fun l => l.lid % 4096)
    if w.m.busyLine b then .error (.wait .ownedLine) else
    .ok { w1 with m := mine.foldl (fun m ix => m.cancelEntry ix) w1.m }

def execQueueDestroy (queue : Nat) (s : State) : Host.Outcome State Fault Refusal :=
  event (bodyQueueDestroy queue) s

/-! ### The host interface window (17 R412, R413) -/

/-- RESULT of a counter command slot left for application core a; its ARG is used up (17 R413). -/
def Mach.counterDone (m : Mach) (a : Nat) (r : Word) : Mach :=
  m.setSched (fun s => { s with counterArg := tabSet s.counterArg a none, counterResult := tabSet s.counterResult a r })

/-- The enclosing entry of a new counter: none where RESULT is all ones (17 R413). -/
def Mach.counterParent (m : Mach) (level : Nat) (parent : Nat) : Option (Option Nat) :=
  if level = 0 then none
  else if level = 3 then (if parent = 0 then some none else none)
  else match m.handleIx parent with
    | some ix => if (m.entry ix).level ≤ level then none else some (some ix)
    | none => none

/-- 17 R413: creates a graph, phase or job entry and returns its handle, or all ones. -/
def bodyCounterCreate (appCore : Fin 16) (arg : Word) (w : Work) : M Work :=
  let level := bitsN arg 0 2
  let ctx := bitsN arg 2 4
  if bitB arg 6 then .error (.wait .queueRoom)
  else match (if bitsN arg 7 9 ≠ 0 then none else w.m.counterParent level (bitsN arg 16 48)) with
  | none => .ok { w with m := w.m.counterDone appCore.val 0xFFFFFFFFFFFFFFFF }
  | some parent =>
    let job := match parent with | some p => (w.m.entry p).job | none => (w.m.context ctx).job
    let cancelled := match parent with | some p => (w.m.entry p).cancelled | none => false
    let e : Entry := { Entry.reset with
      job := job, ctx := ctx, level := level, count := 1, status := 1, closed := false, parent := parent, cancelled := cancelled }
    match w.m.newEntry e with
    | none => .ok { w with m := w.m.counterDone appCore.val 0xFFFFFFFFFFFFFFFF }
    | some (ix, m) =>
      let m := match parent with
        | some p => m.setEntry p { m.entry p with count := (m.entry p).count + 1 }
        | none => m
      .ok { w with m := m.counterDone appCore.val (BitVec.ofNat 64 (handleOf ix (m.entry ix).serial)) }

def execCounterCreate (appCore : Fin 16) (arg : Word) (s : State) : Host.Outcome State Fault Refusal :=
  event (fun w => w.hosted (some appCore) (bodyCounterCreate appCore arg)) s

/-- 17 R413: closes a graph, phase or job entry and returns its handle, or all ones. -/
def bodyCounterClose (appCore : Fin 16) (arg : Word) (w : Work) : M Work :=
  if !bitB arg 6 then .error (.wait .queueRoom)
  else
    let h := bitsN arg 16 48
    let no : Work := { w with m := w.m.counterDone appCore.val 0xFFFFFFFFFFFFFFFF }
    match (if bitsN arg 7 9 ≠ 0 then none else w.m.handleIx h) with
    | none => .ok no
    | some ix =>
      let e := w.m.entry ix
      if e.level = 0 ∨ e.closed then .ok no
      else
        let m := w.m.setEntry ix ({ e with closed := true, count := e.count - 1 }).settle
        .ok { w with m := m.counterDone appCore.val (BitVec.ofNat 64 h) }

def execCounterClose (appCore : Fin 16) (arg : Word) (s : State) : Host.Outcome State Fault Refusal :=
  event (fun w => w.hosted (some appCore) (bodyCounterClose appCore arg)) s

/-- 17 R412: the host writes a vector page table entry, in all replicas at once. -/
def bodyHostVptEntryWrite (ctx : Fin 16) (entry : Fin 4096) (value : Word) (w : Work) : M Work :=
  .ok { w with m := w.m.setContext ctx.val { w.m.context ctx.val with
    vpt := tabSet (w.m.context ctx.val).vpt entry.val value } }

def execHostVptEntryWrite (ctx : Fin 16) (entry : Fin 4096) (value : Word) (s : State) : Host.Outcome State Fault Refusal :=
  event (fun w => w.hosted none (bodyHostVptEntryWrite ctx entry value)) s

/-- 17 R412: the host's write of a hotness word clears the two counters in it. -/
def bodyHostHotnessClear (ctx : Fin 16) (word : Fin 6144) (w : Work) : M Work :=
  let x := w.m.context ctx.val
  .ok { w with m := w.m.setContext ctx.val { x with hot := tabDel (tabDel x.hot (2 * word.val)) (2 * word.val + 1) } }

def execHostHotnessClear (ctx : Fin 16) (word : Fin 6144) (s : State) : Host.Outcome State Fault Refusal :=
  event (fun w => w.hosted none (bodyHostHotnessClear ctx word)) s

/-! ### The window's accesses (17 R412 to R414) -/

/-- What an application core's access answers: a value, or none for an access fault (17 R412). -/
def Work.hostAnswer (w : Work) (a : Fin 16) (v : Option Word) : Work :=
  { w with m := w.m.setSched (fun s => { s with hostReply := tabSet s.hostReply a.val v }) }

/-- Two hotness counters, as the word that contains them (17 Table 17.1). -/
def Context.hotWord (x : Context) (k : Nat) : Word := BitVec.ofNat 64 (tabGet 0 x.hot (2 * k) + at_ 32 (tabGet 0 x.hot (2 * k + 1)))

/-- A read of RESULT: it takes the ARG that stands there; without one it is all ones and creates nothing (17 R413). -/
def readResult (slot : Fin 16) (w : Work) : M Work :=
  match tabGet none w.m.sched.counterArg slot.val with
  | none => .ok { w with m := w.m.counterDone slot.val 0xFFFFFFFFFFFFFFFF }
  | some arg => if bitB arg 6 then bodyCounterClose slot arg w else bodyCounterCreate slot arg w

/-- A read of eight bytes of the window at an offset (17 Table 17.1). ARG reads as it was written, the map request as 0 (DESIGN CHOICE, log
34: the table gives no reads of them). -/
def hostRead (a : Fin 16) (off : Nat) (w : Work) : M Work :=
  let slot := Fin.ofNat 16 ((off - 0x10000) / 64)
  if 0x10000 ≤ off ∧ off < 0x10400 ∧ off % 64 = 8 then do
    let w1 ← readResult slot w
    .ok (w1.hostAnswer a (some (tabGet 0 w1.m.sched.counterResult slot.val)))
  else if 0x10000 ≤ off ∧ off < 0x10400 ∧ off % 64 = 0 then
    .ok (w.hostAnswer a (some ((tabGet none w.m.sched.counterArg slot.val).getD 0)))
  else if 0x2000 ≤ off ∧ off < 0x2080 then .ok (w.hostAnswer a (some ((w.m.context ((off - 0x2000) / 8)).route.setWidth 64)))
  else if 0x100000 ≤ off ∧ off < 0x180000 then
    .ok (w.hostAnswer a (some (tabGet 0 (w.m.context ((off - 0x100000) / 0x8000)).vpt ((off - 0x100000) % 0x8000 / 8))))
  else if 0x200000 ≤ off ∧ off < 0x2C0000 then
    .ok (w.hostAnswer a (some ((w.m.context ((off - 0x200000) / 0xC000)).hotWord ((off - 0x200000) % 0xC000 / 8))))
  else .ok (w.hostAnswer a (some 0))

/-- A write of eight bytes to the window at an offset (17 Table 17.1). -/
def hostWrite (off : Nat) (v : Word) (w : Work) : M Work :=
  if off < 0x200 then bodyNotifyRegisterWrite (off / 8) w
  else if off = 0x1000 then bodyMapRequest v.toNat w
  else if 0x2000 ≤ off ∧ off < 0x2080 then
    let c := (off - 0x2000) / 8
    .ok { w with m := w.m.setContext c { w.m.context c with route := v.setWidth 16 } }
  else if 0x10000 ≤ off ∧ off < 0x10400 ∧ off % 64 = 0 then
    .ok { w with m := w.m.setSched (fun s => { s with counterArg := tabSet s.counterArg ((off - 0x10000) / 64) (some v) }) }
  else if 0x100000 ≤ off ∧ off < 0x180000 then
    bodyHostVptEntryWrite (Fin.ofNat 16 ((off - 0x100000) / 0x8000)) (Fin.ofNat 4096 ((off - 0x100000) % 0x8000 / 8)) v w
  else if 0x200000 ≤ off ∧ off < 0x2C0000 then
    bodyHostHotnessClear (Fin.ofNat 16 ((off - 0x200000) / 0xC000)) (Fin.ofNat 6144 ((off - 0x200000) % 0xC000 / 8)) w
  else .ok w

/-- 17 R411, R412: an application core's access to the host interface window. One that is not 8 bytes wide and aligned, or lies past the
window's 16 MiB, raises an access fault there and has no effect; a write that is made is answered too. -/
def hostAccess (a : Fin 16) (x : HostAccess) (w : Work) : M Work :=
  w.hosted (some a) (fun w =>
    let bad (off size : Nat) : Bool := size != 8 || off % 8 != 0 || decide (0x1000000 ≤ off)
    match x with
    | .read off size => if bad off size then .ok (w.hostAnswer a none) else hostRead a off w
    | .write off size v =>
      if bad off size then .ok (w.hostAnswer a none) else do
        let w1 ← hostWrite off v w
        .ok (w1.hostAnswer a (some 0)))

end Sys2Proof.Machine
end

