-- ==== Sys2Proof/Machine/Sequencers.lean ====
section
/-! DEFINITION. The turns of the matrix and copy sequencers, and `send` (09 R239, R240; 11 R287, R288; 14 R354, R355). -/

namespace Sys2Proof.Machine

/-! ### The two sequencers of a slot -/

/-- The matrix sequencer or the copy sequencer of a slot. -/
def Slot.seq (s : Slot) (copy : Bool) : Sequencer := if copy then s.cseq else s.mseq

def Slot.setSeq (s : Slot) (copy : Bool) (q : Sequencer) : Slot := if copy then { s with cseq := q } else { s with mseq := q }

/-- The running slot's sequencer changed. -/
def Work.setSeq (w : Work) (copy : Bool) (q : Sequencer) : Work := w.setS (w.s.setSeq copy q)

/-- A register of the sequencer: y0 and z0 read zero. -/
def Sequencer.reg (q : Sequencer) (n : Nat) : Word := if n = 0 then 0 else tabGet 0 q.r n

/-! ### Programs (09 R239; 11 R287; 02 R44) -/

/-- Whether register fields name registers that a sequencer has. -/
def low (l : List Reg) : Bool := l.all (fun r => decide (r.val < 8))

/-- The instructions that both sequencers hold: arithmetic, branches and `jal`, with `send`. -/
def seqScalar : Instr → Bool
  | .add _ d a b => low [d, a, b]
  | .sub _ d a b => low [d, a, b]
  | .addi _ d a _ => low [d, a]
  | .andi _ d a _ => low [d, a]
  | .ori _ d a _ => low [d, a]
  | .slli _ d a _ _ => low [d, a]
  | .srli _ d a _ _ => low [d, a]
  | .lih _ d _ => low [d]
  | .beq _ d a _ => low [d, a]
  | .bne _ d a _ => low [d, a]
  | .blt _ d a _ => low [d, a]
  | .bge _ d a _ => low [d, a]
  | .jal _ _ => true
  | _ => false

/-- The tile instructions of the matrix sequencer: the registers of their A and B operands. -/
def seqTile : Instr → Option (Reg × Reg)
  | .tzero _ _ _ => some (0, 0)
  | .tmma _ _ _ a b l _ => if l && low [a, b] then some (a, b) else none
  | .tmms _ _ _ a b l _ => if (!l || low [a]) && low [b] then some (a, b) else none
  | .tmf64 _ _ _ a b l _ => if (!l || low [a]) && low [b] then some (a, b) else none
  | .tld _ _ a _ => if low [a] then some (a, 0) else none
  | .tst _ _ a _ => if low [a] then some (a, 0) else none
  | .wbld _ a b => if low [a, b] then some (a, b) else none
  | .wbfmt _ a => if low [a] then some (a, 0) else none
  | _ => none

/-- A copy instruction of the copy sequencer: its command code, its token register, its parameter block and its
orientations. -/
structure SeqCopy where
  code : Nat
  d : Reg
  a : Reg
  count : Nat
  od : Bool
  os : Bool
  deriving DecidableEq, Repr

/-- The copy that an instruction is, whatever its registers. -/
def copyOf : Instr → Option SeqCopy
  | .cpy _ d a u t => some { code := 0, d := d, a := a, count := 3, od := u, os := t }
  | .cpy2 _ d a u t => some { code := 1, d := d, a := a, count := 6, od := u, os := t }
  | .cpyr _ d a u t => some { code := 3, d := d, a := a, count := 3, od := u, os := t }
  | .cpym _ d a u t => some { code := 4, d := d, a := a, count := 4, od := u, os := t }
  | .cpyx _ d a u t => some { code := 5, d := d, a := a, count := 4, od := u, os := t }
  | .cpyfill _ d a u => some { code := 6, d := d, a := a, count := 3, od := u, os := false }
  | .cpybc _ d a u t => some { code := 7, d := d, a := a, count := 4, od := u, os := t }
  | _ => none

/-- The copy of a sequencer program: a token field from 1 to 7, a parameter block within z0 to z7. -/
def seqCopy (i : Instr) : Option SeqCopy :=
  (copyOf i).bind (fun c => if 1 ≤ c.d.val ∧ c.d.val < 8 ∧ c.a.val + c.count ≤ 8 then some c else none)

/-- Whether an instruction is `send`. -/
def isSend : Instr → Bool
  | .send _ => true
  | _ => false

/-- Whether a word may stand in a program of the matrix or copy sequencer. -/
def inProgram (copy : Bool) (f : BitVec 4) (i : Instr) : Bool :=
  (infoOf f i).st == 0 && !(infoOf f i).conv &&
  (seqScalar i || isSend i || (if copy then (seqCopy i).isSome else (seqTile i).isSome))

/-! ### Turns -/

/-- Whether a register that the instruction names awaits a copy's token. -/
def Sequencer.awaits (q : Sequencer) (f : Info) (c : Option SeqCopy) : Bool :=
  let block := match c with
    | some c => c.d.val :: (List.range c.count).map (fun i => c.a.val + i)
    | none => []
  let named := (f.rd ++ f.wr).filterMap (fun r => match r with | .x n => some n.val | _ => none)
  q.pend.any (fun p => (named ++ block).contains p.reg)

/-- A failed copy whose token the sequencer's instruction reads is known; one whose token it overwrites never is (11 R284). -/
def Slot.readTokens (s : Slot) (rd wr : List Nat) : Slot :=
  let hit (l : List Nat) (c : FailedCopy) : Bool := c.seq && !c.overwritten && c.reg != 0 && l.contains c.reg
  let failed := (s.thr.failed.filter (fun c => !hit rd c)).map (fun c => if hit wr c then { c with overwritten := true } else c)
  { s with thr := { s.thr with failed := failed } }

/-- A scalar instruction of a sequencer, run on its registers in place of the slot's. -/
def Work.seqAlu (w : Work) (copy : Bool) (i : Instr) : M Work := do
  let s := w.s
  let q := s.seq copy
  let regs := { s.regs with x := q.r, level := .user, pc := q.pc }
  let w1 := w.setS { s with regs := regs, thr := { s.thr with wins := [] } }
  let w2 ← bodyOf i { w1 with npc := q.pc + 4 }
  .ok (w.setSeq copy { q with r := w2.s.regs.x, pc := w2.npc })

/-- A tile operation that the matrix sequencer offers: the tile unit accepts it, with the sequencer's operands and the type and
rounding of the `fork`, or turns it away (09 R217, R239). -/
def Work.seqTileOp (w : Work) (i : Instr) (a b : Reg) (word : Nat) : M Work :=
  let core := coreOf w.m.cur
  let q := w.s.mseq
  let src : TileSrc := {
    own := false, fmt := q.fmt.toNat, slc := q.slc.toNat, rm := q.rm.toNat, opa := q.reg a.val, opb := q.reg b.val,
    since := w.m.pkg.nextCopy, lost := [] }
  match w.offerFault i src word with
    | some t => .error (.trap w t)
    | none => .ok (w.acceptTile core
        { bySeq := true, instr := i, word := word, src := src, ksteps := 0, arrivals := 0, mismatched := false, consumed := [],
          after := w.s.tilePlace })

/-- Whether the tile unit holds an operation of slot n's matrix sequencer. -/
def Mach.seqTilePending (m : Mach) (n : Nat) : Bool :=
  let c := m.core (coreOf n)
  c.owner == some n && c.tileOps.any (fun op => op.bySeq)

/-- A copy of the copy sequencer: the checks of R268, the command to the engine, the token pending in its z register
(11 R287). -/
def Work.seqCopyOp (w : Work) (c : SeqCopy) : M Work := do
  let q := w.s.cseq
  let params := (List.range c.count).map (fun i => q.reg (c.a.val + i))
  let k := w.newCopy { code := c.code, params := params, od := c.od, os := c.os, shape := [] } q.sup c.d.val true
  let rm := if c.code = 3 ∧ bitsN (params.getD 2 0) 40 3 = 5 then q.rm else k.rm
  let (k, w) ← w.checkCopy { k with pc := keepBits q.pc 0 57, rm := rm }
  let k := k.atIssue w.m
  let w := w.toEngine k
  claimCopy k (w.setSeq true { q with
    pc := q.pc + 4, r := tabSet q.r c.d.val 0xFFFFFFFFFFFFFFFF, pend := q.pend ++ [{ reg := c.d.val, ident := k.ident }] })

/-- The work of a sequencer's instruction. -/
def Work.seqRun (w : Work) (copy : Bool) (i : Instr) (word : Nat) : M Work :=
  let f := infoOf w.s.ctl.fmt i
  let names (l : List RegName) : List Nat := l.filterMap (fun r => match r with | .x n => some n.val | _ => none)
  if copy then
    let c := seqCopy i
    let block := match c with | some c => (List.range c.count).map (fun k => c.a.val + k) | none => []
    let w1 := w.setS (w.s.readTokens (names f.rd ++ block) (names f.wr))
    if w.s.cseq.awaits f c then .error (.wait .token)
    else match (match c with
      | some c => w1.seqCopyOp c
      | none => w1.seqAlu true i) with
      | .error (.trap _ t) => .error (.trap w t)
      | r => r
  else match seqTile i with
    | some (a, b) => w.seqTileOp i a b word
    | none => w.seqAlu false i

/-- The word of a sequencer's next instruction, decoded and checked; any failure stops the sequencer. -/
def Work.seqFetch (w : Work) (copy : Bool) : M (Nat × Instr × Work) := do
  let q := w.s.seq copy
  let (word, w) ← w.fetchFor w.m.cur w.ctx.spt q.sup q.pc
  match decodeWord word with
  | .error _ => raise w cILLEGAL (BitVec.ofNat 64 word)
  | .ok i => if inProgram copy w.s.ctl.fmt i then .ok (word, i, w) else raise w cILLEGAL (BitVec.ofNat 64 word)

/-- The agenda's name of a sequencer's turn. -/
def seqTurnOf (copy : Bool) (n : Nat) : Turn := if copy then .copySequencer n else .matrixSequencer n

/-- What a sequencer's `send` does: it has arrived (14 R355). -/
def arrive (copy : Bool) (n : Nat) (s : State) : State :=
  let sl := s.toMach.slot n
  let q := sl.seq copy
  if q.st = .running then { s with toMach := s.toMach.setSlot n (sl.setSeq copy { q with st := .arrived }) } else s

/-- 14 R355: `send` in a sequencer's turn marks the sequencer as arrived; in a control thread it is illegal (02 R40). -/
def bodySend (w : Work) : M Work := .ok w

def execSend (st : Fin 16) (s : State) : Host.Outcome State Fault Refusal :=
  match s.agenda with
  | .matrixSequencer n :: _ => .next (arrive false n s)
  | .copySequencer n :: _ => .next (arrive true n s)
  | _ => issue (.send st) bodySend s

/-- A turn of a sequencer of slot n (09 R239, R240; 11 R287, R288): one instruction of its program; while the tile unit holds an
operation of the matrix sequencer, that operation goes on instead. A wait leaves all as it stood. -/
def seqTurn (copy : Bool) (n : Nat) (s : State) : Host.Outcome State Fault Refusal :=
  let q := (s.toMach.slot n).seq copy
  if q.st ≠ .running || !(s.toMach.slot n).unit.st.runs then .next s
  else if !copy && s.toMach.seqTilePending n then event (finishTile (coreOf n)) s
  else
  let w := { s.work with m := { s.toMach with cur := n } }
  let close (w : Work) : Host.Outcome State Fault Refusal := .next ({ w with m := { w.m with cur := s.cur } }.finish s)
  let done (r : M Work) : Host.Outcome State Fault Refusal :=
    match r with
    | .ok w => close w
    | .error (.trap w t) => close (w.setSeq copy (((w.s.seq copy)).stop t))
    | .error (.wait (.lost pkg a)) => close (w.unanswered n pkg a)
    | .error (.wait _) => .next s
    | .error (.pause _) => .next s
    | .error (.fault f) => .fault f
  match w.seqFetch copy with
  | .error e => done (.error e)
  | .ok (word, i, w1) =>
    if isSend i then
      match execSend 0 { s with agenda := seqTurnOf copy n :: s.agenda } with
      | .next t => .next { t with agenda := s.agenda }
      | o => o
    else done (w1.seqRun copy i word)

end Sys2Proof.Machine
end

