-- ==== Sys2Proof/Machine/Dispatch.lean ====
section
/-! DEFINITION. The dispatch of every instruction word and event to its meaning, one arm per constructor. -/

namespace Sys2Proof.Machine

/-- What an instruction word, issued by the current slot, or an event does. -/
def exec (i : Instr) (s : State) : Host.Outcome State Fault Refusal :=
  match i with
  | .add st d a b => Sys2Proof.Machine.execAdd st d a b s
  | .sub st d a b => Sys2Proof.Machine.execSub st d a b s
  | .and st d a b => Sys2Proof.Machine.execAnd st d a b s
  | .or st d a b => Sys2Proof.Machine.execOr st d a b s
  | .xor st d a b => Sys2Proof.Machine.execXor st d a b s
  | .sll st d a b => Sys2Proof.Machine.execSll st d a b s
  | .srl st d a b => Sys2Proof.Machine.execSrl st d a b s
  | .sra st d a b => Sys2Proof.Machine.execSra st d a b s
  | .slt st d a b => Sys2Proof.Machine.execSlt st d a b s
  | .sltn st d a b => Sys2Proof.Machine.execSltn st d a b s
  | .min st d a b => Sys2Proof.Machine.execMin st d a b s
  | .max st d a b => Sys2Proof.Machine.execMax st d a b s
  | .minn st d a b => Sys2Proof.Machine.execMinn st d a b s
  | .maxn st d a b => Sys2Proof.Machine.execMaxn st d a b s
  | .mul st d a b => Sys2Proof.Machine.execMul st d a b s
  | .mulh st d a b => Sys2Proof.Machine.execMulh st d a b s
  | .mulhn st d a b => Sys2Proof.Machine.execMulhn st d a b s
  | .div st d a b => Sys2Proof.Machine.execDiv st d a b s
  | .divn st d a b => Sys2Proof.Machine.execDivn st d a b s
  | .rem st d a b => Sys2Proof.Machine.execRem st d a b s
  | .remn st d a b => Sys2Proof.Machine.execRemn st d a b s
  | .bext st d a b => Sys2Proof.Machine.execBext st d a b s
  | .bins st d a b => Sys2Proof.Machine.execBins st d a b s
  | .clz st d a => Sys2Proof.Machine.execClz st d a s
  | .ctz st d a => Sys2Proof.Machine.execCtz st d a s
  | .popc st d a => Sys2Proof.Machine.execPopc st d a s
  | .slli st d a n h => Sys2Proof.Machine.execSlli st d a n h s
  | .srli st d a n h => Sys2Proof.Machine.execSrli st d a n h s
  | .srai st d a n h => Sys2Proof.Machine.execSrai st d a n h s
  | .addi st d a imm => Sys2Proof.Machine.execAddi st d a imm s
  | .andi st d a imm => Sys2Proof.Machine.execAndi st d a imm s
  | .ori st d a imm => Sys2Proof.Machine.execOri st d a imm s
  | .xori st d a imm => Sys2Proof.Machine.execXori st d a imm s
  | .lih st d imm => Sys2Proof.Machine.execLih st d imm s
  | .adpc st d imm => Sys2Proof.Machine.execAdpc st d imm s
  | .ld8 st d a off => Sys2Proof.Machine.execLd8 st d a off s
  | .ld16 st d a off => Sys2Proof.Machine.execLd16 st d a off s
  | .ld32 st d a off => Sys2Proof.Machine.execLd32 st d a off s
  | .ld64 st d a off => Sys2Proof.Machine.execLd64 st d a off s
  | .ld8N st d a off => Sys2Proof.Machine.execLd8N st d a off s
  | .ld16N st d a off => Sys2Proof.Machine.execLd16N st d a off s
  | .ld32N st d a off => Sys2Proof.Machine.execLd32N st d a off s
  | .st8 st d a off => Sys2Proof.Machine.execSt8 st d a off s
  | .st16 st d a off => Sys2Proof.Machine.execSt16 st d a off s
  | .st32 st d a off => Sys2Proof.Machine.execSt32 st d a off s
  | .st64 st d a off => Sys2Proof.Machine.execSt64 st d a off s
  | .ldl st d a => Sys2Proof.Machine.execLdl st d a s
  | .stc st d a b => Sys2Proof.Machine.execStc st d a b s
  | .jal st off => Sys2Proof.Machine.execJal st off s
  | .beq st d a off => Sys2Proof.Machine.execBeq st d a off s
  | .bne st d a off => Sys2Proof.Machine.execBne st d a off s
  | .blt st d a off => Sys2Proof.Machine.execBlt st d a off s
  | .bge st d a off => Sys2Proof.Machine.execBge st d a off s
  | .bltn st d a off => Sys2Proof.Machine.execBltn st d a off s
  | .bgen st d a off => Sys2Proof.Machine.execBgen st d a off s
  | .jalr st d a => Sys2Proof.Machine.execJalr st d a s
  | .wait st d a => Sys2Proof.Machine.execWait st d a s
  | .setvl st d a => Sys2Proof.Machine.execSetvl st d a s
  | .setvt st d a => Sys2Proof.Machine.execSetvt st d a s
  | .nop st => Sys2Proof.Machine.execNop st s
  | .rdc st d r => Sys2Proof.Machine.execRdc st d r s
  | .wrc st d r => Sys2Proof.Machine.execWrc st d r s
  | .writeVl value => Sys2Proof.Machine.execWriteVl value s
  | .writeVtype value => Sys2Proof.Machine.execWriteVtype value s
  | .writeFflags value => Sys2Proof.Machine.execWriteFflags value s
  | .writeWaypart value => Sys2Proof.Machine.execWriteWaypart value s
  | .writeVstate value => Sys2Proof.Machine.execWriteVstate value s
  | .writeTstate value => Sys2Proof.Machine.execWriteTstate value s
  | .writeVhot value => Sys2Proof.Machine.execWriteVhot value s
  | .vadd st c d a b x => Sys2Proof.Machine.execVadd st c d a b x s
  | .vsub st c d a b x => Sys2Proof.Machine.execVsub st c d a b x s
  | .vmin st c d a b x => Sys2Proof.Machine.execVmin st c d a b x s
  | .vmax st c d a b x => Sys2Proof.Machine.execVmax st c d a b x s
  | .vaddsat st c d a b x => Sys2Proof.Machine.execVaddsat st c d a b x s
  | .vsubsat st c d a b x => Sys2Proof.Machine.execVsubsat st c d a b x s
  | .vabs st c d a => Sys2Proof.Machine.execVabs st c d a s
  | .vneg st c d a => Sys2Proof.Machine.execVneg st c d a s
  | .vand st c d a b x => Sys2Proof.Machine.execVand st c d a b x s
  | .vor st c d a b x => Sys2Proof.Machine.execVor st c d a b x s
  | .vxor st c d a b x => Sys2Proof.Machine.execVxor st c d a b x s
  | .vsll st c d a b x => Sys2Proof.Machine.execVsll st c d a b x s
  | .vsrl st c d a b x => Sys2Proof.Machine.execVsrl st c d a b x s
  | .vsra st c d a b x => Sys2Proof.Machine.execVsra st c d a b x s
  | .vmul st c d a b x => Sys2Proof.Machine.execVmul st c d a b x s
  | .vmulh st c d a b x => Sys2Proof.Machine.execVmulh st c d a b x s
  | .vmadd st c d a b x => Sys2Proof.Machine.execVmadd st c d a b x s
  | .vmsub st c d a b x => Sys2Proof.Machine.execVmsub st c d a b x s
  | .vnmadd st c d a b x => Sys2Proof.Machine.execVnmadd st c d a b x s
  | .vdiv st c d a b x => Sys2Proof.Machine.execVdiv st c d a b x s
  | .vwadd st c d a b x => Sys2Proof.Machine.execVwadd st c d a b x s
  | .vwmul st c d a b x => Sys2Proof.Machine.execVwmul st c d a b x s
  | .vcmp st c d a b x q => Sys2Proof.Machine.execVcmp st c d a b x q s
  | .vsel st c d a b x => Sys2Proof.Machine.execVsel st c d a b x s
  | .vmv st c d a => Sys2Proof.Machine.execVmv st c d a s
  | .vbcast st c d a => Sys2Proof.Machine.execVbcast st c d a s
  | .vaddF st c d a b x => Sys2Proof.Machine.execVaddF st c d a b x s
  | .vsubF st c d a b x => Sys2Proof.Machine.execVsubF st c d a b x s
  | .vminF st c d a b x => Sys2Proof.Machine.execVminF st c d a b x s
  | .vmaxF st c d a b x => Sys2Proof.Machine.execVmaxF st c d a b x s
  | .vabsF st c d a => Sys2Proof.Machine.execVabsF st c d a s
  | .vnegF st c d a => Sys2Proof.Machine.execVnegF st c d a s
  | .vmulF st c d a b x => Sys2Proof.Machine.execVmulF st c d a b x s
  | .vmaddF st c d a b x => Sys2Proof.Machine.execVmaddF st c d a b x s
  | .vmsubF st c d a b x => Sys2Proof.Machine.execVmsubF st c d a b x s
  | .vnmaddF st c d a b x => Sys2Proof.Machine.execVnmaddF st c d a b x s
  | .vdivF st c d a b x => Sys2Proof.Machine.execVdivF st c d a b x s
  | .vwaddF st c d a b x => Sys2Proof.Machine.execVwaddF st c d a b x s
  | .vwmulF st c d a b x => Sys2Proof.Machine.execVwmulF st c d a b x s
  | .vsqrt st c d a => Sys2Proof.Machine.execVsqrt st c d a s
  | .vrcpa st c d a => Sys2Proof.Machine.execVrcpa st c d a s
  | .vrsqa st c d a => Sys2Proof.Machine.execVrsqa st c d a s
  | .vrcps st c d a b => Sys2Proof.Machine.execVrcps st c d a b s
  | .vrsqs st c d a b => Sys2Proof.Machine.execVrsqs st c d a b s
  | .vclass st c d a => Sys2Proof.Machine.execVclass st c d a s
  | .vcmpF st c d a b x q => Sys2Proof.Machine.execVcmpF st c d a b x q s
  | .vcvt st c d a b m => Sys2Proof.Machine.execVcvt st c d a b m s
  | .vldsc st c d a b => Sys2Proof.Machine.execVldsc st c d a b s
  | .vmvscToScale st c d a => Sys2Proof.Machine.execVmvscToScale st c d a s
  | .vmvscFromScale st c d a => Sys2Proof.Machine.execVmvscFromScale st c d a s
  | .vapsc st c d a b => Sys2Proof.Machine.execVapsc st c d a b s
  | .mand st c d a b => Sys2Proof.Machine.execMand st c d a b s
  | .mor st c d a b => Sys2Proof.Machine.execMor st c d a b s
  | .mxor st c d a b => Sys2Proof.Machine.execMxor st c d a b s
  | .mnot st c d a => Sys2Proof.Machine.execMnot st c d a s
  | .msbf st c d a => Sys2Proof.Machine.execMsbf st c d a s
  | .mset st c d a => Sys2Proof.Machine.execMset st c d a s
  | .mpopc st c d a => Sys2Proof.Machine.execMpopc st c d a s
  | .mfirst st c d a => Sys2Proof.Machine.execMfirst st c d a s
  | .viota st c d a => Sys2Proof.Machine.execViota st c d a s
  | .vld st c d a o => Sys2Proof.Machine.execVld st c d a o s
  | .vlds st c d a o => Sys2Proof.Machine.execVlds st c d a o s
  | .vldx st c d a b o k => Sys2Proof.Machine.execVldx st c d a b o k s
  | .vldt st c d a b o => Sys2Proof.Machine.execVldt st c d a b o s
  | .vpf st c a o => Sys2Proof.Machine.execVpf st c a o s
  | .vst st c d a o n => Sys2Proof.Machine.execVst st c d a o n s
  | .vsts st c d a o n => Sys2Proof.Machine.execVsts st c d a o n s
  | .vstx st c d a b o n k => Sys2Proof.Machine.execVstx st c d a b o n k s
  | .vstxu st c d a b o n k => Sys2Proof.Machine.execVstxu st c d a b o n k s
  | .vstt st c d a b o n => Sys2Proof.Machine.execVstt st c d a b o n s
  | .vlseg st c d a b o n => Sys2Proof.Machine.execVlseg st c d a b o n s
  | .vsseg st c d a b o t n => Sys2Proof.Machine.execVsseg st c d a b o t n s
  | .vbind st c d a => Sys2Proof.Machine.execVbind st c d a s
  | .vunbind st c d => Sys2Proof.Machine.execVunbind st c d s
  | .vperm st c d a b => Sys2Proof.Machine.execVperm st c d a b s
  | .vslu st c d a b => Sys2Proof.Machine.execVslu st c d a b s
  | .vsld st c d a b => Sys2Proof.Machine.execVsld st c d a b s
  | .vcompress st c d a => Sys2Proof.Machine.execVcompress st c d a s
  | .vexpand st c d a => Sys2Proof.Machine.execVexpand st c d a s
  | .vred st c d a b f p => Sys2Proof.Machine.execVred st c d a b f p s
  | .vscan st c d a b f p => Sys2Proof.Machine.execVscan st c d a b f p s
  | .vfetch st c a => Sys2Proof.Machine.execVfetch st c a s
  | .vpbr st c a => Sys2Proof.Machine.execVpbr st c a s
  | .vpend st c => Sys2Proof.Machine.execVpend st c s
  | .vpsend st c a => Sys2Proof.Machine.execVpsend st c a s
  | .vprecv st c d => Sys2Proof.Machine.execVprecv st c d s
  | .vconf st c d a => Sys2Proof.Machine.execVconf st c d a s
  | .vcomb st c d a b => Sys2Proof.Machine.execVcomb st c d a b s
  | .visect st c d a b => Sys2Proof.Machine.execVisect st c d a b s
  | .cins st c d a => Sys2Proof.Machine.execCins st c d a s
  | .clook st c d a b => Sys2Proof.Machine.execClook st c d a b s
  | .cacc st c a b => Sys2Proof.Machine.execCacc st c a b s
  | .cdrain st c d => Sys2Proof.Machine.execCdrain st c d s
  | .cclr st c => Sys2Proof.Machine.execCclr st c s
  | .vgathl st c d a b o => Sys2Proof.Machine.execVgathl st c d a b o s
  | .vscatc st c d a b o m => Sys2Proof.Machine.execVscatc st c d a b o m s
  | .fibdef st c a => Sys2Proof.Machine.execFibdef st c a s
  | .fibend st c => Sys2Proof.Machine.execFibend st c s
  | .fibrePrefetch slot => Sys2Proof.Machine.execFibrePrefetch slot s
  | .ten st => Sys2Proof.Machine.execTen st s
  | .tdis st => Sys2Proof.Machine.execTdis st s
  | .tzero st p t => Sys2Proof.Machine.execTzero st p t s
  | .tmop st p t a b => Sys2Proof.Machine.execTmop st p t a b s
  | .tmma st p t a b l o => Sys2Proof.Machine.execTmma st p t a b l o s
  | .tmms st p t a b l o => Sys2Proof.Machine.execTmms st p t a b l o s
  | .tmf64 st p t a b l o => Sys2Proof.Machine.execTmf64 st p t a b l o s
  | .tld st t a o => Sys2Proof.Machine.execTld st t a o s
  | .tst st t a o => Sys2Proof.Machine.execTst st t a o s
  | .trowmv st t a b k => Sys2Proof.Machine.execTrowmv st t a b k s
  | .tcolmv st t a b k => Sys2Proof.Machine.execTcolmv st t a b k s
  | .tvmv st t a k => Sys2Proof.Machine.execTvmv st t a k s
  | .wbld st a b => Sys2Proof.Machine.execWbld st a b s
  | .wbfmt st a => Sys2Proof.Machine.execWbfmt st a s
  | .tchk st a => Sys2Proof.Machine.execTchk st a s
  | .tchkrd st a => Sys2Proof.Machine.execTchkrd st a s
  | .tileOpComplete core => Sys2Proof.Machine.execTileOpComplete core s
  | .matrixCommandAccept core => Sys2Proof.Machine.execMatrixCommandAccept core s
  | .cpy st d a u t => Sys2Proof.Machine.execCpy st d a u t s
  | .cpy2 st d a u t => Sys2Proof.Machine.execCpy2 st d a u t s
  | .cpyt st d a b u t => Sys2Proof.Machine.execCpyt st d a b u t s
  | .cpyr st d a u t => Sys2Proof.Machine.execCpyr st d a u t s
  | .cpym st d a u t => Sys2Proof.Machine.execCpym st d a u t s
  | .cpyx st d a u t => Sys2Proof.Machine.execCpyx st d a u t s
  | .cpyfill st d a u => Sys2Proof.Machine.execCpyfill st d a u s
  | .cpybc st d a u t => Sys2Proof.Machine.execCpybc st d a u t s
  | .copyEngineAccept cluster => Sys2Proof.Machine.execCopyEngineAccept cluster s
  | .copyCompletion cluster ident => Sys2Proof.Machine.execCopyCompletion cluster ident s
  | .fence st k => Sys2Proof.Machine.execFence st k s
  | .acq st k => Sys2Proof.Machine.execAcq st k s
  | .rel st k => Sys2Proof.Machine.execRel st k s
  | .barinit st a b g => Sys2Proof.Machine.execBarinit st a b g s
  | .bararr st a b g => Sys2Proof.Machine.execBararr st a b g s
  | .barwait st a g => Sys2Proof.Machine.execBarwait st a g s
  | .wmwait st a => Sys2Proof.Machine.execWmwait st a s
  | .barwaitRelease slot => Sys2Proof.Machine.execBarwaitRelease slot s
  | .watermarkSatisfied slot => Sys2Proof.Machine.execWatermarkSatisfied slot s
  | .waitWake slot => Sys2Proof.Machine.execWaitWake slot s
  | .waitTimeout slot => Sys2Proof.Machine.execWaitTimeout slot s
  | .linkHoldExpiry line => Sys2Proof.Machine.execLinkHoldExpiry line s
  | .relrcv st => Sys2Proof.Machine.execRelrcv st s
  | .ckpbeg st a b => Sys2Proof.Machine.execCkpbeg st a b s
  | .ckpseal st a => Sys2Proof.Machine.execCkpseal st a s
  | .ckpverify st d a => Sys2Proof.Machine.execCkpverify st d a s
  | .ckpabort st => Sys2Proof.Machine.execCkpabort st s
  | .rprd st d b => Sys2Proof.Machine.execRprd st d b s
  | .launch st a => Sys2Proof.Machine.execLaunch st a s
  | .launchn st d a => Sys2Proof.Machine.execLaunchn st d a s
  | .cancel st a b => Sys2Proof.Machine.execCancel st a b s
  | .cntrd st d a => Sys2Proof.Machine.execCntrd st d a s
  | .fork st a b => Sys2Proof.Machine.execFork st a b s
  | .join st => Sys2Proof.Machine.execJoin st s
  | .send st => Sys2Proof.Machine.execSend st s
  | .yield st => Sys2Proof.Machine.execYield st s
  | .uexit st => Sys2Proof.Machine.execUexit st s
  | .notify st a => Sys2Proof.Machine.execNotify st a s
  | .trap st b => Sys2Proof.Machine.execTrap st b s
  | .eret st => Sys2Proof.Machine.execEret st s
  | .mcall st => Sys2Proof.Machine.execMcall st s
  | .halt st => Sys2Proof.Machine.execHalt st s
  | .vptwr st a b => Sys2Proof.Machine.execVptwr st a b s
  | .tlbinv st a b => Sys2Proof.Machine.execTlbinv st a b s
  | .ctxsave st a => Sys2Proof.Machine.execCtxsave st a s
  | .ctxrest st a => Sys2Proof.Machine.execCtxrest st a s
  | .brk st b => Sys2Proof.Machine.execBrk st b s
  | .tmark st a => Sys2Proof.Machine.execTmark st a s
  | .smpl st a => Sys2Proof.Machine.execSmpl st a s
  | .vectorCommit slot => Sys2Proof.Machine.execVectorCommit slot s
  | .variableLatencyResult slot => Sys2Proof.Machine.execVariableLatencyResult slot s
  | .rendezvousArrival slot lane => Sys2Proof.Machine.execRendezvousArrival slot lane s
  | .rendezvousComplete slot => Sys2Proof.Machine.execRendezvousComplete slot s
  | .trapEntry slot => Sys2Proof.Machine.execTrapEntry slot s
  | .windowReplay slot => Sys2Proof.Machine.execWindowReplay slot s
  | .laneMismatch slot lane => Sys2Proof.Machine.execLaneMismatch slot lane s
  | .lockstepMismatch slot => Sys2Proof.Machine.execLockstepMismatch slot s
  | .notifyRegisterWrite hwq => Sys2Proof.Machine.execNotifyRegisterWrite hwq s
  | .serveQueue queue => Sys2Proof.Machine.execServeQueue queue s
  | .spillReturn job => Sys2Proof.Machine.execSpillReturn job s
  | .mapRequest pa => Sys2Proof.Machine.execMapRequest pa s
  | .queueMap queue => Sys2Proof.Machine.execQueueMap queue s
  | .queueDestroy queue => Sys2Proof.Machine.execQueueDestroy queue s
  | .counterCreate appCore arg => Sys2Proof.Machine.execCounterCreate appCore arg s
  | .counterClose appCore arg => Sys2Proof.Machine.execCounterClose appCore arg s
  | .hostVptEntryWrite ctx entry value => Sys2Proof.Machine.execHostVptEntryWrite ctx entry value s
  | .hostHotnessClear ctx word => Sys2Proof.Machine.execHostHotnessClear ctx word s
  | .umanteDispatch => Sys2Proof.Machine.execUmanteDispatch s
  | .bind slot => Sys2Proof.Machine.execBind slot s
  | .bindResume slot => Sys2Proof.Machine.execBindResume slot s
  | .preempt slot => Sys2Proof.Machine.execPreempt slot s
  | .kill slot cause => Sys2Proof.Machine.execKill slot cause s
  | .unitLoadComplete slot => Sys2Proof.Machine.execUnitLoadComplete slot s
  | .preemptionLands slot => Sys2Proof.Machine.execPreemptionLands slot s
  | .saveComplete slot => Sys2Proof.Machine.execSaveComplete slot s
  | .unitRetire slot => Sys2Proof.Machine.execUnitRetire slot s
  | .launchCompletion index => Sys2Proof.Machine.execLaunchCompletion index s
  | .pageRequestAnswer request generation success => Sys2Proof.Machine.execPageRequestAnswer request generation success s
  | .partitionSwap job => Sys2Proof.Machine.execPartitionSwap job s
  | .computeDieReset die => Sys2Proof.Machine.execComputeDieReset die s
  | .recoveryRestore job agreedSeq => Sys2Proof.Machine.execRecoveryRestore job agreedSeq s
  | .remoteAckTimeout slot pkg addr => Sys2Proof.Machine.execRemoteAckTimeout slot pkg addr s
  | .spareSwitch spare => Sys2Proof.Machine.execSpareSwitch spare s
  | .linkRetrain port lane => Sys2Proof.Machine.execLinkRetrain port lane s
  | .thermalClockReduction => Sys2Proof.Machine.execThermalClockReduction s
  | .thermalShutdown => Sys2Proof.Machine.execThermalShutdown s
  | .powerOnBoot umante loader => Sys2Proof.Machine.execPowerOnBoot umante loader s
  | .itrusPartitionControl msg => Sys2Proof.Machine.execItrusPartitionControl msg s
  | .itrusDebug msg => Sys2Proof.Machine.execItrusDebug msg s
  | .itrusTrace msg => Sys2Proof.Machine.execItrusTrace msg s
  | .itrusAnnals msg => Sys2Proof.Machine.execItrusAnnals msg s
  | .itrusRecovery msg => Sys2Proof.Machine.execItrusRecovery msg s
  | .itrusFirmwareUpdate image => Sys2Proof.Machine.execItrusFirmwareUpdate image s
  | .itrusAttestation nonce => Sys2Proof.Machine.execItrusAttestation nonce s
  | .itrusPower msg => Sys2Proof.Machine.execItrusPower msg s
  | .remoteAccessArrival access => Sys2Proof.Machine.execRemoteAccessArrival access s
  | .remoteAcknowledgement slot => Sys2Proof.Machine.execRemoteAcknowledgement slot s
  | .persistencePointReached slot => Sys2Proof.Machine.execPersistencePointReached slot s
  | .powerLoss => Sys2Proof.Machine.execPowerLoss s
  | .baseDieFailure die => Sys2Proof.Machine.execBaseDieFailure die s
  | .queueUnmap queue => Sys2Proof.Machine.execQueueUnmap queue s
  | .itrusConnection msg => Sys2Proof.Machine.execItrusConnection msg s
  | .annalsObservation die celsius droopMv => Sys2Proof.Machine.execAnnalsObservation die celsius droopMv s

end Sys2Proof.Machine
end

