-- ==== Sys2Proof/Machine/Turn.lean ====
section
/-! DEFINITION. The turns of the machine: a slot's next instruction, an event, a sequencer's instruction; and the turn that is taken
when the current slot cannot run (log 4). -/

namespace Sys2Proof.Machine

/-- The turn of the current slot: its word is fetched and executed; with a window that holds entries, the oldest commits, or, where
its result is still open, goes on. -/
def runSlot (s : State) : Host.Outcome State Fault Refusal :=
  match s.work.s.thr.window with
  | f :: _ => if s.work.s.toRun f then exec f.instr s else .next (s.work.commitOldest.finish s)
  | [] =>
    match s.work.nextWord with
    | .error e => settle s none (.error e)
    | .ok (word, w) =>
      match decodeWord word with
      | .ok i => exec i (w.finish s)
      | .error _ => settle s none (.error (.trap w { cause := cILLEGAL, acc := 0, stval := memberVal 0 word }))

/-- The state in which a lane of a core errs in a row of its next checked tile operation (10 R261; log 54). -/
def State.upset (s : State) (core row : Nat) : State :=
  let c := s.toMach.core core
  { s with toMach := s.toMach.setCore core { c with upset := c.upset ++ [row] } }

/-- The state as slot n's turn finds it: a tie is noted where an instruction of the slot issues (01 R7). -/
def State.issuing (s : State) (n : Nat) : State := if (s.toMach.slot n).thr.window = [] then s.tied n else s

/-- A slot's turn: the slot that issues where slot n would becomes the current one; an instruction of it that stands in the middle
of its accesses ends, else it executes its next one, its remote accesses performed. -/
def slotTurn (n : Nat) (s : State) : Host.Outcome State Fault Refusal :=
  let k := s.work.granted n
  match (s.toMach.part k).half with
  | some h => endHalf h { s with cur := k }
  | none =>
    let s := s.settled k
    if !(s.toMach.slot k).issues then .next { s with cur := k }
    else runSlot { s.issuing k with cur := k }

/-- A slot's turn of another form, or its plain turn where it cannot take that one, or is not the slot that issues. -/
def otherTurn (n : Nat) (form : State → Option State) (s : State) : Host.Outcome State Fault Refusal :=
  if s.work.granted n ≠ n then slotTurn n s
  else match form { s.tied n with cur := n } with
    | some t => .next t
    | none => slotTurn n s

/-- The line at a place, a line of a copy's source perhaps, read for the copy ahead of its completion point, where no earlier copy still
owns it (11 R270, R271). Calendar mode fixes the order (16 R403). -/
def State.gather (s : State) (cluster ident loc : Nat) : State :=
  match (s.toMach.engine cluster).cmds.find? (fun c => c.ident = ident) with
  | none => s
  | some c =>
    let m := s.toMach
    let l := span (lineOf loc * 64) 64
    if !c.accepted || m.copyCalendar c || m.ownedBefore ident (lineOf loc) || m.poisoned loc then s else
    let m := (s.work.scrub loc).m
    let c1 : Copy := { c with early := c.early.filter (fun e => lineOf e.1 != lineOf loc) ++ l.map (fun i => (i, memGet s.mem i)) }
    let cmds := (m.engine cluster).cmds.map (fun x => if x.ident = ident then c1 else x)
    { s with toMach := { m with engines := tabSet m.engines cluster { cmds := cmds } } }

/-- A turn as it is taken where no job in Calendar mode fixes another. A slot that takes a turn becomes the current slot. -/
def plainTurn (t : Turn) (s : State) : Host.Outcome State Fault Refusal :=
  match t with
  | .slot n => slotTurn n s
  | .part n k => match tilePart n with
    | some core => .next (tilePartTurn core k s)
    | none => otherTurn n (fun s => partTurn k (s.settled n)) s
  | .loose n => otherTurn n looseTurn s
  | .sight n l => .next (s.sight n l)
  | .arrive n l => .next (s.arrive n l)
  | .late n => otherTurn n lateTurn s
  | .gather k i l => .next (s.gather k i l)
  | .ahead n => aheadTurn n s
  | .lane n k => if k < 16 then laneTurn n k s else .next s
  | .event i => exec i s
  | .host a x => event (hostAccess a x) s
  | .request conn number length i => match itrusClass i with
    | some cls => itrusRequest conn number length cls (exec i) s
    | none => .next s
  | .upset k r => .next (s.upset k r)
  | .matrixSequencer n => seqTurn false n s
  | .copySequencer n => seqTurn true n s

/-! ### What can happen by itself (log 4) -/

/-- A turn that may be due: a slot's, a sequencer's, or one of the events that need nothing from outside. -/
inductive Due where
  | slot (n : Nat)
  | sequencer (copy : Bool) (n : Nat)
  | copyAccept (cluster : Nat)
  | copyDone (cluster ident : Nat)
  | command (core : Nat)
  | tileOp (core : Nat)
  | bind (n : Nat)
  | preempt (n : Nat)
  | loaded (n : Nat)
  | lands (n : Nat)
  | saved (n : Nat)
  | acknowledged (n : Nat)
  | unanswered (n pkg : Nat) (addr : Word)
  | persisted (n : Nat)
  | retires (n : Nat)
  | completes (ix : Nat)
  | unspill (job : Nat)
  | dispatch
  | serve (queue : Nat)
  | map (queue : Nat)
  | expiry (line : Nat)
  | timeout (n : Nat)
  deriving DecidableEq, Repr

/-- A due turn taken as it stands: the meaning of its event. -/
def plainDue (d : Due) (s : State) : Host.Outcome State Fault Refusal :=
  match d with
  | .slot n => slotTurn n s
  | .sequencer copy n => seqTurn copy n s
  | .copyAccept k => execCopyEngineAccept k s
  | .copyDone k i => execCopyCompletion k i s
  | .command k => execMatrixCommandAccept k s
  | .tileOp k => event (finishTile k) s
  | .bind n => if (s.toMach.slot n).unit.resume then execBindResume n s else execBind n s
  | .preempt n => execPreempt n s
  | .loaded n => execUnitLoadComplete n s
  | .lands n => execPreemptionLands n s
  | .saved n => execSaveComplete n s
  | .acknowledged n => execRemoteAcknowledgement n s
  | .unanswered n pkg a => execRemoteAckTimeout n pkg a s
  | .persisted n => execPersistencePointReached n s
  | .retires n => execUnitRetire n s
  | .completes ix => execLaunchCompletion ix s
  | .unspill j => execSpillReturn j s
  | .dispatch => execUmanteDispatch s
  | .serve q => execServeQueue q s
  | .map q => execQueueMap q s
  | .expiry l => execLinkHoldExpiry l s
  | .timeout n => execWaitTimeout n s

/-- The events of a slot that may be due. -/
def slotEvents (n : Nat) (s : Slot) : List Due :=
  let u := s.unit
  (if u.st == .idle && u.cmd == 1 then [.bind n] else []) ++
  (if u.cmd == 2 then [.preempt n] else []) ++
  (if u.st == .load then [.loaded n] else []) ++
  (if u.mayLand then [.lands n] else []) ++
  (if u.st == .save then [.saved n] else []) ++
  (if u.remoteOut != 0 then [.acknowledged n] else []) ++
  (match u.waiting with | some (.lost pkg a) => [.unanswered n pkg a] | _ => []) ++
  (if u.notDurable != [] then [.persisted n] else []) ++
  (if u.st == .drain then [.retires n] else [])

/-- A list begun at its k-th element, with the elements before it at the end. -/
def rotate (k : Nat) (l : List Due) : List Due := l.drop (k % l.length) ++ l.take (k % l.length)

/-- The rounds of 32 instructions that the current slot has completed: they decide who goes first (log 4). -/
def State.round (s : State) : Nat := s.work.s.thr.iseq.toNat / 32

/-- The turns of engines, tile units, sequencers, Horizon's bindings and Umante's launches. -/
def quietTurns (s : State) : List Due :=
  let slots := s.slots.map (fun p => p.1)
  let running (copy : Bool) (n : Nat) : Bool := ((s.toMach.slot n).seq copy).st == .running
  (slots.filter (running false)).map (Due.sequencer false) ++ (slots.filter (running true)).map (Due.sequencer true) ++
  (s.engines.filter (fun e => e.2.cmds.any (fun c => !c.accepted && !c.cancelled))).map (fun e => .copyAccept e.1) ++
  s.engines.flatMap (fun e => e.2.cmds.map (fun c => .copyDone e.1 c.ident)) ++
  (s.cores.filter (fun c => c.2.tileOps != [])).map (fun c => .tileOp c.1) ++
  (s.cores.filter (fun c => c.2.queue != [])).map (fun c => .command c.1) ++
  s.slots.flatMap (fun p => slotEvents p.1 p.2) ++
  (s.sched.entries.filter (fun e => decide (2 ≤ e.2.status) && !e.2.written)).map (fun e => .completes e.1) ++
  (s.jobs.filter (fun j => s.sched.launches.any (fun l => l.spilled == some j.1))).map (fun j => .unspill j.1) ++
  [.dispatch]

/-- The turns of user queues: those with something to serve, and those that ask for a hardware queue. -/
def queueTurns (s : State) : List Due :=
  (s.sched.queues.filter (fun q => q.2.notified || q.2.failing.isSome)).map (fun q => .serve q.1) ++
  (s.sched.queues.filter (fun q => q.2.hwq.isNone && !q.2.dead && bitB (BitVec.ofNat 64 (s.work.num (hbmLoc q.2.pa + 8) 8)) 16)).map
    (fun q => .map q.1)

/-- The turns that need nothing but their own agent: slots, sequencers, engines and tile units, Horizon and Umante. -/
def workTurns (s : State) : List Due :=
  let slots := s.slots.map (fun p => p.1)
  let after := slots.filter (fun n => decide (s.cur < n)) ++ slots.filter (fun n => decide (n < s.cur))
  ((after ++ [s.cur]).filter (fun n => (s.toMach.slot n).issues)).map Due.slot ++ quietTurns s ++ queueTurns s

/-- What only time ends: link holds and waits with a limit. -/
def timeTurns (s : State) : List Due :=
  s.pkg.holds.map (fun h => .expiry h.1) ++
  ((s.slots.map (fun p => p.1)).filter (fun n => (s.toMach.slot n).unit.waiting == some .watch)).map Due.timeout

/-- The turns that may be due when the current slot does not go on, in the order in which they are tried. The order moves on
with every round, so that no turn that stays due is passed over for ever; what only time ends comes last, but in every
sixteenth round (log 4). -/
def dueTurns (s : State) : List Due :=
  if s.round % 16 = 15 then timeTurns s ++ rotate s.round (workTurns s) else rotate s.round (workTurns s) ++ timeTurns s

/-- The first turn in a list that changes anything, taken as `run` says, with its outcome; none where none does. -/
def firstChange (run : Due → State → Host.Outcome State Fault Refusal) (s : State) : List Due → Option (Due × Host.Outcome State Fault Refusal)
  | [] => none
  | t :: ts =>
    match run t s with
    | .next s' => if { s' with cur := s.cur } = s then firstChange run s ts else some (t, .next s')
    | o => some (t, o)

/-! ### Calendar mode (16 R402, R403) -/

/-- The job in Calendar mode to which a core belongs. -/
def Mach.calendarAt (m : Mach) (core : Nat) : Option Nat :=
  (m.jobs.find? (fun j => j.2.live && bitB j.2.calmode 0 && j.2.partition.any (fun n => coreOf n == core))).map (fun j => j.1)

/-- The job in Calendar mode to which a copy of an engine belongs. -/
def Mach.calendarEngine (m : Mach) (cluster : Nat) (p : Copy → Bool) : Option Nat :=
  ((m.engine cluster).cmds.find? (fun c => p c && m.copyCalendar c)).map (fun c => (m.context c.ctx).job)

/-- The job in Calendar mode to which a user queue belongs. -/
def Mach.calendarQueue (m : Mach) (q : Nat) : Option Nat :=
  (m.queue? q).bind (fun e => if bitB (m.job e.job).calmode 0 then some e.job else none)

/-- The slot for which a home holds a line. -/
def Mach.holder (m : Mach) (line : Nat) : Option Nat := (m.pkg.holds.find? (fun h => h.1 = line)).map (fun h => h.2)

/-- The job in Calendar mode whose order a due turn belongs to. -/
def Due.calendar (m : Mach) : Due → Option Nat
  | .slot n => m.calendarAt (coreOf n)
  | .sequencer _ n => m.calendarAt (coreOf n)
  | .copyAccept k => m.calendarEngine k (fun _ => true)
  | .copyDone k i => m.calendarEngine k (fun c => c.ident == i)
  | .command k => m.calendarAt k
  | .tileOp k => m.calendarAt k
  | .bind n => m.calendarAt (coreOf n)
  | .loaded n => m.calendarAt (coreOf n)
  | .retires n => m.calendarAt (coreOf n)
  | .completes ix => (m.jobs.find? (fun j => j.1 = (m.context (m.entry ix).ctx).job && bitB j.2.calmode 0)).map (fun j => j.1)
  | .unspill j => if bitB (m.job j).calmode 0 then some j else none
  | .preempt n => m.calendarAt (coreOf n)
  | .lands n => m.calendarAt (coreOf n)
  | .saved n => m.calendarAt (coreOf n)
  | .acknowledged n => m.calendarAt (coreOf n)
  | .unanswered n _ _ => m.calendarAt (coreOf n)
  | .persisted n => m.calendarAt (coreOf n)
  | .timeout n => m.calendarAt (coreOf n)
  | .serve q => m.calendarQueue q
  | .map q => m.calendarQueue q
  | .expiry l => (m.holder l).bind (fun n => m.calendarAt (coreOf n))
  | .dispatch => none

/-- What an event of the engines, tile units, bindings and launches is as a due turn; an event of a slot's instructions is a turn of
the slot. -/
def Due.ofEvent (m : Mach) : Instr → Option Due
  | .copyEngineAccept k => some (.copyAccept k)
  | .copyCompletion k i => some (.copyDone k i)
  | .matrixCommandAccept k => some (.command k)
  | .tileOpComplete k => some (.tileOp k)
  | .bind n => some (.bind n)
  | .bindResume n => some (.bind n)
  | .unitLoadComplete n => some (.loaded n)
  | .unitRetire n => some (.retires n)
  | .preempt n => some (.preempt n)
  | .preemptionLands n => some (.lands n)
  | .saveComplete n => some (.saved n)
  | .serveQueue q => some (.serve q)
  | .queueMap q => some (.map q)
  | .linkHoldExpiry l => some (.expiry l)
  | .waitTimeout n => some (.timeout n)
  | .launchCompletion ix => some (.completes ix)
  | .spillReturn j => some (.unspill j)
  | .vectorCommit n => some (.slot n)
  | .variableLatencyResult n => some (.slot n)
  | .rendezvousComplete n => some (.slot n)
  | .trapEntry n => some (.slot n)
  | .waitWake n => some (.slot n)
  | .barwaitRelease n => some (.slot n)
  | .watermarkSatisfied n => some (.slot n)
  | .umanteDispatch => (m.jobs.find? (fun j => j.2.live && bitB j.2.calmode 0)).map (fun j => .unspill j.1)
  | _ => none

/-- Whether a job waits for the answer to a page request. In Calendar mode the whole job does: what a unit that waits for a page has
still to do stands before what comes after it in the order (16 R403; log 57). -/
def Mach.awaitsPage (m : Mach) (job : Nat) : Bool := m.sched.requests.any (fun r => (m.context r.ctx).job == job)

/-- The identity of the agent whose due turn it is (16 R402): acceptance number, unit, instruction sequence. -/
def Due.identity (m : Mach) (d : Due) : List Nat :=
  let ofSlot (n : Nat) : List Nat := let s := m.slot n; [m.jseqOf s.unit.lid, s.unit.unit, s.thr.iseq.toNat]
  match d with
  | .sequencer _ n => ofSlot n
  | .loaded n => ofSlot n
  | .retires n => ofSlot n
  | .copyDone k i => (((m.engine k).cmds.find? (fun c => c.ident = i)).map m.copyKey).getD []
  | .command k => ofSlot ((m.core k).owner.getD 0)
  | .tileOp k => ofSlot ((m.core k).owner.getD 0)
  | _ => []

/-- Due turns in the order of their identities. -/
def byIdentity (m : Mach) (l : List Due) : List Due :=
  l.foldr (fun d acc => acc.takeWhile (fun e => decide (e.identity m < d.identity m)) ++ d ::
    acc.dropWhile (fun e => decide (e.identity m < d.identity m))) []

/-- The instructions that a slot's unit has committed: its logical stamp (16 R402, R403). -/
def Slot.committed (s : Slot) : Nat :=
  match s.thr.window with
  | f :: _ => f.iseq.toNat
  | [] => s.thr.iseq.toNat

/-- Slots by stamp, and of equal stamps by the number that `by_` gives the launch, then by unit (16 R402, R403; 12 R304). -/
def Mach.byStamp (m : Mach) (by_ : Nat → Nat) (l : List Nat) : List Nat :=
  let key (n : Nat) : List Nat := let s := m.slot n; [s.committed, by_ s.unit.lid, s.unit.unit]
  l.foldr (fun n acc => acc.takeWhile (fun k => decide (key k < key n)) ++ n :: acc.dropWhile (fun k => decide (key k < key n))) []

/-- Whether slot n's next instruction is an arrival at a barrier slot. -/
def State.arrives (s : State) (n : Nat) : Bool :=
  let isArrival (i : Instr) : Bool := match i with | .bararr _ _ _ _ => true | _ => false
  match (s.toMach.slot n).thr.window with
  | f :: _ => isArrival f.instr
  | [] => match s.work.nextInstr n with | some (i, _) => isArrival i | none => false

/-- A list whose elements for which p holds are replaced, in order, by those of another list. -/
def refill (p : Nat → Bool) : List Nat → List Nat → List Nat
  | [], _ => []
  | x :: xs, ys => if p x then (match ys with | y :: ys => y :: refill p xs ys | [] => x :: refill p xs []) else x :: refill p xs ys

/-- The slots that run a job's units, in the order in which they go in Calendar mode: by stamp, then by acceptance number and unit (16
R402, R403); slots that stand at arrivals with one stamp go among themselves by launch ID and unit (12 R304). A slot that waits has its
place too: it tries again where it stands. -/
def State.calendarSlots (s : State) (job : Nat) : List Nat :=
  let m := s.toMach
  let l := m.byStamp m.jseqOf ((m.slots.filter (fun p => p.2.issues && (m.context p.2.unit.ctx).job == job)).map (fun p => p.1))
  refill s.arrives l (m.byStamp (fun lid => lid) (l.filter s.arrives))

/-- What a job in Calendar mode does next, in the order in which it is tried: its engines, tile units, sequencers, bindings, pre-emptions
and launches, by identity; its queues by number; the holds of sequences that are not constrained any more; its slots; and the other
holds (16 R402, R403; log 57). -/
def State.calendarDues (s : State) (job : Nat) : List Due :=
  let m := s.toMach
  let open_ (h : Nat × Nat) : Bool := (m.slot h.2).thr.linkRun.isSome
  let holds := m.pkg.holds.filter (fun h => m.calendarAt (coreOf h.2) == some job)
  byIdentity m ((quietTurns s).filter (fun d => d.calendar m == some job || d == .dispatch)) ++
  (queueTurns s).filter (fun d => d.calendar m == some job) ++
  (holds.filter (fun h => !open_ h)).map (fun h => .expiry h.1) ++
  (s.calendarSlots job).map Due.slot ++ (holds.filter open_).map (fun h => .expiry h.1)

/-- The turn that is taken in the place of a turn of a job in Calendar mode: the first of what the job does next that changes anything,
where that is another one; with a page request open none at all (16 R402, R403; log 57). -/
def State.calendarGate (s : State) (d : Option Due) : Option (Host.Outcome State Fault Refusal) :=
  match d with
  | none => none
  | some d => (d.calendar s.toMach).bind (fun job =>
    if s.toMach.awaitsPage job then some (.next s)
    else (firstChange plainDue s (s.calendarDues job)).bind (fun p => if p.1 = d then none else some p.2))

/-- The due turn that a turn stands for. -/
def Turn.due (m : Mach) : Turn → Option Due
  | .slot n => some (.slot n)
  | .part n _ => some (match tilePart n with | some core => .tileOp core | none => .slot n)
  | .loose n => some (.slot n)
  | .late n => some (.slot n)
  | .ahead n => some (.slot n)
  | .lane n _ => some (.slot n)
  | .matrixSequencer n => some (.sequencer false n)
  | .copySequencer n => some (.sequencer true n)
  | .event i => Due.ofEvent m i
  | _ => none

/-- One turn: in Calendar mode the turn that comes before it. -/
def runTurn (t : Turn) (s : State) : Host.Outcome State Fault Refusal := (s.calendarGate (t.due s.toMach)).getD (plainTurn t s)

/-- A due turn taken. -/
def runDue (d : Due) (s : State) : Host.Outcome State Fault Refusal := (s.calendarGate (some d)).getD (plainDue d s)

/-- The outcome of the first due turn in a list that changes anything; the state as it is where none does. -/
def firstTurn (s : State) (l : List Due) : Host.Outcome State Fault Refusal := ((firstChange runDue s l).map (fun p => p.2)).getD (.next s)

/-- Whether the current slot goes on: it is ready, it is the one that issues (01 R7; 16 R402), no page request of its job in
Calendar mode holds it, and its round is not over (log 4). -/
def State.runs (s : State) : Bool :=
  s.work.readyAt s.cur && s.work.granted s.cur == s.cur && s.work.s.thr.iseq.toNat % 32 != 31 &&
  !(match (Due.slot s.cur).calendar s.toMach with | some j => s.toMach.awaitsPage j | none => false)

/-- A turn of the current slot where the agenda is empty. -/
def ownTurn (s : State) : Host.Outcome State Fault Refusal :=
  (s.calendarGate (some (.slot s.cur))).getD (runSlot (s.issuing s.cur))

/-- The slot, or tile unit, whose own instructions and accesses a turn concerns. -/
def Turn.owner : Turn → Option Nat
  | .slot n => some n
  | .part n _ => some n
  | .loose n => some n
  | .late n => some n
  | .sight n _ => some n
  | .arrive n _ => some n
  | _ => none

/-- The same turn with nothing left under way. -/
def Turn.whole : Turn → Turn
  | .part n k => match tilePart n with | some core => .event (.tileOpComplete core) | none => .slot n
  | .loose n => .slot n
  | .late n => .slot n
  | .sight n l => .arrive n l
  | t => t

/-- A turn taken off the agenda. -/
def takeTurn (t : Turn) (rest : List Turn) (s : State) : Host.Outcome State Fault Refusal :=
  match runTurn t s with
  | .next s' => .next { s' with agenda := rest }
  | o => o

/-- Whether what a slot or a tile unit has under way after a turn may stay so: it can still be settled, and a turn of another agent has
left the slot, or the operation, as it needs it. -/
def State.keeps (s s' : State) (t : Turn) (n : Nat) : Bool :=
  let p := s.toMach.part n
  let first (m : Mach) (core : Nat) : Option Accepted := (m.core core).tileOps.head?.map TileOp.accepted
  s'.canSettle n && (t.owner == some n ||
    ((p.half.isNone || s.toMach.sameMaps s'.toMach) &&
      (match tilePart n with
       | some core => first s.toMach core == first s'.toMach core
       | none => Slot.leaves p (s.toMach.slot n) (s'.toMach.slot n))))

/-- The turn that the agenda names. What threads have under way is settled first where the turn is the last one; what a turn would
disturb, or keep from being settled, is settled before it. -/
def agendaTurn (t : Turn) (rest : List Turn) (s : State) : Host.Outcome State Fault Refusal :=
  if rest = [] then (if s.parts ≠ [] then settleAll s else takeTurn t.whole rest s)
  else match takeTurn t rest s with
    | .next s' =>
      let bad := (s'.parts.map (fun p => p.1)).filter (fun n => !s.keeps s' t n)
      if bad = [] then .next s'
      else if s.parts.any (fun p => bad.contains p.1) then settleSlots (bad.filter (fun n => s.parts.any (fun p => p.1 == n))) s
      else takeTurn t.whole rest s
    | o => if s.parts ≠ [] then settleAll s else o

end Sys2Proof.Machine
end

