-- ==== Sys2Proof/Machine/Step.lean ====
section
/-! DEFINITION. One step of the machine, and the state in which the next step runs a given instruction word. -/

namespace Sys2Proof.Machine

/-- One step (log 4): the turn that the agenda names, else a turn of the current slot, else the first turn that is due. -/
def step (s : State) : Host.Outcome State Fault Refusal :=
  match s.agenda with
  | t :: rest => agendaTurn t rest s
  | [] => if s.runs then ownTurn s else firstTurn s (dueTurns s)

/-- Where the current slot fetches next, if its unit runs and its pc translates. -/
def State.fetchPlace (s : State) : Option Nat :=
  let w := s.work
  if s.agenda = [] ∧ w.s.issues ∧ w.s.thr.convoy = [] ∧ w.s.unit.waiting = none ∧ w.s.thr.window = [] then
    match scalarPlace w w.m.cur w.ctx.spt (w.s.regs.level == .supervisor) w.s.regs.pc 2 with
    | .ok (loc, _) => some loc
    | .error _ => none
  else none

/-- Slot 0 runs a unit in the state of 01 R17 with its pc at 0x1000, in context 0, whose page tables map the first GiB of
addresses to physical 0 for every access (log 3): what a bind leaves of an idle slot. -/
def State.withUnit (s : State) : State :=
  let slot := { Slot.reset with
    regs := { SlotRegs.reset with pc := 0x1000 }
    unit := { SlotUnit.reset with st := .run } }
  let w := { s.work with m := { s.toMach with agenda := [], cur := 0 } }
  let w := { w with m := w.m.setSlot 0 slot }
  let w := { w with m := w.m.setContext 0 { w.m.context 0 with resident := true, spt := 0x80000000 } }
  (((w.putNum (hbmLoc 0x80000000) 8 0x80001001).putNum (hbmLoc 0x80001000) 8 0xDF)).finish s

/-- The state with an instruction word where the next step fetches: bits above `nbits` are zero. -/
def State.withFetchWord (s : State) (nbits w : Nat) : State :=
  let word := w % 2 ^ nbits % 2 ^ 32
  match s.fetchPlace with
  | some loc => (s.work.putNum loc 4 word).finish s
  | none => ((s.withUnit).work.putNum (hbmLoc 0x1000) 4 word).finish s.withUnit

end Sys2Proof.Machine
end

