-- ==== Sys2Proof/Safety.lean ====
section
/-! DEFINITION. What counts as a safe run and what the claims say of an instruction: the invariants, when an instruction
word begins its meaning, what completion leaves, and what a step leaves as it was. -/

namespace Sys2Proof.Machine

/-- Memory has its canonical form (log 1). -/
def State.MemOk (s : State) : Prop := Memory.wf s.mem = true

/-- The word i may issue in s: the current slot may issue, nothing of it stands in the replay queue before the word (04 R88), the
checks 2, 3, 4 and 6 of 02 R42 pass, no x register that i names awaits a copy's token (03 R56), and the tile unit holds no operation
that i must follow (09 R217). -/
def MayIssue (i : Instr) (s : State) : Prop :=
  s.work.s.issues = true ∧ s.work.s.thr.window = [] ∧ s.work.checkTrap i = none ∧ s.work.blocked i = none

/-- The word i issues in s, and the strips of its stream-bound sources are read (06 R171). w is the work on which its meaning runs:
s with those strips, the thread to go on at the next word. -/
def Begins (i : Instr) (s : State) (w : Work) : Prop :=
  MayIssue i s ∧ ∃ w1, s.work.sources i = .ok w1 ∧ w = { w1 with npc := s.work.s.regs.pc + 4 }

/-- The state in which the word i, issued in s, has completed with the effects w: what every completed instruction adds is
its distance to the windows, `vstart`, the tokens it read, the instruction sequence and the pc (02 R30; 03 R84; 11 R284;
16 R402). -/
def completed (i : Instr) (s : State) (w : Work) : State := (w.retire i s.work.s).finish s

/-- Nothing but the current slot differs: no byte of memory, no other slot, core, vault, engine, context or table. -/
def OnlySlot (s t : State) : Prop :=
  t.mem = s.mem ∧ { t.toMach with slots := s.slots } = s.toMach ∧ ∀ n, n ≠ s.cur → t.toMach.slot n = s.toMach.slot n

/-- Every x register but the one that the field d names is as it was, in both banks (15 R359). -/
def SameXBut (d : Nat) (s t : Slot) : Prop :=
  ∀ bank n, ¬(n = d ∧ bank = inBank s.regs.level d) → t.regs.getX bank n = s.regs.getX bank n

/-- Every v register but those of a list is as it was. -/
def SameVBut (ds : List Nat) (s t : Slot) : Prop := ∀ n, n ∉ ds → t.regs.getV n = s.regs.getV n

/-- Every mask and scale register is as it was. -/
def SameMasks (s t : Slot) : Prop :=
  (∀ n, t.regs.getM n = s.regs.getM n) ∧ ∀ n, t.regs.getK n = s.regs.getK n

/-- The level, the Supervisor registers, the bindings, the links, the fibre definition and the sequencers are as they
were. -/
def SameSystem (s t : Slot) : Prop :=
  t.regs.level = s.regs.level ∧ t.sup = s.sup ∧ t.thr.binds = s.thr.binds ∧ t.thr.link = s.thr.link ∧
  t.thr.elinks = s.thr.elinks ∧ t.thr.fibre = s.thr.fibre ∧ t.mseq = s.mseq ∧ t.cseq = s.cseq

/-- A scalar read of `size` bytes at an address passes the checks of 03 R68: the address is a multiple of the size, it
translates to the place loc with the effects w1 of the walk (15 R374 sets A), no copy owns the line, its package is
reachable, and the line holds no uncorrectable error. -/
def ScalarReads (w : Work) (a : Word) (size loc : Nat) (w1 : Work) : Prop :=
  a.toNat % size = 0 ∧
  scalarPlace w w.m.cur w.ctx.spt (w.s.regs.level == .supervisor) a 0 = .ok (loc, w1) ∧
  readable w1.m [loc] = .ok () ∧ w1.m.poisoned loc = false

/-- What a scalar read of `size` bytes at a place leaves: a line with one good copy scrubbed (13 R314), a remote access counted (12
R299). -/
def Work.readAt (w : Work) (loc size : Nat) : Work := ((span loc size).foldl (fun w x => w.scrub x) w).countRemote [loc]

/-- A scalar write of `size` bytes at an address passes the checks of 03 R68, and no other slot's linked read holds a line of
it back (03 R72). -/
def ScalarWrites (w : Work) (a : Word) (size loc : Nat) (w1 : Work) : Prop :=
  a.toNat % size = 0 ∧
  scalarPlace w w.m.cur w.ctx.spt (w.s.regs.level == .supervisor) a 1 = .ok (loc, w1) ∧
  writable w1.m w1.m.cur (span loc size) = .ok ()

/-- The number of zero bits of a word above its highest one bit is n. -/
def LeadingZeros (x : Word) (n : Nat) : Prop :=
  n ≤ 64 ∧ (∀ k, 64 - n ≤ k → k < 64 → x.getLsbD k = false) ∧ (n < 64 → x.getLsbD (63 - n) = true)

/-- The number of zero bits of a word below its lowest one bit is n. -/
def TrailingZeros (x : Word) (n : Nat) : Prop :=
  n ≤ 64 ∧ (∀ k, k < n → x.getLsbD k = false) ∧ (n < 64 → x.getLsbD n = true)

/-- What a vector load of the elements `l`, all of which passed their checks, leaves: `put` writes them from the bits that their
accesses read; scrubbing (13 R314), the page counters (06 R172), remote accesses (12 R299) and the fibre ways (08 R209)
follow. -/
def Work.loadedElems (w : Work) (cls : Nat) (put : Work → List (Nat × List Nat) → Work) (l : List (Nat × List Req)) : Work :=
  (((put ((planLocs l).foldl (fun w x => w.scrub x) w) (l.map (fun p => (p.1, p.2.map w.reqBits)))).countHot cls l).countRemote
    (planLocs l)).touchFibre (planLocs l)

/-- A vector load of the active elements succeeds as a whole: each element's accesses, which `plan` gives after its checks, are
`l`; no copy owns a line of them, and none holds an uncorrectable error (06 R153, R156). -/
def ElemsRead (w : Work) (plan : Nat → Except EFault (List Req)) (l : List (Nat × List Req)) : Prop :=
  planAll plan w.active = (l, none) ∧ readable w.m (planLocs l) = .ok () ∧ firstPoison w.m l = none

/-- A vector store of the active elements succeeds as a whole: the same, for writing (06 R153, R157). -/
def ElemsWritten (w : Work) (plan : Nat → Except EFault (List Req)) (l : List (Nat × List Req)) : Prop :=
  planAll plan w.active = (l, none) ∧ writable w.m w.m.cur (planLocs l) = .ok ()

/-- One write of the running slot done at once: its bytes, what they leave, and the strip signature (16 R404). -/
def Work.stored (w : Work) (a : Word) (locs : List Nat) (data : List Byte) : Work := (w.storeBytes a locs data).feedWrite a data

/-- The writes of a vector store in element order: access j of element e takes the j-th result of `bits e`, whose flags are
ORed into `fflags` (06 R157). -/
def Work.storeElems (w : Work) (bits : Nat → List FRes) (l : List (Nat × List Req)) : Work :=
  l.foldl (fun w p => (p.2.zip (bits p.1)).foldl (fun w r => (w.stored r.1.a r.1.locs (leBytes r.1.locs.length r.2.1)).orFlags r.2.2) w) w

/-- The progress word of a notify store after n elements: its count, read and stored at once (06 R168). -/
def Work.progressed (w : Work) (p : Option (List Nat)) (n : Nat) : Work :=
  match p with
  | none => w
  | some locs => w.storeBytes (keepBits w.s.ctl.vprog 3 54) locs (leBytes 8 (leNat (locs.map w.byte) + n))

/-- The reads of a gather-linked in element order: good copies written back, and each element linked to the lines it read (08 R204). -/
def Work.linkedReads (w : Work) (l : List (Nat × List Req)) : Work :=
  l.foldl (fun w p => p.2.foldl (fun w r => (r.locs.foldl (fun w x => w.scrub x) w).linkElement p.1 r) w) w

/-- The elements of a scatter-conditional in order: what each reports, those that wrote, and what they leave (08 R206). -/
def Work.scattered (w : Work) (bits : Nat → Nat) : List (Nat × List Req) → List (Nat × Bool) × List (Nat × List Req) × Work
  | [] => ([], [], w)
  | (e, rs) :: t =>
    if w.elementLinked e rs then
      let out := ((rs.foldl (fun w r => (w.stored r.a r.locs (leBytes r.locs.length (bits e))).orFlags 0) w).breakElements
        (rs.flatMap Req.lines)).scattered bits t
      ((e, true) :: out.1, (e, rs) :: out.2.1, out.2.2)
    else
      let out := (w.mapThr (fun x => { x with elinks := tabDel x.elinks e })).scattered bits t
      ((e, false) :: out.1, out.2.1, out.2.2)

/-- The elements of a store that made an access. -/
def storedCount (l : List (Nat × List Req)) : Nat := (l.filter (fun p => p.2 ≠ [])).length

/-- What a product operation leaves whose rows are not checked (checksums off, or integers): every accumulator of tile register
t that the predicate enables holds its cell's result, and the flags of all of them are ORed (09 R226 to R229). -/
def Work.accumulated (w : Work) (t pr : Nat) (cell : Nat → Nat → Cell) : Work :=
  let all := (w.enabledRows pr).flatMap (fun r => (w.enabledCols pr).map (fun c => (r * 64 + c, cell r c)))
  ((w.setCore { w.core with unchk := min 0xFFFF w.core.unchk }).putAcc t (all.map (fun x => (x.1, x.2.res)))).orFlags
    (all.foldl (fun a x => a ||| x.2.flags) 0)

/-- The cell of an accumulator with products of element bits of the A type and the B type (09 R228, R229). -/
def Work.cellOf (w : Work) (src : TileSrc) (t bcode row col : Nat) (ps : List (Nat × Nat)) : Cell :=
  if src.fmt = 0 then intCell (w.acc t row col) (ps.map (fun p => (toSigned 8 p.1, toSigned 8 p.2)))
  else floatCell src.rm (w.acc t row col) (ps.map (fun p => (codeVal src.fmt p.1, codeVal bcode p.2)))

/-- The element bits of an A operand as they stand, A(row, j) at j x 64 + row, of k columns: a vector register's, or those of a
scratchpad block (09 R223, R224). -/
def Work.aNums (w : Work) (lsp col wide : Bool) (size k : Nat) (src : TileSrc) (a : Reg) : Array Nat :=
  (if lsp then (aBlock (coreOf w.m.cur) lsp col wide size k src).map (fun bs => leNat (bs.map (fun b => w.byte b.loc)))
   else (List.range (64 * k)).map (fun e => w.elemAt (8 * size) a.val e)).toArray

/-- What fetching the A operand leaves: lines of a scratchpad block with one good copy scrubbed (13 R314). -/
def Work.aRead (w : Work) (lsp col wide : Bool) (size k : Nat) (src : TileSrc) : Work :=
  (w.aBlockBytes lsp col wide size k src).foldl (fun w b => w.scrub b.loc) w

end Sys2Proof.Machine
end

