-- ==== Sys2Proof/Certificates/Slice0/Obligations.lean ====
section
/-! DEFINITION. The statements for the provers, from the numbered rules of the spec. A completion statement says of each word it
names that, once the word begins (`Begins`), `exec` answers the next state in which exactly the effects written there have
happened; an event's statement says the same without a beginning. -/

open Sys2Proof Sys2Proof.Machine

/-! ### Encoding (02 R24 to R29, R40) -/

/-- 02 R24, R26: decoding the word of any well-formed instruction word gives that instruction with every field. -/
def Obligations.DecodeOfEncode : Prop :=
  ∀ i : Instr, i.isWord = true → i.wf = true → decodeWord (encode i) = .ok i

/-- 02 R24, R26, R40: a 32-bit word that decodes is the word of exactly the instruction it decodes to, which is well formed: no
bit of it is ignored. -/
def Obligations.EncodeOfDecode : Prop :=
  ∀ (w : Nat) (i : Instr), w < 2 ^ 32 → decodeWord w = .ok i → i.isWord = true ∧ i.wf = true ∧ encode i = w

/-- Words written out bit by bit in the formats of 02 Table 2.1, Table 2.2, Table 2.6, and the words that 02 Table 2.21, 03
Table 3.2, Table 3.3, Table 3.5, Table 3.9, 04 Table 4.7 and 09 Table 9.5 print, decode to the instructions beside them. 02 R40:
a word with a reserved OP, or an assigned OP with a reserved function code, decodes to no instruction. -/
def Obligations.SampleWords : Prop :=
  (decodeWord 0b0000_0_000001_00011_00001_00010_000000 = .ok (.add 0 3 1 2) ∧
  decodeWord 0b0010_0_000010_00101_00110_11111111111 = .ok (.addi 2 5 6 0x7FF) ∧
  decodeWord 0b0000_0_000110_01010_1011111011101111 = .ok (.lih 0 10 0xBEEF) ∧
  decodeWord 0b0000_0_001111_00111_00000_00000_000100 = .error (.unassigned 0x0F) ∧
  decodeWord 0b0000_0_001111_00000_00000_00000_000100 = .ok (.nop 0) ∧
  ∀ p ∈ ([(0x01074C04, .ld32 0 7 9 4), (0x01A503FD, .bne 0 5 0 0x1FD), (0x04025020, .vld 0 false 2 10 true), (0x01E50008, .rdc 0 5 0),
      (0x01E70109, .wrc 0 7 4), (0x01E00004, .nop 0), (0xF1E00004, .nop 15),
      (0x002531C0, .add 0 5 6 7), (0x00253221, .slli 0 5 6 8 true), (0x004537FF, .addi 0 5 6 0x7FF), (0x00D0075A, .lih 0 16 0x075A),
      (0x01054FFF, .ld64 0 5 9 0x1FF), (0x01744800, .ldl 0 20 9), (0x01754D01, .stc 0 21 9 20),
      (0x01800005, .jal 0 5), (0x01E00800, .jalr 0 0 1), (0x01E04801, .wait 0 0 9),
      (0x01E700C9, .wrc 0 7 3), (0x01E80308, .rdc 0 8 12),
      (0x02030880, .vadd 0 false 3 1 2 false), (0x02030A60, .vadd 0 false 3 1 9 true), (0x02850880, .vsel 0 false 5 1 2 false),
      (0x02813002, .vbcast 0 false 1 6), (0x02480887, .vwmul 0 false 8 1 2 false), (0x03262142, .vmaddF 0 false 6 4 5 false),
      (0x03612142, .vcmpF 0 false 1 4 5 false 2), (0x03473001, .vrcpa 0 false 7 6), (0x034831C3, .vrcps 0 false 8 6 7),
      (0x03C30880, .mand 0 false 3 1 2), (0x03C23805, .mset 0 false 2 7), (0x03E51800, .mpopc 0 false 5 3), (0x03E21802, .viota 0 false 2 3),
      (0x05A00000, .ten 0), (0x05A00001, .tdis 0), (0x05A10002, .tzero 0 0 1), (0x05B10002, .tzero 0 2 1), (0x05C90880, .tmop 0 1 1 1 2),
      (0x05C108C0, .tmop 0 0 1 1 3), (0x05C22241, .tmma 0 0 2 4 9 false false), (0x05C25271, .tmma 0 0 2 10 9 true true),
      (0x06035000, .tld 0 3 10 false), (0x06035020, .tld 0 3 10 true), (0x06035801, .tst 0 3 11 false),
      (0x06222A40, .trowmv 0 2 5 9 false), (0x06222A50, .trowmv 0 2 5 9 true)] : List (Nat × Instr)), decodeWord p.1 = .ok p.2) ∧
  (decodeWord 0 = .error (.reservedOp 0) ∧
  (∀ op ∈ [0x00, 0x15, 0x16, 0x17, 0x24, 0x25, 0x29, 0x34, 0x35, 0x38, 0x3F], ∀ rest < 2 ^ 21, ∀ st < 2 ^ 5,
    decodeWord (st * 2 ^ 27 + op * 2 ^ 21 + rest) = .error (.reservedOp op)) ∧
  decodeWord (0x01 * 2 ^ 21 + 0x3F) = .error (.unassigned 0x01))

/-! ### Reset and memory -/

/-- 01 R17, R21; 03 Table 3.8 (the states of a slot that no unit has used; logs 1 and 2 name what the spec leaves open, such as
memory that reads 0): after reset every register reads 0, `vtype` is 0x075A, `vmsel` is all, `vstate` has VEN set and nothing
dirty, no slot runs a unit, no tile group is owned, no way belongs to the scratchpad. -/
def Obligations.ResetState : Prop :=
  ∀ slot : Nat, let s := State.reset.toMach.slot slot
    (∀ bank n, s.regs.getX bank n = 0) ∧ (∀ n, s.regs.getV n = 0) ∧ (∀ n, s.regs.getM n = 0) ∧ (∀ n, s.regs.getK n = 0) ∧
    s.unit.st = .idle ∧ s.issues = false ∧
    unitCsr State.reset.toMach slot 0x00 = 0 ∧ unitCsr State.reset.toMach slot 0x01 = 0x75A ∧
    unitCsr State.reset.toMach slot 0x02 = 0 ∧ unitCsr State.reset.toMach slot 0x04 = 8 ∧
    unitCsr State.reset.toMach slot 0x06 = 0 ∧ unitCsr State.reset.toMach slot 0x07 = 0 ∧
    unitCsr State.reset.toMach slot 0x08 = 1 ∧ unitCsr State.reset.toMach slot 0x09 = 0 ∧
    unitCsr State.reset.toMach slot 0x0A = 0 ∧
    (∀ core, (State.reset.toMach.core core).owner = none) ∧ (∀ vault, (State.reset.toMach.vault vault).waypart = 0) ∧
    (∀ loc, memGet State.reset.mem loc = 0)

/-- Memory has its canonical form right after reset (log 1). -/
def Obligations.ResetMemoryOk : Prop :=
  State.reset.MemOk

/-- Every step of the machine keeps the canonical form of memory, whatever it runs: equal memories stay equal data (log 1). -/
def Obligations.StepKeepsMemoryOk : Prop :=
  ∀ s t : State, s.MemOk → step s = .next t → t.MemOk

/-! ### Registers -/

/-- 01 R21; 03 R60; 15 R359: x0 reads zero and discards writes; every other write of X[n] is read back, at Supervisor level in
the bank of x24 to x31, and changes no other register of either bank. What a completed word leaves beside its own effects (02
R30; 03 R84): the pc moves to where its meaning sent the thread; every register, the level, the Supervisor registers and every
byte of memory are as its meaning left them; `vstart` is 0 after a vector or tile instruction and as the meaning left it after
any other; one instruction more is counted. -/
def Obligations.RegisterWrites : Prop :=
  (∀ (w : Work) (n : Nat) (v : Word),
    w.x 0 = 0 ∧ (w.setX 0 v).s.regs = w.s.regs ∧
    (n ≠ 0 → (w.setX n v).s.regs.getX (w.s.regs.level == .supervisor && decide (24 ≤ n)) n = v) ∧
    SameXBut n w.s (w.setX n v).s ∧ (w.setX n v).s.regs.level = w.s.regs.level ∧ (w.setX n v).s.regs.pc = w.s.regs.pc) ∧
  (∀ (i : Instr) (s : State) (w : Work), w.s.unit.st.runs = true → w.m.cur = s.cur → w.ws = [] → w.base = s.mem →
    let t := (completed i s w).toMach.slot s.cur
    t.regs = { w.s.regs with pc := w.npc } ∧ t.sup = w.s.sup ∧ (completed i s w).mem = s.mem ∧
    t.ctl.vstart = (if (infoOf s.work.s.ctl.fmt i).cls = .scalar ∧ (infoOf s.work.s.ctl.fmt i).tile = false ∧
      switchesTile i = false then w.s.ctl.vstart else 0) ∧
    t.thr.iseq = w.s.thr.iseq + 1 ∧ t.unit.waiting = none ∧
    ∀ n, n ≠ s.cur → (completed i s w).toMach.slot n = w.m.slot n)

/-! ### Steps, fetching and the checks of issue -/

/-- 02 R24, R42; 15 R371: with nothing on the agenda, a slot that runs, with an empty replay queue and in no convoy, and whose
fetch at the pc yields a word with C = 0 that decodes, executes that instruction; its next step is exec of it after the fetch.
The state notes first, where both slots of the core are ready, that this one issued (01 R7). Agenda, turns and rounds are the
model's own (log 4, DESIGN CHOICE), and so is the turn that a job in Calendar mode may set first (log 57); in any other job
there is none. 02 R36: the second and later words of a convoy execute the same way, from the words that the convoy's fetch
checked. 03 R58; 04 R94: where instructions of the slot stand in its replay queue, the step commits the oldest of them, if its
result is formed, it makes no access and the thread has gone on from it, and after it every entry behind it that all lanes have
completed; one whose result is still open, that has its accesses to make, or at which the thread still stands, goes on. That a
turn of the slot completes its oldest entry in all lanes is the model's own turn and replay queue (log 4 and log 6, DESIGN
CHOICE): R94 lets it commit when the last lane completes it. A job that is not in Calendar mode sets no turn before one of its
slots' (16 R402, R403). -/
def Obligations.StepRunsDecoded : Prop :=
  (∀ (s : State) (word : Nat) (w : Work) (i : Instr), s.agenda = [] → s.runs = true → s.calendarGate (some (.slot s.cur)) = none →
    s.work.s.thr.window = [] → s.work.s.thr.convoy = [] → (s.tied s.cur).work.fetch s.work.s.regs.pc = .ok (word, w) → wordC word = false →
    decodeWord word = .ok i → step s = exec i (w.finish (s.tied s.cur))) ∧
  (∀ (s : State) (word : Nat) (rest : List Nat) (i : Instr), s.agenda = [] → s.runs = true →
    s.calendarGate (some (.slot s.cur)) = none → s.work.s.thr.window = [] → s.work.s.thr.convoy = word :: rest → decodeWord word = .ok i → step s = exec i ((s.tied s.cur).work.finish (s.tied s.cur))) ∧
  (∀ (s : State) (f : InFlight) (fs : List InFlight), s.agenda = [] → s.runs = true → s.calendarGate (some (.slot s.cur)) = none →
    s.work.s.thr.window = f :: fs →
    (∀ r, f.result = some r → s.work.s.toRun f = false → step s = .next
      (((((s.work.putWindow ({ f with lanes := 0xFFFF } :: fs)).applyResult r).putWindow fs).commitDone fs.length).finish s)) ∧
    (s.work.s.toRun f = true → step s = exec f.instr s)) ∧
  (∀ (s : State) (n : Nat), s.toMach.calendarAt (coreOf n) = none → s.calendarGate (some (.slot n)) = none)

/-- 02 R24; 15 R371: the word fetched is the four bytes, least significant first, at the place to which the scalar page tables
translate the address for an instruction fetch (ACC 2). 02 R40, R42, R43: a fetched word with C = 0 that decodes to no
instruction takes ILLEGAL_INSTRUCTION, with `stval` the word. -/
def Obligations.IllegalWordTraps : Prop :=
  (∀ (w w2 : Work) (pc : Word) (word : Nat), w.fetch pc = .ok (word, w2) →
    ∃ loc w1, scalarPlace w w.m.cur w.ctx.spt (w.s.regs.level == .supervisor) pc 2 = .ok (loc, w1) ∧
      word = leNat [w1.byte loc, w1.byte (loc + 1), w1.byte (loc + 2), w1.byte (loc + 3)]) ∧
  (∀ (s : State) (word : Nat) (w : Work) (e : DecodeError), s.agenda = [] → s.runs = true →
    s.calendarGate (some (.slot s.cur)) = none → s.work.s.thr.window = [] → s.work.s.thr.convoy = [] → (s.tied s.cur).work.fetch s.work.s.regs.pc = .ok (word, w) → wordC word = false →
    word < 2 ^ 32 → decodeWord word = .error e →
    step s = settle (s.tied s.cur) none (.error (.trap w { cause := 0x01, acc := 0, stval := BitVec.ofNat 64 word })))

/-- 02 R41, R42, R43: outside a convoy the checks of a word that comes to issue come in this order, each with the trap of the
first that fails: ILLEGAL_INSTRUCTION, PRIVILEGED, VECTOR_DISABLED or TILE_DISABLED, STALL_SHORT. 02 R36, R38: a convoy of two
or more members, each of them legal, allowed and enabled, that breaks a limit of R36 raises CONVOY_CONFLICT, with the index of
the first member that breaks one and the lowest code of those that it breaks; no member executes. -/
def Obligations.CheckOrder : Prop :=
  (∀ (i : Instr) (s : State), i.isWord = true → s.work.s.issues = true → s.work.s.thr.window = [] →
    (s.agenda = [] ∨ ∀ st, i ≠ .send st) →
    let takes (t : Trap) : Prop := exec i s = settle s (some i) (.error (.trap s.work t))
    let word := memberVal 0 (encode i)
    (s.work.legal i = false → takes { cause := 0x01, acc := 0, stval := word }) ∧
    (s.work.legal i = true → s.work.s.regs.level = .user → supervisorOnly i = true →
      takes { cause := 0x02, acc := 0, stval := word }) ∧
    (s.work.legal i = true → s.work.allowed i = true →
      ((infoOf s.work.s.ctl.fmt i).vec = true → bitB s.work.s.ctl.vstate 0 = false →
        takes { cause := 0x05, acc := 0, stval := 0 }) ∧
      ((infoOf s.work.s.ctl.fmt i).vec = false ∨ bitB s.work.s.ctl.vstate 0 = true →
        (infoOf s.work.s.ctl.fmt i).tile = true → ∀ d, tileDetail s.toMach s.cur = some d →
        takes { cause := 0x06, acc := 0, stval := BitVec.ofNat 64 d }) ∧
      (s.work.enabledTrap i = none → ∀ pc, s.work.staleRead i = some pc →
        takes { cause := 0x03, acc := 0, stval := memberVal 0 (bitsN pc 0 57) }))) ∧
  (∀ (s : State) (w : Work) (words : List Nat) (code : List Instr) (m r : Nat), s.agenda = [] → s.runs = true →
    s.calendarGate (some (.slot s.cur)) = none → s.work.s.thr.window = [] → s.work.s.thr.convoy = [] →
    (s.tied s.cur).work.members s.work.s.regs.pc (2 ^ 55) = .ok (words, w) → 2 ≤ words.length →
    words.map decodeWord = code.map Except.ok →
    (∀ i ∈ code, w.legal i = true ∧ w.allowed i = true ∧ w.enabledTrap i = none) →
    let info (i : Instr) : Info := infoOf w.s.ctl.fmt i
    let arith (i : Instr) : Bool := (info i).cls == .va || (info i).cls == .va0
    let isCls (c : Cls) (i : Instr) : Bool := (info i).cls == c
    let upTo (k : Nat) (p : Instr → Bool) : Nat := (code.take (k + 1)).countP p
    let breaks (k c : Nat) : Prop := ∃ i, code[k]? = some i ∧
      ((c = 1 ∧ arith i = true ∧ upTo k arith = 3) ∨ (c = 2 ∧ isCls .ld i = true ∧ upTo k (isCls .ld) = 2) ∨
       (c = 3 ∧ isCls .st i = true ∧ upTo k (isCls .st) = 2) ∨ (c = 4 ∧ isCls .sf i = true ∧ upTo k (isCls .sf) = 2) ∨
       (c = 5 ∧ isCls .xl i = true ∧ ((info i).conv = true ∨ upTo k (isCls .xl) = 2)) ∨
       (c = 6 ∧ (isCls .none i = true ∨ (isCls .scalar i = true ∧ 0 < k))) ∨ (c = 7 ∧ k = 6) ∨
       (c = 8 ∧ (info i).conv = true ∧ (info i).st ≠ 0))
    breaks m r → (∀ k c, breaks k c → m < k ∨ (m = k ∧ r ≤ c)) →
    step s = settle (s.tied s.cur) none (.error (.trap w { cause := 0x04, acc := 0, stval := memberVal m r })))

/-! ### Traps (15 R365 to R367, R389) -/

/-- 15 R365: outside a handler, and with a handler, a trap sets SPP from the level and INTRAP := 1, `scause` from ACC and the
code, `stval`, `sepc` := the address of the instruction, clears the links, enters Supervisor level, and continues at
`stvec`.BASE, plus 64 x CODE where MODE is 1; no x, v, m or k register and no control register changes. -/
def Obligations.TrapEntry : Prop :=
  ∀ (s : State) (i : Option Instr) (w : Work) (t : Trap), w.s.sup.intrap = false →
    keepBits w.s.sup.stvec 6 51 ≠ 0 → w.ws = [] → w.m.cur = s.cur →
    ∃ s', settle s i (.error (.trap w t)) = .next s' ∧ s'.mem = s.mem ∧ s'.cur = s.cur ∧
      let b := w.s
      let a := s'.toMach.slot s.cur
      a.sup.spp = (b.regs.level == .supervisor) ∧ a.sup.intrap = true ∧
      a.sup.scause = BitVec.ofNat 64 (t.cause + 256 * t.acc) ∧ a.sup.stval = t.stval ∧
      a.sup.sepc = keepBits b.regs.pc 2 55 ∧ a.thr.link = none ∧ a.thr.elinks = [] ∧
      a.regs.level = .supervisor ∧
      a.regs.pc = keepBits b.sup.stvec 6 51 + (if bitB b.sup.stvec 0 then BitVec.ofNat 64 (64 * t.cause) else 0) ∧
      a.regs.x = b.regs.x ∧ a.regs.sx = b.regs.sx ∧ a.regs.v = b.regs.v ∧ a.regs.m = b.regs.m ∧ a.regs.k = b.regs.k ∧
      a.ctl = b.ctl ∧ a.sup.stvec = b.sup.stvec ∧ a.sup.sscratch = b.sup.sscratch ∧ a.sup.simg = b.sup.simg ∧
      ∀ n, n ≠ s.cur → s'.toMach.slot n = w.m.slot n

/-- 15 R366: a trap while INTRAP is 1 ends the unit as a KILL record does, with the second cause: whatever `stvec` holds, the
slot does not enter the handler again. A CANCELLED with detail 1 counts the unit as failed before (03 R79). 15 R367: without a
handler a missing page is requested and the unit suspended; TILE_DISABLED with detail 1 claims the tile group, where it is free,
and goes on at the instruction; with detail 3 the hardware restores the tile part from `simg`, and at VECTOR_DISABLED parts V, M
and K with VEN set after it, and goes on at the instruction, but for a missing page of the image, which is requested, and any
other fault, which ends the unit; CANCELLED retires the unit, with detail 1 as failed; REPLAY_DIVERGE ends the unit and cancels
its job (16 R405); every cause for which the rule names nothing else ends it. The tile operations that stood behind the
instruction stand before whatever follows (09 R217). -/
def Obligations.DoubleTrap : Prop :=
  (∀ (s : State) (i : Option Instr) (w : Work) (t : Trap), w.s.sup.intrap = true →
    let w1 := w.passTiles
    let w0 : Work := if t.cause = 0x19 ∧ t.stval = 1 then
      w1.failLaunch w.s.unit.lid (failureOf t.cause t.stval (keepBits w.s.regs.pc 0 57) w.s.unit.unit) else w1
    settle s i (.error (.trap w t)) = .next ((w0.endUnit t.cause t.stval).finish s)) ∧
  (∀ (s : State) (i : Option Instr) (v : Work) (t : Trap), v.s.sup.intrap = false → keepBits v.s.sup.stvec 6 51 = 0 →
    let taken := settle s i (.error (.trap v t))
    let w := v.passTiles
    let w0 : Work := w.failLaunch w.s.unit.lid (failureOf t.cause t.stval (keepBits w.s.regs.pc 0 57) w.s.unit.unit)
    ((t.cause = 0x08 ∨ t.cause = 0x09) → bitsN t.stval 57 7 = 0 →
      taken = .next ((w.requestPage (keepBits t.stval 0 57) t.cause t.acc).finish s)) ∧
    ((t.cause = 0x08 ∨ t.cause = 0x09) → bitsN t.stval 57 7 ≠ 0 → taken = .next ((w.endUnit t.cause t.stval).finish s)) ∧
    (t.cause = 0x06 → t.stval = 1 → ∀ w1, w.ten w.m.cur = some w1 → taken = .next (w1.resumeHere.finish s)) ∧
    (t.cause = 0x06 → t.stval = 2 → taken = .next ((w.endUnit t.cause t.stval).finish s)) ∧
    (∀ mask ven, (t.cause = 0x06 ∧ t.stval = 3 ∧ mask = 16 ∧ ven = false) ∨ (t.cause = 0x05 ∧ mask = 14 ∧ ven = true) →
      (∀ w1, w.restoreParts w.s.sup.simg mask = .ok w1 → taken = .next
        ((if ven then w1.mapCtl (fun c => { c with vstate := c.vstate ||| 1 }) else w1).resumeHere.finish s)) ∧
      (∀ w1 u, w.restoreParts w.s.sup.simg mask = .error (.trap w1 u) → u.cause = 0x08 → bitsN u.stval 57 7 = 0 →
        taken = .next ((w.requestPage (keepBits u.stval 0 57) 0x08 u.acc).finish s)) ∧
      (∀ w1 u, w.restoreParts w.s.sup.simg mask = .error (.trap w1 u) → u.cause ≠ 0x08 ∨ bitsN u.stval 57 7 ≠ 0 →
        taken = .next ((w.endUnit u.cause u.stval).finish s))) ∧
    (t.cause = 0x16 → taken = .next
      ({ w.endUnit t.cause t.stval with m := (w.endUnit t.cause t.stval).m.cancelJob w.ctx.job }.finish s)) ∧
    (t.cause = 0x19 → t.stval ≠ 1 → taken = .next (w.leave.finish s)) ∧
    (t.cause = 0x19 → t.stval = 1 → taken = .next (w0.leave.finish s)) ∧
    (t.cause ∈ [0x01, 0x02, 0x03, 0x04, 0x07, 0x0A, 0x0B, 0x0C, 0x0D, 0x0E, 0x0F, 0x10, 0x11, 0x12, 0x13, 0x14, 0x15, 0x17,
        0x18, 0x1A] → taken = .next ((w.endUnit t.cause t.stval).finish s)))

/-- 15 R389; 16 R397; 15 R365: with a handler and outside one, `trap` takes SVCALL with the code of B and `sepc` its address +
4, and `brk`, unless `dbgctl`.BH is set, takes BREAKPOINT with the code of B and `sepc` its own address. 15 R389: `eret` sets
the level from SPP, sets INTRAP := 0, clears the links and continues at `sepc`; the registers are as they were. -/
def Obligations.TrapsAndReturns : Prop :=
  (∀ (s : State) (w : Work) (st : Fin 16) (b : Reg), s.work.s.sup.intrap = false → keepBits s.work.s.sup.stvec 6 51 ≠ 0 →
    let entered (s' : State) (cause : Nat) (sepc : Word) : Prop :=
      s'.mem = s.mem ∧ s'.work.s.sup.scause = BitVec.ofNat 64 cause ∧ s'.work.s.sup.stval = BitVec.ofNat 64 b.val ∧
      s'.work.s.sup.sepc = keepBits sepc 2 55 ∧ s'.work.s.sup.intrap = true ∧
      s'.work.s.sup.spp = (s.work.s.regs.level == .supervisor) ∧ s'.work.s.regs.level = .supervisor ∧
      s'.work.s.regs.pc = keepBits s.work.s.sup.stvec 6 51 +
        (if bitB s.work.s.sup.stvec 0 then BitVec.ofNat 64 (64 * cause) else 0) ∧
      s'.work.s.regs.x = s.work.s.regs.x ∧ s'.work.s.regs.sx = s.work.s.regs.sx
    (Begins (.trap st b) s w → ∃ s', exec (.trap st b) s = .next s' ∧ entered s' 0x17 (s.work.s.regs.pc + 4)) ∧
    (Begins (.brk st b) s w → bitB s.work.s.sup.dbgctl 4 = false →
      ∃ s', exec (.brk st b) s = .next s' ∧ entered s' 0x14 s.work.s.regs.pc)) ∧
  (∀ (s : State) (w : Work) (st : Fin 16), Begins (.eret st) s w →
    ∃ s', exec (.eret st) s = .next s' ∧ s'.mem = s.mem ∧
      let b := s.work.s
      let a := s'.work.s
      a.regs.level = (if b.sup.spp then .supervisor else .user) ∧ a.sup.intrap = false ∧ a.regs.pc = b.sup.sepc ∧
      a.thr.link = none ∧ a.thr.elinks = [] ∧ a.regs.x = b.regs.x ∧ a.regs.sx = b.regs.sx ∧ a.regs.v = b.regs.v ∧
      a.regs.m = b.regs.m ∧ a.regs.k = b.regs.k ∧ a.sup.sepc = b.sup.sepc ∧ a.sup.scause = b.sup.scause ∧
      a.sup.stval = b.sup.stval ∧ a.sup.spp = b.sup.spp)

/-! ### Scalar integer instructions (03 R60 to R66) -/

/-- 03 R63, R64: `bins` replaces bits P to P + W - 1 of xd, cut at bit 63, with the low bits of xa and keeps every other bit;
`clz`, `ctz` and `popc` write the number of leading zeros, of trailing zeros and of ones. -/
def Obligations.BitFieldsAndCounts : Prop :=
  ∀ (s : State) (w : Work) (st : Fin 16) (d a b : Reg),
    let pos := (w.x b.val).toNat % 64
    let len := min ((w.x b.val).toNat / 64 % 64 + 1) (64 - pos)
    (Begins (.bins st d a b) s w → ∃ v : Word, exec (.bins st d a b) s = .next (completed (.bins st d a b) s (w.setX d.val v)) ∧
      ∀ k, k < 64 → v.getLsbD k =
        if pos ≤ k ∧ k < pos + len then (w.x a.val).getLsbD (k - pos) else (w.x d.val).getLsbD k) ∧
    (Begins (.clz st d a) s w → ∃ n, LeadingZeros (w.x a.val) n ∧
      exec (.clz st d a) s = .next (completed (.clz st d a) s (w.setX d.val (BitVec.ofNat 64 n)))) ∧
    (Begins (.ctz st d a) s w → ∃ n, TrailingZeros (w.x a.val) n ∧
      exec (.ctz st d a) s = .next (completed (.ctz st d a) s (w.setX d.val (BitVec.ofNat 64 n)))) ∧
    (Begins (.popc st d a) s w → exec (.popc st d a) s = .next (completed (.popc st d a) s
      (w.setX d.val (BitVec.ofNat 64 ((List.range 64).countP (fun k => (w.x a.val).getLsbD k))))))

/-- 03 R60 to R64, Table 3.1: the register forms write X[D] with the result of A = X[A] and B = X[B], modulo 2^64, and nothing
else; division as the pseudocode of R62 has it, with its corners. 03 R65, R66: the immediate forms, with IMM11 sign-extended,
IMM16 of `lih` zero-extended and that of `adpc` sign-extended and added, times 4, to the address of the instruction; the shift
amount is F[0] above B. -/
def Obligations.ScalarIntegerForms : Prop :=
  (∀ (s : State) (w : Work) (st : Fin 16) (d a b : Reg),
    let x := w.x a.val
    let y := w.x b.val
    let sh := y.toNat % 64
    let pos := y.toNat % 64
    let len := min (y.toNat / 64 % 64 + 1) (64 - pos)
    ∀ p ∈ ([(.add st d a b, x + y), (.sub st d a b, x - y), (.and st d a b, x &&& y), (.or st d a b, x ||| y),
        (.xor st d a b, x ^^^ y), (.sll st d a b, x <<< sh), (.srl st d a b, x >>> sh), (.sra st d a b, x.sshiftRight sh),
        (.slt st d a b, if x.toInt < y.toInt then 1 else 0), (.sltn st d a b, if x.toNat < y.toNat then 1 else 0),
        (.min st d a b, if y.toInt < x.toInt then y else x), (.max st d a b, if x.toInt < y.toInt then y else x),
        (.minn st d a b, if y.toNat < x.toNat then y else x), (.maxn st d a b, if x.toNat < y.toNat then y else x),
        (.mul st d a b, x * y), (.mulh st d a b, BitVec.ofInt 64 (x.toInt * y.toInt / 2 ^ 64)),
        (.mulhn st d a b, BitVec.ofNat 64 (x.toNat * y.toNat / 2 ^ 64)),
        (.div st d a b, if y = 0 then BitVec.allOnes 64 else BitVec.ofInt 64 (x.toInt.tdiv y.toInt)),
        (.divn st d a b, if y = 0 then BitVec.allOnes 64 else BitVec.ofNat 64 (x.toNat / y.toNat)),
        (.rem st d a b, if y = 0 then x else BitVec.ofInt 64 (x.toInt.tmod y.toInt)),
        (.remn st d a b, if y = 0 then x else BitVec.ofNat 64 (x.toNat % y.toNat)),
        (.bext st d a b, BitVec.ofNat 64 (x.toNat / 2 ^ pos % 2 ^ len))] : List (Instr × Word)),
      Begins p.1 s w → exec p.1 s = .next (completed p.1 s (w.setX d.val p.2))) ∧
  (∀ (s : State) (w : Work) (st : Fin 16) (d a : Reg) (imm : BitVec 11) (imm16 : BitVec 16) (n : Fin 32) (h : Bool),
    let x := w.x a.val
    let i := imm.signExtend 64
    let sh := (if h then 32 else 0) + n.val
    ∀ p ∈ ([(.addi st d a imm, x + i), (.andi st d a imm, x &&& i), (.ori st d a imm, x ||| i), (.xori st d a imm, x ^^^ i),
        (.slli st d a n h, x <<< sh), (.srli st d a n h, x >>> sh), (.srai st d a n h, x.sshiftRight sh),
        (.lih st d imm16, (w.x d.val <<< 16) ||| imm16.setWidth 64),
        (.adpc st d imm16, s.work.s.regs.pc + 4 * imm16.signExtend 64)] : List (Instr × Word)),
      Begins p.1 s w → exec p.1 s = .next (completed p.1 s (w.setX d.val p.2)))

/-! ### Scalar memory (03 R67 to R72) -/

/-- 03 R67, R68: a scalar load from X[A] + OFF9 x size, where the address is aligned, translates and is readable, writes the
bytes there to X[D], least significant first, sign-extended or, in the `.n` forms, zero-extended. -/
def Obligations.ScalarLoads : Prop :=
  ∀ (s : State) (w w1 : Work) (st : Fin 16) (d a : Reg) (off : BitVec 9) (loc : Nat),
    ∀ p ∈ ([(.ld8 st d a off, 1, true), (.ld16 st d a off, 2, true), (.ld32 st d a off, 4, true), (.ld64 st d a off, 8, true),
        (.ld8N st d a off, 1, false), (.ld16N st d a off, 2, false), (.ld32N st d a off, 4, false)] :
        List (Instr × Nat × Bool)),
      Begins p.1 s w → ScalarReads w (w.x a.val + off.signExtend 64 * BitVec.ofNat 64 p.2.1) p.2.1 loc w1 →
      let v := leNat (w1.bytes loc p.2.1)
      let ext : Word := if p.2.2 then (BitVec.ofNat (8 * p.2.1) v).signExtend 64 else BitVec.ofNat 64 v
      exec p.1 s = .next (completed p.1 s ((w1.readAt loc p.2.1).setX d.val ext))

/-- 03 R60, Table 3.1: what a scalar integer instruction leaves as it was: all but X[D] and the pc, which moves to the next
word. No flag, no control register, no byte of memory, nothing outside the slot. 03 R68; 15 R372, R373: the walk of a scalar
access changes no byte but the low one of the entries of the leaf's group, the leaf alone where CT is 0, in which it sets A, or
for a write A and D, where the leaf has not both; one in the local region changes nothing. Of the machine it changes the notes
of Almanac writes and of Almanac lines with one bad copy alone (13 R314, R316). -/
def Obligations.ScalarFrame : Prop :=
  (∀ (s : State) (w : Work) (st : Fin 16) (d a b : Reg) (imm : BitVec 11) (imm16 : BitVec 16) (n : Fin 32) (h : Bool),
    ∀ i ∈ ([.add st d a b, .sub st d a b, .and st d a b, .or st d a b, .xor st d a b, .sll st d a b, .srl st d a b,
        .sra st d a b, .slt st d a b, .sltn st d a b, .min st d a b, .max st d a b, .minn st d a b, .maxn st d a b,
        .mul st d a b, .mulh st d a b, .mulhn st d a b, .div st d a b, .divn st d a b, .rem st d a b, .remn st d a b,
        .bext st d a b, .bins st d a b, .clz st d a, .ctz st d a, .popc st d a, .slli st d a n h, .srli st d a n h,
        .srai st d a n h, .addi st d a imm, .andi st d a imm, .ori st d a imm, .xori st d a imm, .lih st d imm16,
        .adpc st d imm16] : List Instr),
      Begins i s w → ∃ t, exec i s = .next t ∧ OnlySlot s t ∧ SameXBut d.val s.work.s t.work.s ∧
        SameVBut [] s.work.s t.work.s ∧ SameMasks s.work.s t.work.s ∧ SameSystem s.work.s t.work.s ∧
        t.work.s.ctl = s.work.s.ctl ∧ t.work.s.regs.pc = s.work.s.regs.pc + 4) ∧
  (∀ (w w1 : Work) (n : Nat) (spt : Word) (sup : Bool) (a : Word) (acc loc : Nat),
    scalarPlace w n spt sup a acc = .ok (loc, w1) →
    (inLocal a.toNat = true → w1 = w) ∧ w1.base = w.base ∧ w1.npc = w.npc ∧
    w1.m = { w.m with
      pkg := { w.m.pkg with poison := w1.m.pkg.poison, unsettled := w1.m.pkg.unsettled, nextWrite := w1.m.pkg.nextWrite }
      mgmt := { w.m.mgmt with annals := w1.m.mgmt.annals } } ∧
    (inLocal a.toNat = false → ∃ l, walkFrom w n a.toNat (if bitB spt 0 then 4 else 3) (bitsN spt 12 40 * 4096) = .ok l ∧
      let bits : Byte := if acc = 1 then 0xC0 else 0x40
      let size := groupSize l
      let first := l.at_ - 8 * (a.toNat / 2 ^ (12 + 9 * l.level) % 512 % size)
      let set (x : Nat) : Prop := l.entry &&& bits.toNat ≠ bits.toNat ∧ ∃ k, k < size ∧ x = hbmLoc (first + 8 * k)
      ∀ x, (set x → w1.byte x = w.byte x ||| bits) ∧ (¬set x → w1.byte x = w.byte x)))

/-- 03 R67, R68: a scalar store to X[A] + OFF9 x size, where the address is aligned, translates and may be written, writes the
low bytes of X[D] there, least significant first: every byte of the access holds its byte of X[D], and every other byte is as
the walk of the page tables left it. 03 R68: a misaligned scalar access raises MISALIGNED with `stval` := address, and nothing
of it has happened. -/
def Obligations.ScalarStores : Prop :=
  (∀ (s : State) (w w1 : Work) (st : Fin 16) (d a : Reg) (off : BitVec 9) (loc : Nat), s.MemOk →
    ∀ p ∈ ([(.st8 st d a off, 1), (.st16 st d a off, 2), (.st32 st d a off, 4), (.st64 st d a off, 8)] : List (Instr × Nat)),
      Begins p.1 s w → ScalarWrites w (w.x a.val + off.signExtend 64 * BitVec.ofNat 64 p.2) p.2 loc w1 →
      ∃ t, exec p.1 s = .next t ∧
        (∀ k, k < p.2 → memGet t.mem (loc + k) = BitVec.ofNat 8 ((w.x d.val).toNat / 256 ^ k)) ∧
        (∀ x, x < loc ∨ loc + p.2 ≤ x → memGet t.mem x = w1.byte x) ∧
        (∀ bank n, t.work.s.regs.getX bank n = s.work.s.regs.getX bank n) ∧ SameVBut [] s.work.s t.work.s ∧
        SameMasks s.work.s t.work.s ∧ t.work.s.sup = s.work.s.sup ∧ t.work.s.ctl = s.work.s.ctl ∧
        t.work.s.regs.pc = s.work.s.regs.pc + 4) ∧
  (∀ (s : State) (w : Work) (st : Fin 16) (d a b : Reg) (off : BitVec 9),
    ∀ p ∈ ([(.ld16 st d a off, off, 2, 0), (.ld32 st d a off, off, 4, 0), (.ld64 st d a off, off, 8, 0),
        (.ld16N st d a off, off, 2, 0), (.ld32N st d a off, off, 4, 0), (.st16 st d a off, off, 2, 1),
        (.st32 st d a off, off, 4, 1), (.st64 st d a off, off, 8, 1), (.ldl st d a, 0, 8, 0), (.stc st d a b, 0, 8, 1)] :
        List (Instr × BitVec 9 × Nat × Nat)),
      let addr := w.x a.val + p.2.1.signExtend 64 * BitVec.ofNat 64 p.2.2.1
      Begins p.1 s w → addr.toNat % p.2.2.1 ≠ 0 →
      exec p.1 s = settle s (some p.1) (.error (.trap w { cause := 0x07, acc := p.2.2.2, stval := addr })))

/-- 03 R70 to R72; 17 R416: `ldl` loads 64 bits and sets the link to its address and line, once the home holds the line for no
other slot's sequence (that a linked read waits there is log 10, DEDUCED: R72 holds back other agents' writes); `stc` with an
intact link to its address stores X[B], writes 0 to X[D] and clears the link; with any other link it stores nothing, writes 1
and clears the link; at a remote address it raises ACCESS_VIOLATION, detail 14. The access's own walk comes before it (15 R373):
what it writes does not break the link that `ldl` sets, and breaks the one that `stc` tests. -/
def Obligations.LinkedPair : Prop :=
  ∀ (s : State) (w w1 : Work) (st : Fin 16) (d a b : Reg) (loc : Nat),
    (Begins (.ldl st d a) s w → ScalarReads w (w.x a.val) 8 loc w1 → (w1.readAt loc 8).spend.unheld [loc / 64] = .ok () →
      exec (.ldl st d a) s = .next (completed (.ldl st d a) s
        ((((w1.readAt loc 8).spend.dropHolds.addHold (loc / 64)).mapThr (fun t =>
          { t with link := some { addr := w.x a.val, line := loc / 64, intact := true } })).setX d.val
            (BitVec.ofNat 64 (leNat (w1.bytes loc 8)))))) ∧
    (Begins (.ldl st d a) s w → ScalarReads w (w.x a.val) 8 loc w1 → (w1.readAt loc 8).spend.unheld [loc / 64] ≠ .ok () →
      exec (.ldl st d a) s = .next (s.await .heldLine (some (.ldl st d a)))) ∧
    (Begins (.stc st d a b) s w → (w.x a.val).toNat % 8 = 0 →
      scalarPlace w w.m.cur w.ctx.spt (w.s.regs.level == .supervisor) (w.x a.val) 1 = .ok (loc, w1) → isRemote loc = true →
      exec (.stc st d a b) s = settle s (some (.stc st d a b))
        (.error (.trap w { cause := 0x0A, acc := 1, stval := detailAddr 14 (w.x a.val) }))) ∧
    (Begins (.stc st d a b) s w → ScalarWrites w (w.x a.val) 8 loc w1 → isRemote loc = false →
      w1.spend.s.linkedTo (w.x a.val) = true →
      exec (.stc st d a b) s = .next (completed (.stc st d a b) s
        (((w1.spend.stored (w.x a.val) (span loc 8) (leBytes 8 (w.x b.val).toNat)).dropHolds.mapThr (fun t =>
          { t with link := none })).setX d.val 0))) ∧
    (Begins (.stc st d a b) s w → (w.x a.val).toNat % 8 = 0 →
      scalarPlace w w.m.cur w.ctx.spt (w.s.regs.level == .supervisor) (w.x a.val) 1 = .ok (loc, w1) → isRemote loc = false →
      w1.spend.s.linkedTo (w.x a.val) = false →
      exec (.stc st d a b) s = .next (completed (.stc st d a b) s
        ((w1.spend.dropHolds.mapThr (fun t => { t with link := none })).setX d.val 1)))

/-! ### Control flow and vector type (03 R74 to R86) -/

/-- 03 R74: a conditional branch sets the pc to its address + 4 x OFF9 where its condition holds and goes on at the next
instruction otherwise; it changes no register and no byte of memory. -/
def Obligations.Branches : Prop :=
  ∀ (s : State) (w : Work) (st : Fin 16) (d a : Reg) (off : BitVec 9),
    let x := w.x d.val
    let y := w.x a.val
    ∀ p ∈ ([(.beq st d a off, x = y), (.bne st d a off, x ≠ y), (.blt st d a off, x.toInt < y.toInt),
        (.bge st d a off, y.toInt ≤ x.toInt), (.bltn st d a off, x.toNat < y.toNat), (.bgen st d a off, y.toNat ≤ x.toNat)] :
        List (Instr × Prop)),
      Begins p.1 s w → ∃ t, exec p.1 s = .next t ∧
        (p.2 → t.work.s.regs.pc = s.work.s.regs.pc + 4 * off.signExtend 64) ∧
        (¬p.2 → t.work.s.regs.pc = s.work.s.regs.pc + 4) ∧
        OnlySlot s t ∧ (∀ bank n, t.work.s.regs.getX bank n = s.work.s.regs.getX bank n) ∧ SameVBut [] s.work.s t.work.s ∧
        SameMasks s.work.s t.work.s ∧ SameSystem s.work.s t.work.s ∧ t.work.s.ctl = s.work.s.ctl

/-- 03 R75: `jal` writes its address + 4 to x1 and jumps by 4 x OFF21; `jalr` writes it to X[D] and jumps to the address in xa,
which was read before the write; where that is no multiple of 4 it raises MISALIGNED; `nop` has no effect. -/
def Obligations.Jumps : Prop :=
  ∀ (s : State) (w : Work) (st : Fin 16) (d a : Reg) (off : BitVec 21),
    let pc := s.work.s.regs.pc
    (Begins (.jal st off) s w → exec (.jal st off) s = .next (completed (.jal st off) s
      { w.setX 1 (pc + 4) with npc := pc + 4 * off.signExtend 64 })) ∧
    (Begins (.jalr st d a) s w → (w.x a.val).toNat % 4 = 0 → exec (.jalr st d a) s = .next (completed (.jalr st d a) s
      { w.setX d.val (pc + 4) with npc := w.x a.val })) ∧
    (Begins (.jalr st d a) s w → (w.x a.val).toNat % 4 ≠ 0 → exec (.jalr st d a) s =
      settle s (some (.jalr st d a)) (.error (.trap w { cause := 0x07, acc := 0, stval := w.x a.val }))) ∧
    (Begins (.nop st) s w → exec (.nop st) s = .next (completed (.nop st) s w))

/-- 03 R78, R83; 16 R404, R405: `setvl` completes, whatever its registers hold, in a launch that is not cancelled. Of 0 it sets
`vl` and X[D] to 0 and is no strip boundary. Of any other length, where no pre-emption waits at the boundary, no debug stop
falls there, every watermark of the unit has its producer completed successfully or needs nothing, and neither strip records nor
Calendar recording or comparison is on, it grants at most VLMAX: `vl` and X[D] := the grant, `vstart` := 0, `vcursor` grows by
the grant and `vstripno` by 1, and the strip signature begins again where a strip ends. A cancelled launch raises CANCELLED,
detail 0, a debug stop STRIP_STOP with `vstripno`, and a pending pre-emption holds it before any effect. Table 3.6 gives its
word. -/
def Obligations.SetVectorLength : Prop :=
  decodeWord 0x01EC5802 = .ok (.setvl 0 12 11) ∧
  ∀ (s : State) (st : Fin 16) (d a : Reg), MayIssue (.setvl st d a) s →
    let w : Work := { s.work with npc := s.work.s.regs.pc + 4 }
    let c := w.s.ctl
    let avl := (w.x a.val).toNat
    let grant := min avl w.vlmax
    let bound := c.vcursor.toNat + grant
    let traps (t : Trap) : Prop := exec (.setvl st d a) s = settle s (some (.setvl st d a)) (.error (.trap w t))
    (w.m.cancelledLid w.s.unit.lid = true → traps { cause := 0x19, acc := 0, stval := 0 }) ∧
    (w.m.cancelledLid w.s.unit.lid = false →
      (avl = 0 → exec (.setvl st d a) s = .next (completed (.setvl st d a) s
        ((w.mapCtl (fun c => { c with vl := 0, vstart := 0 })).setX d.val 0))) ∧
      (avl ≠ 0 → w.s.unit.st = .stop → exec (.setvl st d a) s = .next (s.await .landing (some (.setvl st d a)))) ∧
      (avl ≠ 0 → w.s.unit.st ≠ .stop → bitB w.job.calmode 1 = false → bitB w.job.calmode 2 = false →
        (w.s.stops = true → traps { cause := 0x15, acc := 0, stval := c.vstripno.setWidth 64 }) ∧
        (w.s.stops = false → bitB w.s.sup.trcctl 0 = false →
          (∀ m ∈ w.s.unit.wms, m.status w.m = 2 ∨ (m.status w.m = 1 ∧ m.need bound ≤ 0)) →
          let w1 := if c.vstripno = BitVec.ofNat 32 w.s.unit.ord then w else w.mapThr (fun t => { t with sig := 0xFFFFFFFFFFFFFFFF })
          exec (.setvl st d a) s = .next (completed (.setvl st d a) s (((w1.mapCtl (fun c => { c with
              vl := BitVec.ofNat 12 grant, vstart := 0, vstripno := c.vstripno + 1, vcursor := BitVec.ofNat 64 bound })).mapSup
                (fun p => { p with dbgctl := putBit p.dbgctl 3 false })).setX d.val (BitVec.ofNat 64 grant))))))

/-- 03 R77: VLMAX is 16,384 bits over the element width of FMT, halved in protected mode, for every assigned FMT code. 03 R80:
`setvt` completes whatever its registers hold. With an assigned FMT code, BLK from 3 and SLC from 3 to 8 it writes the three
fields, clamps `vl` to the new VLMAX, sets `vstart` to 0 and X[D] to VLMAX; with any other value it sets X[D] to 0 and changes
nothing else. Table 3.6 gives its word. -/
def Obligations.VectorLengthAndType : Prop :=
  (∀ w : Work, w.s.ctl.fmt.toNat ≤ 12 → w.vlmax = (if w.prot then 8192 else 16384) /
    (if w.s.ctl.fmt.toNat ∈ [0, 4, 12] then 8 else if w.s.ctl.fmt.toNat ∈ [1, 5, 8, 9] then 16
      else if w.s.ctl.fmt.toNat ∈ [2, 6, 10] then 32 else 64)) ∧
  (decodeWord 0x01F18003 = .ok (.setvt 0 17 16) ∧
  ∀ (s : State) (st : Fin 16) (d a : Reg), MayIssue (.setvt st d a) s →
    let w : Work := { s.work with npc := s.work.s.regs.pc + 4 }
    let v := (w.x a.val).toNat
    let ok : Prop := v % 16 ≤ 12 ∧ 3 ≤ v / 16 % 8 ∧ 3 ≤ v / 256 % 16 ∧ v / 256 % 16 ≤ 8
    let n := vlmaxBits (fmtBits (BitVec.ofNat 4 v)) w.prot
    (ok → exec (.setvt st d a) s = .next (completed (.setvt st d a) s ((w.mapCtl (fun c => { c with
      fmt := BitVec.ofNat 4 v, blk := BitVec.ofNat 3 (v / 16), slc := BitVec.ofNat 4 (v / 256),
      vl := BitVec.ofNat 12 (min c.vl.toNat n), vstart := 0 })).setX d.val (BitVec.ofNat 64 n)))) ∧
    (¬ok → exec (.setvt st d a) s = .next (completed (.setvt st d a) s (w.setX d.val 0))))

/-- 03 R81: `rdc` writes the control register to X[D]; `wrc` writes X[D] to the control register: a unit-level one always, a
Supervisor one where nothing holds the write back (a copy that owns a line of a way that `waypart` changes). 03 R82 to R86; 06
R167; 15 R362, R363, R378, R383; 16 R393, R395: what a write of a control register leaves to be read: the bits of the value in
its writable fields, zero elsewhere; at User level VEN, `vcursor`, `vstripno`, `vprog` and `barseq` keep what they hold. -/
def Obligations.ControlRegisters : Prop :=
  (∀ (s : State) (w : Work) (st : Fin 16) (d : Reg) (r : Fin 1024),
    (Begins (.rdc st d r) s w → exec (.rdc st d r) s = .next (completed (.rdc st d r) s (w.setX d.val (w.readCsr r.val)))) ∧
    (Begins (.wrc st d r) s w → r.val < 0x100 →
      exec (.wrc st d r) s = .next (completed (.wrc st d r) s (w.writeUnitCsr r.val (w.x d.val)))) ∧
    (Begins (.wrc st d r) s w → 0x100 ≤ r.val → ∀ w', w.writeSupCsr r.val (w.x d.val) = .ok w' →
      exec (.wrc st d r) s = .next (completed (.wrc st d r) s w'))) ∧
  (∀ (w : Work) (v : Word),
    (∀ p ∈ ([(0x02, 0x7FF), (0x03, 0xFFFFFFFFFFFFFFFF), (0x04, 0xF), (0x07, 0x1F), (0x0A, 1)] : List (Nat × Word)),
      (w.writeUnitCsr p.1 v).readCsr p.1 = v &&& p.2) ∧
    (w.s.regs.level = .supervisor → ∀ p ∈ ([(0x08, 0xFFFFFFFF0000001F), (0x0C, 0xFFFFFFFFFFFFFFFF), (0x0D, 0xFFFFFFFF),
      (0x0E, 0x01FFFFFFFFFFFFF8), (0x12, 0xFFFFFFFF00003FFF)] : List (Nat × Word)),
      (w.writeUnitCsr p.1 v).readCsr p.1 = v &&& p.2) ∧
    (w.s.regs.level = .user → ∀ r ∈ [0x08, 0x0C, 0x0D, 0x0E, 0x12], (w.writeUnitCsr r v).readCsr r = w.readCsr r) ∧
    (∀ p ∈ ([(0x100, 3), (0x101, 0x3FF), (0x102, 0x01FFFFFFFFFFFFFC), (0x103, 0xFFFFFFFFFFFFFFFF), (0x104, 0x01FFFFFFFFFFFFC1),
      (0x105, 0xFFFFFFFFFFFFFFFF), (0x140, 3), (0x150, 0x01FFFFFFFFFFFF80), (0x151, 0xFFFFFFFFFFFFFFFF), (0x152, 0xFFFFFFFF),
      (0x161, 0x3FFF), (0x163, 0x01FFFFFFFFFFF000), (0x164, 0xFFFFFFFF0000001F), (0x165, 0x01FFFFFFFFFFFFFC), (0x166, 7)] :
        List (Nat × Word)),
      ∃ w', w.writeSupCsr p.1 v = .ok w' ∧ w'.readCsr p.1 = v &&& p.2))

/-- 03 R82; 06 R145, R147; 09 R214; 15 R378, R383: the single writes as events of the current slot: the VL field clamped to
VLMAX, `fflags` replaced once no earlier vector instruction is in flight, `vtype` as `setvt` without a result, `vstate` and
`tstate` at Supervisor level, `vstate` with VEN cleared once no earlier vector instruction is in flight, the selected hotness
counter, and, at Supervisor level, the ways of the cluster's vault where no copy has a line that changes. -/
def Obligations.RegisterWriteEvents : Prop :=
  ∀ (s : State) (v : Word),
    let w := s.work
    exec (.writeVl v) s = .next ((w.mapCtl (fun c => { c with vl := BitVec.ofNat 12 (min (v.toNat % 4096) w.vlmax) })).finish s) ∧
    (w.s.thr.window = [] →
      exec (.writeFflags v) s = .next ((w.mapCtl (fun c => { c with fflags := v.setWidth 5 })).finish s)) ∧
    (w.s.thr.window ≠ [] → exec (.writeFflags v) s = .next s) ∧
    (∀ n w', w.putVtype v = some (n, w') → exec (.writeVtype v) s = .next (w'.finish s)) ∧
    (w.putVtype v = none → exec (.writeVtype v) s = .next (w.finish s)) ∧
    (bitB v 0 = false → w.s.thr.window ≠ [] → exec (.writeVstate v) s = .next s) ∧
    (w.s.regs.level = .supervisor → bitB v 0 = true ∨ w.s.thr.window = [] → exec (.writeVstate v) s =
      .next ((w.mapCtl (fun c => { c with vstate := v &&& 0xFFFFFFFF0000001F })).finish s)) ∧
    (w.s.regs.level = .supervisor → w.core.owner = some s.cur → 2 ≤ w.core.tstate → 2 ≤ v.toNat % 4 →
      exec (.writeTstate v) s = .next ((w.setCore { w.core with
        nr := v.getLsbD 4, nrElt := (if v.getLsbD 4 && w.core.nr then w.core.nrElt else none), tstate := v.toNat % 4 }).finish s)) ∧
    (∀ k, vhotKey w.s.sup.vhotsel = some k → exec (.writeVhot v) s =
      .next ((w.setCtx { w.ctx with hot := tabSet w.ctx.hot k (v.toNat % 2 ^ 32) }).finish s)) ∧
    (w.s.regs.level = .user → exec (.writeWaypart v) s = .next (w.finish s)) ∧
    (w.s.regs.level = .supervisor → s.engines = [] → ∃ t, exec (.writeWaypart v) s = .next t ∧
      (t.toMach.vault (clusterOf s.cur)).waypart = v.setWidth 32 ∧
      (∀ k, k ≠ clusterOf s.cur → t.toMach.vault k = s.toMach.vault k) ∧
      (s.MemOk → ∀ x, (∀ n < 16, wayCode (w.m.vault (clusterOf s.cur)).waypart n ≠ wayCode (v.setWidth 32) n →
          inWay (clusterOf s.cur) n x = false) → memGet t.mem x = memGet s.mem x))

/-! ### Vector arithmetic (04 R99 to R122; 05 R130 to R141) -/

/-- 04 R101, R102, R105, R106, R114, R115, Table 4.4: the integer operations compute each active element of vd from the elements
of va and of vb or the scalar of SX, wrapped to the element width; inactive elements keep their values. -/
def Obligations.VectorInteger : Prop :=
  ∀ (s : State) (w : Work) (st : Fin 16) (c x : Bool) (d a b : Reg),
    let n := w.ew
    let p := w.intV a
    let q := w.intB x b
    let o := w.intV d
    let u := w.elemV a
    let v := w.elemB x b
    let wrap := intBits n
    let clamp (i : Int) : Nat := intBits n (max (intMin w.fmt) (min (intMax w.fmt) i))
    ∀ k ∈ ([(.vadd st c d a b x, fun e => wrap (p e + q e)), (.vsub st c d a b x, fun e => wrap (p e - q e)),
        (.vmin st c d a b x, fun e => wrap (min (p e) (q e))), (.vmax st c d a b x, fun e => wrap (max (p e) (q e))),
        (.vaddsat st c d a b x, fun e => clamp (p e + q e)), (.vsubsat st c d a b x, fun e => clamp (p e - q e)),
        (.vabs st c d a, fun e => wrap ((p e).natAbs : Int)), (.vneg st c d a, fun e => wrap (-(p e))),
        (.vand st c d a b x, fun e => u e &&& v e), (.vor st c d a b x, fun e => u e ||| v e),
        (.vxor st c d a b x, fun e => u e ^^^ v e), (.vsll st c d a b x, fun e => u e * 2 ^ (v e % n) % 2 ^ n),
        (.vsrl st c d a b x, fun e => u e / 2 ^ (v e % n)),
        (.vsra st c d a b x, fun e => wrap (toSigned n (u e) / (2 ^ (v e % n) : Nat))),
        (.vmul st c d a b x, fun e => wrap (p e * q e)), (.vmulh st c d a b x, fun e => wrap (p e * q e / (2 ^ n : Nat))),
        (.vmadd st c d a b x, fun e => wrap (p e * q e + o e)), (.vmsub st c d a b x, fun e => wrap (p e * q e - o e)),
        (.vnmadd st c d a b x, fun e => wrap (o e - p e * q e)),
        (.vdiv st c d a b x, fun e => if q e = 0 then 2 ^ n - 1 else wrap ((p e).tdiv (q e))),
        (.vmv st c d a, fun e => u e), (.vbcast st c d a, fun _ => (w.x a.val).toNat % 2 ^ n)] : List (Instr × (Nat → Nat))),
      Begins k.1 s w →
      exec k.1 s = .next (completed k.1 s ((w.putV d.val n (w.active.map (fun e => (e, k.2 e)))).orFlags 0))

/-- 04 R99, R101, R108 to R119; 05 R135: the floating operations compute each active element with the IEEE operation of the
format and the rounding mode, the multiply-adds fused, and OR the flags of all active elements into `fflags`. -/
def Obligations.VectorFloating : Prop :=
  ∀ (s : State) (w : Work) (st : Fin 16) (c x : Bool) (d a b : Reg),
    let f := w.ffmt
    let r := w.rm
    let p := w.valV a
    let q := w.valB x b
    let o := w.valV d
    let u := w.elemV a
    let v := w.elemB x b
    ∀ k ∈ ([(.vaddF st c d a b x, fun e => fAdd f r (p e) (q e)), (.vsubF st c d a b x, fun e => fSub f r (p e) (q e)),
        (.vminF st c d a b x, fun e => fMinMax f false (u e) (v e)), (.vmaxF st c d a b x, fun e => fMinMax f true (u e) (v e)),
        (.vabsF st c d a, fun e => (fAbs f (u e), 0)), (.vnegF st c d a, fun e => (fNeg f (u e), 0)),
        (.vmulF st c d a b x, fun e => fMul f r (p e) (q e)), (.vdivF st c d a b x, fun e => fDiv f r (p e) (q e)),
        (.vmaddF st c d a b x, fun e => fFma f r false false (p e) (q e) (o e)),
        (.vmsubF st c d a b x, fun e => fFma f r false true (p e) (q e) (o e)),
        (.vnmaddF st c d a b x, fun e => fFma f r true false (p e) (q e) (o e)),
        (.vsqrt st c d a, fun e => fSqrt f r (p e)), (.vrcpa st c d a, fun e => fRcpa f (p e)),
        (.vrsqa st c d a, fun e => fRsqa f (p e)), (.vrcps st c d a b, fun e => fRcps f r (p e) (w.valV b e)),
        (.vrsqs st c d a b, fun e => fRsqs f r (p e) (w.valV b e)), (.vclass st c d a, fun e => (fClass f (u e), 0)),
        (.vapsc st c d a b, fun e => applyScale f r (w.scaleOf b e) (p e))] : List (Instr × (Nat → FRes))),
      Begins k.1 s w → exec k.1 s = .next (completed k.1 s
        ((w.putV d.val w.ew (w.active.map (fun e => (e, (k.2 e).1)))).orFlags
          (w.active.foldl (fun y e => y ||| (k.2 e).2) 0)))

/-- 04 R104, R113: `vwadd` and `vwmul` write sums and products of 2w bits into the register pair from vd. 04 R112, R113; 05
R130, R131: floating comparisons write mask bits; `vwadd.f` and `vwmul.f` round once to the wide format, into a register pair,
and of the flags of `vwmul.f` only NV is raised; `vcvt` converts each active element to the format in B, into a block where it
is wider. -/
def Obligations.VectorWideningAndConversions : Prop :=
  (∀ (s : State) (w : Work) (st : Fin 16) (c x : Bool) (d a b : Reg),
    let wide (l : List (Nat × Nat)) : Work :=
      (w.putBlock d.val (2 * w.ew) (vlmaxBits (2 * w.ew) w.prot) l 2).orFlags 0
    (Begins (.vwadd st c d a b x) s w → exec (.vwadd st c d a b x) s = .next (completed (.vwadd st c d a b x) s
      (wide (w.active.map (fun e => (e, intBits (2 * w.ew) (w.intV a e + w.intB x b e))))))) ∧
    (Begins (.vwmul st c d a b x) s w → exec (.vwmul st c d a b x) s = .next (completed (.vwmul st c d a b x) s
      (wide (w.active.map (fun e => (e, intBits (2 * w.ew) (w.intV a e * w.intB x b e)))))))) ∧
  (∀ (s : State) (w : Work) (st : Fin 16) (c x : Bool) (d a b : Reg) (q : Fin 4) (rm : Fin 8),
    let f := w.ffmt
    let wf := if f.w = 16 then f32 else f64
    let flags (g : Nat → FRes) : BitVec 5 := w.active.foldl (fun y e => y ||| (g e).2) 0
    let wide (g : Nat → FRes) : Work :=
      (w.putBlock d.val (2 * w.ew) (vlmaxBits (2 * w.ew) w.prot) (w.active.map (fun e => (e, (g e).1))) 2).orFlags (flags g)
    let cmp (e : Nat) := fCmp f q.val (w.elemV a e) (w.elemB x b e)
    let tw := codeWidth b.val
    let cv (e : Nat) : FRes := convert w.fmt b.val (if rm.val = 5 then w.rm else rm.val) (w.elemV a e)
    ∀ p ∈ ([(.vcmpF st c d a b x q, (w.putM d.val (w.active.map (fun e => (e, (cmp e).1)))).orFlags
          (w.active.foldl (fun y e => y ||| (cmp e).2) 0)),
        (.vwaddF st c d a b x, wide (fun e => fAdd wf w.rm (w.valV a e) (w.valB x b e))),
        (.vwmulF st c d a b x, wide (fun e =>
          let r := fMul wf w.rm (w.valV a e) (w.valB x b e)
          (r.1, if r.2.getLsbD 4 then 16 else 0))),
        (.vcvt st c d a b rm, (w.putBlock d.val tw (vlmaxBits tw w.prot) (w.active.map (fun e => (e, (cv e).1)))
          (max 1 (tw / w.ew))).orFlags (flags cv))] : List (Instr × Work)),
      Begins p.1 s w → exec p.1 s = .next (completed p.1 s p.2))

/-- 04 R107, R114, R120 to R122: comparisons write mask bits of the active elements; `vsel` selects by the mask of `vmsel`
whatever it masks; the mask instructions write bits `vstart` to `vl` - 1, `mset` all 2,048 bits; `mpopc` and `mfirst` write
X[D]; `viota` counts the set active bits below each active element. 05 R139, R140; 16 R398: `vldsc` loads an entry for each
block of 2^BLK elements below `vl`, X[B] bytes apart, where every entry passes its checks, and is counted as a sampled
instruction, with no entry too; `vmvsc` copies a scale register's 256 entries to or from the first 256 16-bit elements, whatever
`vl` holds. -/
def Obligations.MasksAndScales : Prop :=
  (∀ (s : State) (w : Work) (st : Fin 16) (c x : Bool) (d a b : Reg) (q : Fin 4),
    let i := w.intV a
    let j := w.intB x b
    let cond (e : Nat) : Bool := if q.val = 0 then i e == j e else if q.val = 1 then i e != j e
      else if q.val = 2 then decide (i e < j e) else decide (i e ≤ j e)
    let bits (f : Nat → Bool) (l : List Nat) : Work := w.putM d.val (l.map (fun e => (e, f e)))
    let m := fun e => (w.mr a.val).getLsbD e
    let n := fun e => (w.mr b.val).getLsbD e
    let below (e : Nat) : Nat := (w.active.filter (fun k => decide (k < e) && m k)).length
    ∀ p ∈ ([(.vcmp st c d a b x q, (bits cond w.active).orFlags 0),
        (.vsel st c d a b x, w.putV d.val w.ew (w.range.map (fun e => (e, if w.selected e then w.elemV a e else w.elemB x b e)))),
        (.mand st c d a b, bits (fun e => m e && n e) w.range), (.mor st c d a b, bits (fun e => m e || n e) w.range),
        (.mxor st c d a b, bits (fun e => m e != n e) w.range), (.mnot st c d a, bits (fun e => ((~~~w.mr a.val).getLsbD e)) w.range),
        (.msbf st c d a, bits (fun e => !m e && below e == 0) w.active),
        (.mset st c d a, w.setM d.val (BitVec.ofNat 2048 (2 ^ min (w.x a.val).toNat 2048 - 1))),
        (.mpopc st c d a, w.setX d.val (BitVec.ofNat 64 (w.active.filter m).length)),
        (.mfirst st c d a, w.setX d.val (match w.active.find? m with
          | some e => BitVec.ofNat 64 e
          | none => BitVec.allOnes 64)),
        (.viota st c d a, (w.putV d.val w.ew (w.active.map (fun e => (e, below e % 2 ^ w.ew)))).orFlags 0)] :
        List (Instr × Work)),
      Begins p.1 s w → exec p.1 s = .next (completed p.1 s p.2)) ∧
  (∀ (s : State) (w w' : Work) (st : Fin 16) (c : Bool) (d a b : Reg) (good : List (Nat × List Req)),
    let n := (w.s.ctl.vl.toNat + 2 ^ w.s.ctl.blk.toNat - 1) / 2 ^ w.s.ctl.blk.toNat
    let plan (j : Nat) : Except EFault (List Req) :=
      (w.req (w.x a.val + w.x b.val * BitVec.ofNat 64 j) 2 false false).map (fun r => [r])
    let cls := if w.x b.val = 2 then 0 else 1
    (Begins (.vldsc st c d a b) s w → n ≠ 0 → (w.x a.val).toNat % 2 = 0 → (w.x b.val).toNat % 2 = 0 →
      planAll plan (List.range n) = (good, none) → readable w.m (planLocs good) = .ok () → firstPoison w.m good = none →
      ((((((planLocs good).foldl (fun w l => w.scrub l) w).putK d.val (good.map (fun p => (p.1, p.2.map w.reqBits)))).countHot cls
        good).countRemote (planLocs good)).touchFibre (planLocs good)).sample cls false false good 0 = .ok w' →
      exec (.vldsc st c d a b) s = .next (completed (.vldsc st c d a b) s w')) ∧
    (Begins (.vldsc st c d a b) s w → n = 0 → w.sample cls false false [] 0 = .ok w' →
      exec (.vldsc st c d a b) s = .next (completed (.vldsc st c d a b) s w')) ∧
    (Begins (.vmvscToScale st c d a) s w → exec (.vmvscToScale st c d a) s = .next (completed (.vmvscToScale st c d a) s
      (w.setK d.val ((w.v a.val).extractLsb' 0 4096)))) ∧
    (Begins (.vmvscFromScale st c d a) s w → exec (.vmvscFromScale st c d a) s =
      .next (completed (.vmvscFromScale st c d a) s (w.setV d.val
        (putBits (w.s.regs.getV d.val) 0 4096 (w.k a.val).toNat)))))

/-! ### Vector memory (06 R153 to R172) -/

/-- 06 R157, R160, R161, R164, R166, R168: the vector stores, where every active element passes its checks: the elements of vd
are written at their addresses in element order, converted where the form converts, and a notify form adds their number to its
progress word. `vstxu` leaves the content of one writer where several wrote the same bytes (06 R162; a free value, log 7). -/
def Obligations.VectorStores : Prop :=
  ∀ (s : State) (w w1 w' : Work) (st : Fin 16) (c o nt bd : Bool) (d a b : Reg) (n : Fin 8) (g : Shape)
      (l : List (Nat × List Req)) (prog : Option (List Nat)),
    let size := w.ew / 8
    let at_ (addr : Nat → Word) (e : Nat) : Except EFault (List Req) := (w.req (addr e) size true o).map (fun r => [r])
    let old (e : Nat) : List FRes := [(w.elemV d e, 0)]
    w.progress nt = .ok (prog, w1) →
    ∀ p ∈ ([(.vst st c d a o nt, 0, at_ (fun e => w.x a.val + BitVec.ofNat 64 size * BitVec.ofNat 64 e), old, noFix),
        (.vsts st c d a o nt, 1, at_ (fun e => w.x a.val + w.s.ctl.vstride * BitVec.ofNat 64 e), old, noFix),
        (.vstx st c d a b o nt bd, 2, w.indexedPlan true o bd a b, old, noFix),
        (.vstxu st c d a b o nt bd, 2, w.indexedPlan true o bd a b, old, fun w' l => w'.settleUnordered (w.elemV d) l),
        (.vsseg st c d a b o nt n, 0, w.fields true o a (codeBytes b.val) (n.val + 1), fun e =>
          (List.range (n.val + 1)).map (fun j => convert w.fmt b.val w.rm (w.elemAt w.ew (d.val + j) e)), noFix)] :
        List (Instr × Nat × (Nat → Except EFault (List Req)) × (Nat → List FRes) × (Work → List (Nat × List Req) → Work))),
      (Begins p.1 s w → ElemsWritten w1 p.2.2.1 l →
        (((p.2.2.2.2 (w1.storeElems p.2.2.2.1 l) l).progressed prog (storedCount l)).countHot p.2.1 l).sample p.2.1 o true l 0 =
          .ok w' → exec p.1 s = .next (completed p.1 s w')) ∧
      (Begins (.vstt st c d a b o nt) s w → readShape (w.v a.val) = .ok g →
        ElemsWritten w1 (w.tensorPlan g true o (w.x b.val).toNat) l →
        (((w1.storeElems (fun e => [convert w.fmt g.mfmt w.rm (w.elemV d e)]) l).progressed prog (storedCount l)).countHot 1
          l).sample 1 o true l 0 = .ok w' →
        exec (.vstt st c d a b o nt) s = .next (completed (.vstt st c d a b o nt) s w'))

/-- 06 R160, R161, R164, R166: the vector loads, where every active element passes its checks: each element is read at its
address (unit stride, `vstride`, an index, a record of fields, a tensor position) and written to vd, converted where the form
converts. 06 R155; 01 R19; 16 R400: a load, of either orientation, whose first failing element e is not the first active one,
and fails with anything but a bounds check, completes with the elements below e and `vl` := e; one that fails a bounds check
there traps with `vstart` := e and the elements below e loaded; where e is the first active element, the load traps there with
`vstart` := e and neither register nor byte changed (the traps stated for a thread without stream bindings). -/
def Obligations.VectorLoads : Prop :=
  (∀ (s : State) (w w' : Work) (st : Fin 16) (c o bd : Bool) (d a b : Reg) (n : Fin 8) (g : Shape) (l : List (Nat × List Req)),
    let size := w.ew / 8
    let at_ (addr : Nat → Word) (e : Nat) : Except EFault (List Req) := (w.req (addr e) size false o).map (fun r => [r])
    let put (w : Work) (l : List (Nat × List Nat)) : Work := w.putV d.val w.ew (l.map (fun p => (p.1, p.2.headD 0)))
    ∀ p ∈ ([(.vld st c d a o, 0, at_ (fun e => w.x a.val + BitVec.ofNat 64 size * BitVec.ofNat 64 e), put),
        (.vlds st c d a o, 1, at_ (fun e => w.x a.val + w.s.ctl.vstride * BitVec.ofNat 64 e), put),
        (.vldx st c d a b o bd, 2, w.indexedPlan false o bd a b, put),
        (.vlseg st c d a b o n, 0, w.fields false o a (codeBytes b.val) (n.val + 1),
          fun w l => (List.range (n.val + 1)).foldl (fun w j => w.putField d b.val l j) w)] :
        List (Instr × Nat × (Nat → Except EFault (List Req)) × (Work → List (Nat × List Nat) → Work))),
      (Begins p.1 s w → ElemsRead w p.2.2.1 l →
        (w.loadedElems p.2.1 p.2.2.2 l).sample p.2.1 o false l 0 = .ok w' → exec p.1 s = .next (completed p.1 s w')) ∧
      (Begins (.vldt st c d a b o) s w → readShape (w.v a.val) = .ok g →
        ElemsRead w (w.tensorPlan g false o (w.x b.val).toNat) l →
        (w.loadedElems 1 (fun w l => w.putTensor d g.mfmt l) l).sample 1 o false l 0 = .ok w' →
        exec (.vldt st c d a b o) s = .next (completed (.vldt st c d a b o) s w'))) ∧
  (∀ (s : State) (w w' : Work) (st : Fin 16) (c o bd : Bool) (d a b : Reg) (n : Fin 8) (g : Shape) (l : List (Nat × List Req))
      (e cause : Nat) (v : Word),
    let size := w.ew / 8
    let at_ (addr : Nat → Word) (e : Nat) : Except EFault (List Req) := (w.req (addr e) size false o).map (fun r => [r])
    let put (w : Work) (l : List (Nat × List Nat)) : Work := w.putV d.val w.ew (l.map (fun p => (p.1, p.2.headD 0)))
    let fails (i : Instr) (cls : Nat) (plan : Nat → Except EFault (List Req)) (put : Work → List (Nat × List Nat) → Work) : Prop :=
      Begins i s w → planAll plan w.active = (l, some (e, .flt cause v)) →
      (w.active.head? = some e → s.work.s.thr.binds = [] → ∃ w2,
        exec i s = settle s (some i) (.error (.trap w2 { cause := cause, acc := 0, stval := v })) ∧
        w2.s.ctl.vstart = BitVec.ofNat 11 e ∧ w2.s.ctl.vl = w.s.ctl.vl ∧ w2.s.regs = w.s.regs ∧ w2.ws = w.ws) ∧
      (w.active.head? ≠ some e → readable w.m (planLocs l) = .ok () → firstPoison w.m l = none →
        (cause = 0x0F → s.work.s.thr.binds = [] → ∃ w2,
          exec i s = settle s (some i) (.error (.trap w2 { cause := cause, acc := 0, stval := v })) ∧
          w2.s.ctl.vstart = BitVec.ofNat 11 e ∧ w2.s.ctl.vl = w.s.ctl.vl ∧ w2.s.regs = (w.loadedElems cls put l).s.regs) ∧
        (cause ≠ 0x0F →
          ((w.loadedElems cls put l).mapCtl (fun x => { x with vl := BitVec.ofNat 12 e })).sample cls o false l
            (absentElems plan w.active) = .ok w' → exec i s = .next (completed i s w')))
    fails (.vld st c d a o) 0 (at_ (fun e => w.x a.val + BitVec.ofNat 64 size * BitVec.ofNat 64 e)) put ∧
    fails (.vlds st c d a o) 1 (at_ (fun e => w.x a.val + w.s.ctl.vstride * BitVec.ofNat 64 e)) put ∧
    fails (.vldx st c d a b o bd) 2 (w.indexedPlan false o bd a b) put ∧
    fails (.vlseg st c d a b o n) 0 (w.fields false o a (codeBytes b.val) (n.val + 1))
      (fun w l => (List.range (n.val + 1)).foldl (fun w j => w.putField d b.val l j) w) ∧
    (readShape (w.v a.val) = .ok g → fails (.vldt st c d a b o) 1 (w.tensorPlan g false o (w.x b.val).toNat)
      (fun w l => w.putTensor d g.mfmt l)))

/-! ### Cross-lane and sparse instructions (07 R178 to R187; 08 R188 to R210) -/

/-- 07 R178, R180: permute, slides, compress and expand. 07 R181 to R183: `vred` combines each lane's active elements in
ascending order, the lanes in the tree of 16, and the initial operand last; `vscan` writes the running results. -/
def Obligations.LaneExchange : Prop :=
  (∀ (s : State) (w : Work) (st : Fin 16) (c : Bool) (d a b : Reg),
    let n := (w.x b.val).toNat
    let vl := w.s.ctl.vl.toNat
    let u := w.elemV a
    let each (f : Nat → Nat) : Work := (w.putV d.val w.ew (w.active.map (fun e => (e, f e)))).orFlags 0
    ∀ p ∈ ([(.vperm st c d a b, each (fun e => if w.elemV b e < vl then u (w.elemV b e) else 0)),
        (.vslu st c d a b, w.putV d.val w.ew ((w.active.filter (fun e => decide (n ≤ e))).map (fun e => (e, u (e - n))))),
        (.vsld st c d a b, each (fun e => if e + n < vl then u (e + n) else 0)),
        (.vcompress st c d a, w.putV d.val w.ew (w.active.zipIdx.map (fun p => (p.2, u p.1)))),
        (.vexpand st c d a, w.putV d.val w.ew (w.active.zipIdx.map (fun p => (p.1, u p.2))))] : List (Instr × Work)),
      Begins p.1 s w → exec p.1 s = .next (completed p.1 s p.2)) ∧
  (∀ (s : State) (w : Work) (st : Fin 16) (c f : Bool) (d a b : Reg) (q : Fin 8),
    let op := w.redOp f q.val
    let i : FRes := ((w.x b.val).toNat % 2 ^ w.ew, 0)
    let tree := (foldTree op 4 ((List.range (if w.prot then 8 else 16)).map
      (lanePartial op (w.elemV a) w.active (if w.prot then 8 else 16)))).headD none
    let run := scanFrom op (w.elemV a) i w.active
    (Begins (.vred st c d a b f q) s w → tree = none →
      exec (.vred st c d a b f q) s = .next (completed (.vred st c d a b f q) s ((w.setX d.val (w.extend i.1)).orFlags 0))) ∧
    (Begins (.vred st c d a b f q) s w → ∀ r, tree = some r →
      exec (.vred st c d a b f q) s = .next (completed (.vred st c d a b f q) s
        ((w.setX d.val (w.extend (op i r).1)).orFlags (op i r).2))) ∧
    (Begins (.vscan st c d a b f q) s w → exec (.vscan st c d a b f q) s = .next (completed (.vscan st c d a b f q) s
      ((w.putV d.val w.ew (run.map (fun r => (r.1, r.2.1)))).orFlags (run.foldl (fun y r => y ||| r.2.2) 0)))))

/-- 07 R184 to R187; 02 R36: `vfetch` at a base that is a multiple of 256, whose block passes its checks, runs each active
element as a virtual processor in order, with no window open and no register bound; the words that stand in blocks only are
illegal in a control thread. 07 R186, R187; 02 R36: the words that stand in blocks only, in an episode. `vpend` ends the VP;
`vpbr` goes on at the block whose number the low 8 bits of its element of va give, after at most seven branches, and the next
one raises BOUNDS with 9; `vpsend` sends its element of va; `vprecv` takes the oldest value not yet received into its element of
vd, and without one leaves it. So in an episode whose block is `vprecv`, `vpsend`, `vpend` every VP finds what the one before it
sent, and the v registers of the next state hold it (that a block is fetched anew at every branch is log 56, DESIGN CHOICE). -/
def Obligations.Episodes : Prop :=
  (∀ (s : State) (w w1 w2 : Work) (st : Fin 16) (c : Bool) (a d : Reg) (block : List Instr),
    let w0 := w.mapThr (fun t => { t with wins := [] })
    (Begins (.vfetch st c a) s w → (w0.x a.val).toNat % 256 = 0 → w0.checkBlock (w0.x a.val) 64 = .ok (block, w1) →
      Vp.episode { w := w1.mapThr (fun t => { t with binds := [] }), inbox := [], sent := [], written := [] } w0.s (w0.x a.val)
        block none w0.active = .ok w2 →
      exec (.vfetch st c a) s = .next (completed (.vfetch st c a) s w2)) ∧
    (∀ i ∈ ([.vpbr st c a, .vpend st c, .vpsend st c a, .vprecv st c d] : List Instr), s.work.s.issues = true →
      s.work.s.thr.window = [] →
      exec i s = settle s (some i) (.error (.trap s.work { cause := 0x01, acc := 0, stval := memberVal 0 (encode i) })))) ∧
  ((∀ (p : Vp) (e k : Nat) (base at_ : Word) (st : Fin 16) (c : Bool) (a d : Reg) (is : List Instr),
    p.words e at_ (.vpend st c :: is) = .ok (p, none) ∧
    p.words e at_ (.vpbr st c a :: is) = .ok (p, some (p.w.elemV a e % 256)) ∧
    (∃ q, p.words e at_ (.vpsend st c a :: is) = Vp.words q e (at_ + 4) is ∧ q.sent = p.sent ++ [p.w.elemV a e] ∧
      q.inbox = p.inbox ∧ q.w.s.regs = p.w.s.regs ∧ q.w.ws = p.w.ws) ∧
    (p.inbox = [] → ∃ q, p.words e at_ (.vprecv st c d :: is) = Vp.words q e (at_ + 4) is ∧ q.sent = p.sent ∧ q.inbox = [] ∧
      q.w.s.regs = p.w.s.regs ∧ q.w.ws = p.w.ws) ∧
    (∀ x rest, p.inbox = x :: rest → ∃ q, p.words e at_ (.vprecv st c d :: is) = Vp.words q e (at_ + 4) is ∧ q.sent = p.sent ∧
      q.inbox = rest ∧ q.w.s.regs = (p.w.putV d.val p.w.ew [(e, x)]).s.regs ∧ q.w.ws = p.w.ws) ∧
    Vp.path p e base at_ (.vpend st c :: is) k = .ok p ∧
    Vp.path p e base at_ (.vpbr st c a :: is) 0 = raise p.w 0x0F 9 ∧
    (∀ block w, p.w.checkBlock (base + BitVec.ofNat 64 (256 * (p.w.elemV a e % 256))) 64 = .ok (block, w) →
      Vp.path p e base at_ (.vpbr st c a :: is) (k + 1) =
        Vp.path { p with w := w } e base (base + BitVec.ofNat 64 (256 * (p.w.elemV a e % 256))) block k)) ∧
  (∀ (s : State) (w w1 : Work) (st : Fin 16) (c : Bool) (a b d : Reg),
    let w0 := w.mapThr (fun t => { t with wins := [] })
    Begins (.vfetch st c b) s w → (w.x b.val).toNat % 256 = 0 → a ≠ d →
    w0.checkBlock (w.x b.val) 64 = .ok ([.vprecv 0 false d, .vpsend 0 false a, .vpend 0 false], w1) → ∃ t,
      exec (.vfetch st c b) s = .next t ∧
      ∀ e < 16384 / w.ew,
        (elem w.ew (t.work.s.regs.getV d.val) e).toNat =
          (if e ∈ w.active ∧ e ≠ 0 ∧ e - 1 ∈ w.active then w0.elemV a (e - 1) else w0.elemV d e) ∧
        (elem w.ew (t.work.s.regs.getV a.val) e).toNat = w0.elemV a e))

/-- 08 R189 to R191: conflict detection marks the lowest active element of each key; `vcomb` writes the key's sum there, in
ascending order; `visect` writes the lowest matching position, all ones for none. 08 R194, R197 to R201: in the slot that owns
the coordinate store, `cins` inserts the keys of va and reports, `clook` reads values and hits, `cacc` adds values, `cdrain`
moves the lowest entries into vd and vd + 1 and sets `vl` to their number, `cclr` empties the store; in any other slot each
raises ACCESS_VIOLATION, detail 3. 08 R204, R206, R207; 17 R416: `vgathl`, where every active element passes its checks, loads
as `vldx` and links each element to the lines it read, once no other slot's sequence holds one of them (that a linked read waits
there is log 10, DEDUCED: R207 holds back other agents' writes); `vscatc` writes the elements whose links are intact, in order,
each write breaking every other link on its lines, and reports success in mk; where its first active element's address is remote
it raises ACCESS_VIOLATION, detail 14. -/
def Obligations.SparseOperations : Prop :=
  (∀ (s : State) (w : Work) (st : Fin 16) (c : Bool) (d a b : Reg),
    let u := w.elemV a
    let lead (e : Nat) : Bool := !w.active.any (fun j => decide (j < e) && u j == u e)
    let sum (e : Nat) : FRes := (w.active.filter (fun j => decide (e < j) && u j == u e)).foldl
      (fun y j => w.redOp (isFlt w.s.ctl.fmt) 0 y (w.elemV b j, 0)) (w.elemV b e, 0)
    let leaders := w.active.filter lead
    ∀ p ∈ ([(.vconf st c d a, (w.putM d.val (w.active.map (fun e => (e, lead e)))).orFlags 0),
        (.vcomb st c d a b, (w.putV d.val w.ew (leaders.map (fun e => (e, (sum e).1)))).orFlags
          (leaders.foldl (fun y e => y ||| (sum e).2) 0)),
        (.visect st c d a b, (w.putV d.val w.ew (w.active.map (fun e =>
          (e, ((List.range w.s.ctl.vl.toNat).find? (fun j => w.elemV b j == u e)).getD (2 ^ w.ew - 1))))).orFlags 0)] :
        List (Instr × Work)),
      Begins p.1 s w → exec p.1 s = .next (completed p.1 s p.2)) ∧
  (∀ (s : State) (w : Work) (st : Fin 16) (c : Bool) (d a b : Reg),
    let k := w.core
    let ins := insertKeys (w.key a) w.active k
    let add := w.accumulateAll a b w.active k 0
    let hit (e : Nat) : Option Nat := k.findKey (w.key a e)
    let val (e : Nat) : FRes := match hit e with
      | some i => w.fromStore (k.valueAt i)
      | none => (0, 0)
    let out := (k.store.filterMap (fun e => e.2.map (fun kv => (e.1, kv)))).take w.s.ctl.vl.toNat
    let drained := w.setCore { k with store := out.foldl (fun t e => tabDel t e.1) k.store }
    ∀ p ∈ ([(.cins st c d a, (w.setCore ins.2).putM d.val ins.1),
        (.clook st c d a b, ((w.putV d.val w.ew (w.active.map (fun e => (e, (val e).1)))).orFlags
          (w.active.foldl (fun y e => y ||| (val e).2) 0)).putM b.val (w.active.map (fun e => (e, (hit e).isSome)))),
        (.cacc st c a b, (w.setCore add.1).orFlags add.2),
        (.cdrain st c d, ((drained.putV d.val 64 (out.zipIdx.map (fun p => (p.2, p.1.2.1.toNat)))).putV (d.val + 1) 64
          (out.zipIdx.map (fun p => (p.2, p.1.2.2.toNat)))).mapCtl (fun x =>
            { x with vl := BitVec.ofNat 12 out.length, vstart := 0 })),
        (.cclr st c, w.setCore { k with store := [] })] : List (Instr × Work)),
      Begins p.1 s w →
      (w.s.unit.ccs = true → exec p.1 s = .next (completed p.1 s p.2)) ∧
      (w.s.unit.ccs = false → s.work.s.thr.binds = [] → w.s.ctl.vstart = 0 → exec p.1 s =
        settle s (some p.1) (.error (.trap w { cause := 0x0A, acc := 0, stval := detailAddr 3 0 })))) ∧
  (∀ (s : State) (w w' : Work) (st : Fin 16) (c o : Bool) (d a b : Reg) (m : Fin 8) (l : List (Nat × List Req)),
    let w0 := w.spend
    let loaded := (w0.dropHolds.linkedReads l).putLoaded d (l.map (fun p => (p.1, p.2.map w.reqBits)))
    let out := w.scattered (w.elemV d) l
    let held := w0.unheld ((planLocs (planAll (w0.indexedPlan false o false a b) w0.active).1).map lineOf)
    let plan (e : Nat) : Except EFault (List Req) := localReqs (w.indexedPlan true o false a b e)
    (Begins (.vgathl st c d a b o) s w → held ≠ .ok () →
      exec (.vgathl st c d a b o) s = .next (s.await .heldLine (some (.vgathl st c d a b o)))) ∧
    (Begins (.vgathl st c d a b o) s w → held = .ok () → ElemsRead w0.dropHolds (w0.indexedPlan false o false a b) l →
      (((loaded.countHot 2 l).countRemote (planLocs l)).touchFibre (planLocs l)).sample 2 o false l 0 = .ok w' →
      w'.s.ctl.vl = w.s.ctl.vl →
      exec (.vgathl st c d a b o) s = .next (completed (.vgathl st c d a b o) s w')) ∧
    (Begins (.vscatc st c d a b o m) s w → ∀ e rs q, w.active.head? = some e → w.indexedPlan true o false a b e = .ok rs →
      rs.find? (fun q => q.locs.any isRemote) = some q → ∃ w2, exec (.vscatc st c d a b o m) s =
        settle s (some (.vscatc st c d a b o m)) (.error (.trap w2 { cause := 0x0A, acc := 1, stval := detailAddr 14 q.a })) ∧
      w2.ws = w.ws) ∧
    (Begins (.vscatc st c d a b o m) s w → planAll plan w.active = (l, none) →
      writable w.m w.m.cur (planLocs (l.filter (fun p => w.elementLinked p.1 p.2))) = .ok () →
      (((out.2.2.putM m.val out.1).countHot 2 out.2.1).dropHolds).sample 2 o true out.2.1 0 = .ok w' →
      exec (.vscatc st c d a b o m) s = .next (completed (.vscatc st c d a b o m) s w')))

/-- 06 R163, R170: `vpf` changes nothing a program reads; `vbind` makes the record in va the binding of vd, with position 0, and
marks the bindings dirty; `vunbind` removes the binding of vd. 08 R208 to R210: `fibdef` reads the 48-byte descriptor at X[A]
into the slot's definition, with position 0; `fibend` removes it; a prefetch of the scanner for a slot with a definition changes
nothing but the lines that the vault's fibre ways keep. -/
def Obligations.PrefetchBindingFibres : Prop :=
  (∀ (s : State) (w : Work) (st : Fin 16) (c o : Bool) (d a : Reg) (b : Binding),
    (Begins (.vpf st c a o) s w → exec (.vpf st c a o) s = .next (completed (.vpf st c a o) s w)) ∧
    (Begins (.vbind st c d a) s w →
      readBinding d (w.v a.val) (decide (8 ≤ (w.s.thr.binds.filter (fun b => b.reg ≠ d.val)).length)) = .ok b →
      exec (.vbind st c d a) s = .next (completed (.vbind st c d a) s ((w.mapThr (fun t =>
        { t with binds := w.s.thr.binds.filter (fun b => b.reg ≠ d.val) ++ [b] })).markDirty 16))) ∧
    (Begins (.vunbind st c d) s w → exec (.vunbind st c d) s = .next (completed (.vunbind st c d) s (w.unbind d.val)))) ∧
  (∀ (s : State) (w w1 : Work) (st : Fin 16) (c : Bool) (a : Reg) (bytes : List Byte) (slot : Nat),
    let words := (List.range 6).map (fun i => BitVec.ofNat 64 (leNat ((bytes.drop (8 * i)).take 8)))
    let k := clusterOf slot
    (Begins (.fibdef st c a) s w → (w.x a.val).toNat % 64 = 0 → w.loadRun (w.x a.val) 48 = .ok (bytes, w1) →
      exec (.fibdef st c a) s = .next (completed (.fibdef st c a) s
        (w1.mapThr (fun t => { t with fibre := some { desc := w.x a.val, words := words, pos := 0 } })))) ∧
    (Begins (.fibend st c) s w →
      exec (.fibend st c) s = .next (completed (.fibend st c) s (w.mapThr (fun t => { t with fibre := none })))) ∧
    ((s.toMach.slot slot).thr.fibre ≠ none → ∃ lines, exec (.fibrePrefetch slot) s =
      .next { toMach := s.toMach.setVault k { s.toMach.vault k with fibreLines := lines }, mem := s.mem }))

/-- 01 R20; 04 R101, R104; 06 R170: elements written to a vector register: each holds the low bits of its last value, every
other element of the register and every other register keeps its bits, and the register is unbound. 06 R157: the stores of a
vector instruction write no byte outside its accesses, and change no register; where no two accesses share a byte, each access
leaves its bits there. -/
def Obligations.ElementWrites : Prop :=
  (∀ (w : Work) (d width : Nat) (l : List (Nat × Nat)), width ∈ [8, 16, 32, 64] → (∀ p ∈ l, p.1 < 16384 / width) →
    (l.map (fun p => p.1)).Nodup →
    (∀ p ∈ l, elem width ((w.putV d width l).s.regs.getV d) p.1 = BitVec.ofNat width p.2) ∧
    (∀ e < 16384 / width, (∀ p ∈ l, p.1 ≠ e) → elem width ((w.putV d width l).s.regs.getV d) e = elem width (w.s.regs.getV d) e) ∧
    SameVBut [d] w.s (w.putV d width l).s ∧ (∀ b ∈ (w.putV d width l).s.thr.binds, b.reg ≠ d) ∧
    (∀ bank n, (w.putV d width l).s.regs.getX bank n = w.s.regs.getX bank n) ∧ SameMasks w.s (w.putV d width l).s) ∧
  (∀ (w : Work) (bits : Nat → List FRes) (l : List (Nat × List Req)),
    (∀ x, x ∉ planLocs l → (w.storeElems bits l).byte x = w.byte x) ∧
    (w.storeElems bits l).s.regs = w.s.regs ∧
    ((planLocs l).Nodup → ∀ p ∈ l, ∀ r ∈ p.2.zip (bits p.1),
      (w.storeElems bits l).reqBits r.1 = r.2.1 % 2 ^ (8 * r.1.locs.length)))

/-! ### Tile and weight-buffer instructions (09; 10) -/

/-- 09 R226, R228 to R231; 10 R261: `tzero` zeroes every enabled accumulator; `tmop` adds the product of each row element of va
and column element of vb, with the row checksums off, or with integer elements and no lane error (log 54); with an error of the
lanes in the same enabled row of both computations it raises CHECKSUM_FAIL with that row, counted, and no accumulator changes.
09 R222 to R225, R232, R233; 10 R251 to R253: `tmma` adds a K-block of 16 and `tmms` the N terms of each column of a structured
block, where every operand check passes and the row checksums are off, or the elements integers and no lane errs (log 54). -/
def Obligations.TileProducts : Prop :=
  (∀ (s : State) (w : Work) (st : Fin 16) (p : Fin 4) (t : Fin 8) (a b : Reg),
    let src := w.tileSrc a b
    let n := 8 * codeBytes w.fmt
    (Begins (.tzero st p t) s w → exec (.tzero st p t) s = .next (completed (.tzero st p t) s
      (w.putAcc t.val ((w.enabledRows p.val).flatMap (fun r => (w.enabledCols p.val).map (fun c => (r * 64 + c, 0))))))) ∧
    (Begins (.tmop st p t a b) s w → w.core.cen = false ∨ (w.fmt = 0 ∧ w.core.upset = []) →
      exec (.tmop st p t a b) s = .next (completed (.tmop st p t a b) s (w.accumulated t.val p.val (fun row col =>
        w.cellOf src t.val w.fmt row col [(w.elemAt n a.val row, w.elemAt n b.val col)])))) ∧
    (Begins (.tmop st p t a b) s w → w.core.cen = true → w.fmt = 0 → ∀ r rest, w.core.upset = r :: r :: rest →
      r ∈ w.enabledRows p.val → w.enabledCols p.val ≠ [] → ∃ w2, exec (.tmop st p t a b) s =
        settle s (some (.tmop st p t a b)) (.error (.trap w2
          { cause := 0x11, acc := 0, stval := BitVec.ofNat 64 (r + 256 * t.val) })) ∧
        w2.core.t = w.core.t ∧ w2.core.fail = min 0xFFFF (w.core.fail + 1) ∧ w2.core.upset = rest)) ∧
  (∀ (s : State) (w : Work) (st : Fin 16) (p : Fin 4) (t : Fin 8) (a b : Reg) (l o : Bool) (offs : List Nat)
      (bt : Array Nat) (sbt : Array (Nat × Nat)),
    let src := w.tileSrc a b
    let size := codeBytes w.fmt
    let at_ := w.aNums l o false size 16 src a
    let read := w.aRead l o false size 16 src
    let ready := w.operandsReady src (w.aBlockBytes l o false size 16 src) offs
    w.checkA src l o (w.fmt == 9) (1024 * size) = .ok () → ready = .ok () →
    w.core.cen = false ∨ (w.fmt = 0 ∧ w.core.upset = []) →
    (Begins (.tmma st p t a b l o) s w → w.core.cmp ≠ 1 → w.denseBlock (w.x b.val) src.since = .ok (offs, bt) →
      exec (.tmma st p t a b l o) s = .next (completed (.tmma st p t a b l o) s (read.accumulated t.val p.val (fun row col =>
        w.cellOf src t.val (eltCode w.core.elt) row col
          ((List.range 16).map (fun j => (at_.getD (j * 64 + row) 0, bt.getD (j * 64 + col) 0))))))) ∧
    (Begins (.tmms st p t a b l o) s w → w.core.cmp = 1 → w.structuredBlock (w.x b.val) = .ok (offs, sbt) →
      exec (.tmms st p t a b l o) s = .next (completed (.tmms st p t a b l o) s (read.accumulated t.val p.val (fun row col =>
        w.cellOf src t.val (eltCode w.core.elt) row col ((List.range (2 ^ w.core.nsel)).map (fun i =>
          (at_.getD ((sbt.getD (i * 64 + col) (0, 0)).1 * 64 + row) 0, (sbt.getD (i * 64 + col) (0, 0)).2))))))))

/-- 10 R255, R256: `tmf64` adds the split-precision products of a K-block of 4 to the accumulator pairs of t and t + 1, where
every operand check passes and the row checksums are off. -/
def Obligations.SplitPrecision : Prop :=
  ∀ (s : State) (w : Work) (st : Fin 16) (p : Fin 4) (t : Fin 8) (a b : Reg) (l o : Bool),
    let src := w.tileSrc a b
    let off := (w.x b.val).toNat
    let at_ := w.aNums l o true 8 4 src a
    let read := w.aRead l o true 8 4 src
    let n := w.s.ctl.slc.toNat
    let av (r : Nat) : List FVal := (List.range 4).map (fun j => fDecode f64 (at_.getD (j * 64 + r) 0))
    let bv (c : Nat) : List FVal := (List.range 4).map (fun j => fDecode f64 (w.wbNum (off + (j * 64 + c) * 8) 8))
    let cell (r c : Nat) : Cell := splitCell n w.rm (w.acc t.val r c + 2 ^ 32 * w.acc (t.val + 1) r c) (av r) (bv c)
      (topExp (av r)) (topExp (bv c)) ((av r).map (slices n (topExp (av r)))) ((bv c).map (slices n (topExp (bv c))))
    let all := (w.enabledRows p.val).flatMap (fun r => (w.enabledCols p.val).map (fun c => (r * 64 + c, cell r c)))
    let w1 := read.setCore { w.core with unchk := min 0xFFFF w.core.unchk }
    Begins (.tmf64 st p t a b l o) s w → w.checkA src l o true 2048 = .ok () → w.wbBlock (w.x b.val) 2048 = .ok () →
    w.operandsReady src (w.aBlockBytes l o true 8 4 src) (offsets off 2048) = .ok () →
    w.core.cen = false →
    exec (.tmf64 st p t a b l o) s = .next (completed (.tmf64 st p t a b l o) s
      (((w1.putAcc t.val (all.map (fun x => (x.1, x.2.res % 2 ^ 32)))).putAcc (t.val + 1)
        (all.map (fun x => (x.1, x.2.res / 2 ^ 32)))).orFlags (all.foldl (fun a x => a ||| x.2.flags) 0)))

/-- 09 R234: `tld` and `tst` move a whole tile from and to 16 KiB: accumulator e at X[A] + 4 e, where every access passes its
checks. 09 R235, R236, R238: `trowmv` and `tcolmv` move the accumulator row or column X[B], below 64, between the tile and the
first 64 32-bit elements of va; `tvmv` moves a whole tile and eight registers, outside protected mode. -/
def Obligations.TileTransfers : Prop :=
  (∀ (s : State) (w : Work) (st : Fin 16) (t : Fin 8) (a : Reg) (o : Bool) (l : List (Nat × List Req)),
    let plan (write : Bool) (e : Nat) : Except EFault (List Req) :=
      (w.req (w.x a.val + BitVec.ofNat 64 (4 * e)) 4 write o).map (fun r => [r])
    (w.x a.val).toNat % (if o then 0x4000 else 64) = 0 →
    (Begins (.tld st t a o) s w → planAll (plan false) (List.range 4096) = (l, none) → readable w.m (planLocs l) = .ok () →
      lostAddr w.s.unit.lost o l = none → firstPoison w.m l = none →
      exec (.tld st t a o) s = .next (completed (.tld st t a o) s
        (((((planLocs l).foldl (fun w x => w.scrub x) w).putAcc t.val (l.map (fun p => (p.1, (p.2.map w.reqBits).headD 0)))).countHot
          0 l).countRemote (planLocs l) |>.touchFibre (planLocs l)))) ∧
    (Begins (.tst st t a o) s w → planAll (plan true) (List.range 4096) = (l, none) →
      writable w.m w.m.cur (planLocs l) = .ok () →
      exec (.tst st t a o) s = .next (completed (.tst st t a o) s
        ((w.storeElems (fun e => [(w.acc t.val (e / 64) (e % 64), 0)]) l).countHot 0 l)))) ∧
  (∀ (s : State) (w : Work) (st : Fin 16) (t : Fin 8) (a b : Reg),
    let i := (w.x b.val).toNat
    let line (num : Nat → Nat) (toTile : Bool) : Work :=
      if toTile then w.putAcc t.val ((List.range 64).map (fun k => (num k, w.elemAt 32 a.val k)))
      else w.putV a.val 32 ((List.range 64).map (fun k => (k, (elem 32 (w.tile t.val) (num k)).toNat)))
    (∀ k, Begins (.trowmv st t a b k) s w → i < 64 → exec (.trowmv st t a b k) s =
      .next (completed (.trowmv st t a b k) s (line (fun c => i * 64 + c) k))) ∧
    (∀ k, Begins (.tcolmv st t a b k) s w → i < 64 → exec (.tcolmv st t a b k) s =
      .next (completed (.tcolmv st t a b k) s (line (fun r => r * 64 + i) k))) ∧
    (Begins (.tvmv st t a true) s w → w.prot = false → exec (.tvmv st t a true) s = .next (completed (.tvmv st t a true) s
      (w.putAcc t.val ((List.range 8).flatMap (fun g => (List.range 512).map (fun e =>
        (e % 64 * 64 + (8 * g + e / 64), w.elemAt 32 ((a.val + g) % 32) e))))))) ∧
    (Begins (.tvmv st t a false) s w → w.prot = false → exec (.tvmv st t a false) s =
      .next (completed (.tvmv st t a false) s ((List.range 8).foldl (fun x g => x.putV ((a.val + g) % 32) 32
        ((List.range 512).map (fun e => (e, (elem 32 (w.tile t.val) (e % 64 * 64 + (8 * g + e / 64))).toNat)))) w))))

/-- 09 R214, R215: `ten` claims a free tile group into INIT with every accumulator and weight-buffer byte 0, leaves one that the
slot owns as it is, and raises TILE_DISABLED, detail 2, where the other slot owns it; `tdis` waits for the owning slot's matrix
sequencer, then gives the group up, and has no effect in a slot that does not own it. 10 R244, R246, R250, R258, R262: `wbld`
copies 2,048 bytes from 32 lines into the weight buffer, changes no other byte, and clears the marks of its lines and no other,
where every check passes; `wbfmt` sets a legal weight format; `tchk` sets CEN; `tchkrd` reads the checksum counters into X[A]
and clears them. -/
def Obligations.TileClaimAndWeights : Prop :=
  (∀ (s : State) (w : Work) (st : Fin 16),
    let k := coreOf w.m.cur
    (Begins (.ten st) s w → w.core.owner = none → exec (.ten st) s = .next (completed (.ten st) s (w.claimTile w.m.cur)) ∧
      ((w.claimTile w.m.cur).m.core k).owner = some w.m.cur ∧ ((w.claimTile w.m.cur).m.core k).tstate = 1 ∧
      (∀ t, tabGet 0 ((w.claimTile w.m.cur).m.core k).t t = 0) ∧
      (∀ off < 2 ^ 18, (w.claimTile w.m.cur).byte (wbLoc k off) = 0)) ∧
    (Begins (.ten st) s w → w.core.owner = some w.m.cur → exec (.ten st) s = .next (completed (.ten st) s w)) ∧
    (Begins (.ten st) s w → ∀ o, w.core.owner = some o → o ≠ w.m.cur → exec (.ten st) s =
      settle s (some (.ten st)) (.error (.trap w { cause := 0x06, acc := 0, stval := 2 }))) ∧
    (Begins (.tdis st) s w → w.s.mseq.st ≠ .running ∨ w.core.owner ≠ some w.m.cur → exec (.tdis st) s =
      .next (completed (.tdis st) s (w.releaseTile w.m.cur))) ∧
    (Begins (.tdis st) s w → w.s.mseq.st = .running → w.core.owner = some w.m.cur → exec (.tdis st) s =
      .next (s.await .sequencer (some (.tdis st)))) ∧
    (w.core.owner = some w.m.cur → ((w.releaseTile w.m.cur).m.core k).owner = none) ∧
    (w.core.owner ≠ some w.m.cur → w.releaseTile w.m.cur = w)) ∧
  (∀ (s : State) (w : Work) (st : Fin 16) (a b : Reg) (l : List (Nat × List Req)),
    let k := coreOf w.m.cur
    let off := (w.x b.val).toNat
    let v := (w.x a.val).toNat
    let c := w.core
    (Begins (.wbld st a b) s w → v % 64 = 0 → off % 64 = 0 → off + 2048 ≤ 0x40000 →
      planAll (fun e => (w.req (w.x a.val + BitVec.ofNat 64 (64 * e)) 64 false false).map (fun r => [r])) (List.range 32) =
        (l, none) → readable w.m (planLocs l) = .ok () →
      (∀ i < 2048, w.m.ownedBefore (w.tileSrc a b).since (wbLoc k (off + i) / 64) = false) →
      lostAddr w.s.unit.lost false l = none → firstPoison w.m l = none →
      s.MemOk → (planLocs l).length = 2048 ∧ ∃ t, exec (.wbld st a b) s = .next t ∧
        (∀ i < 2048, memGet t.mem (wbLoc k (off + i)) = w.byte ((planLocs l).getD i 0)) ∧
        (∀ x, x < wbLoc k off ∨ wbLoc k off + 2048 ≤ x → memGet t.mem x = w.byte x) ∧
        (∀ n, n ∈ (t.core k).marks ↔ n ∈ c.marks ∧ (n < off / 64 ∨ off / 64 + 32 ≤ n))) ∧
    (Begins (.wbfmt st a) s w → v % 4 ≠ 3 → v / 4 % 4 ≠ 3 → (v / 16 % 4 = 0 ∨ v / 4 % 4 = 1) → v < 64 →
      exec (.wbfmt st a) s = .next (completed (.wbfmt st a) s
        (w.setCore { c with elt := v % 4, cmp := v / 4 % 4, nsel := v / 16 % 4 }))) ∧
    (Begins (.tchk st a) s w → v < 2 → exec (.tchk st a) s =
      .next (completed (.tchk st a) s (w.setCore { c with cen := v == 1 }))) ∧
    (Begins (.tchkrd st a) s w → exec (.tchkrd st a) s = .next (completed (.tchkrd st a) s
      ((w.setCore { c with unchk := 0, rpl := 0, fail := 0 }).setX a.val
        (BitVec.ofNat 64 (c.unchk + c.rpl * 2 ^ 16 + c.fail * 2 ^ 32 + c.cen.toNat * 2 ^ 63))))))

/-- 09 R216, R217, R222, R241, R242: the tile unit accepts the command at the head of a core's queue as its owner's operation:
the command leaves the queue, and its operation stands behind those that the tile unit has accepted and behind what the owner's
thread has issued; an illegal command, or one that the owner or NR forbids, is discarded with its cause in ERR and CAUSE, and
DONE counts it. -/
def Obligations.MatrixCommands : Prop :=
  ∀ (s : State) (core n : Nat) (q : MatrixCommand) (rest : List MatrixCommand), (s.toMach.core core).owner = some n →
    (s.toMach.core core).queue = q :: rest →
    let w1 : Work := { s.work with m := { s.toMach with cur := n } }
    let src : TileSrc :=
      { own := false, fmt := w1.fmt, slc := w1.s.ctl.slc.toNat, rm := w1.rm, opa := q.opa, opb := q.opb, since := s.pkg.nextCopy, lost := [] }
    let c : Core := { s.toMach.core core with queue := rest }
    let after (c' : Core) : State := Work.finish { s.work with m := (s.toMach.setCore core c).setCore core c' } s
    let turnedAway (cause : Nat) : State :=
      after { c with mcqDone := (c.mcqDone + 1) % 2 ^ 32, mcqErr := true, mcqCause := cause }
    (commandInstr q.word = none → exec (.matrixCommandAccept core) s = .next (turnedAway 0x01)) ∧
    (∀ i, commandInstr q.word = some i →
      (∀ t, w1.offerFault i src q.word = some t → exec (.matrixCommandAccept core) s = .next (turnedAway t.cause)) ∧
      (w1.offerFault i src q.word = none →
        let op : TileOp :=
          { bySeq := false, instr := i, word := q.word, src := src, ksteps := q.ksteps, arrivals := 0, mismatched := false,
            consumed := [], after := w1.s.tilePlace }
        exec (.matrixCommandAccept core) s = .next (after { c with tileOps := c.tileOps ++ [op] })))

/-! ### Lanes and the vector queue window (03 R57; 04 R94; 07 R175 to R177; 09 R219; 15 R365, R370; 16 R406, R407) -/

/-- 03 R57; 04 R94; 07 R176; 09 R219; 15 R370: a slot's oldest instruction in flight commits, or writes its late result: a
vector instruction at the commit point, where it makes its accesses; a scalar one of variable latency; a rendezvous, or a tile
operation of the core's owner, once all 16 lanes have arrived. A tile operation that the sequencer or the queue offered
completes, or ends by its fault, in the same way; an uncorrectable error that it consumes for the first time runs it again. That
an access of an entry takes place at its commit is the model's replay queue (log 6). 07 R175, R177; 09 R219, R238; 15 R370; 16
R406, R407: a lane that has completed every earlier entry of its queue arrives at the rendezvous that is the next one; a window
replay, and the first mismatch of paired lanes or of a lockstep pair, reissue the window: no vector entry has arrived or
completed, and the Annals count it; a second mismatch at the replayed instruction stops the slot, which is bound elsewhere. That
a tile operation of the sequencer or the queue in the lanes' queues takes arrivals, replays and mismatches before the slot's own
window is the model's replay queue (log 6 and log 17): no rule orders them. 15 R365: at the commit point of a slot's faulting
instruction the slot takes its trap. -/
def Obligations.InFlightEvents : Prop :=
  (∀ (s : State) (n : Nat),
    let w0 : Work := State.work { s with cur := n }
    let after (w' : Work) : State := { w'.finish { s with cur := n } with cur := s.cur }
    (∀ f w, w0.inFlight = some (f, w) →
      let i := infoOf f.ctl.fmt f.instr
      let meets := isRendezvous f.ctl.fmt f.instr
      (w.s.toRun f = false → i.cls ≠ .scalar → meets = false → exec (.vectorCommit n) s = .next (after w.commitOldest)) ∧
      (w.s.toRun f = true → ∀ w1, w.runFlight f (meaningOf f.instr) = .ok w1 →
        (i.cls ≠ .scalar → meets = false → exec (.vectorCommit n) s = .next (after w1)) ∧
        (i.cls = .scalar → i.tile = false → meets = false → i.lat = none → i.wr ≠ [] →
          exec (.variableLatencyResult n) s = .next (after w1)) ∧
        (meets = true → i.tile = false → f.arrivals = 0xFFFF → exec (.rendezvousComplete n) s = .next (after w1)) ∧
        (meets = true → i.tile = true → f.arrivals = 0xFFFF → (s.toMach.core (coreOf n)).owner = some n →
          s.toMach.laneOp n = none → exec (.tileOpComplete (coreOf n)) s = .next (after w1)))) ∧
    (∀ op, s.toMach.laneOp n = some op → op.arrivals = 0xFFFF →
      (∀ w', s.work.tileWork n op = .ok w' → exec (.tileOpComplete (coreOf n)) s =
        .next ((w'.tileEnd (coreOf n) n op none).finish s)) ∧
      (∀ w' t, s.work.tileWork n op = .error (.trap w' t) →
        (t.cause ≠ 0x10 ∨ t.stval ∈ op.consumed → exec (.tileOpComplete (coreOf n)) s =
          .next ((w'.tileEnd (coreOf n) n op (some t)).finish s)) ∧
        (t.cause = 0x10 → t.stval ∉ op.consumed →
          let again : TileOp := { op with arrivals := 0, consumed := t.stval :: op.consumed }
          let c := s.toMach.core (coreOf n)
          let m := s.toMach.setCore (coreOf n) { c with tileOps := again :: c.tileOps.drop 1 }
          exec (.tileOpComplete (coreOf n)) s =
            .next (Work.finish { s.work with m := m.countAnnals (.windowReplay (coreOf n)) } s))))) ∧
  (∀ (s : State) (n : Nat) (lane : Fin 16) (low : Fin 8),
    let w0 : Work := State.work { s with cur := n }
    let after (w' : Work) : State := { w'.finish { s with cur := n } with cur := s.cur }
    let counted (w : Work) (k : AnnalsKey) : Work := { w with m := w.m.countAnnals k }
    (s.toMach.laneOp n = none → ∀ f w, w0.inFlight = some (f, w) →
      let i := infoOf f.ctl.fmt f.instr
      let again (k : AnnalsKey) : State := after
        ((counted w k).putWindow ({ f with mismatched := true } :: w.s.thr.window.drop 1)).replay
      (∀ fs g gs, w.s.thr.window = fs ++ g :: gs → (∀ e ∈ fs, e.lanes.getLsbD lane.val = true) → g.lanes.getLsbD lane.val = false →
        isRendezvous g.ctl.fmt g.instr = true → exec (.rendezvousArrival n lane) s =
          .next (after (w.putWindow (fs ++ { g with arrivals := g.arrivals ||| BitVec.twoPow 16 lane.val } :: gs)))) ∧
      (i.cls ≠ .scalar ∨ i.tile = true → exec (.windowReplay n) s = .next (after w.replay)) ∧
      (w.prot = true → i.cls ≠ .scalar ∨ i.tile = true →
        (f.mismatched = false → exec (.laneMismatch n low) s = .next (again (.laneMismatch (coreOf n) low.val))) ∧
        (f.mismatched = true → exec (.laneMismatch n low) s =
          .next (after (w.stopAt mcLane (coreOf n * 16 + low.val) [coreOf n])))) ∧
      (w.ctx.lockstep = true →
        (f.mismatched = false → exec (.lockstepMismatch n) s = .next (again (.lockstepDivergence (clusterOf n / 2)))) ∧
        (f.mismatched = true → exec (.lockstepMismatch n) s = .next (after (w.stopAt mcLockstep (clusterOf n / 2)
          ((List.range 8).map (fun i => clusterOf n / 2 * 8 + i))))))) ∧
    (∀ op, s.toMach.laneOp n = some op →
      let held (m : Mach) (op : TileOp) : Mach :=
        m.setCore (coreOf n) { m.core (coreOf n) with tileOps := op :: (m.core (coreOf n)).tileOps.drop 1 }
      let put (m : Mach) : State := Work.finish { s.work with m := m } s
      let arrived : TileOp := { op with arrivals := op.arrivals ||| BitVec.twoPow 16 lane.val }
      let twice : TileOp := { op with mismatched := true, arrivals := 0 }
      exec (.rendezvousArrival n lane) s = .next (put (held s.toMach arrived)) ∧
      exec (.windowReplay n) s = .next (put ((held s.toMach { op with arrivals := 0 }).countAnnals (.windowReplay (coreOf n)))) ∧
      (w0.prot = true → w0.s.unit.st = .run → op.mismatched = false → exec (.laneMismatch n low) s = .next (after
        (counted { w0 with m := held (w0.m.countAnnals (.laneMismatch (coreOf n) low.val)) twice } (.windowReplay (coreOf n))))) ∧
      (w0.prot = true → w0.s.unit.st = .run → op.mismatched = true → exec (.laneMismatch n low) s =
        .next (after ((w0.undoLaneOps n).stopAt mcLane (coreOf n * 16 + low.val) [coreOf n]))))) ∧
  (∀ (s : State) (n : Nat) (w w' : Work) (t : Trap), Work.nextTrap (State.work { s with cur := n }) = some (w, t) →
    w.takeTrap t = .ok w' → exec (.trapEntry n) s = .next { w'.finish { s with cur := n } with cur := s.cur })

/-! ### Copies (11) -/

/-- 11 R264 to R268, R273 to R278, R280, R283: a copy instruction whose command passes its checks gives it to the engine of the
slot's cluster and writes the pending mark, all ones, to X[D]; the command reaches its issue point, where its target, the owners
and what their check finds are fixed, and claims its destination lines at once, or ends at once where it moves no byte. The
parameters are the registers from X[A] up, as many as the command has. 11 R264, R269 to R271, R279, R282, R285; 16 R402: a
command whose destination bytes all have their place, on lines that it owns or can take, is accepted, and owns those lines; an
engine accepts the first of its waiting commands, in their order, for which that holds. An accepted copy whose destination still
belongs to its owner, and that need not wait for an earlier copy, a put or an image, completes with its bytes written and token
0; a `cpym` lands together with its follow-on command at the end of its core's queue, waits where that holds 32, and fails with
TILE_DISABLED, detail 4, where the core has no owner; where the owner has changed a copy fails with the cause that R279 gives;
one whose page request was refused fails with detail 0x7F; one of a cancelled launch fails with CANCELLED. A copy that fails
writes nothing. A source byte that no earlier turn has read is read at the completion point, and an image of the issuer that
cannot be written keeps the copy waiting, also one that has failed, by log 15 (DEDUCED) and log 56 (DESIGN CHOICE): R270 allows
any moment up to C. -/
def Obligations.Copies : Prop :=
  (∀ (s : State) (w w1 w' : Work) (st : Fin 16) (d a b : Reg) (u t : Bool) (c0 : Copy), w.s.unit.remoteOut = 0 →
    let c := c0.atIssue w1.m
    let w2 := (w1.toEngine c).setX d.val 0xFFFFFFFFFFFFFFFF
    let tok : PendTok := { sup := inBank w2.s.regs.level d.val, reg := d.val, ident := c.ident }
    let issued (i : CopyIn) : Prop :=
      w.checkCopy (w.newCopy i (w.s.regs.level == .supervisor) d.val false) = .ok (c0, w1) ∧
      claimCopy c (w2.mapThr (fun t => { t with pend := t.pend ++ [tok] })) = .ok w'
    let p (n : Nat) : List Word := (List.range n).map (fun i => w.x (a.val + i))
    let z : List Word := (List.range 10).map (fun i => elem 64 (w.v b.val) i)
    let ends (i : Instr) : Prop := exec i s = .next (completed i s w')
    (Begins (.cpy st d a u t) s w → issued { code := 0, params := p 3, od := u, os := t, shape := [] } → ends (.cpy st d a u t)) ∧
    (Begins (.cpy2 st d a u t) s w → issued { code := 1, params := p 6, od := u, os := t, shape := [] } → ends (.cpy2 st d a u t)) ∧
    (Begins (.cpyt st d a b u t) s w → issued { code := 2, params := p 2, od := u, os := t, shape := z } → ends (.cpyt st d a b u t)) ∧
    (Begins (.cpyr st d a u t) s w → issued { code := 3, params := p 3, od := u, os := t, shape := [] } → ends (.cpyr st d a u t)) ∧
    (Begins (.cpym st d a u t) s w → issued { code := 4, params := p 4, od := u, os := t, shape := [] } → ends (.cpym st d a u t)) ∧
    (Begins (.cpyx st d a u t) s w → issued { code := 5, params := p 4, od := u, os := t, shape := [] } → ends (.cpyx st d a u t)) ∧
    (Begins (.cpyfill st d a u) s w → issued { code := 6, params := p 3, od := u, os := false, shape := [] } →
      ends (.cpyfill st d a u)) ∧
    (Begins (.cpybc st d a u t) s w → issued { code := 7, params := p 4, od := u, os := t, shape := [] } → ends (.cpybc st d a u t))) ∧
  (∀ (s : State) (cluster ident : Nat) (c : Copy) (cs : List Copy) (w1 : Work),
    (∀ p, (s.toMach.engine (clusterOf c.slot)).cmds.find? (fun x => x.ident = c.ident) = some c → c.empty = false → c.doomed = none →
      c.placing c.placedPieces s.work = (p, w1) → p.misses = [] →
      (∀ l ∈ p.lines, l ∈ c.lines ∨ w1.takes c.ident l = true) → ∃ w', claimCopy c s.work = .ok w' ∧
        ∀ x ∈ (w'.m.engine (clusterOf c.slot)).cmds, x.ident = c.ident → x.accepted = true ∧ ∀ l ∈ p.lines, l ∈ x.lines) ∧
    (s.toMach.inOrder ((s.toMach.engine cluster).cmds.filter (fun c =>
        !c.accepted && !c.cancelled && !c.failedReq && c.request.isNone)) = c :: cs →
      claimCopy c s.work = .ok w1 →
      (∀ x ∈ (w1.m.engine (clusterOf c.slot)).cmds, x.ident = c.ident → x.accepted = true) →
      exec (.copyEngineAccept cluster) s = .next (w1.finish s)) ∧
    ((s.toMach.engine cluster).cmds.find? (fun c => c.ident = ident) = some c → c.cancelled = false → c.accepted = true →
      c.failedReq = false → c.request = none → c.ownerFaultAtC s.toMach = none → c.code ≠ 4 →
      c.waits s.work = false → ∀ ws fl, c.run c.placedPieces s.work = .ok (ws, fl, w1) →
      exec (.copyCompletion cluster ident) s = .next (((w1.landCopy c ws).endCopy c 0 0 fl).finish s)) ∧
    ((s.toMach.engine cluster).cmds.find? (fun c => c.ident = ident) = some c → c.cancelled = false → c.accepted = true →
      c.failedReq = false → c.request = none → c.ownerFaultAtC s.toMach = none → c.code = 4 → c.waits s.work = false →
      ∀ ws fl k, c.run c.placedPieces s.work = .ok (ws, fl, w1) → c.target = some k →
      let t := w1.m.core k
      (t.owner = none → exec (.copyCompletion cluster ident) s = .next ((w1.failCopy c 0x06 4 0 (c.p 0)).finish s)) ∧
      (∀ n, t.owner = some n → 32 ≤ t.queue.length → exec (.copyCompletion cluster ident) s = .next s) ∧
      (∀ n, t.owner = some n → t.queue.length < 32 →
        let q : MatrixCommand :=
          { word := c.word, opa := c.opa, opb := c.opb, ksteps := kstepsOfWord (w1.m.formatNow k).nsel (w1.m.slot n).ctl.slc.toNat c.word }
        let m := w1.m.setCore k { t with queue := t.queue ++ [q] }
        exec (.copyCompletion cluster ident) s = .next (((Work.landCopy { w1 with m := m } c ws).endCopy c 0 0 0).finish s))) ∧
    ((s.toMach.engine cluster).cmds.find? (fun c => c.ident = ident) = some c → c.cancelled = false → c.accepted = true →
      c.failedReq = false → c.request = none → c.imageBusy s.work = false →
      ∀ cause d off, c.ownerFaultAtC s.toMach = some (cause, d, off) → exec (.copyCompletion cluster ident) s =
        .next ((s.work.failCopy c cause d off (c.p 0 + BitVec.ofNat 64 off)).finish s)) ∧
    ((s.toMach.engine cluster).cmds.find? (fun c => c.ident = ident) = some c → c.cancelled = false → c.failedReq = true →
      c.imageBusy s.work = false → exec (.copyCompletion cluster ident) s = .next ((s.work.failCopy c 0x08 0x7F c.asked.1 c.asked.2).finish s)) ∧
    ((s.toMach.engine cluster).cmds.find? (fun c => c.ident = ident) = some c → c.cancelled = true →
      c.imageBusy s.work = false → exec (.copyCompletion cluster ident) s = .next ((s.work.failCopy c 0x19 0 0 (c.p 0)).finish s)))

/-! ### Ordering, barriers and waits (12; 03 R76, R78) -/

/-- 12 R304, R306 to R308, R310: `barinit` sets EXPECT, empties ARRIVED and advances GEN; `bararr` adds the active set bits of
mb as they stand now, opening a generation at every EXPECT of them, and leaves the ticket in `barseq` and `vstart` 0. `barwait`
looks at the slot that its ticket names, at the cluster in it, and without a ticket at the slot of its own cluster: it completes
where EXPECT is 0 or the ticketed generation, or without a ticket its first generation, is no longer the slot's, and else waits,
on that generation. A slot that is not the context's raises ACCESS_VIOLATION, detail 12, for `barwait` before the wait begins; a
number above 63 raises BOUNDS, and so does an EXPECT of more than 32 bits; `barwait` in a cancelled launch raises CANCELLED. -/
def Obligations.Barriers : Prop :=
  ∀ (s : State) (w : Work) (st : Fin 16) (a b : Reg) (g : Bool),
    let n := (w.x a.val).toNat
    let barrier (cluster : Nat) : Barrier := tabGet Barrier.reset w.m.barriers (if g then 3072 + n else cluster * 64 + n)
    let ix := if g then 3072 + n else clusterOf w.m.cur * 64 + n
    let bar := barrier (clusterOf w.m.cur)
    let traps (i : Instr) (cause : Nat) (v : Word) : Prop :=
      exec i s = settle s (some i) (.error (.trap w { cause := cause, acc := 0, stval := v }))
    let notOurs : Word := BitVec.ofNat 64 (n + 12 * 2 ^ 57)
    (Begins (.barwait st a g) s w → w.m.cancelledLid w.s.unit.lid = true → traps (.barwait st a g) 0x19 0) ∧
    (63 < n →
      (Begins (.barinit st a b g) s w → traps (.barinit st a b g) 0x0F (w.x a.val)) ∧
      (Begins (.bararr st a b g) s w → exec (.bararr st a b g) s =
        settle s (some (.bararr st a b g)) (.error (.trap (w.setVstart 0) { cause := 0x0F, acc := 0, stval := w.x a.val }))) ∧
      (Begins (.barwait st a g) s w → w.m.cancelledLid w.s.unit.lid = false → traps (.barwait st a g) 0x0F (w.x a.val))) ∧
    (n ≤ 63 →
      (Begins (.barinit st a b g) s w →
        (2 ^ 32 ≤ (w.x b.val).toNat → traps (.barinit st a b g) 0x0F (w.x b.val)) ∧
        ((w.x b.val).toNat < 2 ^ 32 → bar.ctx ≠ some w.s.unit.ctx → traps (.barinit st a b g) 0x0A notOurs) ∧
        ((w.x b.val).toNat < 2 ^ 32 → bar.ctx = some w.s.unit.ctx → exec (.barinit st a b g) s =
          .next (completed (.barinit st a b g) s { w with m := w.m.setBarrier ix { bar with
            expect := (w.x b.val).setWidth 32, arrived := 0, gen := bar.gen + 1 } }))) ∧
      (Begins (.bararr st a b g) s w →
        let k := (w.active.filter (fun e => bitB (w.s.regs.getM b.val) e)).length
        let tick := if bar.expect = 0 ∨ k = 0 then bar.gen
          else bar.gen + BitVec.ofNat 32 ((bar.arrived.toNat + k - 1) / bar.expect.toNat)
        let new := if bar.expect = 0 then bar else { bar with
          gen := bar.gen + BitVec.ofNat 32 ((bar.arrived.toNat + k) / bar.expect.toNat),
          arrived := BitVec.ofNat 32 ((bar.arrived.toNat + k) % bar.expect.toNat) }
        let q := n + 64 * g.toNat + 128 + 256 * (if g then 0 else clusterOf w.m.cur) + 2 ^ 32 * tick.toNat
        (bar.ctx ≠ some w.s.unit.ctx → exec (.bararr st a b g) s = settle s (some (.bararr st a b g))
          (.error (.trap (w.setVstart 0) { cause := 0x0A, acc := 0, stval := notOurs }))) ∧
        (bar.ctx = some w.s.unit.ctx → exec (.bararr st a b g) s = .next (completed (.bararr st a b g) s
          ({ w with m := w.m.setBarrier ix new }.mapCtl (fun c => { c with barseq := BitVec.ofNat 64 q, vstart := 0 }))))) ∧
      (Begins (.barwait st a g) s w → w.m.cancelledLid w.s.unit.lid = false →
        let q := w.s.ctl.barseq
        let ticket : Prop := bitsN q 0 8 = n + 64 * g.toNat + 128
        let slotOf (k : Nat) : Prop := (ticket → k = bitsN q 8 6) ∧ (¬ticket → k = clusterOf w.m.cur)
        let waiting : Prop := ∃ t, w.s.unit.waiting = some (.barrier t)
        ∀ k, slotOf k → g = true ∨ k < 48 →
          let now := barrier k
          (now.ctx ≠ some w.s.unit.ctx → ¬waiting → traps (.barwait st a g) 0x0A notOurs) ∧
          (now.ctx = some w.s.unit.ctx ∨ waiting →
            (now.expect = 0 → exec (.barwait st a g) s = .next (completed (.barwait st a g) s w)) ∧
            (ticket → now.gen.toNat ≠ bitsN q 32 32 → exec (.barwait st a g) s = .next (completed (.barwait st a g) s w)) ∧
            (ticket → now.expect ≠ 0 → now.gen.toNat = bitsN q 32 32 → exec (.barwait st a g) s =
              .next (s.await (.barrier none) (some (.barwait st a g)))) ∧
            (¬ticket → now.expect ≠ 0 → (∀ t, w.s.unit.waiting ≠ some (.barrier (some t))) → exec (.barwait st a g) s =
              .next (s.await (.barrier (some now.gen)) (some (.barwait st a g)))) ∧
            (¬ticket → ∀ t, w.s.unit.waiting = some (.barrier (some t)) →
              (now.gen ≠ t → exec (.barwait st a g) s = .next (completed (.barwait st a g) s w)) ∧
              (now.expect ≠ 0 → now.gen = t → exec (.barwait st a g) s =
                .next (s.await (.barrier (some t)) (some (.barwait st a g))))))))

/-- 12 R298, R301, R302: `fence` at system scope waits while an access of the thread, and `rel` there while one of the package,
is still to be performed; otherwise, like `acq`, they complete with no other effect. That the outstanding accesses of the slots
are those that the two wait for is log 47 (DEDUCED). 12 R309; 03 R78: `wmwait` completes where every producer that is still live
has passed the bound X[A], by the word at its progress address, and none has FAILED or been CANCELLED. -/
def Obligations.ScopesAndWatermarks : Prop :=
  (∀ (s : State) (w : Work) (st : Fin 16) (k : Fin 8),
    (Begins (.fence st k) s w → k.val ≠ 3 ∨ w.s.unit.remoteOut = 0 →
      exec (.fence st k) s = .next (completed (.fence st k) s w)) ∧
    (Begins (.fence st k) s w → k.val = 3 → w.s.unit.remoteOut ≠ 0 → exec (.fence st k) s =
      .next (s.await .remote (some (.fence st k)))) ∧
    (Begins (.acq st k) s w → exec (.acq st k) s = .next (completed (.acq st k) s w)) ∧
    (Begins (.rel st k) s w → k.val ≠ 3 ∨ (∀ p ∈ w.m.slots, p.2.unit.remoteOut = 0) →
      exec (.rel st k) s = .next (completed (.rel st k) s w)) ∧
    (Begins (.rel st k) s w → k.val = 3 → (∃ p ∈ w.m.slots, p.2.unit.remoteOut ≠ 0) → exec (.rel st k) s =
      .next (s.await .remote (some (.rel st k))))) ∧
  (∀ (s : State) (w : Work) (st : Fin 16) (a : Reg), Begins (.wmwait st a) s w → w.m.cancelledLid w.s.unit.lid = false →
    let bound := (w.x a.val).toNat
    ((∀ k ∈ w.s.unit.wms, k.status w.m ≠ 3 ∧ k.status w.m ≠ 4 ∧ (k.need bound ≤ 0 ∨ k.status w.m ≠ 1)) →
      exec (.wmwait st a) s = .next (completed (.wmwait st a) s w)) ∧
    (∀ k loc w1, w.s.unit.wms = [k] → k.status w.m = 1 → 0 < k.need bound → ScalarReads w k.addr 8 loc w1 →
      k.need bound ≤ (leNat (w1.bytes loc 8) : Int) →
      exec (.wmwait st a) s = .next (completed (.wmwait st a) s (w1.readAt loc 8))))

/-- 03 R76: `wait` reads the 8-byte word at xa; where it differs from xd, or a pre-emption or cancel is pending, it writes the
word to xd; else it goes on waiting, with no effect. 03 R72, R76, R78; 12 R308, R309: an instruction that waits in slot n
completes by the event that ends its wait, where its meaning can; `wait` ends after its time limit by reading the word whatever
it holds, outside Calendar mode; a held line is given back. -/
def Obligations.Waits : Prop :=
  (∀ (s : State) (w w1 : Work) (st : Fin 16) (d a : Reg) (loc : Nat), Begins (.wait st d a) s w →
    ScalarReads w (w.x a.val) 8 loc w1 →
    let v : Word := BitVec.ofNat 64 (leNat (w1.bytes loc 8))
    (v ≠ w.x d.val ∨ w.leaving = true →
      exec (.wait st d a) s = .next (completed (.wait st d a) s ((w1.readAt loc 8).setX d.val v))) ∧
    (v = w.x d.val → w.leaving = false → exec (.wait st d a) s = .next (s.await .watch (some (.wait st d a))))) ∧
  (∀ (s : State) (n line : Nat) (w w' w1 : Work) (st : Fin 16) (d a : Reg) (g : Bool) (t : Option (BitVec 32)) (loc : Nat),
    let sn : State := { s with cur := n }
    let u := (s.toMach.slot n).unit
    let ends (i : Instr) (w' : Work) : State := { completed i sn w' with cur := s.cur }
    (u.waiting = some (.barrier t) → u.held = some (.barwait st a g) → Begins (.barwait st a g) sn w →
      Sys2Proof.Machine.bodyBarwait a g w = .ok w' → exec (.barwaitRelease n) s = .next (ends (.barwait st a g) w')) ∧
    (u.waiting = some .watermark → u.held = some (.wmwait st a) → Begins (.wmwait st a) sn w →
      w.passWatermarks (w.x a.val).toNat w.s.unit.wms = .ok w' → w.m.cancelledLid w.s.unit.lid = false →
      exec (.watermarkSatisfied n) s = .next (ends (.wmwait st a) w')) ∧
    (u.waiting = some .watch → u.held = some (.wait st d a) → Begins (.wait st d a) sn w → ScalarReads w (w.x a.val) 8 loc w1 →
      let v : Word := BitVec.ofNat 64 (leNat (w1.bytes loc 8))
      (v ≠ w.x d.val ∨ w.leaving = true →
        exec (.waitWake n) s = .next (ends (.wait st d a) ((w1.readAt loc 8).setX d.val v))) ∧
      (w.calendar = false → exec (.waitTimeout n) s = .next (ends (.wait st d a) ((w1.readAt loc 8).setX d.val v)))) ∧
    ((∃ h ∈ s.toMach.pkg.holds, h.1 = line) → exec (.linkHoldExpiry line) s = .next
      { s with pkg := { s.toMach.pkg with holds := s.toMach.pkg.holds.filter (fun h => h.1 ≠ line) } }))

/-! ### Recovery scope (13) -/

/-- 13 R314, R317, R323, R325 to R328, R331: with the recovery instructions enabled, `relrcv` completes once the unit's copies,
remote accesses and Almanac writes are at the persistence point. `ckpbeg` clears the seal block in its first write, waits until
that is at the persistence point, and then completes with a record open. `ckpseal` writes the footprint list and bytes 8 to 127
of the seal block, whose hash covers the footprint lines, waits, writes MAGIC and LINES, waits, and then completes with the
record closed. `ckpverify` answers STATUS, scrubs what it read, and where asked and possible advances the recovery point;
`ckpabort` closes the record; `rprd` reads the recovery point. -/
def Obligations.RecoveryInstructions : Prop :=
  ∀ (s : State) (w w1 : Work) (st : Fin 16) (d a b : Reg) (places : List (Nat × Nat)),
    let u := w.s.unit
    let durable : Prop := w.m.copiesOf u.lid u.unit = [] ∧ u.remoteOut = 0 ∧ u.notDurable = []
    let w0 := s.work
    let wrote (i : Instr) (w' : Work) : State :=
      (w'.mapUnit (fun u => { u.await .persist (some i) s.pkg.nextCopy with stage := u.stage + 1 })).finish s
    (Begins (.rprd st d b) s w → exec (.rprd st d b) s = .next (completed (.rprd st d b) s (w.setX d.val
      (if b.val = 0 then w.ctx.rpbase else if b.val = 1 then w.ctx.rpseq else w.ctx.rpgen.setWidth 64)))) ∧
    (bitB w.ctx.ckpctl 0 = true →
      (Begins (.relrcv st) s w → durable → exec (.relrcv st) s = .next (completed (.relrcv st) s w)) ∧
      (Begins (.ckpabort st) s w → exec (.ckpabort st) s =
        .next (completed (.ckpabort st) s (w.mapUnit (fun u => { u with record := none })))) ∧
      (Begins (.ckpbeg st a b) s w → u.stage = 0 → u.record = none → u.remoteOut = 0 → w.x a.val ≠ 0 → (w.x b.val).toNat % 128 = 0 →
        w0.runPlaces 1 (pageRuns (w.x b.val) 2097280) = .ok (places, w1) →
        (∀ p ∈ places, w1.m.almanacRun p.1 p.2 = true) →
        writable w1.m w1.m.cur ((places.take 1).flatMap (fun p => span p.1 128)) = .ok () →
        w1.s.unit.remoteOut = 0 →
        exec (.ckpbeg st a b) s = .next (wrote (.ckpbeg st a b)
          (w1.putRecord false ((places.take 1).flatMap (fun p => span p.1 128)) (List.replicate 128 0)))) ∧
      (Begins (.ckpbeg st a b) s w → u.stage ≠ 0 → u.notDurable = [] →
        let open_ : OpenRecord :=
          { hdr := w.x b.val, seq := w.x a.val, gen := w.ctx.rpgen, ovf := false, cerr := false, listed := 0, lines := [] }
        exec (.ckpbeg st a b) s =
          .next (completed (.ckpbeg st a b) s (w.mapUnit (fun u => { u with record := some open_ })))) ∧
      (Begins (.ckpbeg st a b) s w → u.stage ≠ 0 → u.notDurable ≠ [] → exec (.ckpbeg st a b) s =
        .next (s.await .persist (some (.ckpbeg st a b)))) ∧
      (∀ r, u.record = some r →
        (Begins (.ckpseal st a) s w → u.stage = 0 → durable → r.ovf = false → r.cerr = false →
          (∀ l ∈ r.lines, l.1 + 64 ≤ r.hdr.toNat ∨ r.hdr.toNat + 2097280 ≤ l.1) →
          w.x a.val = 0 ∨ w.resumeOk r (w.x a.val) = true →
          let list := r.lines.flatMap (fun l => leBytes 8 l.1)
          w0.runPlaces 1 (pageRuns (r.hdr + 8) (120 + list.length)) = .ok (places, w1) →
          writable w1.m w1.m.cur (runLocs places) = .ok () →
          let w2 := w1.scrubRuns (r.lines.map (fun l => (l.2, 64)))
          let body := leBytes 8 r.seq.toNat ++ leBytes 8 r.gen.toNat ++ leBytes 8 (w.x a.val).toNat ++ leBytes 8 w2.ctx.rpbase.toNat ++
            leBytes 8 w2.ctx.rpseq.toNat ++ List.replicate 16 0 ++ w2.sealHash r.seq r.gen.toNat (w.x a.val) r.lines ++
            List.replicate 32 0
          exec (.ckpseal st a) s = .next (wrote (.ckpseal st a) ((w2.putRecord false (runLocs places) (body ++ list)).mapUnit
            (fun u => { u with record := some { r with listed := r.lines.length } })))) ∧
        (Begins (.ckpseal st a) s w → u.stage = 1 → u.notDurable = [] → w0.runPlaces 1 (pageRuns r.hdr 8) = .ok (places, w1) →
          writable w1.m w1.m.cur (runLocs places) = .ok () → exec (.ckpseal st a) s = .next (wrote (.ckpseal st a)
            (w1.putRecord true (runLocs places) (leBytes 4 0x5EA10002 ++ leBytes 4 r.listed)))) ∧
        (Begins (.ckpseal st a) s w → 2 ≤ u.stage → u.notDurable = [] → exec (.ckpseal st a) s =
          .next (completed (.ckpseal st a) s (w.mapUnit (fun u => { u with record := none }))))) ∧
      (Begins (.ckpverify st d a) s w → bitsN (w.x a.val) 1 6 = 0 →
        let h := putBit (w.x a.val) 0 false
        let advance := bitB (w.x a.val) 0
        w.runPlaces 0 (pageRuns h 128) = .ok (places, w1) → readable w1.m (linesRun places) = .ok () →
        let i := w1.draw.1
        let w2 := w1.draw.2
        let k := readSeal (w2.checkRuns i places)
        let answers (w' : Work) (v : Word) : Prop :=
          exec (.ckpverify st d a) s = .next (completed (.ckpverify st d a) s (w'.setX d.val v))
        ((∃ p ∈ places, w2.m.almanac p.1 = false) → answers (w2.scrubRuns places) 3) ∧
        ((∀ p ∈ places, w2.m.almanac p.1 = true) →
          (k.magic ≠ 0x5EA10002 ∨ 262144 < k.count ∨ k.reserved = true → answers (w2.scrubRuns places) 1) ∧
          (k.magic = 0x5EA10002 → k.count ≤ 262144 → k.reserved = false → ∀ list w3,
            w2.runPlaces 0 (pageRuns (h + 128) (8 * k.count)) = .ok (list, w3) →
            let r := w3.verify i w3.linePlace k places list
            readable w3.m (linesRun r.read) = .ok () →
            let w4 := (w3.scrubRuns r.read).scrubWalks w3.m.cur w3.ctx.spt r.pages
            let x := w4.ctx
            (r.status ≠ 0 ∨ advance = false → answers w4 (BitVec.ofNat 64 r.status)) ∧
            (r.status = 0 → advance = true → bitB x.ckpctl 1 = true → k.gen = x.rpgen.toNat → x.rpseq.toNat < k.seq.toNat →
              answers (w4.setCtx { x with rpbase := h, rpseq := k.seq }) 16)))))

/-! ### Launching (14) -/

/-- 14 R334, R336, R351: a well-formed packet read from xa, 128-byte aligned, by a unit that is not cancelled and has no access
outstanding, is accepted at the lower of its priority and the launch's: `launchn` writes its launch ID to X[D], and where
nothing has room 0, while `launch` raises LAUNCH_OVERFLOW there. 14 R335, R352, R353: `cancel` of a live handle of the job
cancels its entry; `cntrd` reads an entry's count, limited to 32 bits, its status and its level; a stale handle has no effect,
and reads 0. -/
def Obligations.LaunchesAndCounters : Prop :=
  (∀ (s : State) (w w1 : Work) (st : Fin 16) (d a : Reg) (bytes : List Byte), w.m.cancelledLid w.s.unit.lid = false →
    (w.x a.val).toNat % 128 = 0 → w.s.unit.remoteOut = 0 → w.loadRun (w.x a.val) 128 = .ok (bytes, w1) →
    let k := readPacket bytes
    k.malformed = false → k.valid = true →
    let took := w1.m.acceptDevice w1.origin { k with prio := max k.prio (w1.m.prioOf w1.s.unit.lid) }
    (∀ lid m, took = some (lid, m) →
      (Begins (.launch st a) s w → exec (.launch st a) s = .next (completed (.launch st a) s { w1 with m := m })) ∧
      (Begins (.launchn st d a) s w → exec (.launchn st d a) s =
        .next (completed (.launchn st d a) s (Work.setX { w1 with m := m } d.val (BitVec.ofNat 64 lid))))) ∧
    (took = none →
      (Begins (.launchn st d a) s w → exec (.launchn st d a) s = .next (completed (.launchn st d a) s (w1.setX d.val 0))) ∧
      (Begins (.launch st a) s w → exec (.launch st a) s =
        settle s (some (.launch st a)) (.error (.trap w1 { cause := 0x13, acc := 0, stval := w.x a.val }))))) ∧
  (∀ (s : State) (w : Work) (st : Fin 16) (d a b : Reg),
    let h := (w.x a.val).toNat
    let e := w.m.entry (h % 4096)
    let live : Prop := h ≠ 0 ∧ h < 2 ^ 44 ∧ e.serial ≠ 0 ∧ e.serial = h / 4096
    (Begins (.cancel st a b) s w → w.s.unit.remoteOut = 0 → b.val = 0 → live → e.job = w.ctx.job →
      exec (.cancel st a b) s = .next (completed (.cancel st a b) s { w with m := w.m.cancelEntry (h % 4096) })) ∧
    (Begins (.cancel st a b) s w → w.s.unit.remoteOut = 0 → ¬live →
      exec (.cancel st a b) s = .next (completed (.cancel st a b) s w)) ∧
    (Begins (.cntrd st d a) s w → live → e.job = w.ctx.job → exec (.cntrd st d a) s = .next (completed (.cntrd st d a) s
      (w.setX d.val (BitVec.ofNat 64 (min 0xFFFFFFFF e.count + 2 ^ 32 * e.status + 2 ^ 35 * e.level))))) ∧
    (Begins (.cntrd st d a) s w → ¬live → exec (.cntrd st d a) s = .next (completed (.cntrd st d a) s (w.setX d.val 0))))

/-- 14 R354, R355: `fork` starts the sequencers at xa and xb, each with seven registers from x17 and x25, where both are idle;
`send` in a sequencer's turn makes it arrive; `join` clears both once none runs, so that no token comes to them any more, and
raises what the first stopped one recorded, the matrix sequencer's first. 14 R348, R349, R356 to R358; 16 R405: `yield` goes on
where no pre-emption is pending and Umante has no unit of the same or a higher priority ready for the slot, and else completes
and suspends the unit; `uexit`, whose strip agrees with the reference or need not, ends the unit's last strip and the slot
issues nothing more; `notify` requests service of a user queue of the job: at once where it is mapped, else by PEND in its
control block, once no copy owns that line and no linked read holds it back (11 R270). -/
def Obligations.SequencersYieldExit : Prop :=
  (∀ (s : State) (w : Work) (st : Fin 16) (a b : Reg) (n : Nat) (rest : List Turn),
    let v := w.s
    let q : Sequencer := { Sequencer.reset with
      fmt := v.ctl.fmt, slc := v.ctl.slc, rm := v.ctl.rm, sup := v.regs.level == .supervisor }
    let start (p : Word) (first : Nat) : Sequencer :=
      { q with st := if p = 0 then .idle else .running, pc := p, r := (List.range 7).map (fun i => (i + 1, w.x (first + i))) }
    (Begins (.fork st a b) s w → v.mseq.st = .idle → v.cseq.st = .idle → (w.x a.val).toNat % 4 = 0 → (w.x b.val).toNat % 4 = 0 →
      w.x a.val = 0 ∨ tileDetail w.m w.m.cur = none → v.unit.remoteOut = 0 → w.x a.val ≠ 0 ∨ w.x b.val ≠ 0 →
      exec (.fork st a b) s = .next (completed (.fork st a b) s
        (w.setS { v with mseq := start (w.x a.val) 17, cseq := start (w.x b.val) 25 }))) ∧
    (s.agenda = .matrixSequencer n :: rest → (s.toMach.slot n).mseq.st = .running → exec (.send st) s =
      .next { s with toMach := s.toMach.setSlot n { s.toMach.slot n with
        mseq := { (s.toMach.slot n).mseq with st := .arrived } } }) ∧
    (s.agenda = .copySequencer n :: rest → (s.toMach.slot n).cseq.st = .running → exec (.send st) s =
      .next { s with toMach := s.toMach.setSlot n { s.toMach.slot n with
        cseq := { (s.toMach.slot n).cseq with st := .arrived } } }) ∧
    (Begins (.join st) s w → v.mseq.st ≠ .running → v.cseq.st ≠ .running →
      let w1 := w.clearSequencers
      let raises (q : Sequencer) : Prop := exec (.join st) s = settle s (some (.join st)) (.error (.trap w1
        { cause := q.cause % 256, acc := q.cause / 256, stval := q.stval }))
      w1.s.mseq = Sequencer.reset ∧ w1.s.cseq = Sequencer.reset ∧ w1.s.regs = v.regs ∧ w1.s.ctl = v.ctl ∧
      (∀ e ∈ w1.m.engines, ∀ c ∈ e.2.cmds, c.home = .sequencer w.m.cur → c.joined = true) ∧
      (v.mseq.st ≠ .stopped → v.cseq.st ≠ .stopped → exec (.join st) s = .next (completed (.join st) s w1)) ∧
      (v.mseq.st = .stopped → raises v.mseq) ∧ (v.mseq.st ≠ .stopped → v.cseq.st = .stopped → raises v.cseq))) ∧
  (∀ (s : State) (w w1 : Work) (st : Fin 16) (a : Reg),
    (Begins (.yield st) s w → w.s.unit.st ≠ .stop → w.outranked = false →
      exec (.yield st) s = .next (completed (.yield st) s w)) ∧
    (Begins (.yield st) s w → w.s.unit.st = .stop ∨ w.outranked = true → exec (.yield st) s =
      .next (completed (.yield st) s ((w.retire (.yield st) w.s).suspendUnit w.m.cur none true))) ∧
    (Begins (.uexit st) s w → w.checkStrip = .ok () → w.endStrip = .ok w1 →
      exec (.uexit st) s = .next (completed (.uexit st) s w1.leave)) ∧
    (∀ k q, Begins (.notify st a) s w → (w.x a.val).toNat ≤ 1023 → w.s.unit.remoteOut = 0 →
      w.m.sched.queues.find? (fun e => e.2.job = w.ctx.job && e.2.num = (w.x a.val).toNat) = some (k, q) →
      (q.hwq ≠ none → q.unmapping = false → exec (.notify st a) s =
        .next (completed (.notify st a) s { w with m := w.m.setQueue k { q with notified := true } })) ∧
      (q.hwq = none → q.pa + 64 ≤ hbmEnd →
        let loc := hbmLoc q.pa + 8
        (w.m.busyLine loc = false → exec (.notify st a) s = .next (completed (.notify st a) s
          ((w.scrub loc).putNoted 0 0 loc (leBytes 8 (putBit (BitVec.ofNat 64 (w.num loc 8)) 16 true).toNat)))) ∧
        (w.m.busyLine loc = true → exec (.notify st a) s = .next (s.await .ownedLine (some (.notify st a)))))))

/-! ### System instructions (15; 16) -/

/-- 15 R374, R375, R378, R381, R382, R389: `vptwr` writes an entry of the context's vector page table below 4,096 once its units
have no access outstanding, and `tlbinv` of a legal scope then completes, where no copy of the context keeps a translation
either; `mcall` closes every window, and function 1 posts a page request and suspends the unit, function 3 reads the context's
generation, a function that is not assigned answers all ones; `halt` of a drained slot halts the unit with `sepc` past it, and
`mcall` function 2 ends the unit with the failure that x25 and x26 give. -/
def Obligations.SystemInstructions : Prop :=
  ∀ (s : State) (w : Work) (st : Fin 16) (a b : Reg),
    let quiet : Prop := ∀ p ∈ w.m.slots, p.2.unit.st.runs = true → p.2.unit.ctx = w.s.unit.ctx → p.2.unit.remoteOut = 0
    let v := w.mapThr (fun t => { t with wins := [] })
    let u := w.s.unit
    (Begins (.vptwr st a b) s w → (w.x a.val).toNat < 4096 → quiet → exec (.vptwr st a b) s =
      .next (completed (.vptwr st a b) s (w.setCtx { w.ctx with vpt := tabSet w.ctx.vpt (w.x a.val).toNat (w.x b.val) }))) ∧
    (Begins (.tlbinv st a b) s w → (w.x b.val).toNat < 3 → quiet → w.m.copyTranslated w.s.unit.ctx = false →
      exec (.tlbinv st a b) s = .next (completed (.tlbinv st a b) s w)) ∧
    (Begins (.mcall st) s w → u.remoteOut = 0 → v.x 24 = 1 →
      let r := v.retire (.mcall st) v.s
      let q := r.m.postRequest u.ctx u.lid u.unit (some w.m.cur) none none (keepBits (v.x 25) 0 57) (bitsN (v.x 26) 0 8)
        (bitsN (v.x 26) 8 2)
      let asked : Work := { r with m := q.2 }
      exec (.mcall st) s = .next (completed (.mcall st) s
        ((asked.mapUnit (fun u => { u with byCall := true })).suspendUnit w.m.cur (some q.1)))) ∧
    (Begins (.mcall st) s w → u.remoteOut = 0 → v.x 24 = 3 → exec (.mcall st) s =
      .next (completed (.mcall st) s (v.setX 24 (BitVec.ofNat 64 w.ctx.gen)))) ∧
    (Begins (.mcall st) s w → u.remoteOut = 0 → v.x 24 ∉ [1, 2, 3] → exec (.mcall st) s =
      .next (completed (.mcall st) s (v.setX 24 0xFFFFFFFFFFFFFFFF))) ∧
    (Begins (.mcall st) s w → u.remoteOut = 0 → v.x 24 = 2 → exec (.mcall st) s = .next (completed (.mcall st) s
      (v.killUnit w.m.cur { cause := (v.x 25).toNat % 256, detail := (v.x 26).toNat / 2 ^ 57, pc := w.s.sup.sepc,
                            addr := BitVec.ofNat 64 ((v.x 26).toNat % 2 ^ 57), unit := u.unit, treg := 0, token := 0 }))) ∧
    (Begins (.halt st) s w → w.m.copiesOf u.lid u.unit = [] → w.s.mseq.st ≠ .running → w.s.cseq.st ≠ .running →
      u.remoteOut = 0 → exec (.halt st) s = .next (completed (.halt st) s
        ((w.retire (.halt st) w.s).haltUnit w.s.regs.pc (w.s.regs.pc + 4))))

/-- 15 R386; 11 R286; 02 R32: `ctxsave` of register parts writes them to the image at xa, whose pages all translate, once no
copy owns or linked read holds a line that it moves: the mask in its first word, what it saves in its parts, with S the tokens
that are outstanding, the slot's links cleared; `ctxrest` of parts that the image holds restores them, closes the windows that
stand open on the registers restored, and with S takes the tokens that were outstanding for the replaced registers from them. -/
def Obligations.ContextImages : Prop :=
  ∀ (s : State) (w w0 w1 : Work) (st : Fin 16) (a : Reg),
    let mask := (w.x a.val).toNat % 4096
    let base : Word := BitVec.ofNat 64 ((w.x a.val).toNat / 4096 * 4096)
    let im : ImageAt := { base := base, slot := w.m.cur, spt := w.ctx.spt, sup := true }
    (Begins (.ctxsave st a) s w → mask < 16 → im.probe 1 (maskPages mask) w = .ok w1 →
      im.runsBusy mask false w1 = false →
      let w2 := im.write mask (w1.mapThr (fun t => { t with wins := [] }))
      let m := w2.m.putSide w.m.cur base mask
      let w3 : Work := { w2 with m := if mask % 2 = 1 then m.awaitTokens w.m.cur base else m }
      exec (.ctxsave st a) s = .next (completed (.ctxsave st a) s
        ((w3.setS w3.s.clearLinks).mapThr (fun t => { t with fibre := none })))) ∧
    (Begins (.ctxrest st a) s w → mask < 128 → w.restoreParts base mask = .ok w0 →
      let w1 := w0.mapThr (fun t => { t with wins := dropRegs (restoresReg mask) t.wins })
      (mask % 2 = 0 → exec (.ctxrest st a) s = .next (completed (.ctxrest st a) s w1)) ∧
      (mask % 2 = 1 → w1.s.thr.fibre = none →
        let w2 : Work := { w1 with m := w1.m.forgetTokens w1.m.cur }
        exec (.ctxrest st a) s = .next (completed (.ctxrest st a) s
          (w2.mapThr (fun t => { t with pend := t.pend.filter (fun p => p.sup) })))))

/-- 16 R391, R394, R397, R399: `tmark` has no effect where `trcctl`.MARK is 0, and else, once every earlier access of the thread
is performed, writes a mark record with X[A]; `smpl` arms the next sample with X[A] as its tag; `brk` with `dbgctl`.BH halts the
unit at its own address once the slot is drained. -/
def Obligations.Observation : Prop :=
  ∀ (s : State) (w w1 : Work) (st : Fin 16) (a b : Reg),
    (Begins (.tmark st a) s w → bitB w.s.sup.trcctl 1 = false → exec (.tmark st a) s = .next (completed (.tmark st a) s w)) ∧
    (Begins (.tmark st a) s w → bitB w.s.sup.trcctl 1 = true → w.s.unit.remoteOut = 0 →
      w.trace 2 (w.s.ctl.vstripno.toNat + 2 ^ 32 - 1) w.s.regs.pc (w.x a.val) 0 0 0 = .ok w1 →
      exec (.tmark st a) s = .next (completed (.tmark st a) s w1)) ∧
    (Begins (.smpl st a) s w → exec (.smpl st a) s = .next (completed (.smpl st a) s (w.mapSup (fun p => { p with
      smplctl := p.smplctl ||| BitVec.twoPow 64 20, smplTag := w.x a.val })))) ∧
    (Begins (.brk st b) s w → bitB w.s.sup.dbgctl 4 = true → w.m.copiesOf w.s.unit.lid w.s.unit.unit = [] →
      w.s.mseq.st ≠ .running → w.s.cseq.st ≠ .running → w.s.unit.remoteOut = 0 →
      exec (.brk st b) s = .next (completed (.brk st b) s (w.haltUnit w.s.regs.pc w.s.regs.pc)))

/-! ### User queues and the host window (14 R341, R347 to R349; 17 R412, R413) -/

/-- 14 R341, R348, R349; 16 R402: a write of a mapped queue's notify register asks for its service; the service of a mapped,
live, notified queue, the first by queue number in Calendar mode, reads its packets, and of one without packets reads none; the
oldest spilled entries return to the store, where they lie in the job's spill area, as far as there is room; a new control block
becomes a queue of its job, both by an application core that runs (17 R419); a queue is mapped with PEND cleared, unmapped in
two steps, and destroyed with every launch accepted from it cancelled; all of that once no copy owns the line of the control
block (11 R270). That a queue is mapped to the lowest free register, and that a job's queues are numbered in the order of the
map requests, is log 20 (DESIGN CHOICE). -/
def Obligations.QueueEvents : Prop :=
  ∀ (s : State) (k hwq job n : Nat) (q : Queue) (w' : Work),
    let w := s.work
    let b := hbmLoc q.pa
    let ctl : Word := BitVec.ofNat 64 (w.num (b + 8) 8)
    let up : Prop := 3 ≤ s.mgmt.stage ∧ ∃ d < 4, d ∉ s.pkg.basesFailed
    (up → w.m.mappedQueue hwq = some (k, q) → q.unmapping = false → q.hwq ≠ none →
      exec (.notifyRegisterWrite hwq) s = .next { s with toMach := s.toMach.setQueue k { q with notified := true } }) ∧
    (w.m.queue? k = some q → q.pa + 64 ≤ hbmEnd → q.failing = none → w.m.busyLine b = false → w.m.busyLine (b + 8) = false →
      (q.hwq ≠ none → q.dead = false → q.notified = true → w.m.poisoned b = false →
        w.m.firstQueue k q = true →
        let w0 := Work.scrub { w with m := w.m.setQueue k { q with notified := false } } b
        (w.m.readsQueues = true → w0.serve k b 4096 = .ok w' → exec (.serveQueue k) s = .next (w'.finish s)) ∧
        (w.num (b + 16) 8 ≤ w.num (b + 24) 8 → exec (.serveQueue k) s = .next (w0.finish s))) ∧
      (q.hwq = none → q.dead = false → w.m.freeHwq = some n → bitsN ctl 8 2 ≠ 2 →
        let w0 := w.scrub b
        let w1 : Work := { w0 with m := w0.m.setQueue k { q with hwq := some n, unmapping := false, notified := true } }
        exec (.queueMap k) s =
          .next (((w1.scrub (b + 8)).putNoted 0 0 (b + 8) (leBytes 8 (putBit ctl 16 false).toNat)).finish s)) ∧
      (q.hwq ≠ none → q.unmapping = false →
        exec (.queueUnmap k) s = .next { s with toMach := s.toMach.setQueue k { q with unmapping := true } }) ∧
      (q.hwq ≠ none → q.unmapping = true → q.notified = false → exec (.queueUnmap k) s =
        .next { s with toMach := s.toMach.setQueue k { q with hwq := none, unmapping := false, notified := false } }) ∧
      (let w1 := (w.scrub b).putNoted 0 0 (b + 8) (leBytes 8 (putBits ctl 8 2 2).toNat)
       let mine := (w.m.sched.launches.filter (fun l => l.queue = some k)).map (fun l => l.lid % 4096)
       exec (.queueDestroy k) s = .next (Work.finish { w1 with m := mine.foldl (fun m ix => m.cancelEntry ix) w1.m } s))) ∧
    (let oldest := (byAge (w.m.sched.launches.filter (fun l => l.waits && l.spilled.isSome))).take w.m.storeFree
     let back := oldest.filter (fun l => l.spilled = some job)
     let home (l : Launch) : Launch := if back.any (fun o => o.age = l.age) then { l with spilled := none } else l
     let m := s.toMach.setSched (fun c => { c with launches := c.launches.map home })
     back ≠ [] → exec (.spillReturn job) s = .next { s with toMach := m.noteRoom }) ∧
    (∀ pa, up → pa % 64 = 0 → w.m.busyLine (hbmLoc pa) = false → (∀ e ∈ w.m.sched.queues, e.2.pa ≠ pa) → pa + 64 ≤ hbmEnd →
      let j := (w.m.context (w.num (hbmLoc pa + 38) 1 % 16)).job
      let num := (w.m.sched.queues.filter (fun q => q.2.job = j)).length
      let q : Queue :=
        { pa := pa, job := j, num := num, hwq := none, unmapping := false, dead := false, notified := false, failing := none }
      num < 1024 → exec (.mapRequest pa) s = .next { s with toMach := s.toMach.setQueue w.m.sched.queues.length q })

/-- 17 R412, R413, R414: a counter command slot creates a job, phase or graph entry with count 1 in its enclosing entry, or
closes one, and leaves the handle, or all ones, in RESULT; the host's write of a vector page table entry and of a hotness word
act on the context's table and counters. That is so once the loader has passed, and as long as the base die of the application
core is in service; before the loader has passed an access has no effect (17 R419). An access of an application core that is not
8 bytes wide and aligned, or lies past the window's 16 MiB, has no effect but the fault there; a write that is made is answered;
the completion routes, the vector page table and the hotness counters are read where Table 17.1 puts them, a completion route
and ARG are written there, a RESULT without a new ARG reads all ones, and an offset of the window that is not assigned reads 0
and ignores a write. That an entry created in a cancelled one is created cancelled is log 31 (DEDUCED); that ARG comes with the
event of the read is log 34; which base die an application core stands on is log 58 (DESIGN CHOICE). -/
def Obligations.HostWindow : Prop :=
  ∀ (s : State) (app : Fin 16) (arg value : Word) (ctx : Fin 16) (e : Fin 4096) (word : Fin 6144),
    let m := s.toMach
    let level := arg.toNat % 4
    let h := arg.toNat / 2 ^ 16
    let x := m.context ctx.val
    let done (m : Mach) (r : Nat) : State := { s with toMach := m.counterDone app.val (BitVec.ofNat 64 r) }
    let new (job : Nat) (parent : Option Nat) (cancelled : Bool) : Entry := { Entry.reset with
      job := job, ctx := arg.toNat / 4 % 16, level := level, count := 1, status := 1, closed := false, parent := parent,
      cancelled := cancelled }
    let up : Prop := 3 ≤ m.mgmt.stage ∧ app.val / 4 ∉ m.pkg.basesFailed
    (up → arg.toNat / 64 % 1024 = 0 → ∀ p ix m1, m.counterParent level h = some (some p) →
      m.newEntry (new (m.entry p).job (some p) (m.entry p).cancelled) = some (ix, m1) →
      let m2 := m1.setEntry p { m1.entry p with count := (m1.entry p).count + 1 }
      exec (.counterCreate app arg) s = .next (done m2 (handleOf ix (m2.entry ix).serial))) ∧
    (up → arg.toNat / 64 % 1024 = 0 → level = 3 → h = 0 → ∀ ix m1, m.newEntry (new (m.context (arg.toNat / 4 % 16)).job none false) = some (ix, m1) →
      exec (.counterCreate app arg) s = .next (done m1 (handleOf ix (m1.entry ix).serial))) ∧
    (up → arg.toNat / 64 % 1024 = 0 → level = 0 → exec (.counterCreate app arg) s = .next (done m (2 ^ 64 - 1))) ∧
    (up → arg.toNat / 64 % 1024 = 1 → ∀ ix, m.handleIx h = some ix →
      (((m.entry ix).level ≠ 0 ∧ (m.entry ix).closed = false →
        let e := Entry.settle { m.entry ix with closed := true, count := (m.entry ix).count - 1 }
        exec (.counterClose app arg) s = .next (done (m.setEntry ix e) h)) ∧
      ((m.entry ix).level = 0 ∨ (m.entry ix).closed = true →
        exec (.counterClose app arg) s = .next (done m (2 ^ 64 - 1))))) ∧
    (up → exec (.hostVptEntryWrite ctx e value) s =
      .next { s with toMach := m.setContext ctx.val { x with vpt := tabSet x.vpt e.val value } }) ∧
    (let x1 : Context := { x with hot := tabDel (tabDel x.hot (2 * word.val)) (2 * word.val + 1) }
     up → exec (.hostHotnessClear ctx word) s = .next { s with toMach := m.setContext ctx.val x1 }) ∧
    (let answer (m : Mach) (v : Option Word) : Host.Outcome State Fault Refusal :=
       .next { s with toMach := m.setSched (fun c => { c with hostReply := tabSet c.hostReply app.val v }) }
     let read (off : Nat) : Host.Outcome State Fault Refusal := plainTurn (.host app (.read off 8)) s
     let write (off : Nat) : Host.Outcome State Fault Refusal := plainTurn (.host app (.write off 8 value)) s
     (m.mgmt.stage < 3 → ∀ off, read off = .next s ∧ write off = .next s) ∧
     (up →
     (∀ off size, size ≠ 8 ∨ off % 8 ≠ 0 ∨ 0x1000000 ≤ off → plainTurn (.host app (.read off size)) s = answer m none ∧
       plainTurn (.host app (.write off size value)) s = answer m none) ∧
     read (0x2000 + 8 * ctx.val) = answer m (some (x.route.setWidth 64)) ∧
     read (0x100000 + 0x8000 * ctx.val + 8 * e.val) = answer m (some (tabGet 0 x.vpt e.val)) ∧
     read (0x200000 + 0xC000 * ctx.val + 8 * word.val) =
       answer m (some (BitVec.ofNat 64 (tabGet 0 x.hot (2 * word.val) + tabGet 0 x.hot (2 * word.val + 1) * 2 ^ 32))) ∧
     (tabGet none m.sched.counterArg app.val = none → ∃ m1, read (0x10000 + 64 * app.val + 8) = answer m1 (some 0xFFFFFFFFFFFFFFFF) ∧
       m1.sched.entries = m.sched.entries) ∧
     write (0x2000 + 8 * ctx.val) = answer (m.setContext ctx.val { x with route := value.setWidth 16 }) (some 0) ∧
     write (0x10000 + 64 * app.val) =
       answer (m.setSched (fun c => { c with counterArg := tabSet c.counterArg app.val (some value) })) (some 0) ∧
     (∀ off, off % 8 = 0 → 0x2C0000 ≤ off → off < 0x1000000 → read off = answer m (some 0) ∧ write off = answer m (some 0))))

/-! ### Units and slots (14 R338, R339, R342 to R346, R356; 15 R380, R387, R388) -/

/-- 14 R344 to R346; 01 R17; 15 R387; 17 R422, R423: on a die that is in service a bind record of a fresh unit, with its context
resident and its claims free, starts it in LOAD with, where it claims it, the coordinate store empty; one of a suspended unit
restores its image; that the stack and a claimed LSP body then read 0 is log 2 (DESIGN CHOICE: R17 says that nothing of an
earlier unit is visible), and what a KILL record's failure holds beyond its cause are free values (log 7 and log 23). A fresh
bind record whose context is not resident, or whose claim the other slot holds, is refused, and its unit is bound again later.
On a die that is not in service no record acts. Loading ends in RUN; a PREEMPT record moves RUN to STOP, and a KILL record drops
the unit with its launch FAILED; a pre-emption lands where it may, and once the unit's remote accesses are acknowledged and its
tile operations complete its image is stored and Umante holds it as suspended; of a unit that is gone the discard ends once its
copies have; a record that waits in a slot that becomes IDLE is still there to be answered. -/
def Obligations.SlotStates : Prop :=
  ∀ (s : State) (n cause : Nat),
    let w := s.work
    let m := s.toMach
    let v := m.slot n
    let u := v.unit
    let unit (u : SlotUnit) : State := { s with toMach := m.setSlot n { v with unit := u } }
    (u.st = .idle → u.cmd = 1 → m.pkg.inService (dieOf n) = false → exec (.bind n) s = .next s ∧ exec (.bindResume n) s = .next s) ∧
    (u.st = .idle → u.cmd = 1 → m.pkg.inService (dieOf n) = true → u.resume = false →
      ((m.context u.ctx).resident = false → exec (.bind n) s = .next ((w.refuseUnit n 3).finish s)) ∧
      ((m.context u.ctx).resident = true → m.claimHeld n u.clsp u.ccs = true →
        exec (.bind n) s = .next ((w.refuseUnit n 2).finish s))) ∧
    (u.st = .idle → u.cmd = 1 → m.pkg.inService (dieOf n) = true → (m.context u.ctx).resident = true →
      m.claimHeld n u.clsp u.ccs = false →
      (u.resume = false → ∀ l, m.sched.launches.find? (fun l => l.lid = u.lid) = some l →
        let m0 := (m.mapLaunch u.lid (fun l => { l with bound := true })).setSlot n (freshSlot m n l u)
        let m1 := if u.ccs then m0.setCore (coreOf n) (m0.core (coreOf n)).emptyStore else m0
        let w1 := Work.clearLocal { w with m := m1 } n u.clsp
        exec (.bind n) s = .next (w1.finish s) ∧
        (∀ i < 0x8000, w1.byte (lspLoc (coreOf n) (0xF0000 + n % 2 * 0x8000 + i)) = 0) ∧
        (u.clsp = true → ∀ i < 0xF0000, w1.byte (lspLoc (coreOf n) i) = 0)) ∧
      (u.resume = true → u.ccs = false → ∀ g w1, m.sched.suspended.find? (fun g => g.resuming = some n) = some g →
        g.hasTile = false → m.imageAwaits u.ctx g.image = false →
        let unit := { g.slot.unit with
          st := .load, cmd := 0, result := 0, waiting := none, held := none, lost := [], stage := 0, request := none,
          byCall := false, halted := false, exitAt := none }
        let m0 := m.setSched (fun c => { c with suspended := c.suspended.filter (fun h => h.resuming ≠ some n) })
        let m1 := m0.setSlot n { g.slot with unit := unit }
        Work.loadImage { w with m := { m1 with cur := n } } g.image = .ok w1 →
        let w2 := w1.setS ((w1.s.takeAnswer g.answered g.success g.slot.unit.byCall).goOn g)
        exec (.bindResume n) s = .next (Work.finish { w2 with m := { w2.m with cur := s.cur } } s))) ∧
    (u.st = .load → exec (.unitLoadComplete n) s = .next (unit { u with st := .run })) ∧
    (u.st = .run → ∃ m' : Mach, exec (.preempt n) s = .next { s with toMach := m' } ∧
      m'.slot n = { v with unit := { u with cmd := 0, result := 0, st := .stop } } ∧ ∀ k ≠ n, m'.slot k = m.slot k) ∧
    (u.st ≠ .run → exec (.preempt n) s = .next (unit { u with cmd := 0, result := 1 })) ∧
    (u.st = .run → ∃ f : Failure, f.cause = cause ∧ f.unit = u.unit ∧
      let w1 := Work.answer { w with m := { m with fresh := m.fresh + 1 } } n 0
      exec (.kill n cause) s = .next ((w1.killUnit n f).finish s)) ∧
    (u.mayLand = true → exec (.preemptionLands n) s = .next ((w.suspendUnit n none u.landsAt).finish s)) ∧
    (u.st = .save → u.remoteOut = 0 → ((m.core (coreOf n)).owner = some n → (m.core (coreOf n)).tileOps = []) →
      (u.discard = false → m.cancelledLid u.lid = false → (m.saveImage n).blocked w (maskPieces (heldParts m n)) = false →
        let w1 := w.saveUnit n
        let m1 := w1.m.setSlot n (w1.m.slot n).vacated
        ∃ g : Suspended, g.slot = w1.m.slot n ∧ g.image = saveAreaOf m n ∧ g.request = u.request ∧ g.halted = u.halted ∧
          g.resuming = none ∧ g.ended = false ∧ exec (.saveComplete n) s =
            .next (Work.finish { w1 with m := m1.setSched (fun c => { c with suspended := c.suspended ++ [g] }) } s)) ∧
      (u.discard = true ∨ m.cancelledLid u.lid = true → m.copiesOf u.lid u.unit = [] →
        let w1 := w.giveUp n
        exec (.saveComplete n) s = .next (Work.finish { w1 with
          m := ((w1.m.setSlot n (w1.m.slot n).vacated).dropRequests u.lid u.unit).unitGone u.lid } s)))

/-- 14 R342, R343: Umante binds the first candidate, by effective priority and age, that a slot of its job's partition fits, to
the first such slot (log 20, DESIGN CHOICE), and where none fits pre-empts a unit of lower priority. 15 R380, R388: an answer to
an outstanding page request of a copy lets it go on; one that names no request is counted as stale; a partition whose cores'
slots have all landed exchanges its cores' state with shadow storage. 14 R338, R339, R356: a draining unit with nothing
outstanding retires: its failures are recorded, its tile group and its coordinate store are released and its launch's count
falls by one; a completed entry without a TARGET is closed; one with a TARGET whose page is present writes its status, and where
it FAILED the failure, there first; one whose TARGET can take no block is closed too, its block noted as lost. That TARGET is
walked at Supervisor level is log 19 (DEDUCED), that one in the local region can take no block log 42 (DEDUCED). -/
def Obligations.SchedulingAndRetirement : Prop :=
  (∀ (s : State) (n num gen job : Nat) (ok : Bool),
    let w := s.work
    let m := s.toMach
    let cs := m.candidates
    let place := cs.findSome? (fun c => (c.slots.find? (m.fits c)).map (fun n => (c, n)))
    (∀ c, place = some (c, n) → exec .umanteDispatch s = .next ((w.bindTo c n).finish s)) ∧
    (place = none → m.victims [] cs = some n → exec .umanteDispatch s =
      .next { s with toMach := m.setSlot n { m.slot n with unit := { (m.slot n).unit with cmd := 2 } } }) ∧
    ((∀ r ∈ m.sched.requests, r.num ≠ num) → exec (.pageRequestAnswer num gen ok) s =
      .next { s with toMach := m.setSched (fun c => { c with stale := c.stale + 1 }) }) ∧
    (∀ r k, m.sched.requests.find? (fun r => r.num = num) = some r → gen = (m.context r.ctx).gen → r.ident = some k →
      (∃ e ∈ m.engines, ∃ c ∈ e.2.cmds, c.ident = k) →
      let m1 := m.setSched (fun c => { c with requests := c.requests.filter (fun x => x.num ≠ num) })
      let tell (c : Copy) : Copy := if c.ident = k then { c with request := none, failedReq := !ok } else c
      exec (.pageRequestAnswer num gen ok) s = .next { s with toMach := m1.mapCopies tell }) ∧
    (let cores := ((m.job job).partition.map coreOf).eraseDups
     (∀ k ∈ cores, m.landed (2 * k) = true ∧ m.landed (2 * k + 1) = true) →
       exec (.partitionSwap job) s = .next ((cores.foldl Work.swapCore w).finish s))) ∧
  (∀ (s : State) (n ix loc : Nat) (w1 : Work),
    let w := s.work
    let v := s.toMach.slot n
    let u := v.unit
    let e := s.toMach.entry ix
    (u.st = .drain → u.remoteOut = 0 → w.m.copiesOf u.lid u.unit = [] → v.mseq.st ≠ .running → v.cseq.st ≠ .running →
      ((w.m.core (coreOf n)).owner = some n → (w.m.core (coreOf n)).tileOps = []) →
      let w1 := (v.endFailures.foldl (fun w f => w.failLaunch u.lid f) w).giveUp n
      exec (.unitRetire n) s = .next (Work.finish { w1 with m := (w1.m.setSlot n v.vacated).unitGone u.lid } s)) ∧
    (2 ≤ e.status → e.written = false → e.request = none →
      (e.target = 0 ∨ e.level ≠ 0 → exec (.launchCompletion ix) s = .next ((w.closeEntry ix false false).finish s)) ∧
      (e.target ≠ 0 → e.level = 0 → inLocal e.target.toNat = true ∨ e.reqFailed = true →
        exec (.launchCompletion ix) s = .next ((w.closeEntry ix false true).finish s)) ∧
      (e.target ≠ 0 → e.level = 0 → inLocal e.target.toNat = false → e.reqFailed = false →
        walkPlace w 384 (w.m.context e.ctx).spt true e.target.toNat 1 = .ok (loc, w1) →
        writable w1.m 384 (span loc e.blockBytes.length) = .ok () → w1.m.poisoned loc = false →
        exec (.launchCompletion ix) s = .next ((((w1.noteBytes 0 0 false (e.blockBytes.zipIdx.map (fun p =>
          (loc + p.2, p.1)))).putBytes loc e.blockBytes).closeEntry ix true false).finish s))))

/-! ### Containment, remote accesses and recovery (12; 13; 16 R409; 17 R422) -/

/-- 13 R316; 17 R422: the reset of a compute die leaves every slot of the die as reset leaves it and every job with a unit there
stopped (which jobs those are is log 11, DEDUCED); a failed base die is recorded, no unit is bound to it any more, every job
with memory there outside the Almanac ends for good, and every unit of the compute die above ends (that they do is log 58,
DESIGN CHOICE); the loss of power leaves the machine as reset leaves it, but for the fuses, the Annals with the machine checks,
the key store and the key index. That every byte then reads 0 is log 1 (DESIGN CHOICE). 12 R299, R303; 13 R314, R315; 16 R409:
acknowledgements end a slot's outstanding accesses; an access that arrives from another package reads this one's HBM, one good
Almanac copy written back, or writes it; the persistence point takes up a unit's Almanac writes, and those of the writers
outside the slots (slot 384, log 56); and a remote access that is not acknowledged, or that waits for a package that is
unreachable, makes its package unreachable, ends the unit, and is waited for no more. -/
def Obligations.ResetsAndPersistence : Prop :=
  (∀ (s : State) (die : Fin 4),
    (∃ t : State, exec (.computeDieReset die) s = .next t ∧ t.mgmt = s.mgmt ∧
      (∀ n < 384, dieOf n = die.val → t.toMach.slot n = Slot.reset) ∧
      (∀ j ∈ s.toMach.jobsOn die.val, (t.toMach.job j).stopped = true)) ∧
    (∃ t : State, exec (.baseDieFailure die) s = .next t ∧ die.val ∈ t.pkg.basesFailed ∧
      (∀ n, dieOf n = die.val → t.toMach.vacant n = false ∧
        ((s.toMach.slot n).unit.st ≠ .idle → (s.toMach.slot n).unit.discard = false →
          (t.toMach.slot n).unit.st = .save ∧ (t.toMach.slot n).unit.discard = true)) ∧
      (∀ j ∈ s.toMach.jobs, j.2.live = true →
        (∃ r ∈ s.toMach.outsideAlmanac (s.work.jobRuns j.1), Config.rangeInDie r.1 r.2 die.val = true) →
        (t.toMach.job j.1).live = false ∧ (t.toMach.job j.1).stopped = true)) ∧
    (∃ t : State, exec .powerLoss s = .next t ∧ t.slots = [] ∧ t.cores = [] ∧ t.contexts = [] ∧ t.jobs = [] ∧
      t.mgmt.fuse = s.mgmt.fuse ∧ t.mgmt.annals = s.mgmt.annals ∧ t.mgmt.machineChecks = s.mgmt.machineChecks ∧
      t.mgmt.vendorKey = s.mgmt.vendorKey ∧ t.mgmt.operatorKey = s.mgmt.operatorKey ∧
      t.mgmt.keyIndex = s.mgmt.keyIndex ∧ t.mgmt.stage = 0 ∧
      (s.MemOk → ∀ a < 2 ^ 64, memGet t.mem a = 0))) ∧
  (∀ (s : State) (n pkg pa size : Nat) (bytes : List Byte) (a : Word),
    let w := s.work
    let m := s.toMach
    let v := m.slot n
    let u := v.unit
    (exec (.remoteAcknowledgement n) s = .next { s with toMach := m.setSlot n { v with unit := { u with remoteOut := 0 } } }) ∧
    (let m1 : Mach := { m with pkg := m.pkg.settleLines u.lid u.unit u.notDurable }
     n ≠ 384 → exec (.persistencePointReached n) s =
       .next { s with toMach := m1.setSlot n { v with unit := { u with notDurable := [] } } }) ∧
    (exec (.persistencePointReached 384) s = .next { s with toMach := { m with
      pkg := m.pkg.settleLines 0 0 (m.pkg.unsettled.map (fun e => lineOf e.1)) } }) ∧
    (size ≤ 64 → pa + size ≤ hbmEnd → readable m (span (hbmLoc pa) size) = .ok () →
      (∀ l ∈ span (hbmLoc pa) size, m.poisoned l = false) → ∃ t : State,
        exec (.remoteAccessArrival (.load pkg pa size)) s = .next t ∧
        t.pkg.remoteReply = w.bytes (hbmLoc pa) size ∧ t.mem = s.mem ∧
        ∀ l ∈ span (hbmLoc pa) size, m.almanac l = true → ∀ p ∈ t.pkg.poison, p.1 ≠ lineOf l) ∧
    (bytes.length ≤ 64 → pa + bytes.length ≤ hbmEnd → writable m 384 (span (hbmLoc pa) bytes.length) = .ok () → s.MemOk →
      ∃ t : State, exec (.remoteAccessArrival (.store pkg pa bytes)) s = .next t ∧
        (∀ i, i < bytes.length → memGet t.mem (hbmLoc pa + i) = bytes.getD i 0) ∧
        ∀ x, x < hbmLoc pa ∨ hbmLoc pa + bytes.length ≤ x → memGet t.mem x = memGet s.mem x) ∧
    (u.remoteOut ≠ 0 ∨ u.waiting = some (.lost pkg a) → ∃ t : State, exec (.remoteAckTimeout n pkg a) s = .next t ∧
      pkg ∈ t.pkg.unreachable ∧ (t.toMach.slot n).unit.remoteOut = 0 ∧
      (u.st ≠ .idle → u.discard = false → (t.toMach.slot n).unit.st = .save ∧ (t.toMach.slot n).unit.discard = true)))

/-- 13 R332: a stopped job goes on from the records whose SEQ is S where every one of its contexts reaches one that verifies:
each context's recovery point is that record, S, and a generation more; else its restore has failed, and is reported. That a
restore may run where S was agreed on or no agreement was made, at any S not beyond a context's `rpseq`, and that its reads
scrub before the records are judged, is log 33 (DEDUCED). -/
def Obligations.JobRestore : Prop :=
  ∀ (s : State) (job : Nat) (seq : Word),
    let j := s.toMach.job job
    let ctxs := s.toMach.contextsOf job
    j.live = true → j.stopped = true → j.failedRestore = false → j.agreed = none ∨ j.agreed = some seq →
    (∀ c ∈ ctxs, seq.toNat ≤ (s.toMach.context c).rpseq.toNat) →
    let i := s.toMach.fresh
    let w1 : Work := { s.work with m := { s.toMach.dropJobs [job] with fresh := i + 1 } }
    let follow (w : Work) (c : Nat) : Option Word × Work :=
      w.followPrev i c seq (w.m.context c).rpbase ((w.m.context c).rpseq.toNat + 1)
    let walk := ctxs.foldl (fun (p : List (Nat × Option Word) × Work) c => (p.1 ++ [(c, (follow p.2 c).1)], (follow p.2 c).2)) ([], w1)
    let w2 := walk.1.foldl (fun w p => w.scrubRecord i p.1 (p.2.getD 0)) walk.2
    ((∀ p ∈ walk.1, ∃ h, p.2 = some h ∧ w2.verifies i p.1 h = true) → ∃ w' : Work, exec (.recoveryRestore job seq) s =
      .next (w'.finish s) ∧ (w'.m.job job).stopped = false ∧ (w'.m.job job).agreed = none ∧
        (ctxs.Nodup → ∀ p ∈ walk.1, p.1 ∈ ctxs ∧ (w'.m.context p.1).rpseq = seq ∧
          (w'.m.context p.1).rpgen = (s.toMach.context p.1).rpgen + 1 ∧
          (w'.m.context p.1).rpbase = keepBits (p.2.getD 0) 7 50)) ∧
    ((∃ p ∈ walk.1, ∀ h, p.2 = some h → w2.verifies i p.1 h = false) → ∃ w' : Work, exec (.recoveryRestore job seq) s =
      .next (w'.finish s) ∧ (w'.m.job job).failedRestore = true ∧ (w'.m.job job).stopped = true)

/-! ### The management core (16 R408, R410; 17 R415, R418 to R423) -/

/-- 16 R408, R410; 17 R415, R419, R420, R423: a spare lane is switched in, and counted, where the core's slots have landed, and
the core is mapped out where its spare is used; a bad lane of a port is recorded and the port's retrain counted, and the port's
spare lane replaces it; the clock falls by 100 MHz down to 2.0 GHz; a shutdown for heat stops every unit, ends every copy and
tile operation, logs a machine check, and powers the compute dies off; the boot ROM runs Umante only where the vendor's key
verifies the signature of its image and its version is not below the fuse counter, and Umante the loader likewise by the
operator's key; the measurement log holds what ran; a thermal and a droop observation are counted. The numbers of the stages and
what a signature covers are log 35 (DEDUCED, and XMSS PRESUMED from its standard); the number of a machine check's kind, and
that the end bins take what lies outside, are log 25 (DESIGN CHOICE). -/
def Obligations.PackageEvents : Prop :=
  ∀ (s : State) (k celsius mv : Nat) (lane : Nat) (port : Fin 16) (die : Fin 4) (um ld : FirmwareImage),
    let m := s.toMach
    let g := m.mgmt
    let runs (i : FirmwareImage) (key : BitVec 512) : Prop := g.fuse ≤ i.version ∧ xmssVerify key (imageMessage i) i.signature = true
    let um := { um with loader := false }
    let ld := { ld with loader := true }
    let fuse : BitVec 256 := BitVec.ofNat 256 g.fuse
    (m.coreLanded k = true → (m.site k).spareUsed = false → exec (.spareSwitch (.lane k)) s =
      .next { s with toMach := (m.setSite k { m.site k with spareUsed := true }).countAnnals (.sparesCore k) }) ∧
    (m.coreLanded k = true → (m.site k).spareUsed = true → exec (.spareSwitch (.lane k)) s =
      .next { s with toMach := m.setSite k { m.site k with mappedOut := true } }) ∧
    (let m1 : Mach := { m with pkg := { m.pkg with spareLanes := m.pkg.spareLanes ++ [port.val] } }
     (∃ l ∈ m.pkg.badLanes, l.1 = port.val) → port.val ∉ m.pkg.spareLanes →
       exec (.spareSwitch (.linkLane port)) s = .next { s with toMach := m1.countAnnals (.sparesLink port.val) }) ∧
    (∃ m' : Mach, exec (.linkRetrain port lane) s = .next { s with toMach := m' } ∧ (port.val, lane) ∈ m'.pkg.badLanes ∧
      m'.mgmt = (m.countAnnals (.retrain port.val)).mgmt) ∧
    (exec .thermalClockReduction s = .next { s with mgmt := { g with clock := max 2000 (g.clock - 100) } }) ∧
    (∃ t : State, exec .thermalShutdown s = .next t ∧ t.pkg.diesOff = [0, 1, 2, 3] ∧ t.engines = [] ∧ t.shadow = [] ∧
      (∀ c ∈ t.cores, c.2.queue = [] ∧ c.2.tileOps = []) ∧
      (∃ r, t.mgmt.machineChecks = (r :: g.machineChecks).take 1024 ∧ r.kind = 4) ∧
      ∀ n, (m.slot n).unit.st ≠ .idle → (m.slot n).unit.discard = false →
        (t.toMach.slot n).unit.st = .save ∧ (t.toMach.slot n).unit.discard = true) ∧
    (g.stage = 0 → ∃ g' : Mgmt, exec (.powerOnBoot um ld) s = .next { s with mgmt := g' } ∧
      (¬runs um g.vendorKey → g'.stage = 1 ∧ g'.version = g.version ∧ g'.log = [Config.romVersion, fuse]) ∧
      (runs um g.vendorKey → g'.version = um.version ∧
        (¬runs ld g.operatorKey → g'.stage = 2 ∧ g'.log = [Config.romVersion, firmwareDigest um, fuse]) ∧
        (runs ld g.operatorKey → g'.stage = 3 ∧ g'.log = [Config.romVersion, firmwareDigest um, firmwareDigest ld, fuse]))) ∧
    (exec (.annalsObservation die celsius mv) s = .next { s with toMach :=
      (m.countAnnals (.thermal die.val (min 31 ((celsius - 40) / 2)))).countAnnals (.droop die.val (min 31 (mv / 5))) })

/-- 13 R332; 15 R389; 16 R391, R393, R395, R405, R410; 17 R418 to R421, R423: over an authenticated connection, from the boot
stage that serves them on, the management core acts on a good message of each class, with a response, and refuses any other: a
partition message; the debug controls of a unit, and the resume and kill of a halted one; a trace ring with 2^8 to 2^20 records
in HBM, its removal and a reference table, for a live job; an Annals counter and the machine-check log; a report of a job's
recovery and an agreement on S; the power cap; an attestation; an image whose signature its key verifies and that is no older
than the fuse counter, which in stage 1 runs as Umante and in stage 2 as loader. A request has the response's header, one longer
than 1 MiB is refused. Which stages serve which class, that the ROM refuses a loader, and what a signature covers is log 35; the
numbers of the Annals records are log 25 (DESIGN CHOICE). -/
def Obligations.Itrus : Prop :=
  ∀ (s : State) (w' : Work) (img : FirmwareImage) (nonce : BitVec 256),
    let w := s.work
    let m := s.toMach
    let g := m.mgmt
    let answer (m : Mach) (r : List Word) : Host.Outcome State Fault Refusal :=
      .next { s with toMach := { m with mgmt := { m.mgmt with response := some r } } }
    let no : Host.Outcome State Fault Refusal := .next { s with mgmt := { g with response := none } }
    let secure : Prop := ∃ c ∈ g.conns, c.2 = true
    let up : Prop := 2 ≤ g.stage ∧ secure
    (let g1 : Mgmt := { g with conns := g.conns ++ [(g.nextConn, true)], nextConn := g.nextConn + 1,
                               response := some [BitVec.ofNat 64 g.nextConn] }
     g.stage ≠ 0 → g.conns.length < 8 → exec (.itrusConnection (.openConn true)) s = .next { s with mgmt := g1 }) ∧
    (¬up → (∀ msg, exec (.itrusPartitionControl msg) s = no) ∧ (∀ msg, exec (.itrusDebug msg) s = no) ∧
      (∀ msg, exec (.itrusTrace msg) s = no) ∧ (∀ msg, exec (.itrusAnnals msg) s = no) ∧ (∀ msg, exec (.itrusRecovery msg) s = no) ∧
      (∀ msg, exec (.itrusPower msg) s = no) ∧ exec (.itrusAttestation nonce) s = no) ∧
    (up →
      (∀ msg, w.partition msg = some w' → exec (.itrusPartitionControl msg) s = .next (w'.finish s)) ∧
      (∀ msg, w.partition msg = none → exec (.itrusPartitionControl msg) s = no) ∧
      (∀ ctx b, (m.context ctx.val).resident = true → exec (.itrusPartitionControl (.setProtmode ctx b)) s =
        answer (m.setContext ctx.val { m.context ctx.val with prot := b }) []) ∧
      -- debug
      (∀ lid unit ctl pc, (m.handleIx lid ≠ none → exec (.itrusDebug (.setControls lid unit ctl pc)) s =
          answer (m.setSched (fun c => { c with controls :=
            ((lid, unit), ctl &&& 0xFFFFFFFF0000001F, keepBits pc 2 55) :: c.controls.filter (fun d => d.1 ≠ (lid, unit)) })) []) ∧
        (m.handleIx lid = none → exec (.itrusDebug (.setControls lid unit ctl pc)) s = no)) ∧
      (∀ lid unit cause detail, let halted (h : Suspended) : Bool := h.halted && h.slot.unit.lid == lid && h.slot.unit.unit == unit
        (∀ h, m.sched.suspended.find? halted = some h →
          (exec (.itrusDebug (.resume lid unit)) s = answer (m.setSched (fun c => { c with
            suspended := c.suspended.map (fun x => if x = h then { x with halted := false } else x) })) []) ∧
          (∃ f : Failure, f.cause = cause % 256 ∧ f.detail = detail % 128 ∧ f.unit = unit ∧
            exec (.itrusDebug (.kill lid unit cause detail)) s = .next (((w.endSuspended h f).respond []).finish s))) ∧
        (m.sched.suspended.find? halted = none →
          exec (.itrusDebug (.resume lid unit)) s = no ∧ exec (.itrusDebug (.kill lid unit cause detail)) s = no)) ∧
      -- trace
      (∀ job base trcctl table, let size := w.num (hbmLoc (base + 16)) 1 % 32
        let ring : Prop := base % 64 = 0 ∧ 8 ≤ size ∧ size ≤ 20 ∧ base + 64 + 64 * 2 ^ size ≤ hbmEnd
        let j := m.job job
        (j.live = true → (ring → exec (.itrusTrace (.setRing job base trcctl)) s =
            answer (m.setJob job { j with ring := some base, trcctl := trcctl }) []) ∧
          (exec (.itrusTrace (.removeRing job)) s = answer (m.setJob job { j with ring := none, trcctl := 0 }) []) ∧
          (exec (.itrusTrace (.setReference job table)) s = answer (m.setJob job { j with reference := table }) [])) ∧
        (j.live = false ∨ ¬ring → exec (.itrusTrace (.setRing job base trcctl)) s = no) ∧
        (j.live = false → exec (.itrusTrace (.removeRing job)) s = no ∧ exec (.itrusTrace (.setReference job table)) s = no)) ∧
      -- the Annals
      (exec (.itrusAnnals .readMachineChecks) s = answer m (g.machineChecks.flatMap MachineCheck.words)) ∧
      (∀ kind ix, (kind ≤ 14 → exec (.itrusAnnals (.readRecord kind ix)) s = answer m [BitVec.ofNat 64
          (((g.annals.find? (fun e => e.1.place == (kind, ix))).map (fun e => e.2)).getD 0)]) ∧
        (14 < kind → exec (.itrusAnnals (.readRecord kind ix)) s = no)) ∧
      -- recovery
      (∀ job seq, let j := m.job job
        (m.minSeq job = none ∨ j.live = false →
          exec (.itrusRecovery (.report job)) s = no ∧ exec (.itrusRecovery (.agree job seq)) s = no) ∧
        (∀ n, m.minSeq job = some n → j.live = true →
          (exec (.itrusRecovery (.report job)) s = answer m [BitVec.ofNat 64 n, BitVec.ofNat 64 j.ignored,
            boolWord j.failedRestore, boolWord j.stopped]) ∧
          (n < seq.toNat → exec (.itrusRecovery (.agree job seq)) s = no) ∧
          (seq.toNat ≤ n → j.stopped = true → exec (.itrusRecovery (.agree job seq)) s =
            answer (m.setJob job { j with agreed := some seq }) []))) ∧
      -- power
      (∀ watts, let good : Prop := 1500 ≤ watts ∧ watts ≤ 3000 ∧ watts % 50 = 0
        (good → exec (.itrusPower (.setCap watts)) s = .next { s with mgmt := { g with powerCap := watts, response := some [] } }) ∧
        (¬good → exec (.itrusPower (.setCap watts)) s = no)) ∧
      (exec (.itrusPower .readSensors) s = answer { m with fresh := m.fresh + 1 } [Config.sensor m.fresh]) ∧
      -- attestation
      (g.keyIndex < 2 ^ 20 → ∃ (m' : Mach) (r : List Word), exec (.itrusAttestation nonce) s = .next { s with toMach := m' } ∧
        m'.mgmt.keyIndex = g.keyIndex + 1 ∧ m'.mgmt.response = some (g.log.flatMap wordsOf ++ wordsOf nonce ++ r)) ∧
      (g.keyIndex ≥ 2 ^ 20 → exec (.itrusAttestation nonce) s = no)) ∧
    -- firmware
    (let signed (i : FirmwareImage) : Prop :=
       xmssVerify (if i.loader then g.operatorKey else g.vendorKey) (imageMessage i) i.signature = true
     let good : Prop := signed img ∧ g.fuse ≤ img.version ∧ ¬(img.loader = true ∧ g.stage = 1)
     (1 ≤ g.stage → secure → good → ∃ g' : Mgmt, exec (.itrusFirmwareUpdate img) s = .next { s with mgmt := g' } ∧
       g'.fuse = (if img.revokesOlder then max g.fuse img.version else g.fuse) ∧ g'.response = some [] ∧
       (img.loader = false → g.stage = 1 → g'.version = img.version ∧
         ((∃ l, g.loader = some l ∧ signed l ∧ g'.fuse ≤ l.version) → g'.stage = 3) ∧
         (g.loader = none → g'.stage = 2 ∧ g'.log = [Config.romVersion, firmwareDigest img, BitVec.ofNat 256 g'.fuse])) ∧
       (img.loader = false → g.stage ≠ 1 → g'.stage = g.stage ∧ g'.version = g.version ∧ g'.log = g.log) ∧
       (img.loader = true → g'.version = g.version ∧ g'.loader = some img ∧ g'.stage = (if g.stage = 2 then 3 else g.stage))) ∧
     (g.stage < 1 ∨ ¬secure ∨ ¬good → exec (.itrusFirmwareUpdate img) s = no)) ∧
    -- the request itself
    (∀ conn number length i cls, itrusClass i = some cls → (conn, true) ∈ g.conns → 2 ^ 20 < length →
      plainTurn (.request conn number length i) s = .next { s with mgmt := { g with replies := g.replies ++
        [{ conn := conn, number := number, cls := cls, success := false, length := 0 }] } }) ∧
    (∀ conn number length i cls t, itrusClass i = some cls → (conn, true) ∈ g.conns → length ≤ 2 ^ 20 → exec i s = .next t →
      let r := t.toMach.mgmt.response
      plainTurn (.request conn number length i) s = .next { t with mgmt := { t.toMach.mgmt with replies := t.toMach.mgmt.replies ++
        [{ conn := conn, number := number, cls := cls, success := r.isSome, length := 8 * (r.getD []).length }] } })
end

