-- ==== Sys2Proof/Laws/Memory.lean ====
section
/-! SUPPORT. The bytes of memory: every operation keeps the canonical form, a read after a write gives the byte written, and
a write leaves every other byte as it was. -/

namespace Sys2Proof.Machine

/-! ### Reading after writing -/

theorem memGet_of_lt {t : List Host.Cell} {n : Nat} (h : ∀ c ∈ t, n < c.1) : memGet t n = 0 := by
  induction t with
  | nil => rfl
  | cons p t ih =>
    obtain ⟨k, v⟩ := p
    have hk : n < k := h (k, v) (by simp)
    simp only [memGet]
    rw [if_neg (by omega)]
    exact ih (fun c hc => h c (by simp [hc]))

/-- In canonical memory every address is above the first one listed. -/
theorem memWf_cons {k : Nat} {v : Byte} {t : List Host.Cell} :
    Memory.wf ((k, v) :: t) = true ↔ v ≠ 0 ∧ (∀ c ∈ t, k < c.1) ∧ Memory.wf t = true := by
  induction t generalizing k v with
  | nil => simp [Memory.wf]
  | cons p t ih =>
    obtain ⟨k', v'⟩ := p
    simp only [Memory.wf, Bool.and_eq_true, bne_iff_ne, ne_eq, decide_eq_true_eq, List.mem_cons, forall_eq_or_imp]
    constructor
    · rintro ⟨⟨hv, hk⟩, hw⟩
      exact ⟨hv, ⟨hk, fun c hc => Nat.lt_trans hk ((ih.1 hw).2.1 c hc)⟩, hw⟩
    · rintro ⟨hv, ⟨hk, _⟩, hw⟩
      exact ⟨⟨hv, hk⟩, hw⟩

/-- A byte written to canonical memory is the byte read there, and every other byte is as it was. -/
theorem memGet_memPut {t : List Host.Cell} (h : Memory.wf t = true) (n : Nat) (v : Byte) (a : Nat) :
    memGet (memPut t n v) a = if a = n then v else memGet t a := by
  induction t with
  | nil =>
    unfold memPut
    split
    · rename_i hv; simp [memGet, hv]
    · simp [memGet]
  | cons p t ih =>
    obtain ⟨k, u⟩ := p
    obtain ⟨hu, hlt, hw⟩ := memWf_cons.1 h
    have hz : ∀ x, x ≤ k → memGet t x = 0 := fun x hx => memGet_of_lt (fun c hc => Nat.lt_of_le_of_lt hx (hlt c hc))
    unfold memPut
    by_cases h1 : n < k
    · rw [if_pos h1]
      by_cases hv : v = 0
      · rw [if_pos hv]
        by_cases ha : a = n
        · subst ha; simp [memGet, Nat.ne_of_lt h1, hz a (Nat.le_of_lt h1), hv]
        · simp [ha]
      · rw [if_neg hv]; simp [memGet]
    · rw [if_neg h1]
      by_cases h2 : n = k
      · subst h2
        rw [if_pos rfl]
        by_cases hv : v = 0
        · rw [if_pos hv]
          by_cases ha : a = n
          · subst ha; simp [hz a (Nat.le_refl a), hv]
          · simp [memGet, ha]
        · rw [if_neg hv]
          by_cases ha : a = n <;> simp [memGet, ha]
      · rw [if_neg h2]
        simp only [memGet, ih hw]
        by_cases ha : a = k
        · subst ha; simp [Ne.symm h2]
        · simp [ha]

/-- A cleared run reads 0, and every other byte is as it was. -/
theorem memGet_memClear (t : List Host.Cell) (loc len a : Nat) :
    memGet (memClear t loc len) a = if loc ≤ a ∧ a < loc + len then 0 else memGet t a := by
  induction t with
  | nil => simp [memClear, memGet]
  | cons p t ih =>
    obtain ⟨k, v⟩ := p
    unfold memClear at ih ⊢
    rw [List.filter_cons]
    split
    · rename_i hk
      simp only [Bool.or_eq_true, decide_eq_true_eq] at hk
      simp only [memGet, ih]
      by_cases ha : a = k
      · subst ha
        simp only [if_true]
        rw [if_neg (by omega)]
      · simp [ha]
    · rename_i hk
      simp only [Bool.or_eq_true, decide_eq_true_eq] at hk
      rw [ih]
      simp only [memGet]
      by_cases ha : a = k
      · subst ha
        rw [if_pos (by omega), if_pos (by omega)]
      · simp [ha]

/-! ### The canonical form -/

theorem memPut_mem {t : List Host.Cell} {n : Nat} {v : Byte} {c : Host.Cell} (h : c ∈ memPut t n v) : c.1 = n ∨ c ∈ t := by
  induction t with
  | nil =>
    unfold memPut at h
    split at h
    · simp at h
    · simp at h; simp [h]
  | cons p t ih =>
    obtain ⟨k, u⟩ := p
    unfold memPut at h
    split at h
    · split at h
      · exact .inr h
      · rcases List.mem_cons.1 h with rfl | h
        · exact .inl rfl
        · exact .inr h
    · split at h
      · split at h
        · exact .inr (by simp [h])
        · rcases List.mem_cons.1 h with rfl | h
          · exact .inl rfl
          · exact .inr (by simp [h])
      · rcases List.mem_cons.1 h with rfl | h
        · exact .inr (by simp)
        · rcases ih h with h | h
          · exact .inl h
          · exact .inr (by simp [h])

/-- Writing a byte keeps the canonical form. -/
theorem memWf_memPut {t : List Host.Cell} (h : Memory.wf t = true) (n : Nat) (v : Byte) : Memory.wf (memPut t n v) = true := by
  induction t with
  | nil =>
    unfold memPut
    split
    · rfl
    · rename_i hv; simpa [Memory.wf] using hv
  | cons p t ih =>
    obtain ⟨k, u⟩ := p
    obtain ⟨hu, hlt, hw⟩ := memWf_cons.1 h
    unfold memPut
    split
    · rename_i hk
      split
      · exact h
      · rename_i hv
        refine memWf_cons.2 ⟨hv, fun c hc => ?_, h⟩
        rcases List.mem_cons.1 hc with rfl | hc
        · exact hk
        · exact Nat.lt_trans hk (hlt c hc)
    · split
      · split
        · exact hw
        · rename_i hk hv
          subst hk
          exact memWf_cons.2 ⟨hv, hlt, hw⟩
      · refine memWf_cons.2 ⟨hu, fun c hc => ?_, ih hw⟩
        rcases memPut_mem hc with hc | hc
        · omega
        · exact hlt c hc

/-- Removing bytes keeps the canonical form. -/
theorem memWf_filter {t : List Host.Cell} (p : Host.Cell → Bool) (h : Memory.wf t = true) : Memory.wf (t.filter p) = true := by
  induction t with
  | nil => rfl
  | cons c t ih =>
    obtain ⟨k, v⟩ := c
    obtain ⟨hv, hlt, hw⟩ := memWf_cons.1 h
    rw [List.filter_cons]
    split
    · exact memWf_cons.2 ⟨hv, fun c hc => hlt c (List.mem_filter.1 hc).1, ih hw⟩
    · exact ih hw

theorem memWf_memClear {t : List Host.Cell} (h : Memory.wf t = true) (loc len : Nat) : Memory.wf (memClear t loc len) = true :=
  memWf_filter _ h

/-- Every list of writes keeps the canonical form. -/
theorem memWf_applyWrs {t : List Host.Cell} (h : Memory.wf t = true) (ws : List Wr) : Memory.wf (applyWrs t ws) = true := by
  induction ws with
  | nil => exact h
  | cons x ws ih =>
    cases x with
    | put loc b => exact memWf_memPut ih loc b
    | clear loc len => exact memWf_memClear ih loc len

/-- What a step sees while it runs is what memory holds once its writes are applied. -/
theorem memGet_applyWrs {t : List Host.Cell} (h : Memory.wf t = true) (ws : List Wr) (a : Nat) :
    memGet (applyWrs t ws) a = viewGet t ws a := by
  induction ws with
  | nil => rfl
  | cons x ws ih =>
    cases x with
    | put loc b => simp only [applyWrs, applyWr, viewGet, memGet_memPut (memWf_applyWrs h ws), ih]
    | clear loc len => simp only [applyWrs, applyWr, viewGet, memGet_memClear, ih]

/-- The state that a working state leaves has canonical memory. -/
theorem finish_mem_wf (w : Work) {s : State} (h : Memory.wf s.mem = true) : Memory.wf (w.finish s).mem = true :=
  memWf_applyWrs h w.ws

@[simp] theorem finish_mem (w : Work) (s : State) : (w.finish s).mem = applyWrs s.mem w.ws := rfl

@[simp] theorem finish_toMach (w : Work) (s : State) : (w.finish s).toMach = w.m.wrote w.unspent := rfl

/-- Of a working state that has broken no link yet, every write is still to break links. -/
theorem unspent_of_fresh {w : Work} (h : w.spent = 0) : w.unspent = w.ws := by simp [Work.unspent, h]

/-- A working state that has written no byte leaves its machine and the bytes as they were. -/
theorem finish_of_no_writes (w : Work) (s : State) (h : w.ws = []) : w.finish s = { toMach := w.m, mem := s.mem } := by
  simp [Work.finish, h, Work.unspent, Mach.wrote, applyWrs]

/-! ### Bytes of the working state -/

@[simp] theorem byte_putByte (w : Work) (loc : Nat) (b : Byte) (a : Nat) :
    (w.putByte loc b).byte a = if a = loc then b else w.byte a := rfl

@[simp] theorem byte_clearBytes (w : Work) (loc len a : Nat) :
    (w.clearBytes loc len).byte a = if loc ≤ a ∧ a < loc + len then 0 else w.byte a := rfl

/-- Bytes written from a location upward: the bytes read there, and every other byte as it was. -/
theorem byte_putBytes (w : Work) (loc : Nat) (bs : List Byte) (a : Nat) :
    (w.putBytes loc bs).byte a = if loc ≤ a ∧ a < loc + bs.length then bs.getD (a - loc) 0 else w.byte a := by
  induction bs generalizing w loc with
  | nil =>
    simp only [Work.putBytes, List.length_nil, Nat.add_zero]
    rw [if_neg (by omega)]
  | cons b bs ih =>
    simp only [Work.putBytes, ih, byte_putByte, List.length_cons]
    by_cases h1 : a = loc
    · subst h1
      rw [if_neg (by omega), if_pos rfl, if_pos (by omega)]
      simp
    · by_cases h2 : loc + 1 ≤ a ∧ a < loc + 1 + bs.length
      · rw [if_pos h2, if_pos (by omega)]
        obtain ⟨k, rfl⟩ : ∃ k, a = loc + 1 + k := ⟨a - loc - 1, by omega⟩
        have e1 : loc + 1 + k - (loc + 1) = k := by omega
        have e2 : loc + 1 + k - loc = k + 1 := by omega
        simp [e1, e2]
      · rw [if_neg h2, if_neg h1, if_neg (by omega)]

end Sys2Proof.Machine
end

