-- ==== Sys2Proof/Laws/Access.lean ====
section
/-! SUPPORT. The accesses of an instruction that makes them all in one turn: what its reads answer and what its writes leave. -/

namespace Sys2Proof.Machine

/-! ### What an access leaves alone -/

@[simp] theorem scrub_limit (w : Work) (l : Nat) : (w.scrub l).limit = w.limit := by unfold Work.scrub; dsimp only; split <;> rfl
@[simp] theorem scrub_made (w : Work) (l : Nat) : (w.scrub l).made = w.made := by unfold Work.scrub; dsimp only; split <;> rfl
@[simp] theorem scrub_byte (w : Work) (l a : Nat) : (w.scrub l).byte a = w.byte a := by unfold Work.scrub; dsimp only; split <;> rfl

theorem scrubs_keep (l : List Nat) (w : Work) :
    (l.foldl (fun w x => w.scrub x) w).limit = w.limit ∧ (l.foldl (fun w x => w.scrub x) w).made = w.made ∧
    (l.foldl (fun w x => w.scrub x) w).byte = w.byte := by
  induction l generalizing w with
  | nil => exact ⟨rfl, rfl, rfl⟩
  | cons x l ih =>
    have b : (w.scrub x).byte = w.byte := funext (scrub_byte w x)
    simpa [b] using ih (w.scrub x)

/-! ### Reads -/

/-- A read of an instruction that makes all its accesses now: the bytes as they stand, good copies written back. -/
theorem read_whole {w : Work} (h : w.limit = none) (g : w.made = []) (locs : List Nat) :
    w.read locs = .ok (locs.map w.byte, locs.foldl (fun w x => w.scrub x) w) := by
  have k := (scrubs_keep locs w).1
  simp [Work.read, g, Work.pauses, h, Work.log, k]

/-- The reads of an element. -/
theorem readReqs_whole (rs : List Req) {w : Work} (h : w.limit = none) (g : w.made = []) :
    w.readReqs (fun _ w => w) rs = .ok (rs.map w.reqBits, (rs.flatMap (fun r => r.locs)).foldl (fun w x => w.scrub x) w) := by
  induction rs generalizing w with
  | nil => rfl
  | cons r rs ih =>
    obtain ⟨k1, k2, k3⟩ := scrubs_keep r.locs w
    have e : (fun w : Work => w) = id := rfl
    have same : rs.map (Work.reqBits (r.locs.foldl (fun w x => w.scrub x) w)) = rs.map w.reqBits :=
      List.map_congr_left (fun q _ => by simp [Work.reqBits, k3])
    simp only [Work.readReqs, e, read_whole h g, bind, Except.bind, ih (k1.trans h) (k2.trans g), same, List.map_cons,
      List.flatMap_cons, List.foldl_append, Work.reqBits]

/-- The reads of a plan. -/
theorem readPlan_whole (l : List (Nat × List Req)) {w : Work} (h : w.limit = none) (g : w.made = []) :
    w.readPlan noNote l = .ok (l.map (fun p => (p.1, p.2.map w.reqBits)), (planLocs l).foldl (fun w x => w.scrub x) w) := by
  induction l generalizing w with
  | nil => rfl
  | cons p l ih =>
    obtain ⟨k1, k2, k3⟩ := scrubs_keep (p.2.flatMap (fun r => r.locs)) w
    have same : ∀ rs : List Req, rs.map (Work.reqBits ((p.2.flatMap (fun r => r.locs)).foldl (fun w x => w.scrub x) w)) = rs.map w.reqBits :=
      fun rs => List.map_congr_left (fun q _ => by simp [Work.reqBits, k3])
    have one : w.readReqs (noNote p.1) p.2 = _ := readReqs_whole p.2 h g
    simp only [Work.readPlan, one, bind, Except.bind, ih (k1.trans h) (k2.trans g), same, List.map_cons, planLocs,
      List.flatMap_cons, List.foldl_append]

/-! ### Writes -/

@[simp] theorem noteBytes_limit (w : Work) (a b : Nat) (c : Bool) (l : List (Nat × Byte)) : (w.noteBytes a b c l).limit = w.limit := rfl
@[simp] theorem noteBytes_made (w : Work) (a b : Nat) (c : Bool) (l : List (Nat × Byte)) : (w.noteBytes a b c l).made = w.made := rfl
@[simp] theorem storeMarks_limit (w : Work) (a : Word) (l : List Nat) : (w.storeMarks a l).limit = w.limit := by
  unfold Work.storeMarks Work.countRemote; split <;> split <;> rfl
@[simp] theorem storeMarks_made (w : Work) (a : Word) (l : List Nat) : (w.storeMarks a l).made = w.made := by
  unfold Work.storeMarks Work.countRemote; split <;> split <;> rfl

theorem putAll_keep (l : List (Nat × Byte)) (w : Work) :
    (l.foldl (fun w p => w.putByte p.1 p.2) w).limit = w.limit ∧ (l.foldl (fun w p => w.putByte p.1 p.2) w).made = w.made := by
  induction l generalizing w with
  | nil => exact ⟨rfl, rfl⟩
  | cons x l ih => exact ih (w.putByte x.1 x.2)

@[simp] theorem stored_limit (w : Work) (a : Word) (l : List Nat) (d : List Byte) : (w.stored a l d).limit = w.limit := by
  simp only [Work.stored, Work.storeBytes, Work.feedWrite, Work.mapThr, Work.setS, storeMarks_limit, (putAll_keep _ _).1]
  split <;> rfl
@[simp] theorem stored_made (w : Work) (a : Word) (l : List Nat) (d : List Byte) : (w.stored a l d).made = w.made := by
  simp only [Work.stored, Work.storeBytes, Work.feedWrite, Work.mapThr, Work.setS, storeMarks_made, (putAll_keep _ _).2]
  split <;> rfl

/-- A store of an instruction that makes all its accesses now. -/
theorem store_whole {w : Work} (h : w.limit = none) (g : w.made = []) (a : Word) (locs : List Nat) (data : List Byte) :
    w.store a locs data = .ok (w.stored a locs data) := by
  simp [Work.store, Work.write, g, Work.pauses, h, Work.log, Except.map, Work.stored]

/-- The writes of an element. -/
theorem putReqs_whole (l : List (Req × FRes)) {w : Work} (h : w.limit = none) (g : w.made = []) :
    w.putReqs l = .ok (l.foldl (fun w r => (w.stored r.1.a r.1.locs (leBytes r.1.locs.length r.2.1)).orFlags r.2.2) w) ∧
    (l.foldl (fun w r => (w.stored r.1.a r.1.locs (leBytes r.1.locs.length r.2.1)).orFlags r.2.2) w).limit = none ∧
    (l.foldl (fun w r => (w.stored r.1.a r.1.locs (leBytes r.1.locs.length r.2.1)).orFlags r.2.2) w).made = [] := by
  induction l generalizing w with
  | nil => exact ⟨rfl, h, g⟩
  | cons x l ih =>
    have e : w.putReq x.1 x.2.1 = .ok _ := store_whole h g _ _ _
    simp only [Work.putReqs, e, bind, Except.bind, List.foldl_cons]
    exact ih ((stored_limit _ _ _ _).trans h) ((stored_made _ _ _ _).trans g)

/-- The writes of a plan. -/
theorem putPlan_whole (bits : Nat → List FRes) (l : List (Nat × List Req)) {w : Work} (h : w.limit = none) (g : w.made = []) :
    w.putPlan bits l = .ok (w.storeElems bits l) := by
  induction l generalizing w with
  | nil => rfl
  | cons p l ih =>
    obtain ⟨e, k1, k2⟩ := putReqs_whole (p.2.zip (bits p.1)) h g
    simp only [Work.putPlan, e, bind, Except.bind]
    exact ih k1 k2

/-! ### Whole plans, operands and elements -/

theorem past_of_made {w : Work} (g : w.made = []) : w.past = 0 := by simp [Work.past, g]

/-- Of an instruction that makes all its accesses now no access is made already. -/
theorem ahead_whole {w : Work} (g : w.made = []) (l : List (Nat × List Req)) : w.ahead l = l := by
  rw [Work.ahead, if_pos (past_of_made g)]

/-- The count of a notify store of an instruction that makes all its accesses now. -/
theorem addProgress_whole {w : Work} (h : w.limit = none) (g : w.made = []) (p : Option (List Nat)) (n : Nat) :
    w.addProgress p n = .ok (w.progressed p n) := by
  cases p with
  | none => rfl
  | some locs => simp [Work.addProgress, Work.write, g, Work.pauses, h, Work.log, Work.progressed]

/-- The elements of an operand fetched by an operation that makes all its accesses now. -/
theorem fetchOps_whole (l : List (List OpByte)) {w : Work} (h : w.limit = none) (g : w.made = []) :
    w.fetchOps l = .ok (l.map (fun bs => leNat (bs.map (fun b => w.byte b.loc))), l.flatten.foldl (fun w b => w.scrub b.loc) w) := by
  induction l generalizing w with
  | nil => rfl
  | cons bs l ih =>
    obtain ⟨k1, k2, k3⟩ := scrubs_keep (bs.map (fun b => b.loc)) w
    have e := ih (k1.trans h) (k2.trans g)
    rw [k3] at e
    simp only [Work.fetchOps, read_whole h g, bind, Except.bind, e, List.map_cons, List.flatten_cons, List.foldl_append]
    simp only [List.map_map, Function.comp_def, List.foldl_map]

/-- The A operand of an operation that makes all its accesses now. -/
theorem aTable_whole {w : Work} (h : w.limit = none) (g : w.made = []) (lsp col wide : Bool) (size k : Nat) (src : TileSrc) (a : Reg) :
    w.aTable lsp col wide size k src a = .ok (w.aNums lsp col wide size k src a, w.aRead lsp col wide size k src) := by
  cases lsp with
  | false => simp [Work.aTable, Work.aNums, Work.aRead, Work.aBlockBytes, aBlock]
  | true =>
    simp only [Work.aTable, if_true, fetchOps_whole _ h g, Except.map, Work.aNums, Work.aRead, Work.aBlockBytes, past_of_made g, List.drop_zero]

/-- A load whose elements all pass their checks. -/
theorem vload_done {w : Work} {k : Kind} {plan : Nat → Except EFault (List Req)} {put : Work → List (Nat × List Nat) → Work}
    {l : List (Nat × List Req)} (h : w.limit = none) (g : w.made = []) (e : ElemsRead w plan l) :
    w.vload k plan put = if k.sampled then (w.loadedElems k.cls put l).sample k.cls k.col false l 0 else .ok (w.loadedElems k.cls put l) := by
  obtain ⟨e1, e2, e3⟩ := e
  have m : w.mayRead l = .ok () := by rw [Work.mayRead, e2]; rfl
  simp only [Work.vload, e1, bind, Except.bind, ahead_whole g, m, e3, readPlan_whole l h g, Work.loadedElems]

/-- A store whose elements all pass their checks; `fix` settles what several elements wrote. -/
theorem vstore_done {w w1 : Work} {k : Kind} {nt : Bool} {prog : Option (List Nat)} {plan : Nat → Except EFault (List Req)}
    {bits : Nat → List FRes} {fix : Work → List (Nat × List Req) → Work} {l : List (Nat × List Req)} (p : w.progress nt = .ok (prog, w1)) (h : w1.limit = none) (g : w1.made = []) (e : ElemsWritten w1 plan l)
    (fh : (fix (w1.storeElems bits l) l).limit = none) (fg : (fix (w1.storeElems bits l) l).made = []) :
    w.vstore k nt plan bits fix =
      let w2 := ((fix (w1.storeElems bits l) l).progressed prog (storedCount l)).countHot k.cls l
      if k.sampled then w2.sample k.cls k.col true l 0 else .ok w2 := by
  obtain ⟨e1, e2⟩ := e
  have m : w1.mayWrite l = .ok () := by rw [Work.mayWrite, e2]; rfl
  simp only [Work.vstore, p, e1, bind, Except.bind, ahead_whole g, m, putPlan_whole bits l h g, addProgress_whole fh fg, storedCount]

/-- Linking an element makes no access. -/
theorem linkElement_keep (w : Work) (e : Nat) (r : Req) :
    (w.linkElement e r).limit = w.limit ∧ (w.linkElement e r).made = w.made ∧ (w.linkElement e r).byte = w.byte := by
  have go : ∀ (l : List Nat) (v : Work), (l.foldl (fun w x => w.addHold x) v).limit = v.limit ∧
      (l.foldl (fun w x => w.addHold x) v).made = v.made ∧ (l.foldl (fun w x => w.addHold x) v).byte = v.byte := by
    intro l
    induction l with
    | nil => exact fun v => ⟨rfl, rfl, rfl⟩
    | cons x l ih =>
      intro v
      obtain ⟨a, b, c⟩ := ih (v.addHold x)
      have q : (v.addHold x).limit = v.limit ∧ (v.addHold x).made = v.made ∧ (v.addHold x).byte = v.byte := by
        unfold Work.addHold; exact ⟨rfl, rfl, rfl⟩
      exact ⟨a.trans q.1, b.trans q.2.1, c.trans q.2.2⟩
  exact go r.lines w

/-- The linked reads of an element. -/
theorem linkReqs_whole (e : Nat) (rs : List Req) {w : Work} (h : w.limit = none) (g : w.made = []) :
    w.readReqs (fun r w => w.linkElement e r) rs =
      .ok (rs.map w.reqBits, rs.foldl (fun w r => (r.locs.foldl (fun w x => w.scrub x) w).linkElement e r) w) ∧
    (rs.foldl (fun w r => (r.locs.foldl (fun w x => w.scrub x) w).linkElement e r) w).limit = none ∧
    (rs.foldl (fun w r => (r.locs.foldl (fun w x => w.scrub x) w).linkElement e r) w).made = [] ∧
    (rs.foldl (fun w r => (r.locs.foldl (fun w x => w.scrub x) w).linkElement e r) w).byte = w.byte := by
  induction rs generalizing w with
  | nil => exact ⟨rfl, h, g, rfl⟩
  | cons r rs ih =>
    obtain ⟨k1, k2, k3⟩ := scrubs_keep r.locs w
    obtain ⟨j1, j2, j3⟩ := linkElement_keep (r.locs.foldl (fun w x => w.scrub x) w) e r
    obtain ⟨i1, i2, i3, i4⟩ := ih (j1.trans (k1.trans h)) (j2.trans (k2.trans g))
    have b := j3.trans k3
    have one : w.read r.locs (fun w => w.linkElement e r) =
        .ok (r.locs.map w.byte, (r.locs.foldl (fun w x => w.scrub x) w).linkElement e r) := by
      simp [Work.read, g, Work.pauses, h, Work.log, k1]
    refine ⟨?_, i2, i3, i4.trans b⟩
    have same : rs.map (Work.reqBits ((r.locs.foldl (fun w x => w.scrub x) w).linkElement e r)) = rs.map w.reqBits :=
      List.map_congr_left (fun q _ => by simp [Work.reqBits, b])
    simp only [Work.readReqs, one, bind, Except.bind, i1, same, List.map_cons, List.foldl_cons, Work.reqBits]

/-- The linked reads of a plan. -/
theorem linkPlan_whole (l : List (Nat × List Req)) {w : Work} (h : w.limit = none) (g : w.made = []) :
    w.readPlan (fun e r w => w.linkElement e r) l = .ok (l.map (fun p => (p.1, p.2.map w.reqBits)), w.linkedReads l) := by
  induction l generalizing w with
  | nil => rfl
  | cons p l ih =>
    obtain ⟨i1, i2, i3, i4⟩ := linkReqs_whole p.1 p.2 h g
    have same : ∀ rs : List Req, rs.map (Work.reqBits (p.2.foldl (fun w r => (r.locs.foldl (fun w x => w.scrub x) w).linkElement p.1 r) w)) =
        rs.map w.reqBits := fun rs => List.map_congr_left (fun q _ => by simp [Work.reqBits, i4])
    simp only [Work.readPlan, i1, bind, Except.bind, ih i2 i3, same, List.map_cons, Work.linkedReads, List.foldl_cons]

/-- The elements of a scatter-conditional that makes all its accesses now. -/
theorem scatter_whole (bits : Nat → Nat) (l : List (Nat × List Req)) {w : Work} (h : w.limit = none) (g : w.made = []) :
    w.scatter bits l = .ok (w.scattered bits l) := by
  induction l generalizing w with
  | nil => rfl
  | cons p l ih =>
    obtain ⟨e, rs⟩ := p
    have s1 : w.scatters e rs = w.elementLinked e rs := by simp [Work.scatters, g]
    have s2 : w.skipElement e = .ok (w.mapThr (fun x => { x with elinks := tabDel x.elinks e })) := by
      simp [Work.skipElement, g, Work.pauses, h, Work.log, Work.mapThr, Work.setS]
    obtain ⟨p1, p2, p3⟩ := putReqs_whole (rs.map (fun r => (r, (bits e, (0 : BitVec 5))))) h g
    simp only [List.foldl_map] at p1 p2 p3
    cases hl : w.elementLinked e rs with
    | true =>
      have i := ih (w := (rs.foldl (fun w r => (w.stored r.a r.locs (leBytes r.locs.length (bits e))).orFlags 0) w).breakElements
        (rs.flatMap Req.lines)) (by simpa [Work.breakElements, Work.mapThr, Work.setS] using p2)
        (by simpa [Work.breakElements, Work.mapThr, Work.setS] using p3)
      simp only [Work.scatter, s1, hl, if_true, p1, bind, Except.bind, i, Work.scattered]
    | false =>
      have i := ih (w := w.mapThr (fun x => { x with elinks := tabDel x.elinks e })) h g
      simp only [Work.scatter, s1, hl, s2, bind, Except.bind, i, Work.scattered]
      rfl

/-! ### What walks and strips leave alone -/

/-- Two works have the same accesses behind and before them. -/
def Work.sameRun (w v : Work) : Prop := v.limit = w.limit ∧ v.made = w.made ∧ v.pos = w.pos

theorem sameRun_refl (w : Work) : w.sameRun w := ⟨rfl, rfl, rfl⟩

theorem sameRun_trans {u v w : Work} (h : u.sameRun v) (g : v.sameRun w) : u.sameRun w :=
  ⟨g.1.trans h.1, g.2.1.trans h.2.1, g.2.2.trans h.2.2⟩

theorem whole_of_sameRun {w v : Work} (h : w.sameRun v) : v.whole = w.whole := by simp only [Work.whole, h.1, h.2.1]

theorem scrub_sameRun (w : Work) (l : Nat) : w.sameRun (w.scrub l) := by unfold Work.scrub; dsimp only; split <;> exact sameRun_refl _

theorem foldl_sameRun {α : Type} (f : Work → α → Work) (hf : ∀ (w : Work) x, w.sameRun (f w x)) (l : List α) (w : Work) :
    w.sameRun (l.foldl f w) := by
  induction l generalizing w with
  | nil => exact sameRun_refl _
  | cons x l ih => exact sameRun_trans (hf w x) (ih (f w x))

theorem putBytes_sameRun (data : List Byte) (w : Work) (loc : Nat) : w.sameRun (w.putBytes loc data) := by
  induction data generalizing w loc with
  | nil => exact sameRun_refl _
  | cons b bs ih => exact ih (w.putByte loc b) (loc + 1)

theorem putNoted_sameRun (w : Work) (a b loc : Nat) (data : List Byte) : w.sameRun (w.putNoted a b loc data) := by
  unfold Work.putNoted
  split
  · exact putBytes_sameRun data (w.noteBytes a b true (data.zipIdx.map (fun p => (loc + p.2, p.1)))) loc
  · exact putBytes_sameRun data w loc

theorem setAD_sameRun (n : Nat) (w : Work) (first bits : Nat) : w.sameRun (setAD w first bits n) := by
  induction n generalizing w with
  | zero => exact sameRun_refl _
  | succ k ih => exact sameRun_trans (putNoted_sameRun w _ _ _ _) (ih _)

/-- A walk leaves the accesses of the instruction as they are. -/
theorem walkPlace_sameRun {w v : Work} {who va acc loc : Nat} {spt : Word} {sup : Bool}
    (h : walkPlace w who spt sup va acc = .ok (loc, v)) : w.sameRun v := by
  have hs : w.sameRun (w.scrubWalk who spt va) := by
    unfold Work.scrubWalk
    split
    · exact sameRun_refl _
    · exact foldl_sameRun _ scrub_sameRun _ _
  unfold walkPlace at h
  cases e : walkLeaf w who spt sup va acc with
  | error x => rw [e] at h; cases x <;> cases h
  | ok l =>
    rw [e] at h
    dsimp only at h
    generalize (if acc = 1 then 0xC0 else 0x40) = bits at h
    split at h
    · cases h
    · simp only [Except.ok.injEq, Prod.mk.injEq] at h
      obtain ⟨-, rfl⟩ := h
      split
      · exact sameRun_trans hs (setAD_sameRun _ _ _ _)
      · exact hs

theorem scalarPlace_sameRun {w v : Work} {n acc loc : Nat} {spt a : Word} {sup : Bool}
    (h : scalarPlace w n spt sup a acc = .ok (loc, v)) : w.sameRun v := by
  unfold scalarPlace at h
  split at h
  · cases e : localPlace w.m n a.toNat with
    | error _ => rw [e] at h; cases h
    | ok l => rw [e] at h; simp only [Except.map, Except.ok.injEq, Prod.mk.injEq] at h; exact h.2 ▸ sameRun_refl _
  · exact walkPlace_sameRun h

theorem liftMiss_ok {α : Type} {w : Work} {a : Word} {acc : Nat} {r : Except Miss α} {x : α} (h : liftMiss w a acc r = .ok x) : r = .ok x := by
  cases r with
  | ok y => rw [liftMiss] at h; rw [Except.ok.injEq] at h; rw [h]
  | error e => rw [liftMiss] at h; cases e <;> cases h

theorem runPlaces_sameRun {acc : Nat} (l : List (Word × Nat)) {w v : Work} {places : List (Nat × Nat)}
    (h : w.runPlaces acc l = .ok (places, v)) : w.sameRun v := by
  induction l generalizing w places with
  | nil => cases h; exact sameRun_refl _
  | cons p l ih =>
    obtain ⟨a, n⟩ := p
    simp only [Work.runPlaces, bind, Except.bind] at h
    split at h
    · cases h
    · rename_i x hx
      obtain ⟨loc, w1⟩ := x
      have h1 := scalarPlace_sameRun (liftMiss_ok hx)
      dsimp only at h
      split at h
      · cases h
      · rename_i y hy
        obtain ⟨ls, w2⟩ := y
        cases h
        exact sameRun_trans h1 (ih hy)

theorem probe_sameRun (i : ImageAt) (acc : Nat) (l : List Nat) {w v : Work} (h : i.probe acc l w = .ok v) : w.sameRun v := by
  induction l generalizing w with
  | nil => cases h; exact sameRun_refl _
  | cons p l ih =>
    unfold ImageAt.probe at h
    split at h
    · cases h
    · rename_i loc w1 hx
      split at h
      · cases h
      · exact sameRun_trans (scalarPlace_sameRun hx) (ih h)

/-! ### Bytes one after another -/

theorem readApart_whole {w : Work} (h : w.whole = true) (locs : Unit → List Nat) : w.readApart locs = .ok w := by
  rw [Work.readApart, if_pos h]

theorem writeApart_whole {w : Work} (h : w.whole = true) (all : Work) (a b : Nat) (locs : Unit → List Nat) :
    w.writeApart all a b locs = .ok all := by
  rw [Work.writeApart, if_pos h]

theorem image_writeApart_whole {w : Work} (h : w.whole = true) (i : ImageAt) (mask : Nat) : i.writeApart mask w = .ok (i.write mask w) := by
  simp only [ImageAt.writeApart, writeApart_whole h]

/-! ### Where a word begins -/

theorem bind_ok {α β : Type} {x : M α} {f : α → M β} {r : β} (h : x >>= f = .ok r) : ∃ a, x = .ok a ∧ f a = .ok r := by
  cases x with
  | error e => cases h
  | ok a => exact ⟨a, rfl, h⟩

theorem streamStrip_sameRun {w v : Work} {b : Binding} {x : List (Nat × Nat) × List (Nat × BitVec 5) × List (Nat × List Req)}
    (hl : w.limit = none) (hm : w.made = []) (h : w.streamStrip b = .ok (x, v)) : w.sameRun v := by
  unfold Work.streamStrip at h
  dsimp only at h
  generalize planAll _ _ = p at h
  obtain ⟨good, bad⟩ := p
  cases bad with
  | some f =>
    obtain ⟨e, f⟩ := f
    cases f <;> cases h
  | none =>
    obtain ⟨-, -, h⟩ := bind_ok h
    generalize firstPoison w.m (w.ahead good) = q at h
    cases q with
    | some q => cases h
    | none =>
      obtain ⟨y, hy, h⟩ := bind_ok h
      rw [readPlan_whole good hl hm, Except.ok.injEq] at hy
      rw [Except.ok.injEq, Prod.mk.injEq] at h
      rw [← h.2, ← hy]
      exact foldl_sameRun _ scrub_sameRun _ _

theorem takeStrip_sameRun {w v : Work} {n : Nat} (hl : w.limit = none) (hm : w.made = []) (h : w.takeStrip n = .ok v) : w.sameRun v := by
  unfold Work.takeStrip at h
  split at h
  · cases h; exact sameRun_refl _
  · rename_i b _
    simp only [bind, Except.bind] at h
    split at h
    · cases h
    · rename_i x hx
      obtain ⟨⟨els, fl, reqs⟩, w1⟩ := x
      have h1 := streamStrip_sameRun hl hm hx
      have hc : ∀ (u : Work) l, u.sameRun (u.countRemote l) := fun u l => by unfold Work.countRemote; split <;> exact sameRun_refl _
      have hf : ∀ (u : Work) l, u.sameRun (u.touchFibre l) := fun u l => by unfold Work.touchFibre; split <;> exact sameRun_refl _
      dsimp only at h
      cases h
      refine sameRun_trans ?_ (sameRun_trans (hc _ _) (hf _ _))
      split
      · exact h1
      · exact h1

theorem takeStrips_sameRun (l : List Nat) {w v : Work} (hl : w.limit = none) (hm : w.made = []) (h : w.takeStrips l = .ok v) :
    w.sameRun v := by
  induction l generalizing w with
  | nil => cases h; exact sameRun_refl _
  | cons n l ih =>
    simp only [Work.takeStrips, bind, Except.bind] at h
    split at h
    · cases h
    · rename_i w1 h1
      have g := takeStrip_sameRun hl hm h1
      exact sameRun_trans g (ih (g.1.trans hl) (g.2.1.trans hm) h)

/-- A word that begins makes all its accesses now. -/
theorem begins_whole {i : Instr} {s : State} {w : Work} (h : Begins i s w) : w.limit = none ∧ w.made = [] := by
  obtain ⟨-, w1, h1, rfl⟩ := h
  unfold Work.sources at h1
  split at h1
  · cases h1; exact ⟨rfl, rfl⟩
  · cases hu : usesStore i with
    | false =>
      simp only [hu, Bool.false_eq_true, if_false, bind, Except.bind] at h1
      cases hs : s.work.takeStrips (s.work.s.boundSources i) with
      | error e => rw [hs] at h1; cases e <;> cases h1
      | ok v =>
        rw [hs] at h1
        cases h1
        have k := takeStrips_sameRun _ rfl rfl hs
        exact ⟨k.1, k.2.1⟩
    | true =>
      simp only [hu, if_true, bind, Except.bind] at h1
      cases ho : s.work.ownStore with
      | error e => rw [ho] at h1; cases h1
      | ok _ =>
        rw [ho] at h1
        dsimp only at h1
        cases hs : s.work.takeStrips (s.work.s.boundSources i) with
        | error e => rw [hs] at h1; cases e <;> cases h1
        | ok v =>
          rw [hs] at h1
          cases h1
          have k := takeStrips_sameRun _ rfl rfl hs
          exact ⟨k.1, k.2.1⟩

end Sys2Proof.Machine
end

