-- ==== Sys2Proof/Laws/Tab.lean ====
section
/-! SUPPORT. Sparse tables: what a table answers after an entry is set or removed. -/

namespace Sys2Proof.Machine

@[simp] theorem tabGet_nil {α : Type} (d : α) (n : Nat) : tabGet d [] n = d := rfl

/-- A table answers the value just set. -/
@[simp] theorem tabGet_tabSet_self {α : Type} (d : α) (t : Tab α) (n : Nat) (v : α) : tabGet d (tabSet t n v) n = v := by
  induction t with
  | nil => simp [tabSet, tabGet]
  | cons p t ih =>
    obtain ⟨k, u⟩ := p
    unfold tabSet
    split
    · simp [tabGet]
    · split
      · simp [tabGet]
      · simp [tabGet, *]

/-- Setting an entry leaves every other entry as it was. -/
theorem tabGet_tabSet_ne {α : Type} (d : α) (t : Tab α) {n k : Nat} (v : α) (h : k ≠ n) :
    tabGet d (tabSet t n v) k = tabGet d t k := by
  induction t with
  | nil => simp [tabSet, tabGet, h]
  | cons p t ih =>
    obtain ⟨j, u⟩ := p
    unfold tabSet
    split
    · simp [tabGet, h]
    · split
      · subst_vars; simp [tabGet, h]
      · simp [tabGet, ih]

theorem tabGet_tabSet {α : Type} (d : α) (t : Tab α) (n k : Nat) (v : α) :
    tabGet d (tabSet t n v) k = if k = n then v else tabGet d t k := by
  by_cases h : k = n
  · simp [h]
  · simp [h, tabGet_tabSet_ne]

/-- A removed entry reads as the default. -/
theorem tabGet_tabDel {α : Type} (d : α) (t : Tab α) (n k : Nat) :
    tabGet d (tabDel t n) k = if k = n then d else tabGet d t k := by
  induction t with
  | nil => simp [tabDel]
  | cons p t ih =>
    obtain ⟨j, u⟩ := p
    unfold tabDel
    split
    · rename_i hj
      subst hj
      rw [ih]
      by_cases h : k = n <;> simp [h, tabGet]
    · by_cases h : k = n
      · subst h; simp_all [tabGet]
      · simp_all [tabGet]

end Sys2Proof.Machine
end

