-- ==== Sys2Proof/Laws/State.lean ====
section
/-! SUPPORT. What each update of the state leaves in each field, and what a numbered thing answers after it is set. -/

namespace Sys2Proof.Machine

/-! ### Mach.setSlot -/

@[simp] theorem setSlot_slots (m : Mach) (n : Nat) (x : Slot) : (m.setSlot n x).slots = tabSet m.slots n x := rfl
@[simp] theorem setSlot_cores (m : Mach) (n : Nat) (x : Slot) : (m.setSlot n x).cores = m.cores := rfl
@[simp] theorem setSlot_sites (m : Mach) (n : Nat) (x : Slot) : (m.setSlot n x).sites = m.sites := rfl
@[simp] theorem setSlot_shadow (m : Mach) (n : Nat) (x : Slot) : (m.setSlot n x).shadow = m.shadow := rfl
@[simp] theorem setSlot_vaults (m : Mach) (n : Nat) (x : Slot) : (m.setSlot n x).vaults = m.vaults := rfl
@[simp] theorem setSlot_engines (m : Mach) (n : Nat) (x : Slot) : (m.setSlot n x).engines = m.engines := rfl
@[simp] theorem setSlot_barriers (m : Mach) (n : Nat) (x : Slot) : (m.setSlot n x).barriers = m.barriers := rfl
@[simp] theorem setSlot_contexts (m : Mach) (n : Nat) (x : Slot) : (m.setSlot n x).contexts = m.contexts := rfl
@[simp] theorem setSlot_jobs (m : Mach) (n : Nat) (x : Slot) : (m.setSlot n x).jobs = m.jobs := rfl
@[simp] theorem setSlot_sched (m : Mach) (n : Nat) (x : Slot) : (m.setSlot n x).sched = m.sched := rfl
@[simp] theorem setSlot_pkg (m : Mach) (n : Nat) (x : Slot) : (m.setSlot n x).pkg = m.pkg := rfl
@[simp] theorem setSlot_mgmt (m : Mach) (n : Nat) (x : Slot) : (m.setSlot n x).mgmt = m.mgmt := rfl
@[simp] theorem setSlot_agenda (m : Mach) (n : Nat) (x : Slot) : (m.setSlot n x).agenda = m.agenda := rfl
@[simp] theorem setSlot_parts (m : Mach) (n : Nat) (x : Slot) : (m.setSlot n x).parts = m.parts := rfl
@[simp] theorem setSlot_cur (m : Mach) (n : Nat) (x : Slot) : (m.setSlot n x).cur = m.cur := rfl
@[simp] theorem setSlot_fresh (m : Mach) (n : Nat) (x : Slot) : (m.setSlot n x).fresh = m.fresh := rfl

/-! ### Mach.setCore -/

@[simp] theorem setCore_slots (m : Mach) (n : Nat) (x : Core) : (m.setCore n x).slots = m.slots := rfl
@[simp] theorem setCore_cores (m : Mach) (n : Nat) (x : Core) : (m.setCore n x).cores = tabSet m.cores n x := rfl
@[simp] theorem setCore_sites (m : Mach) (n : Nat) (x : Core) : (m.setCore n x).sites = m.sites := rfl
@[simp] theorem setCore_shadow (m : Mach) (n : Nat) (x : Core) : (m.setCore n x).shadow = m.shadow := rfl
@[simp] theorem setCore_vaults (m : Mach) (n : Nat) (x : Core) : (m.setCore n x).vaults = m.vaults := rfl
@[simp] theorem setCore_engines (m : Mach) (n : Nat) (x : Core) : (m.setCore n x).engines = m.engines := rfl
@[simp] theorem setCore_barriers (m : Mach) (n : Nat) (x : Core) : (m.setCore n x).barriers = m.barriers := rfl
@[simp] theorem setCore_contexts (m : Mach) (n : Nat) (x : Core) : (m.setCore n x).contexts = m.contexts := rfl
@[simp] theorem setCore_jobs (m : Mach) (n : Nat) (x : Core) : (m.setCore n x).jobs = m.jobs := rfl
@[simp] theorem setCore_sched (m : Mach) (n : Nat) (x : Core) : (m.setCore n x).sched = m.sched := rfl
@[simp] theorem setCore_pkg (m : Mach) (n : Nat) (x : Core) : (m.setCore n x).pkg = m.pkg := rfl
@[simp] theorem setCore_mgmt (m : Mach) (n : Nat) (x : Core) : (m.setCore n x).mgmt = m.mgmt := rfl
@[simp] theorem setCore_agenda (m : Mach) (n : Nat) (x : Core) : (m.setCore n x).agenda = m.agenda := rfl
@[simp] theorem setCore_parts (m : Mach) (n : Nat) (x : Core) : (m.setCore n x).parts = m.parts := rfl
@[simp] theorem setCore_cur (m : Mach) (n : Nat) (x : Core) : (m.setCore n x).cur = m.cur := rfl
@[simp] theorem setCore_fresh (m : Mach) (n : Nat) (x : Core) : (m.setCore n x).fresh = m.fresh := rfl

/-! ### Mach.setVault -/

@[simp] theorem setVault_slots (m : Mach) (n : Nat) (x : Vault) : (m.setVault n x).slots = m.slots := rfl
@[simp] theorem setVault_cores (m : Mach) (n : Nat) (x : Vault) : (m.setVault n x).cores = m.cores := rfl
@[simp] theorem setVault_sites (m : Mach) (n : Nat) (x : Vault) : (m.setVault n x).sites = m.sites := rfl
@[simp] theorem setVault_shadow (m : Mach) (n : Nat) (x : Vault) : (m.setVault n x).shadow = m.shadow := rfl
@[simp] theorem setVault_vaults (m : Mach) (n : Nat) (x : Vault) : (m.setVault n x).vaults = tabSet m.vaults n x := rfl
@[simp] theorem setVault_engines (m : Mach) (n : Nat) (x : Vault) : (m.setVault n x).engines = m.engines := rfl
@[simp] theorem setVault_barriers (m : Mach) (n : Nat) (x : Vault) : (m.setVault n x).barriers = m.barriers := rfl
@[simp] theorem setVault_contexts (m : Mach) (n : Nat) (x : Vault) : (m.setVault n x).contexts = m.contexts := rfl
@[simp] theorem setVault_jobs (m : Mach) (n : Nat) (x : Vault) : (m.setVault n x).jobs = m.jobs := rfl
@[simp] theorem setVault_sched (m : Mach) (n : Nat) (x : Vault) : (m.setVault n x).sched = m.sched := rfl
@[simp] theorem setVault_pkg (m : Mach) (n : Nat) (x : Vault) : (m.setVault n x).pkg = m.pkg := rfl
@[simp] theorem setVault_mgmt (m : Mach) (n : Nat) (x : Vault) : (m.setVault n x).mgmt = m.mgmt := rfl
@[simp] theorem setVault_agenda (m : Mach) (n : Nat) (x : Vault) : (m.setVault n x).agenda = m.agenda := rfl
@[simp] theorem setVault_parts (m : Mach) (n : Nat) (x : Vault) : (m.setVault n x).parts = m.parts := rfl
@[simp] theorem setVault_cur (m : Mach) (n : Nat) (x : Vault) : (m.setVault n x).cur = m.cur := rfl
@[simp] theorem setVault_fresh (m : Mach) (n : Nat) (x : Vault) : (m.setVault n x).fresh = m.fresh := rfl

/-! ### Mach.setEngine -/

@[simp] theorem setEngine_slots (m : Mach) (n : Nat) (x : Engine) : (m.setEngine n x).slots = m.slots := rfl
@[simp] theorem setEngine_cores (m : Mach) (n : Nat) (x : Engine) : (m.setEngine n x).cores = m.cores := rfl
@[simp] theorem setEngine_sites (m : Mach) (n : Nat) (x : Engine) : (m.setEngine n x).sites = m.sites := rfl
@[simp] theorem setEngine_shadow (m : Mach) (n : Nat) (x : Engine) : (m.setEngine n x).shadow = m.shadow := rfl
@[simp] theorem setEngine_vaults (m : Mach) (n : Nat) (x : Engine) : (m.setEngine n x).vaults = m.vaults := rfl
@[simp] theorem setEngine_engines (m : Mach) (n : Nat) (x : Engine) : (m.setEngine n x).engines = tabSet m.engines n x := rfl
@[simp] theorem setEngine_barriers (m : Mach) (n : Nat) (x : Engine) : (m.setEngine n x).barriers = m.barriers := rfl
@[simp] theorem setEngine_contexts (m : Mach) (n : Nat) (x : Engine) : (m.setEngine n x).contexts = m.contexts := rfl
@[simp] theorem setEngine_jobs (m : Mach) (n : Nat) (x : Engine) : (m.setEngine n x).jobs = m.jobs := rfl
@[simp] theorem setEngine_sched (m : Mach) (n : Nat) (x : Engine) : (m.setEngine n x).sched = m.sched := rfl
@[simp] theorem setEngine_pkg (m : Mach) (n : Nat) (x : Engine) : (m.setEngine n x).pkg = m.pkg := rfl
@[simp] theorem setEngine_mgmt (m : Mach) (n : Nat) (x : Engine) : (m.setEngine n x).mgmt = m.mgmt := rfl
@[simp] theorem setEngine_agenda (m : Mach) (n : Nat) (x : Engine) : (m.setEngine n x).agenda = m.agenda := rfl
@[simp] theorem setEngine_parts (m : Mach) (n : Nat) (x : Engine) : (m.setEngine n x).parts = m.parts := rfl
@[simp] theorem setEngine_cur (m : Mach) (n : Nat) (x : Engine) : (m.setEngine n x).cur = m.cur := rfl
@[simp] theorem setEngine_fresh (m : Mach) (n : Nat) (x : Engine) : (m.setEngine n x).fresh = m.fresh := rfl

/-! ### Mach.setContext -/

@[simp] theorem setContext_slots (m : Mach) (n : Nat) (x : Context) : (m.setContext n x).slots = m.slots := rfl
@[simp] theorem setContext_cores (m : Mach) (n : Nat) (x : Context) : (m.setContext n x).cores = m.cores := rfl
@[simp] theorem setContext_sites (m : Mach) (n : Nat) (x : Context) : (m.setContext n x).sites = m.sites := rfl
@[simp] theorem setContext_shadow (m : Mach) (n : Nat) (x : Context) : (m.setContext n x).shadow = m.shadow := rfl
@[simp] theorem setContext_vaults (m : Mach) (n : Nat) (x : Context) : (m.setContext n x).vaults = m.vaults := rfl
@[simp] theorem setContext_engines (m : Mach) (n : Nat) (x : Context) : (m.setContext n x).engines = m.engines := rfl
@[simp] theorem setContext_barriers (m : Mach) (n : Nat) (x : Context) : (m.setContext n x).barriers = m.barriers := rfl
@[simp] theorem setContext_contexts (m : Mach) (n : Nat) (x : Context) : (m.setContext n x).contexts = tabSet m.contexts n x := rfl
@[simp] theorem setContext_jobs (m : Mach) (n : Nat) (x : Context) : (m.setContext n x).jobs = m.jobs := rfl
@[simp] theorem setContext_sched (m : Mach) (n : Nat) (x : Context) : (m.setContext n x).sched = m.sched := rfl
@[simp] theorem setContext_pkg (m : Mach) (n : Nat) (x : Context) : (m.setContext n x).pkg = m.pkg := rfl
@[simp] theorem setContext_mgmt (m : Mach) (n : Nat) (x : Context) : (m.setContext n x).mgmt = m.mgmt := rfl
@[simp] theorem setContext_agenda (m : Mach) (n : Nat) (x : Context) : (m.setContext n x).agenda = m.agenda := rfl
@[simp] theorem setContext_parts (m : Mach) (n : Nat) (x : Context) : (m.setContext n x).parts = m.parts := rfl
@[simp] theorem setContext_cur (m : Mach) (n : Nat) (x : Context) : (m.setContext n x).cur = m.cur := rfl
@[simp] theorem setContext_fresh (m : Mach) (n : Nat) (x : Context) : (m.setContext n x).fresh = m.fresh := rfl

/-! ### Mach.setJob -/

@[simp] theorem setJob_slots (m : Mach) (n : Nat) (x : Job) : (m.setJob n x).slots = m.slots := rfl
@[simp] theorem setJob_cores (m : Mach) (n : Nat) (x : Job) : (m.setJob n x).cores = m.cores := rfl
@[simp] theorem setJob_sites (m : Mach) (n : Nat) (x : Job) : (m.setJob n x).sites = m.sites := rfl
@[simp] theorem setJob_shadow (m : Mach) (n : Nat) (x : Job) : (m.setJob n x).shadow = m.shadow := rfl
@[simp] theorem setJob_vaults (m : Mach) (n : Nat) (x : Job) : (m.setJob n x).vaults = m.vaults := rfl
@[simp] theorem setJob_engines (m : Mach) (n : Nat) (x : Job) : (m.setJob n x).engines = m.engines := rfl
@[simp] theorem setJob_barriers (m : Mach) (n : Nat) (x : Job) : (m.setJob n x).barriers = m.barriers := rfl
@[simp] theorem setJob_contexts (m : Mach) (n : Nat) (x : Job) : (m.setJob n x).contexts = m.contexts := rfl
@[simp] theorem setJob_jobs (m : Mach) (n : Nat) (x : Job) : (m.setJob n x).jobs = tabSet m.jobs n x := rfl
@[simp] theorem setJob_sched (m : Mach) (n : Nat) (x : Job) : (m.setJob n x).sched = m.sched := rfl
@[simp] theorem setJob_pkg (m : Mach) (n : Nat) (x : Job) : (m.setJob n x).pkg = m.pkg := rfl
@[simp] theorem setJob_mgmt (m : Mach) (n : Nat) (x : Job) : (m.setJob n x).mgmt = m.mgmt := rfl
@[simp] theorem setJob_agenda (m : Mach) (n : Nat) (x : Job) : (m.setJob n x).agenda = m.agenda := rfl
@[simp] theorem setJob_parts (m : Mach) (n : Nat) (x : Job) : (m.setJob n x).parts = m.parts := rfl
@[simp] theorem setJob_cur (m : Mach) (n : Nat) (x : Job) : (m.setJob n x).cur = m.cur := rfl
@[simp] theorem setJob_fresh (m : Mach) (n : Nat) (x : Job) : (m.setJob n x).fresh = m.fresh := rfl

/-! ### Mach.setBarrier -/

@[simp] theorem setBarrier_slots (m : Mach) (n : Nat) (x : Barrier) : (m.setBarrier n x).slots = m.slots := rfl
@[simp] theorem setBarrier_cores (m : Mach) (n : Nat) (x : Barrier) : (m.setBarrier n x).cores = m.cores := rfl
@[simp] theorem setBarrier_sites (m : Mach) (n : Nat) (x : Barrier) : (m.setBarrier n x).sites = m.sites := rfl
@[simp] theorem setBarrier_shadow (m : Mach) (n : Nat) (x : Barrier) : (m.setBarrier n x).shadow = m.shadow := rfl
@[simp] theorem setBarrier_vaults (m : Mach) (n : Nat) (x : Barrier) : (m.setBarrier n x).vaults = m.vaults := rfl
@[simp] theorem setBarrier_engines (m : Mach) (n : Nat) (x : Barrier) : (m.setBarrier n x).engines = m.engines := rfl
@[simp] theorem setBarrier_barriers (m : Mach) (n : Nat) (x : Barrier) : (m.setBarrier n x).barriers = tabSet m.barriers n x := rfl
@[simp] theorem setBarrier_contexts (m : Mach) (n : Nat) (x : Barrier) : (m.setBarrier n x).contexts = m.contexts := rfl
@[simp] theorem setBarrier_jobs (m : Mach) (n : Nat) (x : Barrier) : (m.setBarrier n x).jobs = m.jobs := rfl
@[simp] theorem setBarrier_sched (m : Mach) (n : Nat) (x : Barrier) : (m.setBarrier n x).sched = m.sched := rfl
@[simp] theorem setBarrier_pkg (m : Mach) (n : Nat) (x : Barrier) : (m.setBarrier n x).pkg = m.pkg := rfl
@[simp] theorem setBarrier_mgmt (m : Mach) (n : Nat) (x : Barrier) : (m.setBarrier n x).mgmt = m.mgmt := rfl
@[simp] theorem setBarrier_agenda (m : Mach) (n : Nat) (x : Barrier) : (m.setBarrier n x).agenda = m.agenda := rfl
@[simp] theorem setBarrier_parts (m : Mach) (n : Nat) (x : Barrier) : (m.setBarrier n x).parts = m.parts := rfl
@[simp] theorem setBarrier_cur (m : Mach) (n : Nat) (x : Barrier) : (m.setBarrier n x).cur = m.cur := rfl
@[simp] theorem setBarrier_fresh (m : Mach) (n : Nat) (x : Barrier) : (m.setBarrier n x).fresh = m.fresh := rfl

/-! ### Mach.setSite -/

@[simp] theorem setSite_slots (m : Mach) (n : Nat) (x : CoreSite) : (m.setSite n x).slots = m.slots := rfl
@[simp] theorem setSite_cores (m : Mach) (n : Nat) (x : CoreSite) : (m.setSite n x).cores = m.cores := rfl
@[simp] theorem setSite_sites (m : Mach) (n : Nat) (x : CoreSite) : (m.setSite n x).sites = tabSet m.sites n x := rfl
@[simp] theorem setSite_shadow (m : Mach) (n : Nat) (x : CoreSite) : (m.setSite n x).shadow = m.shadow := rfl
@[simp] theorem setSite_vaults (m : Mach) (n : Nat) (x : CoreSite) : (m.setSite n x).vaults = m.vaults := rfl
@[simp] theorem setSite_engines (m : Mach) (n : Nat) (x : CoreSite) : (m.setSite n x).engines = m.engines := rfl
@[simp] theorem setSite_barriers (m : Mach) (n : Nat) (x : CoreSite) : (m.setSite n x).barriers = m.barriers := rfl
@[simp] theorem setSite_contexts (m : Mach) (n : Nat) (x : CoreSite) : (m.setSite n x).contexts = m.contexts := rfl
@[simp] theorem setSite_jobs (m : Mach) (n : Nat) (x : CoreSite) : (m.setSite n x).jobs = m.jobs := rfl
@[simp] theorem setSite_sched (m : Mach) (n : Nat) (x : CoreSite) : (m.setSite n x).sched = m.sched := rfl
@[simp] theorem setSite_pkg (m : Mach) (n : Nat) (x : CoreSite) : (m.setSite n x).pkg = m.pkg := rfl
@[simp] theorem setSite_mgmt (m : Mach) (n : Nat) (x : CoreSite) : (m.setSite n x).mgmt = m.mgmt := rfl
@[simp] theorem setSite_agenda (m : Mach) (n : Nat) (x : CoreSite) : (m.setSite n x).agenda = m.agenda := rfl
@[simp] theorem setSite_parts (m : Mach) (n : Nat) (x : CoreSite) : (m.setSite n x).parts = m.parts := rfl
@[simp] theorem setSite_cur (m : Mach) (n : Nat) (x : CoreSite) : (m.setSite n x).cur = m.cur := rfl
@[simp] theorem setSite_fresh (m : Mach) (n : Nat) (x : CoreSite) : (m.setSite n x).fresh = m.fresh := rfl

/-! ### What is read after it -/

@[simp] theorem slot_setSlot_self (m : Mach) (n : Nat) (x : Slot) : (m.setSlot n x).slot n = x := by simp [Mach.slot, Mach.setSlot]
theorem slot_setSlot_ne (m : Mach) {n k : Nat} (x : Slot) (h : k ≠ n) : (m.setSlot n x).slot k = m.slot k := by
  simp [Mach.slot, Mach.setSlot, tabGet_tabSet_ne _ _ _ h]
@[simp] theorem core_setSlot (m : Mach) (n k : Nat) (x : Slot) : (m.setSlot n x).core k = m.core k := rfl
@[simp] theorem vault_setSlot (m : Mach) (n k : Nat) (x : Slot) : (m.setSlot n x).vault k = m.vault k := rfl
@[simp] theorem engine_setSlot (m : Mach) (n k : Nat) (x : Slot) : (m.setSlot n x).engine k = m.engine k := rfl
@[simp] theorem context_setSlot (m : Mach) (n k : Nat) (x : Slot) : (m.setSlot n x).context k = m.context k := rfl
@[simp] theorem job_setSlot (m : Mach) (n k : Nat) (x : Slot) : (m.setSlot n x).job k = m.job k := rfl
@[simp] theorem barrier_setSlot (m : Mach) (n k : Nat) (x : Slot) : (m.setSlot n x).barrier k = m.barrier k := rfl

@[simp] theorem core_setCore_self (m : Mach) (n : Nat) (x : Core) : (m.setCore n x).core n = x := by simp [Mach.core, Mach.setCore]
theorem core_setCore_ne (m : Mach) {n k : Nat} (x : Core) (h : k ≠ n) : (m.setCore n x).core k = m.core k := by
  simp [Mach.core, Mach.setCore, tabGet_tabSet_ne _ _ _ h]
@[simp] theorem slot_setCore (m : Mach) (n k : Nat) (x : Core) : (m.setCore n x).slot k = m.slot k := rfl
@[simp] theorem vault_setCore (m : Mach) (n k : Nat) (x : Core) : (m.setCore n x).vault k = m.vault k := rfl
@[simp] theorem engine_setCore (m : Mach) (n k : Nat) (x : Core) : (m.setCore n x).engine k = m.engine k := rfl
@[simp] theorem context_setCore (m : Mach) (n k : Nat) (x : Core) : (m.setCore n x).context k = m.context k := rfl
@[simp] theorem job_setCore (m : Mach) (n k : Nat) (x : Core) : (m.setCore n x).job k = m.job k := rfl
@[simp] theorem barrier_setCore (m : Mach) (n k : Nat) (x : Core) : (m.setCore n x).barrier k = m.barrier k := rfl

@[simp] theorem vault_setVault_self (m : Mach) (n : Nat) (x : Vault) : (m.setVault n x).vault n = x := by simp [Mach.vault, Mach.setVault]
theorem vault_setVault_ne (m : Mach) {n k : Nat} (x : Vault) (h : k ≠ n) : (m.setVault n x).vault k = m.vault k := by
  simp [Mach.vault, Mach.setVault, tabGet_tabSet_ne _ _ _ h]
@[simp] theorem slot_setVault (m : Mach) (n k : Nat) (x : Vault) : (m.setVault n x).slot k = m.slot k := rfl
@[simp] theorem core_setVault (m : Mach) (n k : Nat) (x : Vault) : (m.setVault n x).core k = m.core k := rfl
@[simp] theorem engine_setVault (m : Mach) (n k : Nat) (x : Vault) : (m.setVault n x).engine k = m.engine k := rfl
@[simp] theorem context_setVault (m : Mach) (n k : Nat) (x : Vault) : (m.setVault n x).context k = m.context k := rfl
@[simp] theorem job_setVault (m : Mach) (n k : Nat) (x : Vault) : (m.setVault n x).job k = m.job k := rfl
@[simp] theorem barrier_setVault (m : Mach) (n k : Nat) (x : Vault) : (m.setVault n x).barrier k = m.barrier k := rfl

@[simp] theorem engine_setEngine_self (m : Mach) (n : Nat) (x : Engine) : (m.setEngine n x).engine n = x := by simp [Mach.engine, Mach.setEngine]
theorem engine_setEngine_ne (m : Mach) {n k : Nat} (x : Engine) (h : k ≠ n) : (m.setEngine n x).engine k = m.engine k := by
  simp [Mach.engine, Mach.setEngine, tabGet_tabSet_ne _ _ _ h]
@[simp] theorem slot_setEngine (m : Mach) (n k : Nat) (x : Engine) : (m.setEngine n x).slot k = m.slot k := rfl
@[simp] theorem core_setEngine (m : Mach) (n k : Nat) (x : Engine) : (m.setEngine n x).core k = m.core k := rfl
@[simp] theorem vault_setEngine (m : Mach) (n k : Nat) (x : Engine) : (m.setEngine n x).vault k = m.vault k := rfl
@[simp] theorem context_setEngine (m : Mach) (n k : Nat) (x : Engine) : (m.setEngine n x).context k = m.context k := rfl
@[simp] theorem job_setEngine (m : Mach) (n k : Nat) (x : Engine) : (m.setEngine n x).job k = m.job k := rfl
@[simp] theorem barrier_setEngine (m : Mach) (n k : Nat) (x : Engine) : (m.setEngine n x).barrier k = m.barrier k := rfl

@[simp] theorem context_setContext_self (m : Mach) (n : Nat) (x : Context) : (m.setContext n x).context n = x := by simp [Mach.context, Mach.setContext]
theorem context_setContext_ne (m : Mach) {n k : Nat} (x : Context) (h : k ≠ n) : (m.setContext n x).context k = m.context k := by
  simp [Mach.context, Mach.setContext, tabGet_tabSet_ne _ _ _ h]
@[simp] theorem slot_setContext (m : Mach) (n k : Nat) (x : Context) : (m.setContext n x).slot k = m.slot k := rfl
@[simp] theorem core_setContext (m : Mach) (n k : Nat) (x : Context) : (m.setContext n x).core k = m.core k := rfl
@[simp] theorem vault_setContext (m : Mach) (n k : Nat) (x : Context) : (m.setContext n x).vault k = m.vault k := rfl
@[simp] theorem engine_setContext (m : Mach) (n k : Nat) (x : Context) : (m.setContext n x).engine k = m.engine k := rfl
@[simp] theorem job_setContext (m : Mach) (n k : Nat) (x : Context) : (m.setContext n x).job k = m.job k := rfl
@[simp] theorem barrier_setContext (m : Mach) (n k : Nat) (x : Context) : (m.setContext n x).barrier k = m.barrier k := rfl

@[simp] theorem job_setJob_self (m : Mach) (n : Nat) (x : Job) : (m.setJob n x).job n = x := by simp [Mach.job, Mach.setJob]
theorem job_setJob_ne (m : Mach) {n k : Nat} (x : Job) (h : k ≠ n) : (m.setJob n x).job k = m.job k := by
  simp [Mach.job, Mach.setJob, tabGet_tabSet_ne _ _ _ h]
@[simp] theorem slot_setJob (m : Mach) (n k : Nat) (x : Job) : (m.setJob n x).slot k = m.slot k := rfl
@[simp] theorem core_setJob (m : Mach) (n k : Nat) (x : Job) : (m.setJob n x).core k = m.core k := rfl
@[simp] theorem vault_setJob (m : Mach) (n k : Nat) (x : Job) : (m.setJob n x).vault k = m.vault k := rfl
@[simp] theorem engine_setJob (m : Mach) (n k : Nat) (x : Job) : (m.setJob n x).engine k = m.engine k := rfl
@[simp] theorem context_setJob (m : Mach) (n k : Nat) (x : Job) : (m.setJob n x).context k = m.context k := rfl
@[simp] theorem barrier_setJob (m : Mach) (n k : Nat) (x : Job) : (m.setJob n x).barrier k = m.barrier k := rfl

@[simp] theorem barrier_setBarrier_self (m : Mach) (n : Nat) (x : Barrier) : (m.setBarrier n x).barrier n = x := by simp [Mach.barrier, Mach.setBarrier]
theorem barrier_setBarrier_ne (m : Mach) {n k : Nat} (x : Barrier) (h : k ≠ n) : (m.setBarrier n x).barrier k = m.barrier k := by
  simp [Mach.barrier, Mach.setBarrier, tabGet_tabSet_ne _ _ _ h]
@[simp] theorem slot_setBarrier (m : Mach) (n k : Nat) (x : Barrier) : (m.setBarrier n x).slot k = m.slot k := rfl
@[simp] theorem core_setBarrier (m : Mach) (n k : Nat) (x : Barrier) : (m.setBarrier n x).core k = m.core k := rfl
@[simp] theorem vault_setBarrier (m : Mach) (n k : Nat) (x : Barrier) : (m.setBarrier n x).vault k = m.vault k := rfl
@[simp] theorem engine_setBarrier (m : Mach) (n k : Nat) (x : Barrier) : (m.setBarrier n x).engine k = m.engine k := rfl
@[simp] theorem context_setBarrier (m : Mach) (n k : Nat) (x : Barrier) : (m.setBarrier n x).context k = m.context k := rfl
@[simp] theorem job_setBarrier (m : Mach) (n k : Nat) (x : Barrier) : (m.setBarrier n x).job k = m.job k := rfl

@[simp] theorem site_setSite_self (m : Mach) (n : Nat) (x : CoreSite) : (m.setSite n x).site n = x := by simp [Mach.site, Mach.setSite]
theorem site_setSite_ne (m : Mach) {n k : Nat} (x : CoreSite) (h : k ≠ n) : (m.setSite n x).site k = m.site k := by
  simp [Mach.site, Mach.setSite, tabGet_tabSet_ne _ _ _ h]
@[simp] theorem slot_setSite (m : Mach) (n k : Nat) (x : CoreSite) : (m.setSite n x).slot k = m.slot k := rfl
@[simp] theorem core_setSite (m : Mach) (n k : Nat) (x : CoreSite) : (m.setSite n x).core k = m.core k := rfl
@[simp] theorem vault_setSite (m : Mach) (n k : Nat) (x : CoreSite) : (m.setSite n x).vault k = m.vault k := rfl
@[simp] theorem engine_setSite (m : Mach) (n k : Nat) (x : CoreSite) : (m.setSite n x).engine k = m.engine k := rfl
@[simp] theorem context_setSite (m : Mach) (n k : Nat) (x : CoreSite) : (m.setSite n x).context k = m.context k := rfl
@[simp] theorem job_setSite (m : Mach) (n k : Nat) (x : CoreSite) : (m.setSite n x).job k = m.job k := rfl
@[simp] theorem barrier_setSite (m : Mach) (n k : Nat) (x : CoreSite) : (m.setSite n x).barrier k = m.barrier k := rfl
@[simp] theorem site_setSlot (m : Mach) (n k : Nat) (x : Slot) : (m.setSlot n x).site k = m.site k := rfl
@[simp] theorem site_setCore (m : Mach) (n k : Nat) (x : Core) : (m.setCore n x).site k = m.site k := rfl
@[simp] theorem site_setVault (m : Mach) (n k : Nat) (x : Vault) : (m.setVault n x).site k = m.site k := rfl
@[simp] theorem site_setEngine (m : Mach) (n k : Nat) (x : Engine) : (m.setEngine n x).site k = m.site k := rfl
@[simp] theorem site_setContext (m : Mach) (n k : Nat) (x : Context) : (m.setContext n x).site k = m.site k := rfl
@[simp] theorem site_setJob (m : Mach) (n k : Nat) (x : Job) : (m.setJob n x).site k = m.site k := rfl
@[simp] theorem site_setBarrier (m : Mach) (n k : Nat) (x : Barrier) : (m.setBarrier n x).site k = m.site k := rfl

/-! ### The working state -/

@[simp] theorem setS_s (w : Work) (x : Slot) : (w.setS x).s = x := by simp [Work.setS, Work.s]
@[simp] theorem setS_base (w : Work) (x : Slot) : (w.setS x).base = w.base := rfl
@[simp] theorem setS_ws (w : Work) (x : Slot) : (w.setS x).ws = w.ws := rfl
@[simp] theorem setS_npc (w : Work) (x : Slot) : (w.setS x).npc = w.npc := rfl
@[simp] theorem setS_strips (w : Work) (x : Slot) : (w.setS x).strips = w.strips := rfl
@[simp] theorem setS_m (w : Work) (x : Slot) : (w.setS x).m = w.m.setSlot w.m.cur x := rfl

@[simp] theorem setCtx_s (w : Work) (x : Context) : (w.setCtx x).s = w.s := rfl
@[simp] theorem setCtx_base (w : Work) (x : Context) : (w.setCtx x).base = w.base := rfl
@[simp] theorem setCtx_ws (w : Work) (x : Context) : (w.setCtx x).ws = w.ws := rfl
@[simp] theorem setCtx_npc (w : Work) (x : Context) : (w.setCtx x).npc = w.npc := rfl
@[simp] theorem setCtx_strips (w : Work) (x : Context) : (w.setCtx x).strips = w.strips := rfl
@[simp] theorem setCtx_m (w : Work) (x : Context) : (w.setCtx x).m = w.m.setContext w.s.unit.ctx x := rfl

@[simp] theorem mapRegs_base (w : Work) (f : SlotRegs → SlotRegs) : (w.mapRegs f).base = w.base := rfl
@[simp] theorem mapRegs_ws (w : Work) (f : SlotRegs → SlotRegs) : (w.mapRegs f).ws = w.ws := rfl
@[simp] theorem mapRegs_npc (w : Work) (f : SlotRegs → SlotRegs) : (w.mapRegs f).npc = w.npc := rfl
@[simp] theorem mapRegs_strips (w : Work) (f : SlotRegs → SlotRegs) : (w.mapRegs f).strips = w.strips := rfl
@[simp] theorem mapRegs_cores (w : Work) (f : SlotRegs → SlotRegs) : (w.mapRegs f).m.cores = w.m.cores := rfl
@[simp] theorem mapRegs_sites (w : Work) (f : SlotRegs → SlotRegs) : (w.mapRegs f).m.sites = w.m.sites := rfl
@[simp] theorem mapRegs_shadow (w : Work) (f : SlotRegs → SlotRegs) : (w.mapRegs f).m.shadow = w.m.shadow := rfl
@[simp] theorem mapRegs_vaults (w : Work) (f : SlotRegs → SlotRegs) : (w.mapRegs f).m.vaults = w.m.vaults := rfl
@[simp] theorem mapRegs_engines (w : Work) (f : SlotRegs → SlotRegs) : (w.mapRegs f).m.engines = w.m.engines := rfl
@[simp] theorem mapRegs_barriers (w : Work) (f : SlotRegs → SlotRegs) : (w.mapRegs f).m.barriers = w.m.barriers := rfl
@[simp] theorem mapRegs_contexts (w : Work) (f : SlotRegs → SlotRegs) : (w.mapRegs f).m.contexts = w.m.contexts := rfl
@[simp] theorem mapRegs_jobs (w : Work) (f : SlotRegs → SlotRegs) : (w.mapRegs f).m.jobs = w.m.jobs := rfl
@[simp] theorem mapRegs_sched (w : Work) (f : SlotRegs → SlotRegs) : (w.mapRegs f).m.sched = w.m.sched := rfl
@[simp] theorem mapRegs_pkg (w : Work) (f : SlotRegs → SlotRegs) : (w.mapRegs f).m.pkg = w.m.pkg := rfl
@[simp] theorem mapRegs_mgmt (w : Work) (f : SlotRegs → SlotRegs) : (w.mapRegs f).m.mgmt = w.m.mgmt := rfl
@[simp] theorem mapRegs_agenda (w : Work) (f : SlotRegs → SlotRegs) : (w.mapRegs f).m.agenda = w.m.agenda := rfl
@[simp] theorem mapRegs_parts (w : Work) (f : SlotRegs → SlotRegs) : (w.mapRegs f).m.parts = w.m.parts := rfl
@[simp] theorem mapRegs_cur (w : Work) (f : SlotRegs → SlotRegs) : (w.mapRegs f).m.cur = w.m.cur := rfl
@[simp] theorem mapRegs_fresh (w : Work) (f : SlotRegs → SlotRegs) : (w.mapRegs f).m.fresh = w.m.fresh := rfl
@[simp] theorem mapRegs_s_regs (w : Work) (f : SlotRegs → SlotRegs) : (w.mapRegs f).s.regs = f w.s.regs := by simp [Work.mapRegs]
@[simp] theorem mapRegs_s_ctl (w : Work) (f : SlotRegs → SlotRegs) : (w.mapRegs f).s.ctl = w.s.ctl := by simp [Work.mapRegs]
@[simp] theorem mapRegs_s_sup (w : Work) (f : SlotRegs → SlotRegs) : (w.mapRegs f).s.sup = w.s.sup := by simp [Work.mapRegs]
@[simp] theorem mapRegs_s_thr (w : Work) (f : SlotRegs → SlotRegs) : (w.mapRegs f).s.thr = w.s.thr := by simp [Work.mapRegs]
@[simp] theorem mapRegs_s_unit (w : Work) (f : SlotRegs → SlotRegs) : (w.mapRegs f).s.unit = w.s.unit := by simp [Work.mapRegs]
@[simp] theorem mapRegs_s_mseq (w : Work) (f : SlotRegs → SlotRegs) : (w.mapRegs f).s.mseq = w.s.mseq := by simp [Work.mapRegs]
@[simp] theorem mapRegs_s_cseq (w : Work) (f : SlotRegs → SlotRegs) : (w.mapRegs f).s.cseq = w.s.cseq := by simp [Work.mapRegs]
theorem mapRegs_slot_ne (w : Work) (f : SlotRegs → SlotRegs) {k : Nat} (h : k ≠ w.m.cur) : (w.mapRegs f).m.slot k = w.m.slot k := by
  simp [Work.mapRegs, slot_setSlot_ne _ _ h]

@[simp] theorem mapCtl_base (w : Work) (f : SlotCtl → SlotCtl) : (w.mapCtl f).base = w.base := rfl
@[simp] theorem mapCtl_ws (w : Work) (f : SlotCtl → SlotCtl) : (w.mapCtl f).ws = w.ws := rfl
@[simp] theorem mapCtl_npc (w : Work) (f : SlotCtl → SlotCtl) : (w.mapCtl f).npc = w.npc := rfl
@[simp] theorem mapCtl_strips (w : Work) (f : SlotCtl → SlotCtl) : (w.mapCtl f).strips = w.strips := rfl
@[simp] theorem mapCtl_cores (w : Work) (f : SlotCtl → SlotCtl) : (w.mapCtl f).m.cores = w.m.cores := rfl
@[simp] theorem mapCtl_sites (w : Work) (f : SlotCtl → SlotCtl) : (w.mapCtl f).m.sites = w.m.sites := rfl
@[simp] theorem mapCtl_shadow (w : Work) (f : SlotCtl → SlotCtl) : (w.mapCtl f).m.shadow = w.m.shadow := rfl
@[simp] theorem mapCtl_vaults (w : Work) (f : SlotCtl → SlotCtl) : (w.mapCtl f).m.vaults = w.m.vaults := rfl
@[simp] theorem mapCtl_engines (w : Work) (f : SlotCtl → SlotCtl) : (w.mapCtl f).m.engines = w.m.engines := rfl
@[simp] theorem mapCtl_barriers (w : Work) (f : SlotCtl → SlotCtl) : (w.mapCtl f).m.barriers = w.m.barriers := rfl
@[simp] theorem mapCtl_contexts (w : Work) (f : SlotCtl → SlotCtl) : (w.mapCtl f).m.contexts = w.m.contexts := rfl
@[simp] theorem mapCtl_jobs (w : Work) (f : SlotCtl → SlotCtl) : (w.mapCtl f).m.jobs = w.m.jobs := rfl
@[simp] theorem mapCtl_sched (w : Work) (f : SlotCtl → SlotCtl) : (w.mapCtl f).m.sched = w.m.sched := rfl
@[simp] theorem mapCtl_pkg (w : Work) (f : SlotCtl → SlotCtl) : (w.mapCtl f).m.pkg = w.m.pkg := rfl
@[simp] theorem mapCtl_mgmt (w : Work) (f : SlotCtl → SlotCtl) : (w.mapCtl f).m.mgmt = w.m.mgmt := rfl
@[simp] theorem mapCtl_agenda (w : Work) (f : SlotCtl → SlotCtl) : (w.mapCtl f).m.agenda = w.m.agenda := rfl
@[simp] theorem mapCtl_parts (w : Work) (f : SlotCtl → SlotCtl) : (w.mapCtl f).m.parts = w.m.parts := rfl
@[simp] theorem mapCtl_cur (w : Work) (f : SlotCtl → SlotCtl) : (w.mapCtl f).m.cur = w.m.cur := rfl
@[simp] theorem mapCtl_fresh (w : Work) (f : SlotCtl → SlotCtl) : (w.mapCtl f).m.fresh = w.m.fresh := rfl
@[simp] theorem mapCtl_s_regs (w : Work) (f : SlotCtl → SlotCtl) : (w.mapCtl f).s.regs = w.s.regs := by simp [Work.mapCtl]
@[simp] theorem mapCtl_s_ctl (w : Work) (f : SlotCtl → SlotCtl) : (w.mapCtl f).s.ctl = f w.s.ctl := by simp [Work.mapCtl]
@[simp] theorem mapCtl_s_sup (w : Work) (f : SlotCtl → SlotCtl) : (w.mapCtl f).s.sup = w.s.sup := by simp [Work.mapCtl]
@[simp] theorem mapCtl_s_thr (w : Work) (f : SlotCtl → SlotCtl) : (w.mapCtl f).s.thr = w.s.thr := by simp [Work.mapCtl]
@[simp] theorem mapCtl_s_unit (w : Work) (f : SlotCtl → SlotCtl) : (w.mapCtl f).s.unit = w.s.unit := by simp [Work.mapCtl]
@[simp] theorem mapCtl_s_mseq (w : Work) (f : SlotCtl → SlotCtl) : (w.mapCtl f).s.mseq = w.s.mseq := by simp [Work.mapCtl]
@[simp] theorem mapCtl_s_cseq (w : Work) (f : SlotCtl → SlotCtl) : (w.mapCtl f).s.cseq = w.s.cseq := by simp [Work.mapCtl]
theorem mapCtl_slot_ne (w : Work) (f : SlotCtl → SlotCtl) {k : Nat} (h : k ≠ w.m.cur) : (w.mapCtl f).m.slot k = w.m.slot k := by
  simp [Work.mapCtl, slot_setSlot_ne _ _ h]

@[simp] theorem mapSup_base (w : Work) (f : SlotSup → SlotSup) : (w.mapSup f).base = w.base := rfl
@[simp] theorem mapSup_ws (w : Work) (f : SlotSup → SlotSup) : (w.mapSup f).ws = w.ws := rfl
@[simp] theorem mapSup_npc (w : Work) (f : SlotSup → SlotSup) : (w.mapSup f).npc = w.npc := rfl
@[simp] theorem mapSup_strips (w : Work) (f : SlotSup → SlotSup) : (w.mapSup f).strips = w.strips := rfl
@[simp] theorem mapSup_cores (w : Work) (f : SlotSup → SlotSup) : (w.mapSup f).m.cores = w.m.cores := rfl
@[simp] theorem mapSup_sites (w : Work) (f : SlotSup → SlotSup) : (w.mapSup f).m.sites = w.m.sites := rfl
@[simp] theorem mapSup_shadow (w : Work) (f : SlotSup → SlotSup) : (w.mapSup f).m.shadow = w.m.shadow := rfl
@[simp] theorem mapSup_vaults (w : Work) (f : SlotSup → SlotSup) : (w.mapSup f).m.vaults = w.m.vaults := rfl
@[simp] theorem mapSup_engines (w : Work) (f : SlotSup → SlotSup) : (w.mapSup f).m.engines = w.m.engines := rfl
@[simp] theorem mapSup_barriers (w : Work) (f : SlotSup → SlotSup) : (w.mapSup f).m.barriers = w.m.barriers := rfl
@[simp] theorem mapSup_contexts (w : Work) (f : SlotSup → SlotSup) : (w.mapSup f).m.contexts = w.m.contexts := rfl
@[simp] theorem mapSup_jobs (w : Work) (f : SlotSup → SlotSup) : (w.mapSup f).m.jobs = w.m.jobs := rfl
@[simp] theorem mapSup_sched (w : Work) (f : SlotSup → SlotSup) : (w.mapSup f).m.sched = w.m.sched := rfl
@[simp] theorem mapSup_pkg (w : Work) (f : SlotSup → SlotSup) : (w.mapSup f).m.pkg = w.m.pkg := rfl
@[simp] theorem mapSup_mgmt (w : Work) (f : SlotSup → SlotSup) : (w.mapSup f).m.mgmt = w.m.mgmt := rfl
@[simp] theorem mapSup_agenda (w : Work) (f : SlotSup → SlotSup) : (w.mapSup f).m.agenda = w.m.agenda := rfl
@[simp] theorem mapSup_parts (w : Work) (f : SlotSup → SlotSup) : (w.mapSup f).m.parts = w.m.parts := rfl
@[simp] theorem mapSup_cur (w : Work) (f : SlotSup → SlotSup) : (w.mapSup f).m.cur = w.m.cur := rfl
@[simp] theorem mapSup_fresh (w : Work) (f : SlotSup → SlotSup) : (w.mapSup f).m.fresh = w.m.fresh := rfl
@[simp] theorem mapSup_s_regs (w : Work) (f : SlotSup → SlotSup) : (w.mapSup f).s.regs = w.s.regs := by simp [Work.mapSup]
@[simp] theorem mapSup_s_ctl (w : Work) (f : SlotSup → SlotSup) : (w.mapSup f).s.ctl = w.s.ctl := by simp [Work.mapSup]
@[simp] theorem mapSup_s_sup (w : Work) (f : SlotSup → SlotSup) : (w.mapSup f).s.sup = f w.s.sup := by simp [Work.mapSup]
@[simp] theorem mapSup_s_thr (w : Work) (f : SlotSup → SlotSup) : (w.mapSup f).s.thr = w.s.thr := by simp [Work.mapSup]
@[simp] theorem mapSup_s_unit (w : Work) (f : SlotSup → SlotSup) : (w.mapSup f).s.unit = w.s.unit := by simp [Work.mapSup]
@[simp] theorem mapSup_s_mseq (w : Work) (f : SlotSup → SlotSup) : (w.mapSup f).s.mseq = w.s.mseq := by simp [Work.mapSup]
@[simp] theorem mapSup_s_cseq (w : Work) (f : SlotSup → SlotSup) : (w.mapSup f).s.cseq = w.s.cseq := by simp [Work.mapSup]
theorem mapSup_slot_ne (w : Work) (f : SlotSup → SlotSup) {k : Nat} (h : k ≠ w.m.cur) : (w.mapSup f).m.slot k = w.m.slot k := by
  simp [Work.mapSup, slot_setSlot_ne _ _ h]

@[simp] theorem mapThr_base (w : Work) (f : SlotThread → SlotThread) : (w.mapThr f).base = w.base := rfl
@[simp] theorem mapThr_ws (w : Work) (f : SlotThread → SlotThread) : (w.mapThr f).ws = w.ws := rfl
@[simp] theorem mapThr_npc (w : Work) (f : SlotThread → SlotThread) : (w.mapThr f).npc = w.npc := rfl
@[simp] theorem mapThr_strips (w : Work) (f : SlotThread → SlotThread) : (w.mapThr f).strips = w.strips := rfl
@[simp] theorem mapThr_cores (w : Work) (f : SlotThread → SlotThread) : (w.mapThr f).m.cores = w.m.cores := rfl
@[simp] theorem mapThr_sites (w : Work) (f : SlotThread → SlotThread) : (w.mapThr f).m.sites = w.m.sites := rfl
@[simp] theorem mapThr_shadow (w : Work) (f : SlotThread → SlotThread) : (w.mapThr f).m.shadow = w.m.shadow := rfl
@[simp] theorem mapThr_vaults (w : Work) (f : SlotThread → SlotThread) : (w.mapThr f).m.vaults = w.m.vaults := rfl
@[simp] theorem mapThr_engines (w : Work) (f : SlotThread → SlotThread) : (w.mapThr f).m.engines = w.m.engines := rfl
@[simp] theorem mapThr_barriers (w : Work) (f : SlotThread → SlotThread) : (w.mapThr f).m.barriers = w.m.barriers := rfl
@[simp] theorem mapThr_contexts (w : Work) (f : SlotThread → SlotThread) : (w.mapThr f).m.contexts = w.m.contexts := rfl
@[simp] theorem mapThr_jobs (w : Work) (f : SlotThread → SlotThread) : (w.mapThr f).m.jobs = w.m.jobs := rfl
@[simp] theorem mapThr_sched (w : Work) (f : SlotThread → SlotThread) : (w.mapThr f).m.sched = w.m.sched := rfl
@[simp] theorem mapThr_pkg (w : Work) (f : SlotThread → SlotThread) : (w.mapThr f).m.pkg = w.m.pkg := rfl
@[simp] theorem mapThr_mgmt (w : Work) (f : SlotThread → SlotThread) : (w.mapThr f).m.mgmt = w.m.mgmt := rfl
@[simp] theorem mapThr_agenda (w : Work) (f : SlotThread → SlotThread) : (w.mapThr f).m.agenda = w.m.agenda := rfl
@[simp] theorem mapThr_parts (w : Work) (f : SlotThread → SlotThread) : (w.mapThr f).m.parts = w.m.parts := rfl
@[simp] theorem mapThr_cur (w : Work) (f : SlotThread → SlotThread) : (w.mapThr f).m.cur = w.m.cur := rfl
@[simp] theorem mapThr_fresh (w : Work) (f : SlotThread → SlotThread) : (w.mapThr f).m.fresh = w.m.fresh := rfl
@[simp] theorem mapThr_s_regs (w : Work) (f : SlotThread → SlotThread) : (w.mapThr f).s.regs = w.s.regs := by simp [Work.mapThr]
@[simp] theorem mapThr_s_ctl (w : Work) (f : SlotThread → SlotThread) : (w.mapThr f).s.ctl = w.s.ctl := by simp [Work.mapThr]
@[simp] theorem mapThr_s_sup (w : Work) (f : SlotThread → SlotThread) : (w.mapThr f).s.sup = w.s.sup := by simp [Work.mapThr]
@[simp] theorem mapThr_s_thr (w : Work) (f : SlotThread → SlotThread) : (w.mapThr f).s.thr = f w.s.thr := by simp [Work.mapThr]
@[simp] theorem mapThr_s_unit (w : Work) (f : SlotThread → SlotThread) : (w.mapThr f).s.unit = w.s.unit := by simp [Work.mapThr]
@[simp] theorem mapThr_s_mseq (w : Work) (f : SlotThread → SlotThread) : (w.mapThr f).s.mseq = w.s.mseq := by simp [Work.mapThr]
@[simp] theorem mapThr_s_cseq (w : Work) (f : SlotThread → SlotThread) : (w.mapThr f).s.cseq = w.s.cseq := by simp [Work.mapThr]
theorem mapThr_slot_ne (w : Work) (f : SlotThread → SlotThread) {k : Nat} (h : k ≠ w.m.cur) : (w.mapThr f).m.slot k = w.m.slot k := by
  simp [Work.mapThr, slot_setSlot_ne _ _ h]

@[simp] theorem mapUnit_base (w : Work) (f : SlotUnit → SlotUnit) : (w.mapUnit f).base = w.base := rfl
@[simp] theorem mapUnit_ws (w : Work) (f : SlotUnit → SlotUnit) : (w.mapUnit f).ws = w.ws := rfl
@[simp] theorem mapUnit_npc (w : Work) (f : SlotUnit → SlotUnit) : (w.mapUnit f).npc = w.npc := rfl
@[simp] theorem mapUnit_strips (w : Work) (f : SlotUnit → SlotUnit) : (w.mapUnit f).strips = w.strips := rfl
@[simp] theorem mapUnit_cores (w : Work) (f : SlotUnit → SlotUnit) : (w.mapUnit f).m.cores = w.m.cores := rfl
@[simp] theorem mapUnit_sites (w : Work) (f : SlotUnit → SlotUnit) : (w.mapUnit f).m.sites = w.m.sites := rfl
@[simp] theorem mapUnit_shadow (w : Work) (f : SlotUnit → SlotUnit) : (w.mapUnit f).m.shadow = w.m.shadow := rfl
@[simp] theorem mapUnit_vaults (w : Work) (f : SlotUnit → SlotUnit) : (w.mapUnit f).m.vaults = w.m.vaults := rfl
@[simp] theorem mapUnit_engines (w : Work) (f : SlotUnit → SlotUnit) : (w.mapUnit f).m.engines = w.m.engines := rfl
@[simp] theorem mapUnit_barriers (w : Work) (f : SlotUnit → SlotUnit) : (w.mapUnit f).m.barriers = w.m.barriers := rfl
@[simp] theorem mapUnit_contexts (w : Work) (f : SlotUnit → SlotUnit) : (w.mapUnit f).m.contexts = w.m.contexts := rfl
@[simp] theorem mapUnit_jobs (w : Work) (f : SlotUnit → SlotUnit) : (w.mapUnit f).m.jobs = w.m.jobs := rfl
@[simp] theorem mapUnit_sched (w : Work) (f : SlotUnit → SlotUnit) : (w.mapUnit f).m.sched = w.m.sched := rfl
@[simp] theorem mapUnit_pkg (w : Work) (f : SlotUnit → SlotUnit) : (w.mapUnit f).m.pkg = w.m.pkg := rfl
@[simp] theorem mapUnit_mgmt (w : Work) (f : SlotUnit → SlotUnit) : (w.mapUnit f).m.mgmt = w.m.mgmt := rfl
@[simp] theorem mapUnit_agenda (w : Work) (f : SlotUnit → SlotUnit) : (w.mapUnit f).m.agenda = w.m.agenda := rfl
@[simp] theorem mapUnit_parts (w : Work) (f : SlotUnit → SlotUnit) : (w.mapUnit f).m.parts = w.m.parts := rfl
@[simp] theorem mapUnit_cur (w : Work) (f : SlotUnit → SlotUnit) : (w.mapUnit f).m.cur = w.m.cur := rfl
@[simp] theorem mapUnit_fresh (w : Work) (f : SlotUnit → SlotUnit) : (w.mapUnit f).m.fresh = w.m.fresh := rfl
@[simp] theorem mapUnit_s_regs (w : Work) (f : SlotUnit → SlotUnit) : (w.mapUnit f).s.regs = w.s.regs := by simp [Work.mapUnit]
@[simp] theorem mapUnit_s_ctl (w : Work) (f : SlotUnit → SlotUnit) : (w.mapUnit f).s.ctl = w.s.ctl := by simp [Work.mapUnit]
@[simp] theorem mapUnit_s_sup (w : Work) (f : SlotUnit → SlotUnit) : (w.mapUnit f).s.sup = w.s.sup := by simp [Work.mapUnit]
@[simp] theorem mapUnit_s_thr (w : Work) (f : SlotUnit → SlotUnit) : (w.mapUnit f).s.thr = w.s.thr := by simp [Work.mapUnit]
@[simp] theorem mapUnit_s_unit (w : Work) (f : SlotUnit → SlotUnit) : (w.mapUnit f).s.unit = f w.s.unit := by simp [Work.mapUnit]
@[simp] theorem mapUnit_s_mseq (w : Work) (f : SlotUnit → SlotUnit) : (w.mapUnit f).s.mseq = w.s.mseq := by simp [Work.mapUnit]
@[simp] theorem mapUnit_s_cseq (w : Work) (f : SlotUnit → SlotUnit) : (w.mapUnit f).s.cseq = w.s.cseq := by simp [Work.mapUnit]
theorem mapUnit_slot_ne (w : Work) (f : SlotUnit → SlotUnit) {k : Nat} (h : k ≠ w.m.cur) : (w.mapUnit f).m.slot k = w.m.slot k := by
  simp [Work.mapUnit, slot_setSlot_ne _ _ h]

@[simp] theorem putByte_m (w : Work) (l : Nat) (b : Byte) : (w.putByte l b).m = w.m := rfl
@[simp] theorem clearBytes_m (w : Work) (l n : Nat) : (w.clearBytes l n).m = w.m := rfl
@[simp] theorem putByte_base (w : Work) (l : Nat) (b : Byte) : (w.putByte l b).base = w.base := rfl
@[simp] theorem clearBytes_base (w : Work) (l n : Nat) : (w.clearBytes l n).base = w.base := rfl
@[simp] theorem putByte_npc (w : Work) (l : Nat) (b : Byte) : (w.putByte l b).npc = w.npc := rfl
@[simp] theorem putByte_strips (w : Work) (l : Nat) (b : Byte) : (w.putByte l b).strips = w.strips := rfl
@[simp] theorem clearBytes_npc (w : Work) (l n : Nat) : (w.clearBytes l n).npc = w.npc := rfl
@[simp] theorem clearBytes_strips (w : Work) (l n : Nat) : (w.clearBytes l n).strips = w.strips := rfl
@[simp] theorem putByte_ws (w : Work) (l : Nat) (b : Byte) : (w.putByte l b).ws = .put l b :: w.ws := rfl
@[simp] theorem clearBytes_ws (w : Work) (l n : Nat) : (w.clearBytes l n).ws = .clear l n :: w.ws := rfl
@[simp] theorem work_m (s : State) : s.work.m = s.toMach := rfl
@[simp] theorem work_base (s : State) : s.work.base = s.mem := rfl
@[simp] theorem work_ws (s : State) : s.work.ws = [] := rfl
@[simp] theorem work_npc (s : State) : s.work.npc = 0 := rfl
@[simp] theorem work_strips (s : State) : s.work.strips = [] := rfl

/-! ### Registers of the running slot -/

@[simp] theorem setX_base (w : Work) (n : Nat) (v : Word) : (w.setX n v).base = w.base := rfl
@[simp] theorem setX_ws (w : Work) (n : Nat) (v : Word) : (w.setX n v).ws = w.ws := rfl
@[simp] theorem setX_npc (w : Work) (n : Nat) (v : Word) : (w.setX n v).npc = w.npc := rfl
@[simp] theorem setX_strips (w : Work) (n : Nat) (v : Word) : (w.setX n v).strips = w.strips := rfl
@[simp] theorem setX_s_ctl (w : Work) (n : Nat) (v : Word) : (w.setX n v).s.ctl = w.s.ctl := by simp [Work.setX]
@[simp] theorem setX_s_sup (w : Work) (n : Nat) (v : Word) : (w.setX n v).s.sup = w.s.sup := by simp [Work.setX]
@[simp] theorem setX_s_thr (w : Work) (n : Nat) (v : Word) : (w.setX n v).s.thr = w.s.thr := by simp [Work.setX]
@[simp] theorem setX_s_unit (w : Work) (n : Nat) (v : Word) : (w.setX n v).s.unit = w.s.unit := by simp [Work.setX]

/-- x0 reads zero in both banks (01 R21). -/
@[simp] theorem getX_zero (r : SlotRegs) (b : Bool) : r.getX b 0 = 0 := rfl

/-- A write to x0 is discarded (01 R21; 03 R60). -/
@[simp] theorem setX_zero (r : SlotRegs) (b : Bool) (v : Word) : r.setX b 0 v = r := rfl

/-- A register read after it is written; another bank's and another number's are as they were. -/
theorem getX_setX (r : SlotRegs) (b c : Bool) (n k : Nat) (v : Word) :
    (r.setX b n v).getX c k = if n ≠ 0 ∧ c = b ∧ k = n then v else r.getX c k := by
  unfold SlotRegs.setX SlotRegs.getX
  by_cases hn : n = 0
  · simp [hn]
  · cases b <;> cases c <;> by_cases hk : k = n <;> simp [hn, hk, tabGet_tabSet]

@[simp] theorem setX_v (r : SlotRegs) (b : Bool) (n : Nat) (v : Word) : (r.setX b n v).v = r.v := by
  unfold SlotRegs.setX; split
  · rfl
  · split <;> rfl
@[simp] theorem setX_m (r : SlotRegs) (b : Bool) (n : Nat) (v : Word) : (r.setX b n v).m = r.m := by
  unfold SlotRegs.setX; split
  · rfl
  · split <;> rfl
@[simp] theorem setX_k (r : SlotRegs) (b : Bool) (n : Nat) (v : Word) : (r.setX b n v).k = r.k := by
  unfold SlotRegs.setX; split
  · rfl
  · split <;> rfl
@[simp] theorem setX_pc (r : SlotRegs) (b : Bool) (n : Nat) (v : Word) : (r.setX b n v).pc = r.pc := by
  unfold SlotRegs.setX; split
  · rfl
  · split <;> rfl
@[simp] theorem setX_level (r : SlotRegs) (b : Bool) (n : Nat) (v : Word) : (r.setX b n v).level = r.level := by
  unfold SlotRegs.setX; split
  · rfl
  · split <;> rfl

end Sys2Proof.Machine
end

