-- ==== Sys2Proof/Laws/Issue.lean ====
section
/-! SUPPORT. The shared operations of every instruction: what `settle`, `issue` and `event` answer, and what completion, entry
into a handler and the return from one leave. -/

namespace Sys2Proof.Machine

/-! ### Outcomes -/

/-- Whatever a step's work comes to, a next state is what some working state leaves. -/
theorem settle_next {s t : State} {h : Option Instr} {r : M Work} (e : settle s h r = .next t) : ∃ w : Work, t = w.finish s := by
  unfold settle at e
  split at e
  · cases e; exact ⟨_, rfl⟩
  · split at e <;> first | (cases e; exact ⟨s.work, rfl⟩) | (cases e; exact ⟨_, rfl⟩) | cases e
  · cases e; exact ⟨_, rfl⟩
  · cases e; exact ⟨s.work, rfl⟩
  · cases e

@[simp] theorem settle_ok (s : State) (h : Option Instr) (w : Work) : settle s h (.ok w) = .next (w.finish s) := rfl

theorem settle_wait (s : State) (h : Option Instr) (why : Waiting) :
    settle s h (.error (.wait why)) = .next (s.await why h) := rfl

theorem settle_trap {s : State} (h : Option Instr) {w w' : Work} {t : Trap} (e : w.takeTrap t = .ok w') :
    settle s h (.error (.trap w t)) = .next (w'.finish s) := by
  simp [settle, e]

/-- A slot that may not issue leaves the state as it is. -/
theorem issue_idle {i : Instr} {f : Work → M Work} {s : State} (h : s.work.s.issues = false) : issue i f s = .next s := by
  simp [issue, h]

/-- With an empty replay queue no instruction stands in it. -/
theorem flight_of_empty {s : Slot} (i : Instr) (h : s.thr.window = []) : s.flight i = none := by
  simp [Slot.flight, h]

/-- An instruction that fails a check of issue takes that trap. -/
theorem issue_check {i : Instr} {f : Work → M Work} {s : State} {t : Trap} (h : s.work.s.issues = true)
    (q : s.work.s.thr.window = []) (c : s.work.checkTrap i = some t) :
    issue i f s = settle s (some i) (.error (.trap s.work t)) := by
  simp [issue, h, c, flight_of_empty i q]

/-- An instruction that may issue runs its meaning, whose first uncorrectable error replays the queue. -/
theorem issue_runs {i : Instr} {f : Work → M Work} {s : State} (h : MayIssue i s) :
    issue i f s = settle s (some i) (s.work.orReplay (s.work.newFlight i) (s.work.runMeaning i f)) := by
  obtain ⟨h, q, c, p⟩ := h
  simp [issue, h, c, p, flight_of_empty i q]

/-- A meaning whose strips are read and that is done, completes. -/
theorem runMeaning_ok {w w1 w' : Work} {i : Instr} {f : Work → M Work} (b : w.sources i = .ok w1)
    (e : f { w1 with npc := w.s.regs.pc + 4 } = .ok w') : w.runMeaning i f = .ok (w'.retire i w.s) := by
  simp only [Work.runMeaning, b, e]

/-- A meaning without bound sources runs at once. -/
theorem sources_of_unbound {w : Work} {i : Instr} (b : w.s.boundSources i = []) : w.sources i = .ok w := by
  simp only [Work.sources, b]

/-- An instruction that may issue, reads no bound register and whose meaning is done, completes. -/
theorem issue_completes {i : Instr} {f : Work → M Work} {s : State} {w : Work} (h : MayIssue i s)
    (b : s.work.s.boundSources i = []) (e : f { s.work with npc := s.work.s.regs.pc + 4 } = .ok w) :
    issue i f s = .next ((w.retire i s.work.s).finish s) := by
  rw [issue_runs h, runMeaning_ok (sources_of_unbound b) e]; rfl

/-- An issued instruction leaves the state as it was, or what some working state leaves. -/
theorem issue_next {i : Instr} {f : Work → M Work} {s t : State} (e : issue i f s = .next t) :
    t = s ∨ ∃ w : Work, t = w.finish s := by
  unfold issue at e
  dsimp only at e
  split at e
  · cases e; exact .inl rfl
  · split at e
    · exact .inr (settle_next e)
    · split at e
      · exact .inr (settle_next e)
      · split at e <;> exact .inr (settle_next e)

/-- An event leaves the state as it was, or what its work leaves. -/
theorem event_next {f : Work → M Work} {s t : State} (e : event f s = .next t) :
    t = s ∨ ∃ w : Work, f s.work = .ok w ∧ t = w.finish s := by
  unfold event at e
  split at e
  · cases e; rename_i w hw; exact .inr ⟨w, hw, rfl⟩
  · cases e
  · cases e; exact .inl rfl

theorem event_ok {f : Work → M Work} {s : State} {w : Work} (e : f s.work = .ok w) : event f s = .next (w.finish s) := by
  simp [event, e]

/-! ### Strips counted -/

/-- What counting a strip may change: the context's counters, and `fflags` of the running slot. -/
structure CountsOnly (w t : Work) : Prop where
  ws : t.ws = w.ws
  base : t.base = w.base
  npc : t.npc = w.npc
  cur : t.m.cur = w.m.cur
  regs : t.s.regs = w.s.regs
  sup : t.s.sup = w.s.sup
  thr : t.s.thr = w.s.thr
  unit : t.s.unit = w.s.unit
  mseq : t.s.mseq = w.s.mseq
  cseq : t.s.cseq = w.s.cseq
  rest : ∃ slot ctx, t.m = { w.m with slots := slot, contexts := ctx }
  others : ∀ n, n ≠ w.m.cur → t.m.slot n = w.m.slot n

theorem CountsOnly.refl (w : Work) (l : List Strip) : CountsOnly w { w with strips := l } :=
  ⟨rfl, rfl, rfl, rfl, rfl, rfl, rfl, rfl, rfl, rfl, ⟨_, _, rfl⟩, fun _ _ => rfl⟩

theorem CountsOnly.step (w : Work) (keys : List Nat) (f : BitVec 5) : CountsOnly w ((w.countKeys keys).orFlags f) := by
  unfold Work.countKeys
  split
  · exact ⟨rfl, rfl, rfl, rfl, by simp [Work.orFlags], by simp [Work.orFlags], by simp [Work.orFlags], by simp [Work.orFlags],
      by simp [Work.orFlags], by simp [Work.orFlags], ⟨_, w.m.contexts, rfl⟩, fun n h => mapCtl_slot_ne _ _ h⟩
  · exact ⟨rfl, rfl, rfl, rfl, by simp [Work.orFlags], by simp [Work.orFlags], by simp [Work.orFlags], by simp [Work.orFlags],
      by simp [Work.orFlags], by simp [Work.orFlags], ⟨_, _, rfl⟩,
      fun n h => (mapCtl_slot_ne (w.setCtx (keys.foldl Context.count w.ctx)) _ h).trans rfl⟩

theorem CountsOnly.trans {w t u : Work} (a : CountsOnly w t) (b : CountsOnly t u) : CountsOnly w u := by
  obtain ⟨x, y, hx⟩ := a.rest
  obtain ⟨x', y', hx'⟩ := b.rest
  exact ⟨b.ws.trans a.ws, b.base.trans a.base, b.npc.trans a.npc, b.cur.trans a.cur, b.regs.trans a.regs, b.sup.trans a.sup,
    b.thr.trans a.thr, b.unit.trans a.unit, b.mseq.trans a.mseq, b.cseq.trans a.cseq, ⟨x', y', by rw [hx', hx]⟩,
    fun n h => (b.others n (by rw [a.cur]; exact h)).trans (a.others n h)⟩

/-- Counting the strips of a completed instruction changes nothing else. -/
theorem countStrips_only (w : Work) : CountsOnly w w.countStrips := by
  have go : ∀ (l : List Strip) (t : Work), CountsOnly w t →
      CountsOnly w (l.foldl (fun w p => (w.countKeys p.keys).orFlags (p.flags.foldl (fun a x => a ||| x.2) 0)) t) := by
    intro l
    induction l with
    | nil => exact fun t h => h
    | cons p l ih => exact fun t h => ih _ (h.trans (CountsOnly.step t _ _))
  exact go _ _ (CountsOnly.refl w [])

/-- With no strip read there is nothing to count. -/
theorem countStrips_none {w : Work} (h : w.strips = []) : w.countStrips = w := by
  cases w; cases h; rfl

/-! ### Completion -/

@[simp] theorem retire_ws (w : Work) (i : Instr) (b : Slot) : (w.retire i b).ws = w.ws := by
  unfold Work.retire; split
  · rfl
  · exact (countStrips_only w).ws
@[simp] theorem retire_base (w : Work) (i : Instr) (b : Slot) : (w.retire i b).base = w.base := by
  unfold Work.retire; split
  · rfl
  · exact (countStrips_only w).base
@[simp] theorem retire_npc (w : Work) (i : Instr) (b : Slot) : (w.retire i b).npc = w.npc := by
  unfold Work.retire; split
  · rfl
  · exact (countStrips_only w).npc

/-- Completion changes nothing but the running slot and the page counters of its context. -/
theorem retire_m (w : Work) (i : Instr) (b : Slot) :
    (∃ slots ctx, (w.retire i b).m = { w.m with slots := slots, contexts := ctx }) ∧
    ∀ n, n ≠ w.m.cur → (w.retire i b).m.slot n = w.m.slot n := by
  have c := countStrips_only w
  unfold Work.retire
  split
  · exact ⟨⟨_, _, rfl⟩, fun _ _ => rfl⟩
  · obtain ⟨x, y, hx⟩ := c.rest
    have put : ∀ (k : Nat) (z : Slot), w.countStrips.m.setSlot k z = { w.m with slots := tabSet x k z, contexts := y } := by
      intro k z; rw [hx]; rfl
    refine ⟨⟨_, y, put _ _⟩, fun n h => ?_⟩
    exact (slot_setSlot_ne _ _ (by rw [c.cur]; exact h)).trans (c.others n h)

/-- Of a unit that runs, completion moves the pc to where the thread goes on. -/
theorem retire_pc {w : Work} (i : Instr) (b : Slot) (h : w.s.unit.st.runs = true) : (w.retire i b).s.regs.pc = w.npc := by
  simp [Work.retire, h, (countStrips_only w).npc]

/-- Completion leaves every register as the meaning left it. -/
theorem retire_regs (w : Work) (i : Instr) (b : Slot) :
    (w.retire i b).s.regs.x = w.s.regs.x ∧ (w.retire i b).s.regs.sx = w.s.regs.sx ∧
    (w.retire i b).s.regs.v = w.s.regs.v ∧ (w.retire i b).s.regs.m = w.s.regs.m ∧
    (w.retire i b).s.regs.k = w.s.regs.k ∧ (w.retire i b).s.regs.level = w.s.regs.level := by
  have c := (countStrips_only w).regs
  unfold Work.retire
  split
  · simp [Work.s]
  · simp [c]

@[simp] theorem retire_sup (w : Work) (i : Instr) (b : Slot) : (w.retire i b).s.sup = w.s.sup := by
  unfold Work.retire; split
  · rfl
  · simp [(countStrips_only w).sup]
@[simp] theorem retire_mseq (w : Work) (i : Instr) (b : Slot) : (w.retire i b).s.mseq = w.s.mseq := by
  unfold Work.retire; split
  · rfl
  · simp [(countStrips_only w).mseq]
@[simp] theorem retire_cseq (w : Work) (i : Instr) (b : Slot) : (w.retire i b).s.cseq = w.s.cseq := by
  unfold Work.retire; split
  · rfl
  · simp [(countStrips_only w).cseq]

/-! ### Traps -/

@[simp] theorem enterHandler_ws (w : Work) (t : Trap) : (w.enterHandler t).ws = w.ws := rfl

/-- What entry into the handler saves and where the thread goes on (15 R365). -/
theorem enterHandler_regs (w : Work) (t : Trap) :
    (w.enterHandler t).s.regs.level = .supervisor ∧
    (w.enterHandler t).s.regs.pc =
      (if bitB w.s.sup.stvec 0 then keepBits w.s.sup.stvec 6 51 + BitVec.ofNat 64 (64 * t.cause)
       else keepBits w.s.sup.stvec 6 51) ∧
    (w.enterHandler t).s.sup.spp = (w.s.regs.level == .supervisor) ∧
    (w.enterHandler t).s.sup.intrap = true ∧
    (w.enterHandler t).s.sup.scause = BitVec.ofNat 64 (t.cause + 256 * t.acc) ∧
    (w.enterHandler t).s.sup.sepc = keepBits w.s.regs.pc 2 55 ∧
    (w.enterHandler t).s.sup.stval = t.stval := by
  refine ⟨?_, ?_, ?_, ?_, ?_, ?_, ?_⟩ <;> simp only [Work.enterHandler, Slot.clearLinks, setS_s] <;> rfl

/-- Entry into the handler leaves every register as it was. -/
theorem enterHandler_files (w : Work) (t : Trap) :
    (w.enterHandler t).s.regs.x = w.s.regs.x ∧ (w.enterHandler t).s.regs.sx = w.s.regs.sx ∧
    (w.enterHandler t).s.regs.v = w.s.regs.v ∧ (w.enterHandler t).s.regs.m = w.s.regs.m ∧
    (w.enterHandler t).s.regs.k = w.s.regs.k ∧ (w.enterHandler t).s.ctl = w.s.ctl := by
  simp [Work.enterHandler, Slot.clearLinks]

/-- The tile operations behind a trapping instruction stand elsewhere then; the slot, the bytes and what is current stay. -/
theorem passTiles_keeps (w : Work) :
    w.passTiles.s = w.s ∧ w.passTiles.ws = w.ws ∧ w.passTiles.base = w.base ∧ w.passTiles.m.cur = w.m.cur ∧
    ∀ n, w.passTiles.m.slot n = w.m.slot n := by
  unfold Work.passTiles
  dsimp only
  split <;> exact ⟨rfl, rfl, rfl, rfl, fun _ => rfl⟩

@[simp] theorem passTiles_s (w : Work) : w.passTiles.s = w.s := (passTiles_keeps w).1

/-- With a handler and outside one, a trap enters it. -/
theorem takeTrap_enters {w : Work} {t : Trap} (c : t.cause ≠ cCANCELLED) (n : w.s.sup.intrap = false)
    (h : keepBits w.s.sup.stvec 6 51 ≠ 0) : w.takeTrap t = .ok (w.passTiles.enterHandler t) := by
  have hc : ¬(t.cause = cCANCELLED ∧ t.stval = 1) := fun x => c x.1
  simp only [Work.takeTrap, hc, if_false, passTiles_s, n, h, Bool.false_eq_true]

/-- What the return from a trap restores (15 R389). -/
theorem returnFromTrap_regs (w : Work) :
    w.returnFromTrap.s.regs.level = (if w.s.sup.spp then .supervisor else .user) ∧
    w.returnFromTrap.s.regs.pc = w.s.sup.sepc ∧
    w.returnFromTrap.s.sup.intrap = false := by
  cases h : w.s.sup.spp <;> simp [Work.returnFromTrap, Slot.clearLinks, h]

/-! ### Words that begin -/

/-- A word that begins, and whose meaning is done, completes. -/
theorem issue_of_begins {i : Instr} {f : Work → M Work} {s : State} {w w' : Work} (b : Begins i s w) (e : f w = .ok w') :
    issue i f s = .next (completed i s w') := by
  obtain ⟨h, w1, hs, rfl⟩ := b
  rw [issue_runs h, runMeaning_ok hs e]; rfl

/-- No scalar word but a tile instruction replays the queue. -/
theorem orReplay_scalar (w : Work) (f : InFlight) (r : M Work) (c : (infoOf f.ctl.fmt f.instr).replays = false) :
    w.orReplay f r = r := by
  unfold Work.orReplay
  split
  · simp [c]
  · rfl

/-- Nothing but a consumed uncorrectable error replays the queue. -/
theorem orReplay_other (w w2 : Work) (f : InFlight) (t : Trap) (c : t.cause ≠ cMEMORY_POISON) :
    w.orReplay f (.error (.trap w2 t)) = .error (.trap w2 t) := by
  simp [Work.orReplay, c]

/-- A scalar word that begins, and whose meaning traps, takes that trap with the work that its meaning left. -/
theorem issue_traps {i : Instr} {f : Work → M Work} {s : State} {w w2 : Work} {t : Trap} (b : Begins i s w)
    (c : (infoOf s.work.s.ctl.fmt i).cls = .scalar) (p : (infoOf s.work.s.ctl.fmt i).tile = false ∨ t.cause ≠ cMEMORY_POISON)
    (r : isRendezvous s.work.s.ctl.fmt i = false)
    (e : f w = .error (.trap w2 t)) : issue i f s = settle s (some i) (.error (.trap w2 t)) := by
  obtain ⟨h, w1, hs, rfl⟩ := b
  have n : s.work.s.boundSources i = [] := by simp [Slot.boundSources, c]
  rw [issue_runs h]
  simp only [Work.runMeaning, hs, e, c, n, r, Work.returnStrips]
  rcases p with p | p
  · rw [orReplay_scalar _ _ _ (by simp [Info.replays, Work.newFlight, c, p])]; simp
  · simp [orReplay_other, p]

/-- A word that begins, and whose meaning waits, leaves the slot waiting for it. -/
theorem issue_waits {i : Instr} {f : Work → M Work} {s : State} {w : Work} {why : Waiting} (b : Begins i s w)
    (e : f w = .error (.wait why)) : issue i f s = .next (s.await why (some i)) := by
  obtain ⟨h, w1, hs, rfl⟩ := b
  rw [issue_runs h]
  simp only [Work.runMeaning, hs, e, Work.orReplay, settle_wait]

/-! ### Steps of an instruction that holds its slot (13 R325, R326) -/

/-- Such a step leaves the state as it was, or what some working state leaves. -/
theorem issueStage_next {i : Instr} {f : Work → M Work} {s t : State} (e : issueStage i f s = .next t) :
    t = s ∨ ∃ w : Work, t = w.finish s := by
  unfold issueStage at e
  dsimp only at e
  have go : ∀ r : M Work, (match r with
      | .ok w' => Host.Outcome.next ((w'.mapUnit (fun u => { u.await .persist (some i) s.pkg.nextCopy with stage := u.stage + 1 })).finish s)
      | .error e => settle s (some i) (.error e)) = .next t → ∃ w : Work, t = w.finish s := by
    intro r h
    split at h
    · cases h; exact ⟨_, rfl⟩
    · exact settle_next h
  split at e
  · cases e; exact .inl rfl
  · split at e
    · exact .inr (go _ e)
    · split at e
      · exact .inr (settle_next e)
      · split at e
        · exact .inr (settle_next e)
        · exact .inr (go _ e)

end Sys2Proof.Machine
end

