-- ==== Sys2Proof/Laws/Between.lean ====
section
/-! SUPPORT. What a thread has under way between two steps, after it is set, and what the turns that take it up leave of memory. -/

namespace Sys2Proof.Machine

/-! ### Mach.setPart -/

@[simp] theorem setPart_slots (m : Mach) (n : Nat) (x : Part) : (m.setPart n x).slots = m.slots := rfl
@[simp] theorem setPart_cores (m : Mach) (n : Nat) (x : Part) : (m.setPart n x).cores = m.cores := rfl
@[simp] theorem setPart_shadow (m : Mach) (n : Nat) (x : Part) : (m.setPart n x).shadow = m.shadow := rfl
@[simp] theorem setPart_vaults (m : Mach) (n : Nat) (x : Part) : (m.setPart n x).vaults = m.vaults := rfl
@[simp] theorem setPart_engines (m : Mach) (n : Nat) (x : Part) : (m.setPart n x).engines = m.engines := rfl
@[simp] theorem setPart_barriers (m : Mach) (n : Nat) (x : Part) : (m.setPart n x).barriers = m.barriers := rfl
@[simp] theorem setPart_contexts (m : Mach) (n : Nat) (x : Part) : (m.setPart n x).contexts = m.contexts := rfl
@[simp] theorem setPart_jobs (m : Mach) (n : Nat) (x : Part) : (m.setPart n x).jobs = m.jobs := rfl
@[simp] theorem setPart_sched (m : Mach) (n : Nat) (x : Part) : (m.setPart n x).sched = m.sched := rfl
@[simp] theorem setPart_pkg (m : Mach) (n : Nat) (x : Part) : (m.setPart n x).pkg = m.pkg := rfl
@[simp] theorem setPart_mgmt (m : Mach) (n : Nat) (x : Part) : (m.setPart n x).mgmt = m.mgmt := rfl
@[simp] theorem setPart_agenda (m : Mach) (n : Nat) (x : Part) : (m.setPart n x).agenda = m.agenda := rfl
@[simp] theorem setPart_cur (m : Mach) (n : Nat) (x : Part) : (m.setPart n x).cur = m.cur := rfl
@[simp] theorem setPart_fresh (m : Mach) (n : Nat) (x : Part) : (m.setPart n x).fresh = m.fresh := rfl
@[simp] theorem setPart_sites (m : Mach) (n : Nat) (x : Part) : (m.setPart n x).sites = m.sites := rfl
@[simp] theorem slot_setPart (m : Mach) (n k : Nat) (x : Part) : (m.setPart n x).slot k = m.slot k := rfl

/-- What a slot has under way, after it is set. -/
theorem part_setPart (m : Mach) (n k : Nat) (x : Part) : (m.setPart n x).part k = if k = n then x else m.part k := by
  simp only [Mach.part, Mach.setPart]
  split
  · rename_i h
    rw [tabGet_tabDel, h]
  · rw [tabGet_tabSet]

@[simp] theorem part_setPart_self (m : Mach) (n : Nat) (x : Part) : (m.setPart n x).part n = x := by simp [part_setPart]

/-! ### What the turns of `Between` leave of memory -/

/-- A thread with nothing under way has nothing to settle. -/
@[simp] theorem settled_of_reset {s : State} {n : Nat} (h : s.toMach.part n = Part.reset) : s.settled n = s := by simp [State.settled, h]

@[simp] theorem sight_mem (s : State) (n loc : Nat) : (s.sight n loc).mem = s.mem := by
  unfold State.sight
  simp only
  split <;> rfl

/-- An access that a thread owes, performed: a load leaves memory, a store what its bytes leave. -/
theorem perform_mem_wf {s : State} (n : Nat) (x : Owed) (h : Memory.wf s.mem = true) : Memory.wf (s.perform n x).mem = true := by
  cases x with
  | store cells => exact finish_mem_wf _ h
  | load l =>
    unfold State.perform
    simp only
    split <;> exact h

theorem performed_mem_wf {s : State} (n : Nat) (js : List Nat) (h : Memory.wf s.mem = true) :
    Memory.wf (s.performed n js).mem = true := by
  have go : ∀ (l : List Owed) (s : State), Memory.wf s.mem = true → Memory.wf (l.foldl (fun s x => s.perform n x) s).mem = true := by
    intro l
    induction l with
    | nil => exact fun _ h => h
    | cons x l ih => exact fun s h => ih _ (perform_mem_wf n x h)
  exact go _ s h

theorem arrive_mem_wf {s : State} (n loc : Nat) (h : Memory.wf s.mem = true) : Memory.wf (s.arrive n loc).mem = true := by
  unfold State.arrive
  simp only
  split
  · exact performed_mem_wf n _ h
  · exact h

theorem returned_mem_wf {s : State} (n : Nat) (h : Memory.wf s.mem = true) : Memory.wf (s.returned n).mem = true :=
  performed_mem_wf (s := s) n _ h

theorem settled_mem_wf {s : State} (n : Nat) (h : Memory.wf s.mem = true) : Memory.wf (s.settled n).mem = true := by
  unfold State.settled
  simp only
  split
  · exact h
  · exact performed_mem_wf (s := s) n _ h

theorem finishOwed_mem_wf (w : Work) {s : State} (h : Memory.wf s.mem = true) : Memory.wf (w.finishOwed s).mem = true :=
  memWf_applyWrs h _

/-- A turn for some accesses ends in a state that a work leaves. -/
theorem partTurn_finish {k : Nat} {s t : State} (h : partTurn k s = some t) : ∃ w : Work, t = w.finish s := by
  unfold partTurn at h
  split at h
  · obtain ⟨w, -, rfl⟩ := Option.map_eq_some_iff.mp h
    exact ⟨w, rfl⟩
  · obtain ⟨p, -, h⟩ := Option.bind_eq_some_iff.mp h
    obtain ⟨w, -, rfl⟩ := Option.map_eq_some_iff.mp h
    exact ⟨w, rfl⟩

/-- So does a turn for some accesses of a tile operation, where it makes any. -/
theorem tilePartTurn_finish (core k : Nat) (s : State) : tilePartTurn core k s = s ∨ ∃ w : Work, tilePartTurn core k s = w.finish s := by
  unfold tilePartTurn
  simp only
  split
  · split
    · exact .inl rfl
    · split
      · exact .inr ⟨_, rfl⟩
      · exact .inl rfl
  · exact .inl rfl

/-- A turn with accesses under way ends in a state that a work leaves, its listed writes perhaps still to be performed; an `acq.system`
finds the thread's loads performed. -/
theorem looseTurn_finish {s t : State} (h : looseTurn s = some t) :
    ∃ (w : Work) (r : State), (r = s ∨ r = s.returned s.cur) ∧ (t = w.finishOwed r ∨ t = w.finish r) := by
  unfold looseTurn at h
  generalize hr : (if ((((({ s.work with base := s.viewOf s.cur } : Work).plainNext).map (fun p => acquires p.1)).getD false)) = true
    then s.returned s.cur else s) = r at h
  have hr' : r = s ∨ r = s.returned s.cur := by
    rw [← hr]; split
    · exact .inr rfl
    · exact .inl rfl
  simp only at h
  rw [hr] at h
  split at h
  · cases h
  · split at h
    · cases h
    · split at h
      · repeat' split at h
        all_goals first
          | exact ⟨_, r, hr', .inl (Option.some.inj h).symm⟩
          | exact ⟨_, r, hr', .inr (Option.some.inj h).symm⟩
          | cases h
      · cases h

theorem looseTurn_mem_wf {s t : State} (e : looseTurn s = some t) (h : Memory.wf s.mem = true) : Memory.wf t.mem = true := by
  obtain ⟨w, r, hr, ht⟩ := looseTurn_finish e
  have k : Memory.wf r.mem = true := by
    rcases hr with rfl | rfl
    · exact h
    · exact returned_mem_wf _ h
  rcases ht with rfl | rfl
  · exact finishOwed_mem_wf w k
  · exact finish_mem_wf w k

/-- A turn whose load is performed later ends in a state that a work leaves. -/
theorem lateTurn_finish {s t : State} (h : lateTurn s = some t) : ∃ w : Work, t = w.finish s := by
  unfold lateTurn at h
  simp only at h
  split at h
  · cases h
  · split at h
    · cases h
    · split at h
      · split at h
        · cases h
        · exact ⟨_, (Option.some.inj h).symm⟩
      · cases h

end Sys2Proof.Machine
end

