-- ==== Sys2Proof/Laws/PerInstr.lean ====
section
/-! SUPPORT. Statements made of every instruction as syntax, one lemma per constructor: an instruction's word fits in the 32 bits
that 02 R24 gives it. -/

namespace Sys2Proof.Laws.WordFields

/-- The word of the instruction has 32 bits (02 R24). -/
def Statement (i : Instr) : Prop := encode i < 2 ^ 32

theorem toNat_le_one (b : Bool) : b.toNat ≤ 1 := by cases b <;> decide

theorem add : ∀ (st : Fin 16) (d : Reg) (a : Reg) (b : Reg), Statement (.add st d a b) := by
  intro st d a b
  have h1 := st.isLt
  have h2 := d.isLt
  have h3 := a.isLt
  have h4 := b.isLt
  show 0x200000 + st.val * 268435456 + d.val * 65536 + a.val * 2048 + b.val * 64 < 2 ^ 32
  omega

theorem sub : ∀ (st : Fin 16) (d : Reg) (a : Reg) (b : Reg), Statement (.sub st d a b) := by
  intro st d a b
  have h1 := st.isLt
  have h2 := d.isLt
  have h3 := a.isLt
  have h4 := b.isLt
  show 0x200001 + st.val * 268435456 + d.val * 65536 + a.val * 2048 + b.val * 64 < 2 ^ 32
  omega

theorem and : ∀ (st : Fin 16) (d : Reg) (a : Reg) (b : Reg), Statement (.and st d a b) := by
  intro st d a b
  have h1 := st.isLt
  have h2 := d.isLt
  have h3 := a.isLt
  have h4 := b.isLt
  show 0x200002 + st.val * 268435456 + d.val * 65536 + a.val * 2048 + b.val * 64 < 2 ^ 32
  omega

theorem or : ∀ (st : Fin 16) (d : Reg) (a : Reg) (b : Reg), Statement (.or st d a b) := by
  intro st d a b
  have h1 := st.isLt
  have h2 := d.isLt
  have h3 := a.isLt
  have h4 := b.isLt
  show 0x200003 + st.val * 268435456 + d.val * 65536 + a.val * 2048 + b.val * 64 < 2 ^ 32
  omega

theorem xor : ∀ (st : Fin 16) (d : Reg) (a : Reg) (b : Reg), Statement (.xor st d a b) := by
  intro st d a b
  have h1 := st.isLt
  have h2 := d.isLt
  have h3 := a.isLt
  have h4 := b.isLt
  show 0x200004 + st.val * 268435456 + d.val * 65536 + a.val * 2048 + b.val * 64 < 2 ^ 32
  omega

theorem sll : ∀ (st : Fin 16) (d : Reg) (a : Reg) (b : Reg), Statement (.sll st d a b) := by
  intro st d a b
  have h1 := st.isLt
  have h2 := d.isLt
  have h3 := a.isLt
  have h4 := b.isLt
  show 0x200005 + st.val * 268435456 + d.val * 65536 + a.val * 2048 + b.val * 64 < 2 ^ 32
  omega

theorem srl : ∀ (st : Fin 16) (d : Reg) (a : Reg) (b : Reg), Statement (.srl st d a b) := by
  intro st d a b
  have h1 := st.isLt
  have h2 := d.isLt
  have h3 := a.isLt
  have h4 := b.isLt
  show 0x200006 + st.val * 268435456 + d.val * 65536 + a.val * 2048 + b.val * 64 < 2 ^ 32
  omega

theorem sra : ∀ (st : Fin 16) (d : Reg) (a : Reg) (b : Reg), Statement (.sra st d a b) := by
  intro st d a b
  have h1 := st.isLt
  have h2 := d.isLt
  have h3 := a.isLt
  have h4 := b.isLt
  show 0x200007 + st.val * 268435456 + d.val * 65536 + a.val * 2048 + b.val * 64 < 2 ^ 32
  omega

theorem slt : ∀ (st : Fin 16) (d : Reg) (a : Reg) (b : Reg), Statement (.slt st d a b) := by
  intro st d a b
  have h1 := st.isLt
  have h2 := d.isLt
  have h3 := a.isLt
  have h4 := b.isLt
  show 0x200008 + st.val * 268435456 + d.val * 65536 + a.val * 2048 + b.val * 64 < 2 ^ 32
  omega

theorem sltn : ∀ (st : Fin 16) (d : Reg) (a : Reg) (b : Reg), Statement (.sltn st d a b) := by
  intro st d a b
  have h1 := st.isLt
  have h2 := d.isLt
  have h3 := a.isLt
  have h4 := b.isLt
  show 0x200009 + st.val * 268435456 + d.val * 65536 + a.val * 2048 + b.val * 64 < 2 ^ 32
  omega

theorem min : ∀ (st : Fin 16) (d : Reg) (a : Reg) (b : Reg), Statement (.min st d a b) := by
  intro st d a b
  have h1 := st.isLt
  have h2 := d.isLt
  have h3 := a.isLt
  have h4 := b.isLt
  show 0x20000a + st.val * 268435456 + d.val * 65536 + a.val * 2048 + b.val * 64 < 2 ^ 32
  omega

theorem max : ∀ (st : Fin 16) (d : Reg) (a : Reg) (b : Reg), Statement (.max st d a b) := by
  intro st d a b
  have h1 := st.isLt
  have h2 := d.isLt
  have h3 := a.isLt
  have h4 := b.isLt
  show 0x20000b + st.val * 268435456 + d.val * 65536 + a.val * 2048 + b.val * 64 < 2 ^ 32
  omega

theorem minn : ∀ (st : Fin 16) (d : Reg) (a : Reg) (b : Reg), Statement (.minn st d a b) := by
  intro st d a b
  have h1 := st.isLt
  have h2 := d.isLt
  have h3 := a.isLt
  have h4 := b.isLt
  show 0x20000c + st.val * 268435456 + d.val * 65536 + a.val * 2048 + b.val * 64 < 2 ^ 32
  omega

theorem maxn : ∀ (st : Fin 16) (d : Reg) (a : Reg) (b : Reg), Statement (.maxn st d a b) := by
  intro st d a b
  have h1 := st.isLt
  have h2 := d.isLt
  have h3 := a.isLt
  have h4 := b.isLt
  show 0x20000d + st.val * 268435456 + d.val * 65536 + a.val * 2048 + b.val * 64 < 2 ^ 32
  omega

theorem mul : ∀ (st : Fin 16) (d : Reg) (a : Reg) (b : Reg), Statement (.mul st d a b) := by
  intro st d a b
  have h1 := st.isLt
  have h2 := d.isLt
  have h3 := a.isLt
  have h4 := b.isLt
  show 0x200010 + st.val * 268435456 + d.val * 65536 + a.val * 2048 + b.val * 64 < 2 ^ 32
  omega

theorem mulh : ∀ (st : Fin 16) (d : Reg) (a : Reg) (b : Reg), Statement (.mulh st d a b) := by
  intro st d a b
  have h1 := st.isLt
  have h2 := d.isLt
  have h3 := a.isLt
  have h4 := b.isLt
  show 0x200011 + st.val * 268435456 + d.val * 65536 + a.val * 2048 + b.val * 64 < 2 ^ 32
  omega

theorem mulhn : ∀ (st : Fin 16) (d : Reg) (a : Reg) (b : Reg), Statement (.mulhn st d a b) := by
  intro st d a b
  have h1 := st.isLt
  have h2 := d.isLt
  have h3 := a.isLt
  have h4 := b.isLt
  show 0x200012 + st.val * 268435456 + d.val * 65536 + a.val * 2048 + b.val * 64 < 2 ^ 32
  omega

theorem div : ∀ (st : Fin 16) (d : Reg) (a : Reg) (b : Reg), Statement (.div st d a b) := by
  intro st d a b
  have h1 := st.isLt
  have h2 := d.isLt
  have h3 := a.isLt
  have h4 := b.isLt
  show 0x200013 + st.val * 268435456 + d.val * 65536 + a.val * 2048 + b.val * 64 < 2 ^ 32
  omega

theorem divn : ∀ (st : Fin 16) (d : Reg) (a : Reg) (b : Reg), Statement (.divn st d a b) := by
  intro st d a b
  have h1 := st.isLt
  have h2 := d.isLt
  have h3 := a.isLt
  have h4 := b.isLt
  show 0x200014 + st.val * 268435456 + d.val * 65536 + a.val * 2048 + b.val * 64 < 2 ^ 32
  omega

theorem rem : ∀ (st : Fin 16) (d : Reg) (a : Reg) (b : Reg), Statement (.rem st d a b) := by
  intro st d a b
  have h1 := st.isLt
  have h2 := d.isLt
  have h3 := a.isLt
  have h4 := b.isLt
  show 0x200015 + st.val * 268435456 + d.val * 65536 + a.val * 2048 + b.val * 64 < 2 ^ 32
  omega

theorem remn : ∀ (st : Fin 16) (d : Reg) (a : Reg) (b : Reg), Statement (.remn st d a b) := by
  intro st d a b
  have h1 := st.isLt
  have h2 := d.isLt
  have h3 := a.isLt
  have h4 := b.isLt
  show 0x200016 + st.val * 268435456 + d.val * 65536 + a.val * 2048 + b.val * 64 < 2 ^ 32
  omega

theorem bext : ∀ (st : Fin 16) (d : Reg) (a : Reg) (b : Reg), Statement (.bext st d a b) := by
  intro st d a b
  have h1 := st.isLt
  have h2 := d.isLt
  have h3 := a.isLt
  have h4 := b.isLt
  show 0x20001b + st.val * 268435456 + d.val * 65536 + a.val * 2048 + b.val * 64 < 2 ^ 32
  omega

theorem bins : ∀ (st : Fin 16) (d : Reg) (a : Reg) (b : Reg), Statement (.bins st d a b) := by
  intro st d a b
  have h1 := st.isLt
  have h2 := d.isLt
  have h3 := a.isLt
  have h4 := b.isLt
  show 0x20001c + st.val * 268435456 + d.val * 65536 + a.val * 2048 + b.val * 64 < 2 ^ 32
  omega

theorem clz : ∀ (st : Fin 16) (d : Reg) (a : Reg), Statement (.clz st d a) := by
  intro st d a
  have h1 := st.isLt
  have h2 := d.isLt
  have h3 := a.isLt
  show 0x200018 + st.val * 268435456 + d.val * 65536 + a.val * 2048 < 2 ^ 32
  omega

theorem ctz : ∀ (st : Fin 16) (d : Reg) (a : Reg), Statement (.ctz st d a) := by
  intro st d a
  have h1 := st.isLt
  have h2 := d.isLt
  have h3 := a.isLt
  show 0x200019 + st.val * 268435456 + d.val * 65536 + a.val * 2048 < 2 ^ 32
  omega

theorem popc : ∀ (st : Fin 16) (d : Reg) (a : Reg), Statement (.popc st d a) := by
  intro st d a
  have h1 := st.isLt
  have h2 := d.isLt
  have h3 := a.isLt
  show 0x20001a + st.val * 268435456 + d.val * 65536 + a.val * 2048 < 2 ^ 32
  omega

theorem slli : ∀ (st : Fin 16) (d : Reg) (a : Reg) (n : Fin 32) (h : Bool), Statement (.slli st d a n h) := by
  intro st d a n h
  have h1 := st.isLt
  have h2 := d.isLt
  have h3 := a.isLt
  have h4 := n.isLt
  have h5 := toNat_le_one h
  show 0x200020 + st.val * 268435456 + d.val * 65536 + a.val * 2048 + n.val * 64 + h.toNat < 2 ^ 32
  omega

theorem srli : ∀ (st : Fin 16) (d : Reg) (a : Reg) (n : Fin 32) (h : Bool), Statement (.srli st d a n h) := by
  intro st d a n h
  have h1 := st.isLt
  have h2 := d.isLt
  have h3 := a.isLt
  have h4 := n.isLt
  have h5 := toNat_le_one h
  show 0x200022 + st.val * 268435456 + d.val * 65536 + a.val * 2048 + n.val * 64 + h.toNat < 2 ^ 32
  omega

theorem srai : ∀ (st : Fin 16) (d : Reg) (a : Reg) (n : Fin 32) (h : Bool), Statement (.srai st d a n h) := by
  intro st d a n h
  have h1 := st.isLt
  have h2 := d.isLt
  have h3 := a.isLt
  have h4 := n.isLt
  have h5 := toNat_le_one h
  show 0x200024 + st.val * 268435456 + d.val * 65536 + a.val * 2048 + n.val * 64 + h.toNat < 2 ^ 32
  omega

theorem addi : ∀ (st : Fin 16) (d : Reg) (a : Reg) (imm : BitVec 11), Statement (.addi st d a imm) := by
  intro st d a imm
  have h1 := st.isLt
  have h2 := d.isLt
  have h3 := a.isLt
  have h4 := imm.isLt
  show 0x400000 + st.val * 268435456 + d.val * 65536 + a.val * 2048 + imm.toNat < 2 ^ 32
  omega

theorem andi : ∀ (st : Fin 16) (d : Reg) (a : Reg) (imm : BitVec 11), Statement (.andi st d a imm) := by
  intro st d a imm
  have h1 := st.isLt
  have h2 := d.isLt
  have h3 := a.isLt
  have h4 := imm.isLt
  show 0x600000 + st.val * 268435456 + d.val * 65536 + a.val * 2048 + imm.toNat < 2 ^ 32
  omega

theorem ori : ∀ (st : Fin 16) (d : Reg) (a : Reg) (imm : BitVec 11), Statement (.ori st d a imm) := by
  intro st d a imm
  have h1 := st.isLt
  have h2 := d.isLt
  have h3 := a.isLt
  have h4 := imm.isLt
  show 0x800000 + st.val * 268435456 + d.val * 65536 + a.val * 2048 + imm.toNat < 2 ^ 32
  omega

theorem xori : ∀ (st : Fin 16) (d : Reg) (a : Reg) (imm : BitVec 11), Statement (.xori st d a imm) := by
  intro st d a imm
  have h1 := st.isLt
  have h2 := d.isLt
  have h3 := a.isLt
  have h4 := imm.isLt
  show 0xa00000 + st.val * 268435456 + d.val * 65536 + a.val * 2048 + imm.toNat < 2 ^ 32
  omega

theorem lih : ∀ (st : Fin 16) (d : Reg) (imm : BitVec 16), Statement (.lih st d imm) := by
  intro st d imm
  have h1 := st.isLt
  have h2 := d.isLt
  have h3 := imm.isLt
  show 0xc00000 + st.val * 268435456 + d.val * 65536 + imm.toNat < 2 ^ 32
  omega

theorem adpc : ∀ (st : Fin 16) (d : Reg) (imm : BitVec 16), Statement (.adpc st d imm) := by
  intro st d imm
  have h1 := st.isLt
  have h2 := d.isLt
  have h3 := imm.isLt
  show 0xe00000 + st.val * 268435456 + d.val * 65536 + imm.toNat < 2 ^ 32
  omega

theorem ld8 : ∀ (st : Fin 16) (d : Reg) (a : Reg) (off : BitVec 9), Statement (.ld8 st d a off) := by
  intro st d a off
  have h1 := st.isLt
  have h2 := d.isLt
  have h3 := a.isLt
  have h4 := off.isLt
  show 0x1000000 + st.val * 268435456 + d.val * 65536 + a.val * 2048 + off.toNat < 2 ^ 32
  omega

theorem ld16 : ∀ (st : Fin 16) (d : Reg) (a : Reg) (off : BitVec 9), Statement (.ld16 st d a off) := by
  intro st d a off
  have h1 := st.isLt
  have h2 := d.isLt
  have h3 := a.isLt
  have h4 := off.isLt
  show 0x1000200 + st.val * 268435456 + d.val * 65536 + a.val * 2048 + off.toNat < 2 ^ 32
  omega

theorem ld32 : ∀ (st : Fin 16) (d : Reg) (a : Reg) (off : BitVec 9), Statement (.ld32 st d a off) := by
  intro st d a off
  have h1 := st.isLt
  have h2 := d.isLt
  have h3 := a.isLt
  have h4 := off.isLt
  show 0x1000400 + st.val * 268435456 + d.val * 65536 + a.val * 2048 + off.toNat < 2 ^ 32
  omega

theorem ld64 : ∀ (st : Fin 16) (d : Reg) (a : Reg) (off : BitVec 9), Statement (.ld64 st d a off) := by
  intro st d a off
  have h1 := st.isLt
  have h2 := d.isLt
  have h3 := a.isLt
  have h4 := off.isLt
  show 0x1000600 + st.val * 268435456 + d.val * 65536 + a.val * 2048 + off.toNat < 2 ^ 32
  omega

theorem ld8N : ∀ (st : Fin 16) (d : Reg) (a : Reg) (off : BitVec 9), Statement (.ld8N st d a off) := by
  intro st d a off
  have h1 := st.isLt
  have h2 := d.isLt
  have h3 := a.isLt
  have h4 := off.isLt
  show 0x1200000 + st.val * 268435456 + d.val * 65536 + a.val * 2048 + off.toNat < 2 ^ 32
  omega

theorem ld16N : ∀ (st : Fin 16) (d : Reg) (a : Reg) (off : BitVec 9), Statement (.ld16N st d a off) := by
  intro st d a off
  have h1 := st.isLt
  have h2 := d.isLt
  have h3 := a.isLt
  have h4 := off.isLt
  show 0x1200200 + st.val * 268435456 + d.val * 65536 + a.val * 2048 + off.toNat < 2 ^ 32
  omega

theorem ld32N : ∀ (st : Fin 16) (d : Reg) (a : Reg) (off : BitVec 9), Statement (.ld32N st d a off) := by
  intro st d a off
  have h1 := st.isLt
  have h2 := d.isLt
  have h3 := a.isLt
  have h4 := off.isLt
  show 0x1200400 + st.val * 268435456 + d.val * 65536 + a.val * 2048 + off.toNat < 2 ^ 32
  omega

theorem st8 : ∀ (st : Fin 16) (d : Reg) (a : Reg) (off : BitVec 9), Statement (.st8 st d a off) := by
  intro st d a off
  have h1 := st.isLt
  have h2 := d.isLt
  have h3 := a.isLt
  have h4 := off.isLt
  show 0x1400000 + st.val * 268435456 + d.val * 65536 + a.val * 2048 + off.toNat < 2 ^ 32
  omega

theorem st16 : ∀ (st : Fin 16) (d : Reg) (a : Reg) (off : BitVec 9), Statement (.st16 st d a off) := by
  intro st d a off
  have h1 := st.isLt
  have h2 := d.isLt
  have h3 := a.isLt
  have h4 := off.isLt
  show 0x1400200 + st.val * 268435456 + d.val * 65536 + a.val * 2048 + off.toNat < 2 ^ 32
  omega

theorem st32 : ∀ (st : Fin 16) (d : Reg) (a : Reg) (off : BitVec 9), Statement (.st32 st d a off) := by
  intro st d a off
  have h1 := st.isLt
  have h2 := d.isLt
  have h3 := a.isLt
  have h4 := off.isLt
  show 0x1400400 + st.val * 268435456 + d.val * 65536 + a.val * 2048 + off.toNat < 2 ^ 32
  omega

theorem st64 : ∀ (st : Fin 16) (d : Reg) (a : Reg) (off : BitVec 9), Statement (.st64 st d a off) := by
  intro st d a off
  have h1 := st.isLt
  have h2 := d.isLt
  have h3 := a.isLt
  have h4 := off.isLt
  show 0x1400600 + st.val * 268435456 + d.val * 65536 + a.val * 2048 + off.toNat < 2 ^ 32
  omega

theorem ldl : ∀ (st : Fin 16) (d : Reg) (a : Reg), Statement (.ldl st d a) := by
  intro st d a
  have h1 := st.isLt
  have h2 := d.isLt
  have h3 := a.isLt
  show 0x1600000 + st.val * 268435456 + d.val * 65536 + a.val * 2048 < 2 ^ 32
  omega

theorem stc : ∀ (st : Fin 16) (d : Reg) (a : Reg) (b : Reg), Statement (.stc st d a b) := by
  intro st d a b
  have h1 := st.isLt
  have h2 := d.isLt
  have h3 := a.isLt
  have h4 := b.isLt
  show 0x1600001 + st.val * 268435456 + d.val * 65536 + a.val * 2048 + b.val * 64 < 2 ^ 32
  omega

theorem jal : ∀ (st : Fin 16) (off : BitVec 21), Statement (.jal st off) := by
  intro st off
  have h1 := st.isLt
  have h2 := off.isLt
  show 0x1800000 + st.val * 268435456 + off.toNat < 2 ^ 32
  omega

theorem beq : ∀ (st : Fin 16) (d : Reg) (a : Reg) (off : BitVec 9), Statement (.beq st d a off) := by
  intro st d a off
  have h1 := st.isLt
  have h2 := d.isLt
  have h3 := a.isLt
  have h4 := off.isLt
  show 0x1a00000 + st.val * 268435456 + d.val * 65536 + a.val * 2048 + off.toNat < 2 ^ 32
  omega

theorem bne : ∀ (st : Fin 16) (d : Reg) (a : Reg) (off : BitVec 9), Statement (.bne st d a off) := by
  intro st d a off
  have h1 := st.isLt
  have h2 := d.isLt
  have h3 := a.isLt
  have h4 := off.isLt
  show 0x1a00200 + st.val * 268435456 + d.val * 65536 + a.val * 2048 + off.toNat < 2 ^ 32
  omega

theorem blt : ∀ (st : Fin 16) (d : Reg) (a : Reg) (off : BitVec 9), Statement (.blt st d a off) := by
  intro st d a off
  have h1 := st.isLt
  have h2 := d.isLt
  have h3 := a.isLt
  have h4 := off.isLt
  show 0x1a00400 + st.val * 268435456 + d.val * 65536 + a.val * 2048 + off.toNat < 2 ^ 32
  omega

theorem bge : ∀ (st : Fin 16) (d : Reg) (a : Reg) (off : BitVec 9), Statement (.bge st d a off) := by
  intro st d a off
  have h1 := st.isLt
  have h2 := d.isLt
  have h3 := a.isLt
  have h4 := off.isLt
  show 0x1a00600 + st.val * 268435456 + d.val * 65536 + a.val * 2048 + off.toNat < 2 ^ 32
  omega

theorem bltn : ∀ (st : Fin 16) (d : Reg) (a : Reg) (off : BitVec 9), Statement (.bltn st d a off) := by
  intro st d a off
  have h1 := st.isLt
  have h2 := d.isLt
  have h3 := a.isLt
  have h4 := off.isLt
  show 0x1c00000 + st.val * 268435456 + d.val * 65536 + a.val * 2048 + off.toNat < 2 ^ 32
  omega

theorem bgen : ∀ (st : Fin 16) (d : Reg) (a : Reg) (off : BitVec 9), Statement (.bgen st d a off) := by
  intro st d a off
  have h1 := st.isLt
  have h2 := d.isLt
  have h3 := a.isLt
  have h4 := off.isLt
  show 0x1c00200 + st.val * 268435456 + d.val * 65536 + a.val * 2048 + off.toNat < 2 ^ 32
  omega

theorem jalr : ∀ (st : Fin 16) (d : Reg) (a : Reg), Statement (.jalr st d a) := by
  intro st d a
  have h1 := st.isLt
  have h2 := d.isLt
  have h3 := a.isLt
  show 0x1e00000 + st.val * 268435456 + d.val * 65536 + a.val * 2048 < 2 ^ 32
  omega

theorem wait : ∀ (st : Fin 16) (d : Reg) (a : Reg), Statement (.wait st d a) := by
  intro st d a
  have h1 := st.isLt
  have h2 := d.isLt
  have h3 := a.isLt
  show 0x1e00001 + st.val * 268435456 + d.val * 65536 + a.val * 2048 < 2 ^ 32
  omega

theorem setvl : ∀ (st : Fin 16) (d : Reg) (a : Reg), Statement (.setvl st d a) := by
  intro st d a
  have h1 := st.isLt
  have h2 := d.isLt
  have h3 := a.isLt
  show 0x1e00002 + st.val * 268435456 + d.val * 65536 + a.val * 2048 < 2 ^ 32
  omega

theorem setvt : ∀ (st : Fin 16) (d : Reg) (a : Reg), Statement (.setvt st d a) := by
  intro st d a
  have h1 := st.isLt
  have h2 := d.isLt
  have h3 := a.isLt
  show 0x1e00003 + st.val * 268435456 + d.val * 65536 + a.val * 2048 < 2 ^ 32
  omega

theorem nop : ∀ (st : Fin 16), Statement (.nop st) := by
  intro st
  have h1 := st.isLt
  show 0x1e00004 + st.val * 268435456 < 2 ^ 32
  omega

theorem rdc : ∀ (st : Fin 16) (d : Reg) (r : Fin 1024), Statement (.rdc st d r) := by
  intro st d r
  have h1 := st.isLt
  have h2 := d.isLt
  have h3 := r.isLt
  show 0x1e00008 + st.val * 268435456 + d.val * 65536 + r.val * 64 < 2 ^ 32
  omega

theorem wrc : ∀ (st : Fin 16) (d : Reg) (r : Fin 1024), Statement (.wrc st d r) := by
  intro st d r
  have h1 := st.isLt
  have h2 := d.isLt
  have h3 := r.isLt
  show 0x1e00009 + st.val * 268435456 + d.val * 65536 + r.val * 64 < 2 ^ 32
  omega

theorem writeVl : ∀ (value : Word), Statement (.writeVl value) := by
  intro value
  show 0 < 2 ^ 32
  decide

theorem writeVtype : ∀ (value : Word), Statement (.writeVtype value) := by
  intro value
  show 0 < 2 ^ 32
  decide

theorem writeFflags : ∀ (value : Word), Statement (.writeFflags value) := by
  intro value
  show 0 < 2 ^ 32
  decide

theorem writeWaypart : ∀ (value : Word), Statement (.writeWaypart value) := by
  intro value
  show 0 < 2 ^ 32
  decide

theorem writeVstate : ∀ (value : Word), Statement (.writeVstate value) := by
  intro value
  show 0 < 2 ^ 32
  decide

theorem writeTstate : ∀ (value : Word), Statement (.writeTstate value) := by
  intro value
  show 0 < 2 ^ 32
  decide

theorem writeVhot : ∀ (value : Word), Statement (.writeVhot value) := by
  intro value
  show 0 < 2 ^ 32
  decide

theorem vadd : ∀ (st : Fin 16) (c : Bool) (d : Reg) (a : Reg) (b : Reg) (x : Bool), Statement (.vadd st c d a b x) := by
  intro st c d a b x
  have h1 := st.isLt
  have h2 := toNat_le_one c
  have h3 := d.isLt
  have h4 := a.isLt
  have h5 := b.isLt
  have h6 := toNat_le_one x
  show 0x2000000 + st.val * 268435456 + c.toNat * 134217728 + d.val * 65536 + a.val * 2048 + b.val * 64 + x.toNat * 32 < 2 ^ 32
  omega

theorem vsub : ∀ (st : Fin 16) (c : Bool) (d : Reg) (a : Reg) (b : Reg) (x : Bool), Statement (.vsub st c d a b x) := by
  intro st c d a b x
  have h1 := st.isLt
  have h2 := toNat_le_one c
  have h3 := d.isLt
  have h4 := a.isLt
  have h5 := b.isLt
  have h6 := toNat_le_one x
  show 0x2000001 + st.val * 268435456 + c.toNat * 134217728 + d.val * 65536 + a.val * 2048 + b.val * 64 + x.toNat * 32 < 2 ^ 32
  omega

theorem vmin : ∀ (st : Fin 16) (c : Bool) (d : Reg) (a : Reg) (b : Reg) (x : Bool), Statement (.vmin st c d a b x) := by
  intro st c d a b x
  have h1 := st.isLt
  have h2 := toNat_le_one c
  have h3 := d.isLt
  have h4 := a.isLt
  have h5 := b.isLt
  have h6 := toNat_le_one x
  show 0x2000002 + st.val * 268435456 + c.toNat * 134217728 + d.val * 65536 + a.val * 2048 + b.val * 64 + x.toNat * 32 < 2 ^ 32
  omega

theorem vmax : ∀ (st : Fin 16) (c : Bool) (d : Reg) (a : Reg) (b : Reg) (x : Bool), Statement (.vmax st c d a b x) := by
  intro st c d a b x
  have h1 := st.isLt
  have h2 := toNat_le_one c
  have h3 := d.isLt
  have h4 := a.isLt
  have h5 := b.isLt
  have h6 := toNat_le_one x
  show 0x2000003 + st.val * 268435456 + c.toNat * 134217728 + d.val * 65536 + a.val * 2048 + b.val * 64 + x.toNat * 32 < 2 ^ 32
  omega

theorem vaddsat : ∀ (st : Fin 16) (c : Bool) (d : Reg) (a : Reg) (b : Reg) (x : Bool), Statement (.vaddsat st c d a b x) := by
  intro st c d a b x
  have h1 := st.isLt
  have h2 := toNat_le_one c
  have h3 := d.isLt
  have h4 := a.isLt
  have h5 := b.isLt
  have h6 := toNat_le_one x
  show 0x2000004 + st.val * 268435456 + c.toNat * 134217728 + d.val * 65536 + a.val * 2048 + b.val * 64 + x.toNat * 32 < 2 ^ 32
  omega

theorem vsubsat : ∀ (st : Fin 16) (c : Bool) (d : Reg) (a : Reg) (b : Reg) (x : Bool), Statement (.vsubsat st c d a b x) := by
  intro st c d a b x
  have h1 := st.isLt
  have h2 := toNat_le_one c
  have h3 := d.isLt
  have h4 := a.isLt
  have h5 := b.isLt
  have h6 := toNat_le_one x
  show 0x2000005 + st.val * 268435456 + c.toNat * 134217728 + d.val * 65536 + a.val * 2048 + b.val * 64 + x.toNat * 32 < 2 ^ 32
  omega

theorem vabs : ∀ (st : Fin 16) (c : Bool) (d : Reg) (a : Reg), Statement (.vabs st c d a) := by
  intro st c d a
  have h1 := st.isLt
  have h2 := toNat_le_one c
  have h3 := d.isLt
  have h4 := a.isLt
  show 0x2000006 + st.val * 268435456 + c.toNat * 134217728 + d.val * 65536 + a.val * 2048 < 2 ^ 32
  omega

theorem vneg : ∀ (st : Fin 16) (c : Bool) (d : Reg) (a : Reg), Statement (.vneg st c d a) := by
  intro st c d a
  have h1 := st.isLt
  have h2 := toNat_le_one c
  have h3 := d.isLt
  have h4 := a.isLt
  show 0x2000007 + st.val * 268435456 + c.toNat * 134217728 + d.val * 65536 + a.val * 2048 < 2 ^ 32
  omega

theorem vand : ∀ (st : Fin 16) (c : Bool) (d : Reg) (a : Reg) (b : Reg) (x : Bool), Statement (.vand st c d a b x) := by
  intro st c d a b x
  have h1 := st.isLt
  have h2 := toNat_le_one c
  have h3 := d.isLt
  have h4 := a.isLt
  have h5 := b.isLt
  have h6 := toNat_le_one x
  show 0x2200000 + st.val * 268435456 + c.toNat * 134217728 + d.val * 65536 + a.val * 2048 + b.val * 64 + x.toNat * 32 < 2 ^ 32
  omega

theorem vor : ∀ (st : Fin 16) (c : Bool) (d : Reg) (a : Reg) (b : Reg) (x : Bool), Statement (.vor st c d a b x) := by
  intro st c d a b x
  have h1 := st.isLt
  have h2 := toNat_le_one c
  have h3 := d.isLt
  have h4 := a.isLt
  have h5 := b.isLt
  have h6 := toNat_le_one x
  show 0x2200001 + st.val * 268435456 + c.toNat * 134217728 + d.val * 65536 + a.val * 2048 + b.val * 64 + x.toNat * 32 < 2 ^ 32
  omega

theorem vxor : ∀ (st : Fin 16) (c : Bool) (d : Reg) (a : Reg) (b : Reg) (x : Bool), Statement (.vxor st c d a b x) := by
  intro st c d a b x
  have h1 := st.isLt
  have h2 := toNat_le_one c
  have h3 := d.isLt
  have h4 := a.isLt
  have h5 := b.isLt
  have h6 := toNat_le_one x
  show 0x2200002 + st.val * 268435456 + c.toNat * 134217728 + d.val * 65536 + a.val * 2048 + b.val * 64 + x.toNat * 32 < 2 ^ 32
  omega

theorem vsll : ∀ (st : Fin 16) (c : Bool) (d : Reg) (a : Reg) (b : Reg) (x : Bool), Statement (.vsll st c d a b x) := by
  intro st c d a b x
  have h1 := st.isLt
  have h2 := toNat_le_one c
  have h3 := d.isLt
  have h4 := a.isLt
  have h5 := b.isLt
  have h6 := toNat_le_one x
  show 0x2200003 + st.val * 268435456 + c.toNat * 134217728 + d.val * 65536 + a.val * 2048 + b.val * 64 + x.toNat * 32 < 2 ^ 32
  omega

theorem vsrl : ∀ (st : Fin 16) (c : Bool) (d : Reg) (a : Reg) (b : Reg) (x : Bool), Statement (.vsrl st c d a b x) := by
  intro st c d a b x
  have h1 := st.isLt
  have h2 := toNat_le_one c
  have h3 := d.isLt
  have h4 := a.isLt
  have h5 := b.isLt
  have h6 := toNat_le_one x
  show 0x2200004 + st.val * 268435456 + c.toNat * 134217728 + d.val * 65536 + a.val * 2048 + b.val * 64 + x.toNat * 32 < 2 ^ 32
  omega

theorem vsra : ∀ (st : Fin 16) (c : Bool) (d : Reg) (a : Reg) (b : Reg) (x : Bool), Statement (.vsra st c d a b x) := by
  intro st c d a b x
  have h1 := st.isLt
  have h2 := toNat_le_one c
  have h3 := d.isLt
  have h4 := a.isLt
  have h5 := b.isLt
  have h6 := toNat_le_one x
  show 0x2200005 + st.val * 268435456 + c.toNat * 134217728 + d.val * 65536 + a.val * 2048 + b.val * 64 + x.toNat * 32 < 2 ^ 32
  omega

theorem vmul : ∀ (st : Fin 16) (c : Bool) (d : Reg) (a : Reg) (b : Reg) (x : Bool), Statement (.vmul st c d a b x) := by
  intro st c d a b x
  have h1 := st.isLt
  have h2 := toNat_le_one c
  have h3 := d.isLt
  have h4 := a.isLt
  have h5 := b.isLt
  have h6 := toNat_le_one x
  show 0x2400000 + st.val * 268435456 + c.toNat * 134217728 + d.val * 65536 + a.val * 2048 + b.val * 64 + x.toNat * 32 < 2 ^ 32
  omega

theorem vmulh : ∀ (st : Fin 16) (c : Bool) (d : Reg) (a : Reg) (b : Reg) (x : Bool), Statement (.vmulh st c d a b x) := by
  intro st c d a b x
  have h1 := st.isLt
  have h2 := toNat_le_one c
  have h3 := d.isLt
  have h4 := a.isLt
  have h5 := b.isLt
  have h6 := toNat_le_one x
  show 0x2400001 + st.val * 268435456 + c.toNat * 134217728 + d.val * 65536 + a.val * 2048 + b.val * 64 + x.toNat * 32 < 2 ^ 32
  omega

theorem vmadd : ∀ (st : Fin 16) (c : Bool) (d : Reg) (a : Reg) (b : Reg) (x : Bool), Statement (.vmadd st c d a b x) := by
  intro st c d a b x
  have h1 := st.isLt
  have h2 := toNat_le_one c
  have h3 := d.isLt
  have h4 := a.isLt
  have h5 := b.isLt
  have h6 := toNat_le_one x
  show 0x2400002 + st.val * 268435456 + c.toNat * 134217728 + d.val * 65536 + a.val * 2048 + b.val * 64 + x.toNat * 32 < 2 ^ 32
  omega

theorem vmsub : ∀ (st : Fin 16) (c : Bool) (d : Reg) (a : Reg) (b : Reg) (x : Bool), Statement (.vmsub st c d a b x) := by
  intro st c d a b x
  have h1 := st.isLt
  have h2 := toNat_le_one c
  have h3 := d.isLt
  have h4 := a.isLt
  have h5 := b.isLt
  have h6 := toNat_le_one x
  show 0x2400003 + st.val * 268435456 + c.toNat * 134217728 + d.val * 65536 + a.val * 2048 + b.val * 64 + x.toNat * 32 < 2 ^ 32
  omega

theorem vnmadd : ∀ (st : Fin 16) (c : Bool) (d : Reg) (a : Reg) (b : Reg) (x : Bool), Statement (.vnmadd st c d a b x) := by
  intro st c d a b x
  have h1 := st.isLt
  have h2 := toNat_le_one c
  have h3 := d.isLt
  have h4 := a.isLt
  have h5 := b.isLt
  have h6 := toNat_le_one x
  show 0x2400004 + st.val * 268435456 + c.toNat * 134217728 + d.val * 65536 + a.val * 2048 + b.val * 64 + x.toNat * 32 < 2 ^ 32
  omega

theorem vdiv : ∀ (st : Fin 16) (c : Bool) (d : Reg) (a : Reg) (b : Reg) (x : Bool), Statement (.vdiv st c d a b x) := by
  intro st c d a b x
  have h1 := st.isLt
  have h2 := toNat_le_one c
  have h3 := d.isLt
  have h4 := a.isLt
  have h5 := b.isLt
  have h6 := toNat_le_one x
  show 0x2400005 + st.val * 268435456 + c.toNat * 134217728 + d.val * 65536 + a.val * 2048 + b.val * 64 + x.toNat * 32 < 2 ^ 32
  omega

theorem vwadd : ∀ (st : Fin 16) (c : Bool) (d : Reg) (a : Reg) (b : Reg) (x : Bool), Statement (.vwadd st c d a b x) := by
  intro st c d a b x
  have h1 := st.isLt
  have h2 := toNat_le_one c
  have h3 := d.isLt
  have h4 := a.isLt
  have h5 := b.isLt
  have h6 := toNat_le_one x
  show 0x2400006 + st.val * 268435456 + c.toNat * 134217728 + d.val * 65536 + a.val * 2048 + b.val * 64 + x.toNat * 32 < 2 ^ 32
  omega

theorem vwmul : ∀ (st : Fin 16) (c : Bool) (d : Reg) (a : Reg) (b : Reg) (x : Bool), Statement (.vwmul st c d a b x) := by
  intro st c d a b x
  have h1 := st.isLt
  have h2 := toNat_le_one c
  have h3 := d.isLt
  have h4 := a.isLt
  have h5 := b.isLt
  have h6 := toNat_le_one x
  show 0x2400007 + st.val * 268435456 + c.toNat * 134217728 + d.val * 65536 + a.val * 2048 + b.val * 64 + x.toNat * 32 < 2 ^ 32
  omega

theorem vcmp : ∀ (st : Fin 16) (c : Bool) (d : Reg) (a : Reg) (b : Reg) (x : Bool) (q : Fin 4), Statement (.vcmp st c d a b x q) := by
  intro st c d a b x q
  have h1 := st.isLt
  have h2 := toNat_le_one c
  have h3 := d.isLt
  have h4 := a.isLt
  have h5 := b.isLt
  have h6 := toNat_le_one x
  have h7 := q.isLt
  show 0x2600000 + st.val * 268435456 + c.toNat * 134217728 + d.val * 65536 + a.val * 2048 + b.val * 64 + x.toNat * 32 + q.val < 2 ^ 32
  omega

theorem vsel : ∀ (st : Fin 16) (c : Bool) (d : Reg) (a : Reg) (b : Reg) (x : Bool), Statement (.vsel st c d a b x) := by
  intro st c d a b x
  have h1 := st.isLt
  have h2 := toNat_le_one c
  have h3 := d.isLt
  have h4 := a.isLt
  have h5 := b.isLt
  have h6 := toNat_le_one x
  show 0x2800000 + st.val * 268435456 + c.toNat * 134217728 + d.val * 65536 + a.val * 2048 + b.val * 64 + x.toNat * 32 < 2 ^ 32
  omega

theorem vmv : ∀ (st : Fin 16) (c : Bool) (d : Reg) (a : Reg), Statement (.vmv st c d a) := by
  intro st c d a
  have h1 := st.isLt
  have h2 := toNat_le_one c
  have h3 := d.isLt
  have h4 := a.isLt
  show 0x2800001 + st.val * 268435456 + c.toNat * 134217728 + d.val * 65536 + a.val * 2048 < 2 ^ 32
  omega

theorem vbcast : ∀ (st : Fin 16) (c : Bool) (d : Reg) (a : Reg), Statement (.vbcast st c d a) := by
  intro st c d a
  have h1 := st.isLt
  have h2 := toNat_le_one c
  have h3 := d.isLt
  have h4 := a.isLt
  show 0x2800002 + st.val * 268435456 + c.toNat * 134217728 + d.val * 65536 + a.val * 2048 < 2 ^ 32
  omega

theorem vaddF : ∀ (st : Fin 16) (c : Bool) (d : Reg) (a : Reg) (b : Reg) (x : Bool), Statement (.vaddF st c d a b x) := by
  intro st c d a b x
  have h1 := st.isLt
  have h2 := toNat_le_one c
  have h3 := d.isLt
  have h4 := a.isLt
  have h5 := b.isLt
  have h6 := toNat_le_one x
  show 0x3000000 + st.val * 268435456 + c.toNat * 134217728 + d.val * 65536 + a.val * 2048 + b.val * 64 + x.toNat * 32 < 2 ^ 32
  omega

theorem vsubF : ∀ (st : Fin 16) (c : Bool) (d : Reg) (a : Reg) (b : Reg) (x : Bool), Statement (.vsubF st c d a b x) := by
  intro st c d a b x
  have h1 := st.isLt
  have h2 := toNat_le_one c
  have h3 := d.isLt
  have h4 := a.isLt
  have h5 := b.isLt
  have h6 := toNat_le_one x
  show 0x3000001 + st.val * 268435456 + c.toNat * 134217728 + d.val * 65536 + a.val * 2048 + b.val * 64 + x.toNat * 32 < 2 ^ 32
  omega

theorem vminF : ∀ (st : Fin 16) (c : Bool) (d : Reg) (a : Reg) (b : Reg) (x : Bool), Statement (.vminF st c d a b x) := by
  intro st c d a b x
  have h1 := st.isLt
  have h2 := toNat_le_one c
  have h3 := d.isLt
  have h4 := a.isLt
  have h5 := b.isLt
  have h6 := toNat_le_one x
  show 0x3000002 + st.val * 268435456 + c.toNat * 134217728 + d.val * 65536 + a.val * 2048 + b.val * 64 + x.toNat * 32 < 2 ^ 32
  omega

theorem vmaxF : ∀ (st : Fin 16) (c : Bool) (d : Reg) (a : Reg) (b : Reg) (x : Bool), Statement (.vmaxF st c d a b x) := by
  intro st c d a b x
  have h1 := st.isLt
  have h2 := toNat_le_one c
  have h3 := d.isLt
  have h4 := a.isLt
  have h5 := b.isLt
  have h6 := toNat_le_one x
  show 0x3000003 + st.val * 268435456 + c.toNat * 134217728 + d.val * 65536 + a.val * 2048 + b.val * 64 + x.toNat * 32 < 2 ^ 32
  omega

theorem vabsF : ∀ (st : Fin 16) (c : Bool) (d : Reg) (a : Reg), Statement (.vabsF st c d a) := by
  intro st c d a
  have h1 := st.isLt
  have h2 := toNat_le_one c
  have h3 := d.isLt
  have h4 := a.isLt
  show 0x3000006 + st.val * 268435456 + c.toNat * 134217728 + d.val * 65536 + a.val * 2048 < 2 ^ 32
  omega

theorem vnegF : ∀ (st : Fin 16) (c : Bool) (d : Reg) (a : Reg), Statement (.vnegF st c d a) := by
  intro st c d a
  have h1 := st.isLt
  have h2 := toNat_le_one c
  have h3 := d.isLt
  have h4 := a.isLt
  show 0x3000007 + st.val * 268435456 + c.toNat * 134217728 + d.val * 65536 + a.val * 2048 < 2 ^ 32
  omega

theorem vmulF : ∀ (st : Fin 16) (c : Bool) (d : Reg) (a : Reg) (b : Reg) (x : Bool), Statement (.vmulF st c d a b x) := by
  intro st c d a b x
  have h1 := st.isLt
  have h2 := toNat_le_one c
  have h3 := d.isLt
  have h4 := a.isLt
  have h5 := b.isLt
  have h6 := toNat_le_one x
  show 0x3200000 + st.val * 268435456 + c.toNat * 134217728 + d.val * 65536 + a.val * 2048 + b.val * 64 + x.toNat * 32 < 2 ^ 32
  omega

theorem vmaddF : ∀ (st : Fin 16) (c : Bool) (d : Reg) (a : Reg) (b : Reg) (x : Bool), Statement (.vmaddF st c d a b x) := by
  intro st c d a b x
  have h1 := st.isLt
  have h2 := toNat_le_one c
  have h3 := d.isLt
  have h4 := a.isLt
  have h5 := b.isLt
  have h6 := toNat_le_one x
  show 0x3200002 + st.val * 268435456 + c.toNat * 134217728 + d.val * 65536 + a.val * 2048 + b.val * 64 + x.toNat * 32 < 2 ^ 32
  omega

theorem vmsubF : ∀ (st : Fin 16) (c : Bool) (d : Reg) (a : Reg) (b : Reg) (x : Bool), Statement (.vmsubF st c d a b x) := by
  intro st c d a b x
  have h1 := st.isLt
  have h2 := toNat_le_one c
  have h3 := d.isLt
  have h4 := a.isLt
  have h5 := b.isLt
  have h6 := toNat_le_one x
  show 0x3200003 + st.val * 268435456 + c.toNat * 134217728 + d.val * 65536 + a.val * 2048 + b.val * 64 + x.toNat * 32 < 2 ^ 32
  omega

theorem vnmaddF : ∀ (st : Fin 16) (c : Bool) (d : Reg) (a : Reg) (b : Reg) (x : Bool), Statement (.vnmaddF st c d a b x) := by
  intro st c d a b x
  have h1 := st.isLt
  have h2 := toNat_le_one c
  have h3 := d.isLt
  have h4 := a.isLt
  have h5 := b.isLt
  have h6 := toNat_le_one x
  show 0x3200004 + st.val * 268435456 + c.toNat * 134217728 + d.val * 65536 + a.val * 2048 + b.val * 64 + x.toNat * 32 < 2 ^ 32
  omega

theorem vdivF : ∀ (st : Fin 16) (c : Bool) (d : Reg) (a : Reg) (b : Reg) (x : Bool), Statement (.vdivF st c d a b x) := by
  intro st c d a b x
  have h1 := st.isLt
  have h2 := toNat_le_one c
  have h3 := d.isLt
  have h4 := a.isLt
  have h5 := b.isLt
  have h6 := toNat_le_one x
  show 0x3200005 + st.val * 268435456 + c.toNat * 134217728 + d.val * 65536 + a.val * 2048 + b.val * 64 + x.toNat * 32 < 2 ^ 32
  omega

theorem vwaddF : ∀ (st : Fin 16) (c : Bool) (d : Reg) (a : Reg) (b : Reg) (x : Bool), Statement (.vwaddF st c d a b x) := by
  intro st c d a b x
  have h1 := st.isLt
  have h2 := toNat_le_one c
  have h3 := d.isLt
  have h4 := a.isLt
  have h5 := b.isLt
  have h6 := toNat_le_one x
  show 0x3200006 + st.val * 268435456 + c.toNat * 134217728 + d.val * 65536 + a.val * 2048 + b.val * 64 + x.toNat * 32 < 2 ^ 32
  omega

theorem vwmulF : ∀ (st : Fin 16) (c : Bool) (d : Reg) (a : Reg) (b : Reg) (x : Bool), Statement (.vwmulF st c d a b x) := by
  intro st c d a b x
  have h1 := st.isLt
  have h2 := toNat_le_one c
  have h3 := d.isLt
  have h4 := a.isLt
  have h5 := b.isLt
  have h6 := toNat_le_one x
  show 0x3200007 + st.val * 268435456 + c.toNat * 134217728 + d.val * 65536 + a.val * 2048 + b.val * 64 + x.toNat * 32 < 2 ^ 32
  omega

theorem vsqrt : ∀ (st : Fin 16) (c : Bool) (d : Reg) (a : Reg), Statement (.vsqrt st c d a) := by
  intro st c d a
  have h1 := st.isLt
  have h2 := toNat_le_one c
  have h3 := d.isLt
  have h4 := a.isLt
  show 0x3400000 + st.val * 268435456 + c.toNat * 134217728 + d.val * 65536 + a.val * 2048 < 2 ^ 32
  omega

theorem vrcpa : ∀ (st : Fin 16) (c : Bool) (d : Reg) (a : Reg), Statement (.vrcpa st c d a) := by
  intro st c d a
  have h1 := st.isLt
  have h2 := toNat_le_one c
  have h3 := d.isLt
  have h4 := a.isLt
  show 0x3400001 + st.val * 268435456 + c.toNat * 134217728 + d.val * 65536 + a.val * 2048 < 2 ^ 32
  omega

theorem vrsqa : ∀ (st : Fin 16) (c : Bool) (d : Reg) (a : Reg), Statement (.vrsqa st c d a) := by
  intro st c d a
  have h1 := st.isLt
  have h2 := toNat_le_one c
  have h3 := d.isLt
  have h4 := a.isLt
  show 0x3400002 + st.val * 268435456 + c.toNat * 134217728 + d.val * 65536 + a.val * 2048 < 2 ^ 32
  omega

theorem vrcps : ∀ (st : Fin 16) (c : Bool) (d : Reg) (a : Reg) (b : Reg), Statement (.vrcps st c d a b) := by
  intro st c d a b
  have h1 := st.isLt
  have h2 := toNat_le_one c
  have h3 := d.isLt
  have h4 := a.isLt
  have h5 := b.isLt
  show 0x3400003 + st.val * 268435456 + c.toNat * 134217728 + d.val * 65536 + a.val * 2048 + b.val * 64 < 2 ^ 32
  omega

theorem vrsqs : ∀ (st : Fin 16) (c : Bool) (d : Reg) (a : Reg) (b : Reg), Statement (.vrsqs st c d a b) := by
  intro st c d a b
  have h1 := st.isLt
  have h2 := toNat_le_one c
  have h3 := d.isLt
  have h4 := a.isLt
  have h5 := b.isLt
  show 0x3400004 + st.val * 268435456 + c.toNat * 134217728 + d.val * 65536 + a.val * 2048 + b.val * 64 < 2 ^ 32
  omega

theorem vclass : ∀ (st : Fin 16) (c : Bool) (d : Reg) (a : Reg), Statement (.vclass st c d a) := by
  intro st c d a
  have h1 := st.isLt
  have h2 := toNat_le_one c
  have h3 := d.isLt
  have h4 := a.isLt
  show 0x3400005 + st.val * 268435456 + c.toNat * 134217728 + d.val * 65536 + a.val * 2048 < 2 ^ 32
  omega

theorem vcmpF : ∀ (st : Fin 16) (c : Bool) (d : Reg) (a : Reg) (b : Reg) (x : Bool) (q : Fin 4), Statement (.vcmpF st c d a b x q) := by
  intro st c d a b x q
  have h1 := st.isLt
  have h2 := toNat_le_one c
  have h3 := d.isLt
  have h4 := a.isLt
  have h5 := b.isLt
  have h6 := toNat_le_one x
  have h7 := q.isLt
  show 0x3600000 + st.val * 268435456 + c.toNat * 134217728 + d.val * 65536 + a.val * 2048 + b.val * 64 + x.toNat * 32 + q.val < 2 ^ 32
  omega

theorem vcvt : ∀ (st : Fin 16) (c : Bool) (d : Reg) (a : Reg) (b : Reg) (m : Fin 8), Statement (.vcvt st c d a b m) := by
  intro st c d a b m
  have h1 := st.isLt
  have h2 := toNat_le_one c
  have h3 := d.isLt
  have h4 := a.isLt
  have h5 := b.isLt
  have h6 := m.isLt
  show 0x3800000 + st.val * 268435456 + c.toNat * 134217728 + d.val * 65536 + a.val * 2048 + b.val * 64 + m.val * 8 < 2 ^ 32
  omega

theorem vldsc : ∀ (st : Fin 16) (c : Bool) (d : Reg) (a : Reg) (b : Reg), Statement (.vldsc st c d a b) := by
  intro st c d a b
  have h1 := st.isLt
  have h2 := toNat_le_one c
  have h3 := d.isLt
  have h4 := a.isLt
  have h5 := b.isLt
  show 0x3a00000 + st.val * 268435456 + c.toNat * 134217728 + d.val * 65536 + a.val * 2048 + b.val * 64 < 2 ^ 32
  omega

theorem vmvscToScale : ∀ (st : Fin 16) (c : Bool) (d : Reg) (a : Reg), Statement (.vmvscToScale st c d a) := by
  intro st c d a
  have h1 := st.isLt
  have h2 := toNat_le_one c
  have h3 := d.isLt
  have h4 := a.isLt
  show 0x3a00001 + st.val * 268435456 + c.toNat * 134217728 + d.val * 65536 + a.val * 2048 < 2 ^ 32
  omega

theorem vmvscFromScale : ∀ (st : Fin 16) (c : Bool) (d : Reg) (a : Reg), Statement (.vmvscFromScale st c d a) := by
  intro st c d a
  have h1 := st.isLt
  have h2 := toNat_le_one c
  have h3 := d.isLt
  have h4 := a.isLt
  show 0x3a00002 + st.val * 268435456 + c.toNat * 134217728 + d.val * 65536 + a.val * 2048 < 2 ^ 32
  omega

theorem vapsc : ∀ (st : Fin 16) (c : Bool) (d : Reg) (a : Reg) (b : Reg), Statement (.vapsc st c d a b) := by
  intro st c d a b
  have h1 := st.isLt
  have h2 := toNat_le_one c
  have h3 := d.isLt
  have h4 := a.isLt
  have h5 := b.isLt
  show 0x3a00003 + st.val * 268435456 + c.toNat * 134217728 + d.val * 65536 + a.val * 2048 + b.val * 64 < 2 ^ 32
  omega

theorem mand : ∀ (st : Fin 16) (c : Bool) (d : Reg) (a : Reg) (b : Reg), Statement (.mand st c d a b) := by
  intro st c d a b
  have h1 := st.isLt
  have h2 := toNat_le_one c
  have h3 := d.isLt
  have h4 := a.isLt
  have h5 := b.isLt
  show 0x3c00000 + st.val * 268435456 + c.toNat * 134217728 + d.val * 65536 + a.val * 2048 + b.val * 64 < 2 ^ 32
  omega

theorem mor : ∀ (st : Fin 16) (c : Bool) (d : Reg) (a : Reg) (b : Reg), Statement (.mor st c d a b) := by
  intro st c d a b
  have h1 := st.isLt
  have h2 := toNat_le_one c
  have h3 := d.isLt
  have h4 := a.isLt
  have h5 := b.isLt
  show 0x3c00001 + st.val * 268435456 + c.toNat * 134217728 + d.val * 65536 + a.val * 2048 + b.val * 64 < 2 ^ 32
  omega

theorem mxor : ∀ (st : Fin 16) (c : Bool) (d : Reg) (a : Reg) (b : Reg), Statement (.mxor st c d a b) := by
  intro st c d a b
  have h1 := st.isLt
  have h2 := toNat_le_one c
  have h3 := d.isLt
  have h4 := a.isLt
  have h5 := b.isLt
  show 0x3c00002 + st.val * 268435456 + c.toNat * 134217728 + d.val * 65536 + a.val * 2048 + b.val * 64 < 2 ^ 32
  omega

theorem mnot : ∀ (st : Fin 16) (c : Bool) (d : Reg) (a : Reg), Statement (.mnot st c d a) := by
  intro st c d a
  have h1 := st.isLt
  have h2 := toNat_le_one c
  have h3 := d.isLt
  have h4 := a.isLt
  show 0x3c00003 + st.val * 268435456 + c.toNat * 134217728 + d.val * 65536 + a.val * 2048 < 2 ^ 32
  omega

theorem msbf : ∀ (st : Fin 16) (c : Bool) (d : Reg) (a : Reg), Statement (.msbf st c d a) := by
  intro st c d a
  have h1 := st.isLt
  have h2 := toNat_le_one c
  have h3 := d.isLt
  have h4 := a.isLt
  show 0x3c00004 + st.val * 268435456 + c.toNat * 134217728 + d.val * 65536 + a.val * 2048 < 2 ^ 32
  omega

theorem mset : ∀ (st : Fin 16) (c : Bool) (d : Reg) (a : Reg), Statement (.mset st c d a) := by
  intro st c d a
  have h1 := st.isLt
  have h2 := toNat_le_one c
  have h3 := d.isLt
  have h4 := a.isLt
  show 0x3c00005 + st.val * 268435456 + c.toNat * 134217728 + d.val * 65536 + a.val * 2048 < 2 ^ 32
  omega

theorem mpopc : ∀ (st : Fin 16) (c : Bool) (d : Reg) (a : Reg), Statement (.mpopc st c d a) := by
  intro st c d a
  have h1 := st.isLt
  have h2 := toNat_le_one c
  have h3 := d.isLt
  have h4 := a.isLt
  show 0x3e00000 + st.val * 268435456 + c.toNat * 134217728 + d.val * 65536 + a.val * 2048 < 2 ^ 32
  omega

theorem mfirst : ∀ (st : Fin 16) (c : Bool) (d : Reg) (a : Reg), Statement (.mfirst st c d a) := by
  intro st c d a
  have h1 := st.isLt
  have h2 := toNat_le_one c
  have h3 := d.isLt
  have h4 := a.isLt
  show 0x3e00001 + st.val * 268435456 + c.toNat * 134217728 + d.val * 65536 + a.val * 2048 < 2 ^ 32
  omega

theorem viota : ∀ (st : Fin 16) (c : Bool) (d : Reg) (a : Reg), Statement (.viota st c d a) := by
  intro st c d a
  have h1 := st.isLt
  have h2 := toNat_le_one c
  have h3 := d.isLt
  have h4 := a.isLt
  show 0x3e00002 + st.val * 268435456 + c.toNat * 134217728 + d.val * 65536 + a.val * 2048 < 2 ^ 32
  omega

theorem vld : ∀ (st : Fin 16) (c : Bool) (d : Reg) (a : Reg) (o : Bool), Statement (.vld st c d a o) := by
  intro st c d a o
  have h1 := st.isLt
  have h2 := toNat_le_one c
  have h3 := d.isLt
  have h4 := a.isLt
  have h5 := toNat_le_one o
  show 0x4000000 + st.val * 268435456 + c.toNat * 134217728 + d.val * 65536 + a.val * 2048 + o.toNat * 32 < 2 ^ 32
  omega

theorem vlds : ∀ (st : Fin 16) (c : Bool) (d : Reg) (a : Reg) (o : Bool), Statement (.vlds st c d a o) := by
  intro st c d a o
  have h1 := st.isLt
  have h2 := toNat_le_one c
  have h3 := d.isLt
  have h4 := a.isLt
  have h5 := toNat_le_one o
  show 0x4000001 + st.val * 268435456 + c.toNat * 134217728 + d.val * 65536 + a.val * 2048 + o.toNat * 32 < 2 ^ 32
  omega

theorem vldx : ∀ (st : Fin 16) (c : Bool) (d : Reg) (a : Reg) (b : Reg) (o : Bool) (k : Bool), Statement (.vldx st c d a b o k) := by
  intro st c d a b o k
  have h1 := st.isLt
  have h2 := toNat_le_one c
  have h3 := d.isLt
  have h4 := a.isLt
  have h5 := b.isLt
  have h6 := toNat_le_one o
  have h7 := toNat_le_one k
  show 0x4000002 + st.val * 268435456 + c.toNat * 134217728 + d.val * 65536 + a.val * 2048 + b.val * 64 + o.toNat * 32 + k.toNat * 8 < 2 ^ 32
  omega

theorem vldt : ∀ (st : Fin 16) (c : Bool) (d : Reg) (a : Reg) (b : Reg) (o : Bool), Statement (.vldt st c d a b o) := by
  intro st c d a b o
  have h1 := st.isLt
  have h2 := toNat_le_one c
  have h3 := d.isLt
  have h4 := a.isLt
  have h5 := b.isLt
  have h6 := toNat_le_one o
  show 0x4000003 + st.val * 268435456 + c.toNat * 134217728 + d.val * 65536 + a.val * 2048 + b.val * 64 + o.toNat * 32 < 2 ^ 32
  omega

theorem vpf : ∀ (st : Fin 16) (c : Bool) (a : Reg) (o : Bool), Statement (.vpf st c a o) := by
  intro st c a o
  have h1 := st.isLt
  have h2 := toNat_le_one c
  have h3 := a.isLt
  have h4 := toNat_le_one o
  show 0x4000004 + st.val * 268435456 + c.toNat * 134217728 + a.val * 2048 + o.toNat * 32 < 2 ^ 32
  omega

theorem vst : ∀ (st : Fin 16) (c : Bool) (d : Reg) (a : Reg) (o : Bool) (n : Bool), Statement (.vst st c d a o n) := by
  intro st c d a o n
  have h1 := st.isLt
  have h2 := toNat_le_one c
  have h3 := d.isLt
  have h4 := a.isLt
  have h5 := toNat_le_one o
  have h6 := toNat_le_one n
  show 0x4200000 + st.val * 268435456 + c.toNat * 134217728 + d.val * 65536 + a.val * 2048 + o.toNat * 32 + n.toNat * 16 < 2 ^ 32
  omega

theorem vsts : ∀ (st : Fin 16) (c : Bool) (d : Reg) (a : Reg) (o : Bool) (n : Bool), Statement (.vsts st c d a o n) := by
  intro st c d a o n
  have h1 := st.isLt
  have h2 := toNat_le_one c
  have h3 := d.isLt
  have h4 := a.isLt
  have h5 := toNat_le_one o
  have h6 := toNat_le_one n
  show 0x4200001 + st.val * 268435456 + c.toNat * 134217728 + d.val * 65536 + a.val * 2048 + o.toNat * 32 + n.toNat * 16 < 2 ^ 32
  omega

theorem vstx : ∀ (st : Fin 16) (c : Bool) (d : Reg) (a : Reg) (b : Reg) (o : Bool) (n : Bool) (k : Bool), Statement (.vstx st c d a b o n k) := by
  intro st c d a b o n k
  have h1 := st.isLt
  have h2 := toNat_le_one c
  have h3 := d.isLt
  have h4 := a.isLt
  have h5 := b.isLt
  have h6 := toNat_le_one o
  have h7 := toNat_le_one n
  have h8 := toNat_le_one k
  show 0x4200002 + st.val * 268435456 + c.toNat * 134217728 + d.val * 65536 + a.val * 2048 + b.val * 64 + o.toNat * 32 + n.toNat * 16 + k.toNat * 8 < 2 ^ 32
  omega

theorem vstxu : ∀ (st : Fin 16) (c : Bool) (d : Reg) (a : Reg) (b : Reg) (o : Bool) (n : Bool) (k : Bool), Statement (.vstxu st c d a b o n k) := by
  intro st c d a b o n k
  have h1 := st.isLt
  have h2 := toNat_le_one c
  have h3 := d.isLt
  have h4 := a.isLt
  have h5 := b.isLt
  have h6 := toNat_le_one o
  have h7 := toNat_le_one n
  have h8 := toNat_le_one k
  show 0x4200003 + st.val * 268435456 + c.toNat * 134217728 + d.val * 65536 + a.val * 2048 + b.val * 64 + o.toNat * 32 + n.toNat * 16 + k.toNat * 8 < 2 ^ 32
  omega

theorem vstt : ∀ (st : Fin 16) (c : Bool) (d : Reg) (a : Reg) (b : Reg) (o : Bool) (n : Bool), Statement (.vstt st c d a b o n) := by
  intro st c d a b o n
  have h1 := st.isLt
  have h2 := toNat_le_one c
  have h3 := d.isLt
  have h4 := a.isLt
  have h5 := b.isLt
  have h6 := toNat_le_one o
  have h7 := toNat_le_one n
  show 0x4200004 + st.val * 268435456 + c.toNat * 134217728 + d.val * 65536 + a.val * 2048 + b.val * 64 + o.toNat * 32 + n.toNat * 16 < 2 ^ 32
  omega

theorem vlseg : ∀ (st : Fin 16) (c : Bool) (d : Reg) (a : Reg) (b : Reg) (o : Bool) (n : Fin 8), Statement (.vlseg st c d a b o n) := by
  intro st c d a b o n
  have h1 := st.isLt
  have h2 := toNat_le_one c
  have h3 := d.isLt
  have h4 := a.isLt
  have h5 := b.isLt
  have h6 := toNat_le_one o
  have h7 := n.isLt
  show 0x4400000 + st.val * 268435456 + c.toNat * 134217728 + d.val * 65536 + a.val * 2048 + b.val * 64 + o.toNat * 32 + n.val < 2 ^ 32
  omega

theorem vsseg : ∀ (st : Fin 16) (c : Bool) (d : Reg) (a : Reg) (b : Reg) (o : Bool) (t : Bool) (n : Fin 8), Statement (.vsseg st c d a b o t n) := by
  intro st c d a b o t n
  have h1 := st.isLt
  have h2 := toNat_le_one c
  have h3 := d.isLt
  have h4 := a.isLt
  have h5 := b.isLt
  have h6 := toNat_le_one o
  have h7 := toNat_le_one t
  have h8 := n.isLt
  show 0x4400008 + st.val * 268435456 + c.toNat * 134217728 + d.val * 65536 + a.val * 2048 + b.val * 64 + o.toNat * 32 + t.toNat * 16 + n.val < 2 ^ 32
  omega

theorem vbind : ∀ (st : Fin 16) (c : Bool) (d : Reg) (a : Reg), Statement (.vbind st c d a) := by
  intro st c d a
  have h1 := st.isLt
  have h2 := toNat_le_one c
  have h3 := d.isLt
  have h4 := a.isLt
  show 0x4600000 + st.val * 268435456 + c.toNat * 134217728 + d.val * 65536 + a.val * 2048 < 2 ^ 32
  omega

theorem vunbind : ∀ (st : Fin 16) (c : Bool) (d : Reg), Statement (.vunbind st c d) := by
  intro st c d
  have h1 := st.isLt
  have h2 := toNat_le_one c
  have h3 := d.isLt
  show 0x4600001 + st.val * 268435456 + c.toNat * 134217728 + d.val * 65536 < 2 ^ 32
  omega

theorem vperm : ∀ (st : Fin 16) (c : Bool) (d : Reg) (a : Reg) (b : Reg), Statement (.vperm st c d a b) := by
  intro st c d a b
  have h1 := st.isLt
  have h2 := toNat_le_one c
  have h3 := d.isLt
  have h4 := a.isLt
  have h5 := b.isLt
  show 0x4c00000 + st.val * 268435456 + c.toNat * 134217728 + d.val * 65536 + a.val * 2048 + b.val * 64 < 2 ^ 32
  omega

theorem vslu : ∀ (st : Fin 16) (c : Bool) (d : Reg) (a : Reg) (b : Reg), Statement (.vslu st c d a b) := by
  intro st c d a b
  have h1 := st.isLt
  have h2 := toNat_le_one c
  have h3 := d.isLt
  have h4 := a.isLt
  have h5 := b.isLt
  show 0x4c00001 + st.val * 268435456 + c.toNat * 134217728 + d.val * 65536 + a.val * 2048 + b.val * 64 < 2 ^ 32
  omega

theorem vsld : ∀ (st : Fin 16) (c : Bool) (d : Reg) (a : Reg) (b : Reg), Statement (.vsld st c d a b) := by
  intro st c d a b
  have h1 := st.isLt
  have h2 := toNat_le_one c
  have h3 := d.isLt
  have h4 := a.isLt
  have h5 := b.isLt
  show 0x4c00002 + st.val * 268435456 + c.toNat * 134217728 + d.val * 65536 + a.val * 2048 + b.val * 64 < 2 ^ 32
  omega

theorem vcompress : ∀ (st : Fin 16) (c : Bool) (d : Reg) (a : Reg), Statement (.vcompress st c d a) := by
  intro st c d a
  have h1 := st.isLt
  have h2 := toNat_le_one c
  have h3 := d.isLt
  have h4 := a.isLt
  show 0x4c00003 + st.val * 268435456 + c.toNat * 134217728 + d.val * 65536 + a.val * 2048 < 2 ^ 32
  omega

theorem vexpand : ∀ (st : Fin 16) (c : Bool) (d : Reg) (a : Reg), Statement (.vexpand st c d a) := by
  intro st c d a
  have h1 := st.isLt
  have h2 := toNat_le_one c
  have h3 := d.isLt
  have h4 := a.isLt
  show 0x4c00004 + st.val * 268435456 + c.toNat * 134217728 + d.val * 65536 + a.val * 2048 < 2 ^ 32
  omega

theorem vred : ∀ (st : Fin 16) (c : Bool) (d : Reg) (a : Reg) (b : Reg) (f : Bool) (p : Fin 8), Statement (.vred st c d a b f p) := by
  intro st c d a b f p
  have h1 := st.isLt
  have h2 := toNat_le_one c
  have h3 := d.isLt
  have h4 := a.isLt
  have h5 := b.isLt
  have h6 := toNat_le_one f
  have h7 := p.isLt
  show 0x4e00000 + st.val * 268435456 + c.toNat * 134217728 + d.val * 65536 + a.val * 2048 + b.val * 64 + f.toNat * 8 + p.val < 2 ^ 32
  omega

theorem vscan : ∀ (st : Fin 16) (c : Bool) (d : Reg) (a : Reg) (b : Reg) (f : Bool) (p : Fin 8), Statement (.vscan st c d a b f p) := by
  intro st c d a b f p
  have h1 := st.isLt
  have h2 := toNat_le_one c
  have h3 := d.isLt
  have h4 := a.isLt
  have h5 := b.isLt
  have h6 := toNat_le_one f
  have h7 := p.isLt
  show 0x4e00010 + st.val * 268435456 + c.toNat * 134217728 + d.val * 65536 + a.val * 2048 + b.val * 64 + f.toNat * 8 + p.val < 2 ^ 32
  omega

theorem vfetch : ∀ (st : Fin 16) (c : Bool) (a : Reg), Statement (.vfetch st c a) := by
  intro st c a
  have h1 := st.isLt
  have h2 := toNat_le_one c
  have h3 := a.isLt
  show 0x5000000 + st.val * 268435456 + c.toNat * 134217728 + a.val * 2048 < 2 ^ 32
  omega

theorem vpbr : ∀ (st : Fin 16) (c : Bool) (a : Reg), Statement (.vpbr st c a) := by
  intro st c a
  have h1 := st.isLt
  have h2 := toNat_le_one c
  have h3 := a.isLt
  show 0x5000001 + st.val * 268435456 + c.toNat * 134217728 + a.val * 2048 < 2 ^ 32
  omega

theorem vpend : ∀ (st : Fin 16) (c : Bool), Statement (.vpend st c) := by
  intro st c
  have h1 := st.isLt
  have h2 := toNat_le_one c
  show 0x5000002 + st.val * 268435456 + c.toNat * 134217728 < 2 ^ 32
  omega

theorem vpsend : ∀ (st : Fin 16) (c : Bool) (a : Reg), Statement (.vpsend st c a) := by
  intro st c a
  have h1 := st.isLt
  have h2 := toNat_le_one c
  have h3 := a.isLt
  show 0x5000003 + st.val * 268435456 + c.toNat * 134217728 + a.val * 2048 < 2 ^ 32
  omega

theorem vprecv : ∀ (st : Fin 16) (c : Bool) (d : Reg), Statement (.vprecv st c d) := by
  intro st c d
  have h1 := st.isLt
  have h2 := toNat_le_one c
  have h3 := d.isLt
  show 0x5000004 + st.val * 268435456 + c.toNat * 134217728 + d.val * 65536 < 2 ^ 32
  omega

theorem vconf : ∀ (st : Fin 16) (c : Bool) (d : Reg) (a : Reg), Statement (.vconf st c d a) := by
  intro st c d a
  have h1 := st.isLt
  have h2 := toNat_le_one c
  have h3 := d.isLt
  have h4 := a.isLt
  show 0x5400000 + st.val * 268435456 + c.toNat * 134217728 + d.val * 65536 + a.val * 2048 < 2 ^ 32
  omega

theorem vcomb : ∀ (st : Fin 16) (c : Bool) (d : Reg) (a : Reg) (b : Reg), Statement (.vcomb st c d a b) := by
  intro st c d a b
  have h1 := st.isLt
  have h2 := toNat_le_one c
  have h3 := d.isLt
  have h4 := a.isLt
  have h5 := b.isLt
  show 0x5400001 + st.val * 268435456 + c.toNat * 134217728 + d.val * 65536 + a.val * 2048 + b.val * 64 < 2 ^ 32
  omega

theorem visect : ∀ (st : Fin 16) (c : Bool) (d : Reg) (a : Reg) (b : Reg), Statement (.visect st c d a b) := by
  intro st c d a b
  have h1 := st.isLt
  have h2 := toNat_le_one c
  have h3 := d.isLt
  have h4 := a.isLt
  have h5 := b.isLt
  show 0x5400002 + st.val * 268435456 + c.toNat * 134217728 + d.val * 65536 + a.val * 2048 + b.val * 64 < 2 ^ 32
  omega

theorem cins : ∀ (st : Fin 16) (c : Bool) (d : Reg) (a : Reg), Statement (.cins st c d a) := by
  intro st c d a
  have h1 := st.isLt
  have h2 := toNat_le_one c
  have h3 := d.isLt
  have h4 := a.isLt
  show 0x5600000 + st.val * 268435456 + c.toNat * 134217728 + d.val * 65536 + a.val * 2048 < 2 ^ 32
  omega

theorem clook : ∀ (st : Fin 16) (c : Bool) (d : Reg) (a : Reg) (b : Reg), Statement (.clook st c d a b) := by
  intro st c d a b
  have h1 := st.isLt
  have h2 := toNat_le_one c
  have h3 := d.isLt
  have h4 := a.isLt
  have h5 := b.isLt
  show 0x5600001 + st.val * 268435456 + c.toNat * 134217728 + d.val * 65536 + a.val * 2048 + b.val * 64 < 2 ^ 32
  omega

theorem cacc : ∀ (st : Fin 16) (c : Bool) (a : Reg) (b : Reg), Statement (.cacc st c a b) := by
  intro st c a b
  have h1 := st.isLt
  have h2 := toNat_le_one c
  have h3 := a.isLt
  have h4 := b.isLt
  show 0x5600002 + st.val * 268435456 + c.toNat * 134217728 + a.val * 2048 + b.val * 64 < 2 ^ 32
  omega

theorem cdrain : ∀ (st : Fin 16) (c : Bool) (d : Reg), Statement (.cdrain st c d) := by
  intro st c d
  have h1 := st.isLt
  have h2 := toNat_le_one c
  have h3 := d.isLt
  show 0x5600003 + st.val * 268435456 + c.toNat * 134217728 + d.val * 65536 < 2 ^ 32
  omega

theorem cclr : ∀ (st : Fin 16) (c : Bool), Statement (.cclr st c) := by
  intro st c
  have h1 := st.isLt
  have h2 := toNat_le_one c
  show 0x5600004 + st.val * 268435456 + c.toNat * 134217728 < 2 ^ 32
  omega

theorem vgathl : ∀ (st : Fin 16) (c : Bool) (d : Reg) (a : Reg) (b : Reg) (o : Bool), Statement (.vgathl st c d a b o) := by
  intro st c d a b o
  have h1 := st.isLt
  have h2 := toNat_le_one c
  have h3 := d.isLt
  have h4 := a.isLt
  have h5 := b.isLt
  have h6 := toNat_le_one o
  show 0x5800000 + st.val * 268435456 + c.toNat * 134217728 + d.val * 65536 + a.val * 2048 + b.val * 64 + o.toNat * 32 < 2 ^ 32
  omega

theorem vscatc : ∀ (st : Fin 16) (c : Bool) (d : Reg) (a : Reg) (b : Reg) (o : Bool) (m : Fin 8), Statement (.vscatc st c d a b o m) := by
  intro st c d a b o m
  have h1 := st.isLt
  have h2 := toNat_le_one c
  have h3 := d.isLt
  have h4 := a.isLt
  have h5 := b.isLt
  have h6 := toNat_le_one o
  have h7 := m.isLt
  show 0x5800001 + st.val * 268435456 + c.toNat * 134217728 + d.val * 65536 + a.val * 2048 + b.val * 64 + o.toNat * 32 + m.val * 4 < 2 ^ 32
  omega

theorem fibdef : ∀ (st : Fin 16) (c : Bool) (a : Reg), Statement (.fibdef st c a) := by
  intro st c a
  have h1 := st.isLt
  have h2 := toNat_le_one c
  have h3 := a.isLt
  show 0x5800002 + st.val * 268435456 + c.toNat * 134217728 + a.val * 2048 < 2 ^ 32
  omega

theorem fibend : ∀ (st : Fin 16) (c : Bool), Statement (.fibend st c) := by
  intro st c
  have h1 := st.isLt
  have h2 := toNat_le_one c
  show 0x5800003 + st.val * 268435456 + c.toNat * 134217728 < 2 ^ 32
  omega

theorem fibrePrefetch : ∀ (slot : Nat), Statement (.fibrePrefetch slot) := by
  intro slot
  show 0 < 2 ^ 32
  decide

theorem ten : ∀ (st : Fin 16), Statement (.ten st) := by
  intro st
  have h1 := st.isLt
  show 0x5a00000 + st.val * 268435456 < 2 ^ 32
  omega

theorem tdis : ∀ (st : Fin 16), Statement (.tdis st) := by
  intro st
  have h1 := st.isLt
  show 0x5a00001 + st.val * 268435456 < 2 ^ 32
  omega

theorem tzero : ∀ (st : Fin 16) (p : Fin 4) (t : Fin 8), Statement (.tzero st p t) := by
  intro st p t
  have h1 := st.isLt
  have h2 := p.isLt
  have h3 := t.isLt
  show 0x5a00002 + st.val * 268435456 + p.val * 524288 + t.val * 65536 < 2 ^ 32
  omega

theorem tmop : ∀ (st : Fin 16) (p : Fin 4) (t : Fin 8) (a : Reg) (b : Reg), Statement (.tmop st p t a b) := by
  intro st p t a b
  have h1 := st.isLt
  have h2 := p.isLt
  have h3 := t.isLt
  have h4 := a.isLt
  have h5 := b.isLt
  show 0x5c00000 + st.val * 268435456 + p.val * 524288 + t.val * 65536 + a.val * 2048 + b.val * 64 < 2 ^ 32
  omega

theorem tmma : ∀ (st : Fin 16) (p : Fin 4) (t : Fin 8) (a : Reg) (b : Reg) (l : Bool) (o : Bool), Statement (.tmma st p t a b l o) := by
  intro st p t a b l o
  have h1 := st.isLt
  have h2 := p.isLt
  have h3 := t.isLt
  have h4 := a.isLt
  have h5 := b.isLt
  have h6 := toNat_le_one l
  have h7 := toNat_le_one o
  show 0x5c00001 + st.val * 268435456 + p.val * 524288 + t.val * 65536 + a.val * 2048 + b.val * 64 + l.toNat * 32 + o.toNat * 16 < 2 ^ 32
  omega

theorem tmms : ∀ (st : Fin 16) (p : Fin 4) (t : Fin 8) (a : Reg) (b : Reg) (l : Bool) (o : Bool), Statement (.tmms st p t a b l o) := by
  intro st p t a b l o
  have h1 := st.isLt
  have h2 := p.isLt
  have h3 := t.isLt
  have h4 := a.isLt
  have h5 := b.isLt
  have h6 := toNat_le_one l
  have h7 := toNat_le_one o
  show 0x5e00000 + st.val * 268435456 + p.val * 524288 + t.val * 65536 + a.val * 2048 + b.val * 64 + l.toNat * 32 + o.toNat * 16 < 2 ^ 32
  omega

theorem tmf64 : ∀ (st : Fin 16) (p : Fin 4) (t : Fin 8) (a : Reg) (b : Reg) (l : Bool) (o : Bool), Statement (.tmf64 st p t a b l o) := by
  intro st p t a b l o
  have h1 := st.isLt
  have h2 := p.isLt
  have h3 := t.isLt
  have h4 := a.isLt
  have h5 := b.isLt
  have h6 := toNat_le_one l
  have h7 := toNat_le_one o
  show 0x5e00001 + st.val * 268435456 + p.val * 524288 + t.val * 65536 + a.val * 2048 + b.val * 64 + l.toNat * 32 + o.toNat * 16 < 2 ^ 32
  omega

theorem tld : ∀ (st : Fin 16) (t : Fin 8) (a : Reg) (o : Bool), Statement (.tld st t a o) := by
  intro st t a o
  have h1 := st.isLt
  have h2 := t.isLt
  have h3 := a.isLt
  have h4 := toNat_le_one o
  show 0x6000000 + st.val * 268435456 + t.val * 65536 + a.val * 2048 + o.toNat * 32 < 2 ^ 32
  omega

theorem tst : ∀ (st : Fin 16) (t : Fin 8) (a : Reg) (o : Bool), Statement (.tst st t a o) := by
  intro st t a o
  have h1 := st.isLt
  have h2 := t.isLt
  have h3 := a.isLt
  have h4 := toNat_le_one o
  show 0x6000001 + st.val * 268435456 + t.val * 65536 + a.val * 2048 + o.toNat * 32 < 2 ^ 32
  omega

theorem trowmv : ∀ (st : Fin 16) (t : Fin 8) (a : Reg) (b : Reg) (k : Bool), Statement (.trowmv st t a b k) := by
  intro st t a b k
  have h1 := st.isLt
  have h2 := t.isLt
  have h3 := a.isLt
  have h4 := b.isLt
  have h5 := toNat_le_one k
  show 0x6200000 + st.val * 268435456 + t.val * 65536 + a.val * 2048 + b.val * 64 + k.toNat * 16 < 2 ^ 32
  omega

theorem tcolmv : ∀ (st : Fin 16) (t : Fin 8) (a : Reg) (b : Reg) (k : Bool), Statement (.tcolmv st t a b k) := by
  intro st t a b k
  have h1 := st.isLt
  have h2 := t.isLt
  have h3 := a.isLt
  have h4 := b.isLt
  have h5 := toNat_le_one k
  show 0x6200001 + st.val * 268435456 + t.val * 65536 + a.val * 2048 + b.val * 64 + k.toNat * 16 < 2 ^ 32
  omega

theorem tvmv : ∀ (st : Fin 16) (t : Fin 8) (a : Reg) (k : Bool), Statement (.tvmv st t a k) := by
  intro st t a k
  have h1 := st.isLt
  have h2 := t.isLt
  have h3 := a.isLt
  have h4 := toNat_le_one k
  show 0x6200002 + st.val * 268435456 + t.val * 65536 + a.val * 2048 + k.toNat * 16 < 2 ^ 32
  omega

theorem wbld : ∀ (st : Fin 16) (a : Reg) (b : Reg), Statement (.wbld st a b) := by
  intro st a b
  have h1 := st.isLt
  have h2 := a.isLt
  have h3 := b.isLt
  show 0x6400000 + st.val * 268435456 + a.val * 2048 + b.val * 64 < 2 ^ 32
  omega

theorem wbfmt : ∀ (st : Fin 16) (a : Reg), Statement (.wbfmt st a) := by
  intro st a
  have h1 := st.isLt
  have h2 := a.isLt
  show 0x6400001 + st.val * 268435456 + a.val * 2048 < 2 ^ 32
  omega

theorem tchk : ∀ (st : Fin 16) (a : Reg), Statement (.tchk st a) := by
  intro st a
  have h1 := st.isLt
  have h2 := a.isLt
  show 0x6400002 + st.val * 268435456 + a.val * 2048 < 2 ^ 32
  omega

theorem tchkrd : ∀ (st : Fin 16) (a : Reg), Statement (.tchkrd st a) := by
  intro st a
  have h1 := st.isLt
  have h2 := a.isLt
  show 0x6400003 + st.val * 268435456 + a.val * 2048 < 2 ^ 32
  omega

theorem tileOpComplete : ∀ (core : Nat), Statement (.tileOpComplete core) := by
  intro core
  show 0 < 2 ^ 32
  decide

theorem matrixCommandAccept : ∀ (core : Nat), Statement (.matrixCommandAccept core) := by
  intro core
  show 0 < 2 ^ 32
  decide

theorem cpy : ∀ (st : Fin 16) (d : Reg) (a : Reg) (u : Bool) (t : Bool), Statement (.cpy st d a u t) := by
  intro st d a u t
  have h1 := st.isLt
  have h2 := d.isLt
  have h3 := a.isLt
  have h4 := toNat_le_one u
  have h5 := toNat_le_one t
  show 0x6600000 + st.val * 268435456 + d.val * 65536 + a.val * 2048 + u.toNat * 32 + t.toNat * 16 < 2 ^ 32
  omega

theorem cpy2 : ∀ (st : Fin 16) (d : Reg) (a : Reg) (u : Bool) (t : Bool), Statement (.cpy2 st d a u t) := by
  intro st d a u t
  have h1 := st.isLt
  have h2 := d.isLt
  have h3 := a.isLt
  have h4 := toNat_le_one u
  have h5 := toNat_le_one t
  show 0x6600001 + st.val * 268435456 + d.val * 65536 + a.val * 2048 + u.toNat * 32 + t.toNat * 16 < 2 ^ 32
  omega

theorem cpyt : ∀ (st : Fin 16) (d : Reg) (a : Reg) (b : Reg) (u : Bool) (t : Bool), Statement (.cpyt st d a b u t) := by
  intro st d a b u t
  have h1 := st.isLt
  have h2 := d.isLt
  have h3 := a.isLt
  have h4 := b.isLt
  have h5 := toNat_le_one u
  have h6 := toNat_le_one t
  show 0x6600002 + st.val * 268435456 + d.val * 65536 + a.val * 2048 + b.val * 64 + u.toNat * 32 + t.toNat * 16 < 2 ^ 32
  omega

theorem cpyr : ∀ (st : Fin 16) (d : Reg) (a : Reg) (u : Bool) (t : Bool), Statement (.cpyr st d a u t) := by
  intro st d a u t
  have h1 := st.isLt
  have h2 := d.isLt
  have h3 := a.isLt
  have h4 := toNat_le_one u
  have h5 := toNat_le_one t
  show 0x6600003 + st.val * 268435456 + d.val * 65536 + a.val * 2048 + u.toNat * 32 + t.toNat * 16 < 2 ^ 32
  omega

theorem cpym : ∀ (st : Fin 16) (d : Reg) (a : Reg) (u : Bool) (t : Bool), Statement (.cpym st d a u t) := by
  intro st d a u t
  have h1 := st.isLt
  have h2 := d.isLt
  have h3 := a.isLt
  have h4 := toNat_le_one u
  have h5 := toNat_le_one t
  show 0x6600004 + st.val * 268435456 + d.val * 65536 + a.val * 2048 + u.toNat * 32 + t.toNat * 16 < 2 ^ 32
  omega

theorem cpyx : ∀ (st : Fin 16) (d : Reg) (a : Reg) (u : Bool) (t : Bool), Statement (.cpyx st d a u t) := by
  intro st d a u t
  have h1 := st.isLt
  have h2 := d.isLt
  have h3 := a.isLt
  have h4 := toNat_le_one u
  have h5 := toNat_le_one t
  show 0x6600005 + st.val * 268435456 + d.val * 65536 + a.val * 2048 + u.toNat * 32 + t.toNat * 16 < 2 ^ 32
  omega

theorem cpyfill : ∀ (st : Fin 16) (d : Reg) (a : Reg) (u : Bool), Statement (.cpyfill st d a u) := by
  intro st d a u
  have h1 := st.isLt
  have h2 := d.isLt
  have h3 := a.isLt
  have h4 := toNat_le_one u
  show 0x6600006 + st.val * 268435456 + d.val * 65536 + a.val * 2048 + u.toNat * 32 < 2 ^ 32
  omega

theorem cpybc : ∀ (st : Fin 16) (d : Reg) (a : Reg) (u : Bool) (t : Bool), Statement (.cpybc st d a u t) := by
  intro st d a u t
  have h1 := st.isLt
  have h2 := d.isLt
  have h3 := a.isLt
  have h4 := toNat_le_one u
  have h5 := toNat_le_one t
  show 0x6600007 + st.val * 268435456 + d.val * 65536 + a.val * 2048 + u.toNat * 32 + t.toNat * 16 < 2 ^ 32
  omega

theorem copyEngineAccept : ∀ (cluster : Nat), Statement (.copyEngineAccept cluster) := by
  intro cluster
  show 0 < 2 ^ 32
  decide

theorem copyCompletion : ∀ (cluster : Nat) (ident : Nat), Statement (.copyCompletion cluster ident) := by
  intro cluster ident
  show 0 < 2 ^ 32
  decide

theorem fence : ∀ (st : Fin 16) (k : Fin 8), Statement (.fence st k) := by
  intro st k
  have h1 := st.isLt
  have h2 := k.isLt
  show 0x6c00000 + st.val * 268435456 + k.val * 8 < 2 ^ 32
  omega

theorem acq : ∀ (st : Fin 16) (k : Fin 8), Statement (.acq st k) := by
  intro st k
  have h1 := st.isLt
  have h2 := k.isLt
  show 0x6c00001 + st.val * 268435456 + k.val * 8 < 2 ^ 32
  omega

theorem rel : ∀ (st : Fin 16) (k : Fin 8), Statement (.rel st k) := by
  intro st k
  have h1 := st.isLt
  have h2 := k.isLt
  show 0x6c00002 + st.val * 268435456 + k.val * 8 < 2 ^ 32
  omega

theorem barinit : ∀ (st : Fin 16) (a : Reg) (b : Reg) (g : Bool), Statement (.barinit st a b g) := by
  intro st a b g
  have h1 := st.isLt
  have h2 := a.isLt
  have h3 := b.isLt
  have h4 := toNat_le_one g
  show 0x6e00000 + st.val * 268435456 + a.val * 2048 + b.val * 64 + g.toNat * 32 < 2 ^ 32
  omega

theorem bararr : ∀ (st : Fin 16) (a : Reg) (b : Reg) (g : Bool), Statement (.bararr st a b g) := by
  intro st a b g
  have h1 := st.isLt
  have h2 := a.isLt
  have h3 := b.isLt
  have h4 := toNat_le_one g
  show 0x6e00001 + st.val * 268435456 + a.val * 2048 + b.val * 64 + g.toNat * 32 < 2 ^ 32
  omega

theorem barwait : ∀ (st : Fin 16) (a : Reg) (g : Bool), Statement (.barwait st a g) := by
  intro st a g
  have h1 := st.isLt
  have h2 := a.isLt
  have h3 := toNat_le_one g
  show 0x6e00002 + st.val * 268435456 + a.val * 2048 + g.toNat * 32 < 2 ^ 32
  omega

theorem wmwait : ∀ (st : Fin 16) (a : Reg), Statement (.wmwait st a) := by
  intro st a
  have h1 := st.isLt
  have h2 := a.isLt
  show 0x6e00003 + st.val * 268435456 + a.val * 2048 < 2 ^ 32
  omega

theorem barwaitRelease : ∀ (slot : Nat), Statement (.barwaitRelease slot) := by
  intro slot
  show 0 < 2 ^ 32
  decide

theorem watermarkSatisfied : ∀ (slot : Nat), Statement (.watermarkSatisfied slot) := by
  intro slot
  show 0 < 2 ^ 32
  decide

theorem waitWake : ∀ (slot : Nat), Statement (.waitWake slot) := by
  intro slot
  show 0 < 2 ^ 32
  decide

theorem waitTimeout : ∀ (slot : Nat), Statement (.waitTimeout slot) := by
  intro slot
  show 0 < 2 ^ 32
  decide

theorem linkHoldExpiry : ∀ (line : Nat), Statement (.linkHoldExpiry line) := by
  intro line
  show 0 < 2 ^ 32
  decide

theorem relrcv : ∀ (st : Fin 16), Statement (.relrcv st) := by
  intro st
  have h1 := st.isLt
  show 0x7200000 + st.val * 268435456 < 2 ^ 32
  omega

theorem ckpbeg : ∀ (st : Fin 16) (a : Reg) (b : Reg), Statement (.ckpbeg st a b) := by
  intro st a b
  have h1 := st.isLt
  have h2 := a.isLt
  have h3 := b.isLt
  show 0x7200001 + st.val * 268435456 + a.val * 2048 + b.val * 64 < 2 ^ 32
  omega

theorem ckpseal : ∀ (st : Fin 16) (a : Reg), Statement (.ckpseal st a) := by
  intro st a
  have h1 := st.isLt
  have h2 := a.isLt
  show 0x7200002 + st.val * 268435456 + a.val * 2048 < 2 ^ 32
  omega

theorem ckpverify : ∀ (st : Fin 16) (d : Reg) (a : Reg), Statement (.ckpverify st d a) := by
  intro st d a
  have h1 := st.isLt
  have h2 := d.isLt
  have h3 := a.isLt
  show 0x7200003 + st.val * 268435456 + d.val * 65536 + a.val * 2048 < 2 ^ 32
  omega

theorem ckpabort : ∀ (st : Fin 16), Statement (.ckpabort st) := by
  intro st
  have h1 := st.isLt
  show 0x7200004 + st.val * 268435456 < 2 ^ 32
  omega

theorem rprd : ∀ (st : Fin 16) (d : Reg) (b : Reg), Statement (.rprd st d b) := by
  intro st d b
  have h1 := st.isLt
  have h2 := d.isLt
  have h3 := b.isLt
  show 0x7200005 + st.val * 268435456 + d.val * 65536 + b.val * 64 < 2 ^ 32
  omega

theorem launch : ∀ (st : Fin 16) (a : Reg), Statement (.launch st a) := by
  intro st a
  have h1 := st.isLt
  have h2 := a.isLt
  show 0x7400000 + st.val * 268435456 + a.val * 2048 < 2 ^ 32
  omega

theorem launchn : ∀ (st : Fin 16) (d : Reg) (a : Reg), Statement (.launchn st d a) := by
  intro st d a
  have h1 := st.isLt
  have h2 := d.isLt
  have h3 := a.isLt
  show 0x7400001 + st.val * 268435456 + d.val * 65536 + a.val * 2048 < 2 ^ 32
  omega

theorem cancel : ∀ (st : Fin 16) (a : Reg) (b : Reg), Statement (.cancel st a b) := by
  intro st a b
  have h1 := st.isLt
  have h2 := a.isLt
  have h3 := b.isLt
  show 0x7400002 + st.val * 268435456 + a.val * 2048 + b.val * 64 < 2 ^ 32
  omega

theorem cntrd : ∀ (st : Fin 16) (d : Reg) (a : Reg), Statement (.cntrd st d a) := by
  intro st d a
  have h1 := st.isLt
  have h2 := d.isLt
  have h3 := a.isLt
  show 0x7400003 + st.val * 268435456 + d.val * 65536 + a.val * 2048 < 2 ^ 32
  omega

theorem fork : ∀ (st : Fin 16) (a : Reg) (b : Reg), Statement (.fork st a b) := by
  intro st a b
  have h1 := st.isLt
  have h2 := a.isLt
  have h3 := b.isLt
  show 0x7600000 + st.val * 268435456 + a.val * 2048 + b.val * 64 < 2 ^ 32
  omega

theorem join : ∀ (st : Fin 16), Statement (.join st) := by
  intro st
  have h1 := st.isLt
  show 0x7600001 + st.val * 268435456 < 2 ^ 32
  omega

theorem send : ∀ (st : Fin 16), Statement (.send st) := by
  intro st
  have h1 := st.isLt
  show 0x7600002 + st.val * 268435456 < 2 ^ 32
  omega

theorem yield : ∀ (st : Fin 16), Statement (.yield st) := by
  intro st
  have h1 := st.isLt
  show 0x7600003 + st.val * 268435456 < 2 ^ 32
  omega

theorem uexit : ∀ (st : Fin 16), Statement (.uexit st) := by
  intro st
  have h1 := st.isLt
  show 0x7600004 + st.val * 268435456 < 2 ^ 32
  omega

theorem notify : ∀ (st : Fin 16) (a : Reg), Statement (.notify st a) := by
  intro st a
  have h1 := st.isLt
  have h2 := a.isLt
  show 0x7600005 + st.val * 268435456 + a.val * 2048 < 2 ^ 32
  omega

theorem trap : ∀ (st : Fin 16) (b : Reg), Statement (.trap st b) := by
  intro st b
  have h1 := st.isLt
  have h2 := b.isLt
  show 0x7800000 + st.val * 268435456 + b.val * 64 < 2 ^ 32
  omega

theorem eret : ∀ (st : Fin 16), Statement (.eret st) := by
  intro st
  have h1 := st.isLt
  show 0x7800001 + st.val * 268435456 < 2 ^ 32
  omega

theorem mcall : ∀ (st : Fin 16), Statement (.mcall st) := by
  intro st
  have h1 := st.isLt
  show 0x7800002 + st.val * 268435456 < 2 ^ 32
  omega

theorem halt : ∀ (st : Fin 16), Statement (.halt st) := by
  intro st
  have h1 := st.isLt
  show 0x7800003 + st.val * 268435456 < 2 ^ 32
  omega

theorem vptwr : ∀ (st : Fin 16) (a : Reg) (b : Reg), Statement (.vptwr st a b) := by
  intro st a b
  have h1 := st.isLt
  have h2 := a.isLt
  have h3 := b.isLt
  show 0x7a00000 + st.val * 268435456 + a.val * 2048 + b.val * 64 < 2 ^ 32
  omega

theorem tlbinv : ∀ (st : Fin 16) (a : Reg) (b : Reg), Statement (.tlbinv st a b) := by
  intro st a b
  have h1 := st.isLt
  have h2 := a.isLt
  have h3 := b.isLt
  show 0x7a00001 + st.val * 268435456 + a.val * 2048 + b.val * 64 < 2 ^ 32
  omega

theorem ctxsave : ∀ (st : Fin 16) (a : Reg), Statement (.ctxsave st a) := by
  intro st a
  have h1 := st.isLt
  have h2 := a.isLt
  show 0x7a00002 + st.val * 268435456 + a.val * 2048 < 2 ^ 32
  omega

theorem ctxrest : ∀ (st : Fin 16) (a : Reg), Statement (.ctxrest st a) := by
  intro st a
  have h1 := st.isLt
  have h2 := a.isLt
  show 0x7a00003 + st.val * 268435456 + a.val * 2048 < 2 ^ 32
  omega

theorem brk : ∀ (st : Fin 16) (b : Reg), Statement (.brk st b) := by
  intro st b
  have h1 := st.isLt
  have h2 := b.isLt
  show 0x7c00000 + st.val * 268435456 + b.val * 64 < 2 ^ 32
  omega

theorem tmark : ∀ (st : Fin 16) (a : Reg), Statement (.tmark st a) := by
  intro st a
  have h1 := st.isLt
  have h2 := a.isLt
  show 0x7c00001 + st.val * 268435456 + a.val * 2048 < 2 ^ 32
  omega

theorem smpl : ∀ (st : Fin 16) (a : Reg), Statement (.smpl st a) := by
  intro st a
  have h1 := st.isLt
  have h2 := a.isLt
  show 0x7c00002 + st.val * 268435456 + a.val * 2048 < 2 ^ 32
  omega

theorem vectorCommit : ∀ (slot : Nat), Statement (.vectorCommit slot) := by
  intro slot
  show 0 < 2 ^ 32
  decide

theorem variableLatencyResult : ∀ (slot : Nat), Statement (.variableLatencyResult slot) := by
  intro slot
  show 0 < 2 ^ 32
  decide

theorem rendezvousArrival : ∀ (slot : Nat) (lane : Fin 16), Statement (.rendezvousArrival slot lane) := by
  intro slot lane
  show 0 < 2 ^ 32
  decide

theorem rendezvousComplete : ∀ (slot : Nat), Statement (.rendezvousComplete slot) := by
  intro slot
  show 0 < 2 ^ 32
  decide

theorem trapEntry : ∀ (slot : Nat), Statement (.trapEntry slot) := by
  intro slot
  show 0 < 2 ^ 32
  decide

theorem windowReplay : ∀ (slot : Nat), Statement (.windowReplay slot) := by
  intro slot
  show 0 < 2 ^ 32
  decide

theorem laneMismatch : ∀ (slot : Nat) (lane : Fin 8), Statement (.laneMismatch slot lane) := by
  intro slot lane
  show 0 < 2 ^ 32
  decide

theorem lockstepMismatch : ∀ (slot : Nat), Statement (.lockstepMismatch slot) := by
  intro slot
  show 0 < 2 ^ 32
  decide

theorem notifyRegisterWrite : ∀ (hwq : Nat), Statement (.notifyRegisterWrite hwq) := by
  intro hwq
  show 0 < 2 ^ 32
  decide

theorem serveQueue : ∀ (queue : Nat), Statement (.serveQueue queue) := by
  intro queue
  show 0 < 2 ^ 32
  decide

theorem spillReturn : ∀ (job : Nat), Statement (.spillReturn job) := by
  intro job
  show 0 < 2 ^ 32
  decide

theorem mapRequest : ∀ (pa : Nat), Statement (.mapRequest pa) := by
  intro pa
  show 0 < 2 ^ 32
  decide

theorem queueMap : ∀ (queue : Nat), Statement (.queueMap queue) := by
  intro queue
  show 0 < 2 ^ 32
  decide

theorem queueDestroy : ∀ (queue : Nat), Statement (.queueDestroy queue) := by
  intro queue
  show 0 < 2 ^ 32
  decide

theorem counterCreate : ∀ (appCore : Fin 16) (arg : Word), Statement (.counterCreate appCore arg) := by
  intro appCore arg
  show 0 < 2 ^ 32
  decide

theorem counterClose : ∀ (appCore : Fin 16) (arg : Word), Statement (.counterClose appCore arg) := by
  intro appCore arg
  show 0 < 2 ^ 32
  decide

theorem hostVptEntryWrite : ∀ (ctx : Fin 16) (entry : Fin 4096) (value : Word), Statement (.hostVptEntryWrite ctx entry value) := by
  intro ctx entry value
  show 0 < 2 ^ 32
  decide

theorem hostHotnessClear : ∀ (ctx : Fin 16) (word : Fin 6144), Statement (.hostHotnessClear ctx word) := by
  intro ctx word
  show 0 < 2 ^ 32
  decide

theorem umanteDispatch : Statement (.umanteDispatch) := by
  show 0 < 2 ^ 32
  decide

theorem bind : ∀ (slot : Nat), Statement (.bind slot) := by
  intro slot
  show 0 < 2 ^ 32
  decide

theorem bindResume : ∀ (slot : Nat), Statement (.bindResume slot) := by
  intro slot
  show 0 < 2 ^ 32
  decide

theorem preempt : ∀ (slot : Nat), Statement (.preempt slot) := by
  intro slot
  show 0 < 2 ^ 32
  decide

theorem kill : ∀ (slot : Nat) (cause : Nat), Statement (.kill slot cause) := by
  intro slot cause
  show 0 < 2 ^ 32
  decide

theorem unitLoadComplete : ∀ (slot : Nat), Statement (.unitLoadComplete slot) := by
  intro slot
  show 0 < 2 ^ 32
  decide

theorem preemptionLands : ∀ (slot : Nat), Statement (.preemptionLands slot) := by
  intro slot
  show 0 < 2 ^ 32
  decide

theorem saveComplete : ∀ (slot : Nat), Statement (.saveComplete slot) := by
  intro slot
  show 0 < 2 ^ 32
  decide

theorem unitRetire : ∀ (slot : Nat), Statement (.unitRetire slot) := by
  intro slot
  show 0 < 2 ^ 32
  decide

theorem launchCompletion : ∀ (index : Nat), Statement (.launchCompletion index) := by
  intro index
  show 0 < 2 ^ 32
  decide

theorem pageRequestAnswer : ∀ (request : Nat) (generation : Nat) (success : Bool), Statement (.pageRequestAnswer request generation success) := by
  intro request generation success
  show 0 < 2 ^ 32
  decide

theorem partitionSwap : ∀ (job : Nat), Statement (.partitionSwap job) := by
  intro job
  show 0 < 2 ^ 32
  decide

theorem computeDieReset : ∀ (die : Fin 4), Statement (.computeDieReset die) := by
  intro die
  show 0 < 2 ^ 32
  decide

theorem recoveryRestore : ∀ (job : Nat) (agreedSeq : Word), Statement (.recoveryRestore job agreedSeq) := by
  intro job agreedSeq
  show 0 < 2 ^ 32
  decide

theorem remoteAckTimeout : ∀ (slot : Nat) (pkg : Nat) (addr : Word), Statement (.remoteAckTimeout slot pkg addr) := by
  intro slot pkg addr
  show 0 < 2 ^ 32
  decide

theorem spareSwitch : ∀ (spare : Spare), Statement (.spareSwitch spare) := by
  intro spare
  show 0 < 2 ^ 32
  decide

theorem linkRetrain : ∀ (port : Fin 16) (lane : Nat), Statement (.linkRetrain port lane) := by
  intro port lane
  show 0 < 2 ^ 32
  decide

theorem thermalClockReduction : Statement (.thermalClockReduction) := by
  show 0 < 2 ^ 32
  decide

theorem thermalShutdown : Statement (.thermalShutdown) := by
  show 0 < 2 ^ 32
  decide

theorem powerOnBoot : ∀ (umante : FirmwareImage) (loader : FirmwareImage), Statement (.powerOnBoot umante loader) := by
  intro umante loader
  show 0 < 2 ^ 32
  decide

theorem itrusPartitionControl : ∀ (msg : PartitionMsg), Statement (.itrusPartitionControl msg) := by
  intro msg
  show 0 < 2 ^ 32
  decide

theorem itrusDebug : ∀ (msg : DebugMsg), Statement (.itrusDebug msg) := by
  intro msg
  show 0 < 2 ^ 32
  decide

theorem itrusTrace : ∀ (msg : TraceMsg), Statement (.itrusTrace msg) := by
  intro msg
  show 0 < 2 ^ 32
  decide

theorem itrusAnnals : ∀ (msg : AnnalsMsg), Statement (.itrusAnnals msg) := by
  intro msg
  show 0 < 2 ^ 32
  decide

theorem itrusRecovery : ∀ (msg : RecoveryMsg), Statement (.itrusRecovery msg) := by
  intro msg
  show 0 < 2 ^ 32
  decide

theorem itrusFirmwareUpdate : ∀ (image : FirmwareImage), Statement (.itrusFirmwareUpdate image) := by
  intro image
  show 0 < 2 ^ 32
  decide

theorem itrusAttestation : ∀ (nonce : BitVec 256), Statement (.itrusAttestation nonce) := by
  intro nonce
  show 0 < 2 ^ 32
  decide

theorem itrusPower : ∀ (msg : PowerMsg), Statement (.itrusPower msg) := by
  intro msg
  show 0 < 2 ^ 32
  decide

theorem remoteAccessArrival : ∀ (access : RemoteAccess), Statement (.remoteAccessArrival access) := by
  intro access
  show 0 < 2 ^ 32
  decide

theorem remoteAcknowledgement : ∀ (slot : Nat), Statement (.remoteAcknowledgement slot) := by
  intro slot
  show 0 < 2 ^ 32
  decide

theorem persistencePointReached : ∀ (slot : Nat), Statement (.persistencePointReached slot) := by
  intro slot
  show 0 < 2 ^ 32
  decide

theorem powerLoss : Statement (.powerLoss) := by
  show 0 < 2 ^ 32
  decide

theorem baseDieFailure : ∀ (die : Fin 4), Statement (.baseDieFailure die) := by
  intro die
  show 0 < 2 ^ 32
  decide

theorem queueUnmap : ∀ (queue : Nat), Statement (.queueUnmap queue) := by
  intro queue
  show 0 < 2 ^ 32
  decide

theorem itrusConnection : ∀ (msg : ConnectionMsg), Statement (.itrusConnection msg) := by
  intro msg
  show 0 < 2 ^ 32
  decide

theorem annalsObservation : ∀ (die : Fin 4) (celsius : Nat) (droopMv : Nat), Statement (.annalsObservation die celsius droopMv) := by
  intro die celsius droopMv
  show 0 < 2 ^ 32
  decide

end Sys2Proof.Laws.WordFields
end

