-- ==== Sys2Proof/Laws/Xmss.lean ====
section
/-! SUPPORT. What the verification of signatures can do (17 R419): every message has a key and a signature of 2,820 bytes that
verify, so that a statement about a verified image speaks of some machine. -/

namespace Sys2Proof.Machine

/-- A state of the permutation: five planes of five lanes. -/
def Planes (s : List Plane) : Prop := s.length = 5 ∧ ∀ p ∈ s, p.length = 5

theorem Planes.xor_length {p q : Plane} (hp : p.length = 5) (hq : q.length = 5) : (p.xor q).length = 5 := by
  simp [Plane.xor, hp, hq]

theorem Planes.modify {s : List Plane} (h : Planes s) (i : Nat) (f : Plane → Plane) (hf : ∀ p, p.length = 5 → (f p).length = 5) :
    Planes (s.modify i f) := by
  refine ⟨by simp [h.1], fun p hp => ?_⟩
  obtain ⟨j, hj, rfl⟩ := List.mem_iff_getElem.1 hp
  rw [List.getElem_modify]
  have : s[j]'(by simpa using hj) ∈ s := List.getElem_mem _
  split
  · exact hf _ (h.2 _ this)
  · exact h.2 _ this

theorem Planes.map {s : List Plane} (h : Planes s) (f : Plane → Plane) (hf : ∀ p, p.length = 5 → (f p).length = 5) :
    Planes (s.map f) := by
  refine ⟨by simp [h.1], fun p hp => ?_⟩
  obtain ⟨q, hq, rfl⟩ := List.mem_map.1 hp
  exact hf _ (h.2 _ hq)

theorem foldl_xor_length (s : List Plane) (hs : ∀ p ∈ s, p.length = 5) (a : Plane) (ha : a.length = 5) :
    (s.foldl Plane.xor a).length = 5 := by
  induction s generalizing a with
  | nil => exact ha
  | cons p s ih => exact ih (fun q hq => hs q (List.mem_cons_of_mem _ hq)) _ (Planes.xor_length ha (hs p (List.mem_cons_self ..)))

theorem rotateLeft_length {α : Type} (l : List α) (n : Nat) : (l.rotateLeft n).length = l.length := by
  simp only [List.rotateLeft]
  split
  · rfl
  · simp only [List.length_append, List.length_drop, List.length_take]; omega

theorem rotateRight_length {α : Type} (l : List α) (n : Nat) : (l.rotateRight n).length = l.length := by
  simp only [List.rotateRight]
  split
  · rfl
  · simp only [List.length_append, List.length_drop, List.length_take]; omega

theorem Planes.mixColumns {s : List Plane} (h : Planes s) : Planes (mixColumns s) := by
  have hp := foldl_xor_length s h.2 (List.replicate 5 0) (by simp)
  exact h.map _ (fun p hq => Planes.xor_length (Planes.xor_length (by rw [rotateRight_length, hp])
    (by rw [List.length_map, rotateLeft_length, hp])) hq)

theorem Planes.moveLanes {s : List Plane} (k t : Nat) (xy : Nat × Nat) (c : Word) (h : Planes s) : Planes (moveLanes k t xy c s) := by
  induction k generalizing t xy c s with
  | zero => exact h
  | succ k ih => exact ih _ _ _ (h.modify _ _ (fun p hp => by simpa using hp))

theorem Planes.permute {s : List Plane} (k r : Nat) (h : Planes s) : Planes (permuteLanes k r s) := by
  induction k generalizing r s with
  | zero => exact h
  | succ k ih =>
    refine ih _ (((h.mixColumns.moveLanes _ _ _ _).map _ (fun p hp => ?_)).modify _ _ (fun p hp => by simpa using hp))
    exact Planes.xor_length hp (by simp [rotateLeft_length, hp])

theorem blockPlanes_planes (b : List Byte) : Planes (blockPlanes b) := by
  refine ⟨by simp [blockPlanes], fun p hp => ?_⟩
  simp only [blockPlanes, List.mem_map] at hp
  obtain ⟨y, -, rfl⟩ := hp
  simp

theorem Planes.zip {s t : List Plane} (hs : Planes s) (ht : Planes t) : Planes (List.zipWith Plane.xor s t) := by
  refine ⟨by simp [hs.1, ht.1], fun p hp => ?_⟩
  obtain ⟨j, hj, rfl⟩ := List.mem_iff_getElem.1 hp
  rw [List.getElem_zipWith]
  exact Planes.xor_length (hs.2 _ (List.getElem_mem _)) (ht.2 _ (List.getElem_mem _))

@[simp] theorem leBytes_length (n v : Nat) : (leBytes n v).length = n := by
  induction n generalizing v with
  | zero => rfl
  | succ n ih => simp [leBytes, ih]

theorem Planes.eaten {f : List Plane → List Byte → List Plane} (hf : ∀ s b, Planes s → Planes (f s b)) (l : List Nat)
    (a : List Plane × List Byte) (h : Planes a.1) :
    Planes (l.foldl (fun a _ => (f a.1 (a.2.take 136), a.2.drop 136)) a).1 := by
  induction l generalizing a with
  | nil => exact h
  | cons x l ih => exact ih _ (hf _ _ h)

theorem Planes.first {s : List Plane} (h : Planes s) (f : Word → List Byte) (hf : ∀ w, (f w).length = 8) :
    (((s.getD 0 []).take 4).flatMap f).length = 32 := by
  obtain ⟨h5, hl⟩ := h
  match s, h5 with
  | p :: _, _ =>
    have hp := hl p (List.mem_cons_self ..)
    match p, hp with
    | [a, b, c, d, e], _ => simp [hf]

@[simp] theorem shake256_length (m : List Byte) : (shake256 m).length = 32 := by
  have hf : ∀ s b, Planes s → Planes (permuteLanes 24 1 (List.zipWith Plane.xor s (blockPlanes b))) :=
    fun s b h => (h.zip (blockPlanes_planes b)).permute 24 1
  have h := Planes.eaten hf (List.range (m.length / 136)) (List.replicate 5 (List.replicate 5 0), m)
    ⟨by simp, fun p hp => by simp [List.eq_of_mem_replicate hp]⟩
  exact (hf _ _ h).first _ (fun w => leBytes_length 8 w.toNat)

@[simp] theorem beBytes_length (n v : Nat) : (beBytes n v).length = n := by simp [beBytes]

theorem leBytes_leNat (b : List Byte) : leBytes b.length (leNat b) = b := by
  induction b with
  | nil => rfl
  | cons x b ih =>
    have hx := x.isLt
    have h1 : (x.toNat + 256 * leNat b) / 256 = leNat b := by omega
    simp only [List.length_cons, leNat, leBytes, h1, ih, List.cons.injEq, and_true]
    apply BitVec.eq_of_toNat_eq
    simp only [BitVec.toNat_ofNat]
    omega

theorem leNat_lt (b : List Byte) : leNat b < 256 ^ b.length := by
  induction b with
  | nil => simp [leNat]
  | cons x b ih =>
    have hx := x.isLt
    simp only [leNat, List.length_cons, Nat.pow_succ]
    omega

theorem beBytes_beNat (n : Nat) (b : List Byte) (h : b.length = n) : beBytes n (beNat b) = b := by
  subst h
  rw [beBytes, beNat, ← List.length_reverse, leBytes_leNat, List.reverse_reverse]

theorem digits_le (b : List Byte) : ∀ d ∈ digits b, d ≤ 15 := by
  intro d hd
  simp only [digits, List.mem_flatMap, List.mem_cons, List.not_mem_nil, or_false] at hd
  obtain ⟨x, -, rfl | rfl⟩ := hd
  · have := x.isLt; omega
  · omega

theorem digits_length (b : List Byte) : (digits b).length = 2 * b.length := by
  induction b with
  | nil => rfl
  | cons x b ih => simp [digits] at ih ⊢; omega

theorem chainDigits_length (m : List Byte) (h : m.length = 32) : (chainDigits m).length = 67 := by
  simp [chainDigits, digits_length, h]

theorem chainDigits_le (m : List Byte) : ∀ d ∈ chainDigits m, d ≤ 15 := by
  intro d hd
  simp only [chainDigits, List.mem_append] at hd
  rcases hd with hd | hd
  · exact digits_le _ _ hd
  · exact digits_le _ _ (List.mem_of_mem_take hd)

/-- Chain i of leaf 0 after d steps from a secret of zeros, with the seed zero. -/
def chainAt (i d : Nat) : List Byte :=
  (List.range d).foldl (fun x k => HashPlace.step { kind := 0, a := 0, b := i, c := k } (List.replicate 32 0) x) (List.replicate 32 0)

theorem foldl_range_add {α : Type} (f : α → Nat → α) (a : α) (m n : Nat) :
    (List.range (m + n)).foldl f a = (List.range n).foldl (fun x k => f x (m + k)) ((List.range m).foldl f a) := by
  rw [List.range_add, List.foldl_append, List.foldl_map]

theorem chainEnd_chainAt (i d : Nat) (h : d ≤ 15) : chainEnd (List.replicate 32 0) 0 i d (chainAt i d) = chainAt i 15 := by
  have := foldl_range_add (fun x k => HashPlace.step { kind := 0, a := 0, b := i, c := k } (List.replicate 32 0) x)
    (List.replicate 32 0) d (15 - d)
  rw [show d + (15 - d) = 15 by omega] at this
  exact this.symm

theorem keyedHash_length (use : Nat) (key m : List Byte) : (keyedHash use key m).length = 32 := by
  rw [keyedHash, shake256_length]

theorem step_length (p : HashPlace) (seed x : List Byte) : (p.step seed x).length = 32 := by rw [HashPlace.step, keyedHash_length]

theorem join_length (p : HashPlace) (seed l r : List Byte) : (p.join seed l r).length = 32 := by
  rw [HashPlace.join, keyedHash_length]

theorem chainAt_length (i d : Nat) : (chainAt i d).length = 32 := by
  cases d with
  | zero => rfl
  | succ d => rw [chainAt, List.range_succ, List.foldl_append, List.foldl_cons, List.foldl_nil, step_length]

theorem climb_length (seed : List Byte) (idx k : Nat) (x : List Byte) (path : List (List Byte)) (h : path ≠ []) :
    (climb seed idx k x path).length = 32 := by
  induction path generalizing k x with
  | nil => exact absurd rfl h
  | cons s rest ih =>
    rw [climb]
    cases rest with
    | nil => rw [climb]; split <;> rw [join_length]
    | cons t rest => exact ih _ _ (by simp)

theorem pieces_flatten (l : List (List Byte)) (rest : List Byte) (h : ∀ x ∈ l, x.length = 32) :
    pieces (l.flatten ++ rest) l.length = l := by
  induction l with
  | nil => rfl
  | cons x l ih =>
    have hx := h x (List.mem_cons_self ..)
    have := ih (fun y hy => h y (List.mem_cons_of_mem _ hy))
    simp only [pieces] at this ⊢
    rw [List.length_cons, List.range_succ_eq_map, List.map_cons, List.map_map]
    congr 1
    · simp [hx]
    · refine Eq.trans (List.map_congr_left (fun i _ => ?_)) this
      have e : 32 * (i + 1) = x.length + 32 * i := by omega
      simp only [Function.comp, Nat.succ_eq_add_one, e, List.flatten_cons, List.append_assoc, ← List.drop_drop, List.drop_left]

/-- 32 zeros. -/
def zeros : List Byte := List.replicate 32 0

theorem zeros_length : zeros.length = 32 := rfl

theorem xmssVerify_of (m root path : List Byte) (parts ends : List (List Byte)) (hroot : root.length = 32) (hp : parts.length = 67)
    (hp32 : ∀ x ∈ parts, x.length = 32) (hpath : path.length = 640)
    (hends : (parts.zip (chainDigits (keyedHash 2 (zeros ++ root ++ beBytes 32 0) m))).zipIdx.map
      (fun p => chainEnd zeros 0 p.2 p.1.2 p.1.1) = ends)
    (hclimb : climb zeros 0 0 (leafOf zeros 0 ends) (pieces path 20) = root) :
    xmssVerify (BitVec.ofNat 512 (beNat (root ++ zeros))) m (List.replicate 4 0 ++ zeros ++ parts.flatten ++ path) = true := by
  have hflat : parts.flatten.length = 2144 := by
    rw [List.length_flatten, List.map_congr_left hp32, List.map_const', hp]
    rfl
  have hkey : beBytes 64 (BitVec.ofNat 512 (beNat (root ++ zeros))).toNat = root ++ zeros := by
    have h64 : (root ++ zeros).length = 64 := by rw [List.length_append, hroot, zeros_length]
    have hlt : beNat (root ++ zeros) < 2 ^ 512 := by
      have := leNat_lt (root ++ zeros).reverse
      rwa [List.length_reverse, h64, show (256 : Nat) = 2 ^ 8 from rfl, ← Nat.pow_mul] at this
    rw [BitVec.toNat_ofNat, Nat.mod_eq_of_lt hlt, beBytes_beNat _ _ h64]
  have h36 : (List.replicate 4 (0 : Byte) ++ zeros ++ parts.flatten ++ path).drop 36 = parts.flatten ++ path := by
    rw [List.append_assoc, List.drop_left' (i := 36) (l₁ := List.replicate 4 0 ++ zeros) rfl]
  have h4 : (List.replicate 4 (0 : Byte) ++ zeros ++ parts.flatten ++ path).drop 4 = zeros ++ (parts.flatten ++ path) := by
    rw [List.append_assoc, List.append_assoc, List.drop_left' (i := 4) (l₁ := List.replicate 4 0) rfl]
  have h2180 : (List.replicate 4 (0 : Byte) ++ zeros ++ parts.flatten ++ path).drop 2180 = path := by
    rw [List.drop_left' (by rw [List.length_append, hflat]; rfl)]
  have hidx : beNat ((List.replicate 4 (0 : Byte) ++ zeros ++ parts.flatten ++ path).take 4) = 0 := by
    rw [List.append_assoc, List.append_assoc, List.take_left' (i := 4) (l₁ := List.replicate 4 0) rfl]
    rfl
  have hpieces : pieces (parts.flatten ++ path) 67 = parts := by rw [← hp]; exact pieces_flatten _ _ hp32
  simp only [xmssVerify, hkey, hidx, h36, h4, h2180, hpieces, List.take_left' hroot, List.drop_left' hroot,
    List.take_left' zeros_length, hends, hclimb]
  rw [Bool.and_eq_true, Bool.and_eq_true]
  refine ⟨⟨beq_iff_eq.2 ?_, decide_eq_true (by decide)⟩, beq_self_eq_true _⟩
  rw [List.length_append, List.length_append, hflat, hpath]
  rfl

theorem chains_end (d : List Nat) (hlen : d.length = 67) (hle : ∀ x ∈ d, x ≤ 15) :
    ((d.zipIdx.map (fun p => chainAt p.2 p.1)).zip d).zipIdx.map (fun p => chainEnd zeros 0 p.2 p.1.2 p.1.1) =
      (List.range 67).map (fun i => chainAt i 15) := by
  refine List.ext_getElem ?_ (fun i h1 h2 => ?_)
  · rw [List.length_map, List.length_zipIdx, List.length_zip, List.length_map, List.length_zipIdx, hlen, List.length_map,
      List.length_range, Nat.min_self]
  · have hi : i < d.length := by rw [List.length_map, List.length_range] at h2; omega
    simp only [List.getElem_map, List.getElem_zipIdx, List.getElem_zip, List.getElem_range, Nat.zero_add]
    exact chainEnd_chainAt _ _ (hle _ (List.getElem_mem _))

theorem chains_length (d : List Nat) : ∀ x ∈ d.zipIdx.map (fun p => chainAt p.2 p.1), x.length = 32 := by
  intro x hx
  obtain ⟨p, -, rfl⟩ := List.mem_map.1 hx
  exact chainAt_length _ _

theorem pieces_ne_nil (b : List Byte) (n : Nat) : pieces b (n + 1) ≠ [] := by
  rw [pieces, List.range_succ_eq_map]
  exact List.cons_ne_nil _ _

/-- Every message has a key and a signature that verify. -/
theorem xmss_signs (m : List Byte) : ∃ (key : BitVec 512) (sig : List Byte), xmssVerify key m sig = true := by
  have hpath : (List.replicate 640 (0 : Byte)).length = 640 := List.length_replicate ..
  generalize List.replicate 640 (0 : Byte) = path at hpath
  have hroot := climb_length zeros 0 0 (leafOf zeros 0 ((List.range 67).map (fun i => chainAt i 15))) _ (pieces_ne_nil path 19)
  generalize hr : climb zeros 0 0 (leafOf zeros 0 ((List.range 67).map (fun i => chainAt i 15))) (pieces path (19 + 1)) = root at hroot
  have hlen := chainDigits_length (keyedHash 2 (zeros ++ root ++ beBytes 32 0) m) (keyedHash_length ..)
  have hle := chainDigits_le (keyedHash 2 (zeros ++ root ++ beBytes 32 0) m)
  generalize hd : chainDigits (keyedHash 2 (zeros ++ root ++ beBytes 32 0) m) = d at hlen hle
  have hends := chains_end d hlen hle
  have hp : (d.zipIdx.map (fun p => chainAt p.2 p.1)).length = 67 := by rw [List.length_map, List.length_zipIdx, hlen]
  rw [← hd] at hends
  exact ⟨_, _, xmssVerify_of m root path _ _ hroot hp (chains_length d) hpath (hd ▸ hends) hr⟩

end Sys2Proof.Machine
end

