-- ==== Sys2Proof/Tests/Slice0.lean ====
section
/-! SUPPORT. The model's own tests: words decoded as the encoding tables of the spec write them, a term that each check of
`wf` refuses, one step of instructions on small states, and, for every statement with hypotheses, a state and operands that
meet them. -/

namespace Sys2Proof.Tests

open Sys2Proof Sys2Proof.Machine

set_option linter.all false
set_option Elab.async false

/-! ### Small states -/

/-- A word begins, as a Bool. -/
def canBegin (i : Instr) (s : State) : Bool :=
  s.work.s.issues && s.work.s.thr.window == [] && (s.work.checkTrap i).isNone && (s.work.blocked i).isNone &&
    s.work.s.boundSources i == []

/-- The work of a word that begins and reads no bound register. -/
def began (s : State) : Work := { s.work with npc := s.work.s.regs.pc + 4 }

theorem begins_of {i : Instr} {s : State} (h : canBegin i s = true) : Begins i s (began s) := by
  simp only [canBegin, Bool.and_eq_true, Option.isNone_iff_eq_none, beq_iff_eq] at h
  obtain ⟨⟨⟨⟨h1, h2⟩, h3⟩, h4⟩, h5⟩ := h
  exact ⟨⟨h1, h2, h3, h4⟩, s.work, by simp only [Work.sources, h5], rfl⟩

/-- Slot 0 changed. -/
def onSlot0 (f : Slot → Slot) (s : State) : State := { s with toMach := s.toMach.setSlot 0 (f (s.toMach.slot 0)) }

/-- Core 0 changed. -/
def onCore0 (f : Core → Core) (s : State) : State := { s with toMach := s.toMach.setCore 0 (f (s.toMach.core 0)) }

/-- Context 0 changed. -/
def onCtx (f : Context → Context) (s : State) : State :=
  { s with toMach := s.toMach.setContext 0 (f (s.toMach.context 0)) }

/-- Slot 0 runs a User unit (log 3). -/
def user : State := State.reset.withUnit

/-- x registers set at User level. -/
def withX (l : List (Nat × Word)) (s : State) : State :=
  onSlot0 (fun v => { v with regs := l.foldl (fun r p => r.setX false p.1 p.2) v.regs }) s

/-- The control block changed. -/
def withCtl (f : SlotCtl → SlotCtl) (s : State) : State := onSlot0 (fun v => { v with ctl := f v.ctl }) s

/-- A Supervisor thread with a handler at 0x2000, direct mode. -/
def sup : State := onSlot0 (fun v => { v with regs := { v.regs with level := .supervisor }, sup := { v.sup with stvec := 0x2000 } }) user

/-- Slot 0 owns the tile group of its core. -/
def tile : State := onCore0 (fun c => { c with owner := some 0, tstate := 1 }) user

/-- Slot 0's unit has the coordinate store. -/
def store : State := onSlot0 (fun v => { v with unit := { v.unit with ccs := true } }) user

/-- `vtype.FMT` of slot 0. -/
def withFmt (n : BitVec 4) (s : State) : State := withCtl (fun c => { c with fmt := n }) s

/-- A User thread with a handler at 0x2000. -/
def handled : State := onSlot0 (fun v => { v with sup := { v.sup with stvec := 0x2000 } }) user

/-- Bytes in memory from a physical address of this package's HBM. -/
def withBytes (pa : Nat) (bs : List Byte) (s : State) : State := (s.work.putBytes (hbmLoc pa) bs).finish s

def okB {ε α : Type} : Except ε α → Bool
  | .ok _ => true
  | .error _ => false

/-- A scalar read passes its checks, as a Bool. -/
def canRead (w : Work) (a : Word) (size : Nat) : Bool :=
  match scalarPlace w w.m.cur w.ctx.spt (w.s.regs.level == .supervisor) a 0 with
  | .ok (loc, w1) => decide (a.toNat % size = 0) && okB (readable w1.m [loc]) && !w1.m.poisoned loc
  | .error _ => false

theorem reads_of {w : Work} {a : Word} {size : Nat} (h : canRead w a size = true) : ∃ loc w1, ScalarReads w a size loc w1 := by
  unfold canRead at h
  split at h
  · rename_i loc w1 e
    simp only [Bool.and_eq_true, Bool.not_eq_true', decide_eq_true_eq] at h
    obtain ⟨⟨h1, h2⟩, h3⟩ := h
    refine ⟨loc, w1, h1, e, ?_, h3⟩
    generalize readable w1.m [loc] = r at h2
    cases r with
    | ok u => rfl
    | error e => cases h2
  · cases h

/-- A scalar write passes its checks, as a Bool. -/
def canWrite (w : Work) (a : Word) (size : Nat) : Bool :=
  match scalarPlace w w.m.cur w.ctx.spt (w.s.regs.level == .supervisor) a 1 with
  | .ok (loc, w1) => decide (a.toNat % size = 0) && okB (writable w1.m w1.m.cur (span loc size))
  | .error _ => false

theorem writes_of {w : Work} {a : Word} {size : Nat} (h : canWrite w a size = true) : ∃ loc w1, ScalarWrites w a size loc w1 := by
  unfold canWrite at h
  split at h
  · rename_i loc w1 e
    simp only [Bool.and_eq_true, decide_eq_true_eq] at h
    obtain ⟨h1, h2⟩ := h
    refine ⟨loc, w1, h1, e, ?_⟩
    generalize writable w1.m w1.m.cur (span loc size) = r at h2
    cases r with
    | ok u => rfl
    | error e => cases h2
  · cases h

/-- The state after one instruction or event, or the given one. -/
def after (i : Instr) (s : State) : State :=
  match exec i s with
  | .next t => t
  | _ => s

/-! ### Witnesses: encoding, steps and traps -/

theorem test_witness_DecodeOfEncode : (Instr.add 1 2 3 4).isWord = true ∧ (Instr.add 1 2 3 4).wf = true := by decide

theorem test_witness_EncodeOfDecode : (decodeWord 0x00230880).toOption = some (.add 0 3 1 2) := by
  decide

theorem test_witness_StepKeepsMemoryOk : Memory.wf user.mem = true ∧
    (match step (user.withFetchWord 32 0x00230880) with | .next _ => true | _ => false) = true := by decide

theorem test_witness_CompletionLeaves : (began user).s.unit.st.runs = true ∧ (began user).m.cur = user.cur ∧
    (began user).ws = [] ∧ (began user).base = user.mem := by decide

/-- A User thread about to fetch a word. -/
def fetching (w : Nat) : State := user.withFetchWord 32 w

theorem test_witness_StepRunsDecoded : (fetching 0x00230880).agenda = [] ∧ (fetching 0x00230880).runs = true ∧
    (fetching 0x00230880).work.s.thr.window = [] ∧ (fetching 0x00230880).work.s.thr.convoy = [] ∧
    (((fetching 0x00230880).tied 0).work.fetch 0x1000).toOption.map (fun p => p.1) = some 0x00230880 ∧
    (fetching 0x00230880).work.s.regs.pc = 0x1000 ∧ wordC 0x00230880 = false ∧
    (decodeWord 0x00230880).toOption = some (.add 0 3 1 2) ∧
    ((fetching 0x00230880).calendarGate (some (.slot (fetching 0x00230880).cur))).isNone = true ∧
    (fetching 0x00230880).toMach.calendarAt 0 = none := by decide

def inConvoy : State := onSlot0 (fun v => { v with thr := { v.thr with convoy := [0x00230880] } }) user

theorem test_witness_StepRunsConvoy : inConvoy.agenda = [] ∧ inConvoy.runs = true ∧ inConvoy.work.s.thr.window = [] ∧
    inConvoy.work.s.thr.convoy = [0x00230880] ∧ (decodeWord 0x00230880).toOption = some (.add 0 3 1 2) ∧
    (inConvoy.calendarGate (some (.slot inConvoy.cur))).isNone = true := by decide

/-- An addition stands in the window of slot 0, completed or not; the thread has gone on from it. -/
def issuedAdd (done : Bool) : State :=
  onSlot0 (fun v => { v with thr := { v.thr with iseq := v.thr.iseq + 1, window := [{ (user.work.newFlight (.vadd 0 false 2 4 6 false)) with
    result := if done then some { writes := [], flags := 0, dirty := 0 } else none }] } }) user

theorem test_witness_StepCommits : (issuedAdd true).agenda = [] ∧ (issuedAdd true).runs = true ∧
    (issuedAdd true).work.s.thr.window.map (fun f => (f.result.isSome, (issuedAdd true).work.s.toRun f)) = [(true, false)] ∧
    (issuedAdd false).runs = true ∧ (issuedAdd false).agenda = [] ∧
    (issuedAdd false).work.s.thr.window.all (fun f => (issuedAdd false).work.s.toRun f) = true ∧
    ((issuedAdd true).calendarGate (some (.slot 0))).isNone = true ∧ ((issuedAdd false).calendarGate (some (.slot 0))).isNone = true ∧
    (let s := onSlot0 (fun v => { v with thr := { v.thr with window := [user.work.newFlight (.vld 0 false 2 4 false)] } }) user
     s.agenda = [] ∧ s.runs = true ∧ s.work.s.thr.window.all (fun f => f.accesses && s.work.s.toRun f) = true ∧
     (s.calendarGate (some (.slot 0))).isNone = true) := by decide

theorem test_witness_IllegalWordTraps : (fetching 0x3F).agenda = [] ∧ (fetching 0x3F).runs = true ∧
    (fetching 0x3F).work.s.thr.window = [] ∧ (fetching 0x3F).work.s.thr.convoy = [] ∧
    (((fetching 0x3F).tied 0).work.fetch (fetching 0x3F).work.s.regs.pc).toOption.map (fun p => p.1) = some 0x3F ∧ wordC 0x3F = false ∧
    (decodeWord 0x3F).toOption = none ∧ ((fetching 0x3F).calendarGate (some (.slot (fetching 0x3F).cur))).isNone = true := by decide

/-- At the pc stands a convoy of words, of which only the last has C = 0. -/
def convoy (l : List Instr) : State :=
  withBytes 0x1000 (l.flatMap (fun i => leBytes 4 (encode i))) (user.withFetchWord 32 (encode (.nop 0)))

/-- Whether a convoy is fetched whole, its members each pass the checks before the limits of 02 R36, and none runs. -/
def convoyStands (l : List Instr) : Bool :=
  let s := convoy l
  s.agenda == [] && s.runs && (s.calendarGate (some (.slot s.cur))).isNone && s.work.s.thr.window == [] &&
    s.work.s.thr.convoy == [] &&
  match (s.tied s.cur).work.members s.work.s.regs.pc (2 ^ 55) with
  | .ok (words, w) => 2 ≤ words.length && words.map (fun x => (decodeWord x).toOption) == l.map some &&
      l.all (fun i => w.legal i && w.allowed i && (w.enabledTrap i).isNone)
  | .error _ => false

theorem test_witness_ConvoyConflict :
    convoyStands [.vaddF 0 true 2 4 6 false, .vaddF 0 true 3 4 6 false, .vaddF 0 false 5 4 6 false] = true ∧
    convoyStands [.vld 0 true 2 4 false, .vld 0 false 3 4 false] = true ∧
    convoyStands [.vst 0 true 2 4 false false, .vst 0 false 3 4 false false] = true ∧
    convoyStands [.vsqrt 0 true 2 4, .vsqrt 0 false 3 4] = true ∧
    convoyStands [.vcompress 0 true 2 4, .vcompress 0 false 3 4] = true := by decide +kernel

/-- x2 has just been written by a multiplication, whose latency is not over, with `chk`.STALL set. -/
def early : State := after (.mul 0 2 4 6) (withCtl (fun c => { c with chkStall := true }) user)

theorem test_witness_CheckOrder : user.work.s.issues = true ∧ user.work.legal (.vpend 0 false) = false ∧
    user.work.legal (.eret 0) = true ∧ user.work.s.regs.level = .user ∧ supervisorOnly (.eret 0) = true ∧
    user.work.legal (.tchkrd 0 2) = true ∧ user.work.allowed (.tchkrd 0 2) = true ∧
    (infoOf user.work.s.ctl.fmt (.tchkrd 0 2)).tile = true ∧ tileDetail user.toMach user.cur = some 1 := by decide

theorem test_witness_CheckOrder_vector : let s := withCtl (fun c => { c with vstate := 0 }) user
    s.work.s.issues = true ∧ s.work.legal (.vmv 0 false 2 4) = true ∧ s.work.allowed (.vmv 0 false 2 4) = true ∧
    (infoOf s.work.s.ctl.fmt (.vmv 0 false 2 4)).vec = true ∧ bitB s.work.s.ctl.vstate 0 = false := by decide

theorem test_witness_CheckOrder_stale : early.work.s.issues = true ∧ early.work.legal (.add 0 8 2 2) = true ∧
    early.work.allowed (.add 0 8 2 2) = true ∧ early.work.enabledTrap (.add 0 8 2 2) = none ∧
    early.work.staleRead (.add 0 8 2 2) = some 0x1000 := by decide

theorem test_witness_TrapEntry : (began handled).s.sup.intrap = false ∧ keepBits (began handled).s.sup.stvec 6 51 ≠ 0 ∧
    (began handled).ws = [] ∧ (began handled).m.cur = handled.cur := by decide

theorem test_witness_DoubleTrap : (onSlot0 (fun v => { v with sup := { v.sup with intrap := true } }) handled).work.s.sup.intrap =
    true := by decide

theorem test_witness_NoHandler : (began user).s.sup.intrap = false ∧ keepBits (began user).s.sup.stvec 6 51 = 0 ∧
    bitsN (0x1000 : Word) 57 7 = 0 ∧ bitsN (0x0200000000001000 : Word) 57 7 ≠ 0 ∧
    ((began user).passTiles.ten (began user).m.cur).isSome = true := by decide

/-- The Supervisor register `simg` set; memory holds an image there whose mask word is given. -/
def imaged (simg : Word) (mask : Nat) : State :=
  withBytes 0x100000 (leBytes 8 mask) (onSlot0 (fun v => { v with sup := { v.sup with simg := simg } }) user)

/-- How restoring parts from `simg` ends: 0 it succeeds, 1 a missing page, 2 any other trap. -/
def restores (s : State) (mask : Nat) : Nat :=
  match (began s).passTiles.restoreParts (began s).s.sup.simg mask with
  | .ok _ => 0
  | .error (.trap _ u) => if u.cause = 0x08 ∧ bitsN u.stval 57 7 = 0 then 1 else 2
  | .error _ => 3

theorem test_witness_NoHandler_restore : (∀ mask ∈ ([16, 14] : List Nat), restores (imaged 0x40000000 0) mask = 1 ∧
      restores (imaged 0x100000 0) mask = 2) ∧ restores (onCore0 (fun c => { c with owner := some 0, tstate := 1 }) (imaged 0x100000 16)) 16 = 0 ∧
    restores (imaged 0x100000 14) 14 = 0 ∧ (began (imaged 0x100000 0)).s.sup.intrap = false ∧
    keepBits (began (imaged 0x100000 0)).s.sup.stvec 6 51 = 0 := by decide +kernel

theorem test_witness_TrapsAndReturns : canBegin (.trap 0 5) handled = true ∧ canBegin (.brk 0 5) handled = true ∧
    bitB handled.work.s.sup.dbgctl 4 = false ∧ handled.work.s.sup.intrap = false ∧ keepBits handled.work.s.sup.stvec 6 51 ≠ 0 ∧
    canBegin (.eret 0) sup = true := by decide

/-! ### Witnesses: scalar instructions -/

theorem test_witness_scalar_forms : ([.add 0 2 4 6, .sub 0 2 4 6, .and 0 2 4 6, .or 0 2 4 6, .xor 0 2 4 6, .sll 0 2 4 6,
    .srl 0 2 4 6, .sra 0 2 4 6, .slt 0 2 4 6, .sltn 0 2 4 6, .min 0 2 4 6, .max 0 2 4 6, .minn 0 2 4 6, .maxn 0 2 4 6,
    .mul 0 2 4 6, .mulh 0 2 4 6, .mulhn 0 2 4 6, .div 0 2 4 6, .divn 0 2 4 6, .rem 0 2 4 6, .remn 0 2 4 6, .bext 0 2 4 6,
    .bins 0 2 4 6, .clz 0 2 4, .ctz 0 2 4, .popc 0 2 4, .slli 0 2 4 31 true, .srli 0 2 4 0 false, .srai 0 2 4 31 true,
    .addi 0 2 4 0x400, .andi 0 2 4 0x7FF, .ori 0 2 4 0, .xori 0 0 0 0x3FF, .lih 0 2 0xFFFF, .adpc 0 2 0x8000] :
    List Instr).all (fun i => canBegin i user) = true := by decide

/-- x4 holds an aligned address, x6 one that is not. -/
def pointers : State := withX [(4, 0x3000), (6, 0x3001), (8, 2)] user

theorem test_witness_ScalarLoads : ([.ld8 0 2 4 0x100, .ld16 0 2 4 0xFF, .ld32 0 2 4 0, .ld64 0 2 4 1, .ld8N 0 2 4 0,
    .ld16N 0 2 4 0, .ld32N 0 2 4 0] : List Instr).all (fun i => canBegin i pointers) = true ∧
    canRead (began pointers) 0x2F00 1 = true ∧ canRead (began pointers) 0x31FE 2 = true ∧ canRead (began pointers) 0x3000 4 = true ∧
    canRead (began pointers) 0x3008 8 = true := by decide

theorem test_witness_ScalarStores : ([.st8 0 2 4 0, .st16 0 2 4 0, .st32 0 2 4 0, .st64 0 2 4 0x100] :
    List Instr).all (fun i => canBegin i pointers) = true ∧ Memory.wf pointers.mem = true ∧ canWrite (began pointers) 0x3000 1 = true ∧
    canWrite (began pointers) 0x3000 4 = true ∧ canWrite (began pointers) 0x2800 8 = true := by decide

theorem test_witness_MisalignedAccess : ([.ld16 0 2 6 0, .ld32 0 2 6 0, .ld64 0 2 6 0, .ld16N 0 2 6 0, .ld32N 0 2 6 0,
    .st16 0 2 6 0, .st32 0 2 6 0, .st64 0 2 6 0, .ldl 0 2 6, .stc 0 2 6 8] : List Instr).all (fun i => canBegin i pointers) =
    true ∧ ((began pointers).x 6).toNat % 2 ≠ 0 ∧ ((began pointers).x 6).toNat % 8 ≠ 0 := by decide

/-- The leaf of the first GiB has neither A nor D. -/
def untouched : State := withBytes 0x80001000 [0x1F] user

theorem test_witness_WalkFrame_sets : (∀ acc ∈ ([0, 1] : List Nat),
    okB (scalarPlace untouched.work 0 untouched.work.ctx.spt false 0x3000 acc) = true ∧
    (match walkFrom untouched.work 0 0x3000 (if bitB untouched.work.ctx.spt 0 then 4 else 3) (bitsN untouched.work.ctx.spt 12 40 * 4096) with
     | .ok l => l.entry &&& (if acc = 1 then 0xC0 else 0x40) == 0 && l.at_ == 0x80001000 && l.level == 2
     | .error _ => false) = true) ∧
    (match walkFrom user.work 0 0x3000 3 (bitsN user.work.ctx.spt 12 40 * 4096) with
     | .ok l => l.entry &&& 0xC0 == 0xC0
     | .error _ => false) = true ∧ inLocal (0x3000 : Word).toNat = false ∧ inLocal (stackTop 0 - 8) = true := by decide

theorem test_witness_WalkFrame : okB (scalarPlace user.work 0 user.work.ctx.spt false 0x3000 1) = true ∧
    okB (scalarPlace user.work 0 user.work.ctx.spt false (BitVec.ofNat 64 (stackTop 0 - 8)) 0) = true := by decide

def linked : State := after (.ldl 0 2 4) pointers

theorem test_witness_LinkedPair : canBegin (.ldl 0 2 4) pointers = true ∧ canRead (began pointers) 0x3000 8 = true ∧
    canBegin (.stc 0 10 4 8) linked = true ∧ canWrite (began linked) 0x3000 8 = true ∧
    (began linked).s.linkedTo ((began linked).x 4) = true ∧ canBegin (.stc 0 10 4 8) pointers = true ∧
    okB (scalarPlace (began pointers) 0 (began pointers).ctx.spt false 0x3000 1) = true ∧
    (began pointers).s.linkedTo ((began pointers).x 4) = false := by decide

theorem test_witness_Branches : ([.beq 0 2 4 0x1FF, .bne 0 2 4 0x100, .blt 0 2 4 0, .bge 0 2 4 0, .bltn 0 2 4 0,
    .bgen 0 2 4 0xFF] : List Instr).all (fun i => canBegin i pointers) = true := by decide

theorem test_witness_Jumps : ([.jal 0 0x1FFFFF, .jalr 0 2 4, .jalr 0 2 8, .nop 0] : List Instr).all (fun i => canBegin i pointers) =
    true ∧ ((began pointers).x 4).toNat % 4 = 0 ∧ ((began pointers).x 8).toNat % 4 ≠ 0 := by decide

/-! ### Witnesses: control registers, length and type -/

/-- The running unit's launch is entry 5 with serial number 1, cancelled. -/
def cancelledUnit : State :=
  let s := onSlot0 (fun v => { v with unit := { v.unit with lid := 4101 } }) user
  { s with toMach := s.toMach.setEntry 5 { Entry.reset with serial := 1, status := 1, cancelled := true } }

theorem test_witness_SetVectorLength : canBegin (.setvl 0 2 4) cancelledUnit = true ∧
    (began cancelledUnit).m.cancelledLid (began cancelledUnit).s.unit.lid = true ∧ canBegin (.setvl 0 2 4) user = true ∧
    (began user).m.cancelledLid (began user).s.unit.lid = false ∧ (began user).x 4 = 0 ∧
    (let w := began pointers
     canBegin (.setvl 0 2 4) pointers = true ∧ w.m.cancelledLid w.s.unit.lid = false ∧ w.x 4 ≠ 0 ∧ w.s.unit.st ≠ .stop ∧ w.s.unit.wms = [] ∧
      w.s.stops = false ∧ bitB w.s.sup.trcctl 0 = false ∧ bitB w.job.calmode 1 = false ∧ bitB w.job.calmode 2 = false) ∧
    (let s := onSlot0 (fun v => { v with unit := { v.unit with st := .stop } }) pointers
     canBegin (.setvl 0 2 4) s = true ∧ (began s).m.cancelledLid (began s).s.unit.lid = false ∧ (began s).x 4 ≠ 0) ∧
    (let s := onSlot0 (fun v => { v with sup := { v.sup with dbgctl := 1 } }) pointers
     canBegin (.setvl 0 2 4) s = true ∧ (began s).s.stops = true ∧ (began s).x 4 ≠ 0 ∧ (began s).s.unit.st ≠ .stop) ∧
    (let k : Watermark := { producer := some 5, rnum := 1, rden := 1, offset := 0, addr := 0x7000 }
     let t := pointers.toMach.setEntry 5 { Entry.reset with serial := 1, status := 2 }
     let s := onSlot0 (fun v => { v with unit := { v.unit with wms := [k] } }) { pointers with toMach := t }
     canBegin (.setvl 0 2 4) s = true ∧ (∀ m ∈ (began s).s.unit.wms, m.status (began s).m = 2)) := by decide

theorem test_witness_VectorLengthAndType : user.work.s.ctl.fmt.toNat ≤ 12 ∧ canBegin (.setvt 0 2 4) (withX [(4, 0x83C)] user) = true ∧ canBegin (.setvt 0 2 4) (withX [(4, 0x83D)] user) = true := by decide

theorem test_witness_ControlRegisters : canBegin (.rdc 0 2 0x14) user = true ∧ canBegin (.wrc 0 2 0x07) user = true ∧
    canBegin (.wrc 0 2 0x104) sup = true ∧ okB ((began sup).writeSupCsr 0x104 5) = true ∧ (began sup).s.regs.level = .supervisor ∧
    (began user).s.regs.level = .user := by decide

theorem test_witness_RegisterWriteEvents : (user.work.putVtype 0x83C).isSome = true ∧ user.work.putVtype 0x83D = none ∧
    sup.work.s.regs.level = .supervisor ∧ (vhotKey sup.work.s.sup.vhotsel).isSome = true ∧ user.engines = [] ∧ Memory.wf user.mem = true ∧
    (let s := onCore0 (fun c => { c with owner := some 0, tstate := 2 }) sup
     s.work.s.regs.level = .supervisor ∧ s.work.core.owner = some s.cur ∧ 2 ≤ s.work.core.tstate ∧ 2 ≤ (3 : Word).toNat % 4) ∧
    (let s := onCore0 (fun c => { c with owner := some 0, tstate := 2, nr := true, nrElt := some 1 }) sup
     s.work.core.nr = true ∧ s.work.core.nrElt = some 1 ∧ 2 ≤ (0x12 : Word).toNat % 4 ∧ (0x12 : Word).getLsbD 4 = true) := by
  decide

/-! ### Witnesses: vector instructions -/

/-- The integer format i32, `vl` 2. -/
def ints : State := withCtl (fun c => { c with fmt := 2, vl := 2 }) user

/-- The floating format f32, `vl` 2. -/
def floats : State := withCtl (fun c => { c with vl := 2 }) user

theorem test_witness_VectorInteger : ([.vadd 0 false 2 4 6 false, .vsub 0 false 2 4 6 true, .vmin 0 false 2 4 6 false,
    .vmax 0 false 2 4 6 false, .vaddsat 0 false 2 4 6 true, .vsubsat 0 false 2 4 6 false, .vabs 0 false 2 4,
    .vneg 0 false 2 4, .vand 0 false 2 4 6 true, .vor 0 false 2 4 6 false, .vxor 0 false 2 4 6 false,
    .vsll 0 false 2 4 6 true, .vsrl 0 false 2 4 6 false, .vsra 0 false 2 4 6 false, .vmul 0 false 2 4 6 false,
    .vmulh 0 false 2 4 6 false, .vmadd 0 false 2 4 6 true, .vmsub 0 false 2 4 6 false, .vnmadd 0 false 2 4 6 false,
    .vdiv 0 false 2 4 6 false, .vmv 0 false 31 4, .vbcast 0 false 2 4] : List Instr).all (fun i => canBegin i ints) = true := by
  decide

theorem test_witness_VectorWideningAndConversions : ([.vwadd 0 false 2 4 6 false, .vwmul 0 false 2 4 6 true] :
    List Instr).all (fun i => canBegin i ints) = true ∧ ([.vcmpF 0 false 2 4 6 false 3, .vwaddF 0 false 2 4 6 false,
    .vwmulF 0 false 2 4 6 true, .vcvt 0 false 2 4 8 5] : List Instr).all (fun i => canBegin i floats) = true := by decide

theorem test_witness_MasksAndScales : ([.vcmp 0 false 2 4 6 false 3, .vsel 0 false 2 4 6 true, .mand 0 false 2 4 6,
    .mor 0 false 2 4 6, .mxor 0 false 2 4 6, .mnot 0 false 2 4, .msbf 0 false 2 4, .mset 0 false 2 4, .mpopc 0 false 2 4,
    .mfirst 0 false 2 4, .viota 0 false 2 4] : List Instr).all (fun i => canBegin i ints) = true := by decide

theorem test_witness_VectorFloating : ([.vaddF 0 false 2 4 6 false, .vsubF 0 false 2 4 6 true, .vminF 0 false 2 4 6 false,
    .vmaxF 0 false 2 4 6 false, .vabsF 0 false 2 4, .vnegF 0 false 2 4, .vmulF 0 false 2 4 6 false, .vdivF 0 false 2 4 6 false,
    .vmaddF 0 false 2 4 6 true, .vmsubF 0 false 2 4 6 false, .vnmaddF 0 false 2 4 6 false, .vsqrt 0 false 2 4, .vrcpa 0 false 2 4,
    .vrsqa 0 false 2 4, .vrcps 0 false 2 4 6, .vrsqs 0 false 2 4 6, .vclass 0 false 2 4, .vapsc 0 false 2 4 6] :
    List Instr).all (fun i => canBegin i floats) = true := by decide

/-- x4 holds an address in the slot's own stack, x6 its last word, x8 the stride 2. -/
def vectors : State := withX [(4, BitVec.ofNat 64 (stackTop 0 - 64)), (6, BitVec.ofNat 64 (stackTop 0 - 4)), (8, 2)] floats

theorem test_witness_vldsc : (let w := began vectors
    let plan (j : Nat) : Except EFault (List Req) := (w.req (w.x 4 + w.x 8 * BitVec.ofNat 64 j) 2 false false).map (fun r => [r])
    let good := (planAll plan (List.range 1)).1
    canBegin (.vldsc 0 false 2 4 8) vectors = true ∧ w.s.ctl.vl.toNat + 2 ^ w.s.ctl.blk.toNat - 1 = 33 ∧
    (w.s.ctl.vl.toNat + 2 ^ w.s.ctl.blk.toNat - 1) / 2 ^ w.s.ctl.blk.toNat = 1 ∧ (w.x 4).toNat % 2 = 0 ∧ (w.x 8).toNat % 2 = 0 ∧
    (planAll plan (List.range 1)).2.isNone = true ∧ okB (readable w.m (planLocs good)) = true ∧ firstPoison w.m good = none ∧
    okB ((((((planLocs good).foldl (fun w l => w.scrub l) w).putK 2 (good.map (fun p => (p.1, p.2.map w.reqBits)))).countHot 0
      good).countRemote (planLocs good)).sample 0 false false good 0) = true) ∧
    canBegin (.vldsc 0 false 2 4 8) user = true ∧ (began user).s.ctl.vl = 0 ∧ canBegin (.vmvscToScale 0 false 2 4) user = true ∧
    canBegin (.vmvscFromScale 0 false 2 4) user = true := by decide +kernel

/-- Whether every element of a plan passes its checks and can be read, or written. -/
def plans (w : Work) (write : Bool) (plan : Nat → Except EFault (List Req)) : Bool :=
  let p := planAll plan w.active
  p.2.isNone && okB (if write then writable w.m w.m.cur (planLocs p.1) else readable w.m (planLocs p.1)) &&
    (firstPoison w.m p.1).isNone

/-- A shape of one dimension: 64 elements of f32 in the slot's stack. -/
def shapeReg : VReg :=
  ([(0, stackTop 0 - 256), (1, 0x00A1), (2, 64), (6, 4)] : List (Nat × Nat)).foldl (fun v p => putBits v (64 * p.1) 64 p.2) 0

def shaped : State := onSlot0 (fun v => { v with regs := { v.regs with v := [(10, shapeReg)] } }) vectors

theorem test_witness_VectorLoads : (let w := began vectors
    ([.vld 0 false 2 4 false, .vlds 0 false 2 4 false, .vldx 0 false 2 4 6 false false, .vlseg 0 false 2 4 10 false 1] :
      List Instr).all (fun i => canBegin i vectors) = true ∧ w.active = [0, 1] ∧
    plans w false (fun e => (w.req (w.x 4 + BitVec.ofNat 64 4 * BitVec.ofNat 64 e) 4 false false).map (fun r => [r])) = true ∧
    plans w false (fun e => (w.req (w.x 4 + w.s.ctl.vstride * BitVec.ofNat 64 e) 4 false false).map (fun r => [r])) = true ∧
    plans w false (w.indexedPlan false false false 4 6) = true ∧ plans w false (w.fields false false 4 (codeBytes 10) 2) = true ∧
    okB ((w.loadedElems 0 (fun w _ => w) []).sample 0 false false [] 0) = true) := by decide +kernel

theorem test_witness_VectorStores : (let w := began vectors
    ([.vst 0 false 2 4 false false, .vsts 0 false 2 4 false false, .vstx 0 false 2 4 6 false false false,
      .vstxu 0 false 2 4 6 false false false, .vsseg 0 false 2 4 10 false false 1] : List Instr).all (fun i => canBegin i vectors) =
      true ∧ okB (w.progress false) = true ∧
    plans w true (fun e => (w.req (w.x 4 + BitVec.ofNat 64 4 * BitVec.ofNat 64 e) 4 true false).map (fun r => [r])) = true ∧
    plans w true (fun e => (w.req (w.x 4 + w.s.ctl.vstride * BitVec.ofNat 64 e) 4 true false).map (fun r => [r])) = true ∧
    plans w true (w.indexedPlan true false false 4 6) = true ∧ plans w true (w.fields true false 4 (codeBytes 10) 2) = true ∧
    okB (w.sample 0 false true [] 0) = true) := by decide +kernel

theorem test_witness_tensors : (let w := began shaped
    canBegin (.vldt 0 false 2 10 12 false) shaped = true ∧ canBegin (.vstt 0 false 2 10 12 false false) shaped = true ∧
    (match readShape (w.v 10) with
     | .ok g => plans w false (w.tensorPlan g false false 0) && plans w true (w.tensorPlan g true false 0)
     | .error _ => false) = true) := by decide +kernel

/-- Whether a load's first failing element is n, with a bounds check or without. -/
def failsAt (w : Work) (plan : Nat → Except EFault (List Req)) (n : Nat) (bounds : Bool) : Bool :=
  match planAll plan w.active with
  | (l, some (e, .flt c _)) => e == n && (c == 0x0F) == bounds && okB (readable w.m (planLocs l)) && (firstPoison w.m l).isNone
  | _ => false

/-- A shape of 64 elements of f32 whose second element lies above the slot's stack. -/
def shortShape : VReg :=
  ([(0, stackTop 0 - 4), (1, 0x00A1), (2, 64), (6, 4)] : List (Nat × Nat)).foldl (fun v p => putBits v (64 * p.1) 64 p.2) 0

theorem test_witness_FaultOnlyFirst_forms :
    (let s := onSlot0 (fun v => { v with regs := { v.regs with v := [(5, putBits 0 32 32 4), (10, shortShape)] } })
       (withCtl (fun c => { c with vstride := 4 })
         (withX [(4, BitVec.ofNat 64 (stackTop 0 - 4)), (5, 2), (6, BitVec.ofNat 64 (stackTop 0 - 8)), (8, BitVec.ofNat 64 (stackTop 0))] floats))
     let w := began s
     ([.vlds 0 false 2 4 false, .vldx 0 false 2 4 5 false false, .vldx 0 false 2 4 5 false true, .vlseg 0 false 2 6 10 false 1,
       .vldt 0 false 2 10 12 false] : List Instr).all (fun i => canBegin i s) = true ∧ s.work.s.thr.binds = [] ∧
     failsAt w (fun e => (w.req (w.x 4 + w.s.ctl.vstride * BitVec.ofNat 64 e) 4 false false).map (fun r => [r])) 1 false = true ∧
     failsAt w (fun e => (w.req (w.x 8 + w.s.ctl.vstride * BitVec.ofNat 64 e) 4 false false).map (fun r => [r])) 0 false = true ∧
     failsAt w (w.indexedPlan false false false 4 5) 1 false = true ∧ failsAt w (w.indexedPlan false false false 8 5) 0 false = true ∧
     failsAt w (w.indexedPlan false false true 4 5) 1 true = true ∧ failsAt w (w.indexedPlan false false true 4 7) 0 true = true ∧
     failsAt w (w.fields false false 6 (codeBytes 10) 2) 1 false = true ∧
     failsAt w (w.fields false false 4 (codeBytes 10) 2) 0 false = true ∧
     (match readShape (w.v 10) with
      | .ok g => failsAt w (w.tensorPlan g false false 0) 1 false && failsAt w (w.tensorPlan g false false 1) 0 false
      | .error _ => false) = true) := by decide +kernel

theorem test_witness_FaultOnlyFirst : (let s := withX [(4, BitVec.ofNat 64 (stackTop 0 - 4)), (6, 0x3000)] floats
    let w := began s
    let plan (a : Reg) (e : Nat) := (w.req (w.x a.val + BitVec.ofNat 64 (w.ew / 8) * BitVec.ofNat 64 e) (w.ew / 8) false false).map
      (fun r => [r])
    let fails (p : List (Nat × List Req) × Option (Nat × EFault)) (n : Nat) : Bool := match p.2 with
      | some (e, .flt c _) => e == n && c != 0x0F
      | _ => false
    canBegin (.vld 0 false 2 4 false) s = true ∧ canBegin (.vld 0 false 2 6 false) s = true ∧
    fails (planAll (plan 4) w.active) 1 = true ∧ fails (planAll (plan 6) w.active) 0 = true ∧ w.active.head? = some 0 ∧
    s.work.s.thr.binds = []) := by decide

/-- v10 holds a stream binding's record, v12 nothing. -/
theorem test_witness_binding : canBegin (.vpf 0 false 4 false) vectors = true ∧ canBegin (.vunbind 0 false 2) vectors = true ∧
    canBegin (.vbind 0 false 2 10) vectors = true ∧
    (∃ v : VReg, okB (readBinding 2 v false) = true) := by
  refine ⟨by decide +kernel, by decide +kernel, by decide +kernel, ([(0, stackTop 0 - 256), (1, 4), (2, 0x0A), (5, 64)] : List (Nat × Nat)).foldl
    (fun v p => putBits v (64 * p.1) 64 p.2) 0, by decide +kernel⟩

/-! ### Witnesses: cross-lane, sparse and fibre instructions -/

theorem test_witness_LaneExchange : ([.vperm 0 false 2 4 6, .vslu 0 false 2 4 6, .vsld 0 false 2 4 6, .vcompress 0 false 2 4,
    .vexpand 0 false 2 4, .vred 0 false 2 4 6 false 0, .vscan 0 false 2 4 6 false 0] : List Instr).all (fun i => canBegin i ints) =
    true ∧ (let w := began ints
      let op := w.redOp false 0
      ((foldTree op 4 ((List.range 16).map (lanePartial op (w.elemV 4) w.active 16))).headD none).isSome = true) ∧
    (let w := began (withFmt 2 user)
      let op := w.redOp false 0
      (foldTree op 4 ((List.range 16).map (lanePartial op (w.elemV 4) w.active 16))).headD none = none) := by decide +kernel

/-- x4 holds the address of a block of one `vpend` and 63 `nop`. -/
def episode : State :=
  withBytes 0x4000 (leBytes 4 (encode (.vpend 0 false)) ++ (List.replicate 63 (leBytes 4 (encode (.nop 0)))).flatten)
    (withX [(4, 0x4000)] floats)

theorem test_witness_Episodes : canBegin (.vfetch 0 false 4) episode = true ∧ ((began episode).x 4).toNat % 256 = 0 ∧
    (match ((began episode).mapThr (fun t => { t with wins := [] })).checkBlock 0x4000 64 with
     | .ok (block, w1) => okB (Vp.episode { w := w1.mapThr (fun t => { t with binds := [] }), inbox := [], sent := [], written := [] }
         (began episode).s 0x4000 block none (began episode).active)
     | .error _ => false) = true ∧ floats.work.s.issues = true := by decide +kernel

/-- x4 holds the address of the block `vprecv v3`, `vpsend v2`, `vpend`, as x6 holds that of a block that ends in `vpbr v5`. -/
def passing : State :=
  withBytes 0x5000 (leBytes 4 (encode (.vpbr 0 false 5)))
    (withBytes 0x4000 ((([.vprecv 0 false 3, .vpsend 0 false 2, .vpend 0 false] : List Instr).map (fun i => leBytes 4 (encode i))).flatten)
      (onSlot0 (fun v => { v with regs := { v.regs with v := [(2, putBits 7 32 32 8)] } }) (withX [(4, 0x4000), (6, 0x5000)] floats)))

theorem test_witness_EpisodeWords : canBegin (.vfetch 0 false 4) passing = true ∧ (0x4000 : Word).toNat % 256 = 0 ∧
    (match ((began passing).mapThr (fun t => { t with wins := [] })).checkBlock 0x4000 64 with
     | .ok (block, w1) => block == [.vprecv 0 false 3, .vpsend 0 false 2, .vpend 0 false] && w1.elemV 5 0 == 0
     | .error _ => false) = true ∧
    okB ((began passing).checkBlock (0x5000 + BitVec.ofNat 64 (256 * ((began passing).elemV 5 0 % 256))) 64) = true ∧
    (let p (inbox : List Nat) : Vp := { w := began passing, inbox := inbox, sent := [], written := [] }
     (p []).inbox = [] ∧ (p [7, 8]).inbox = 7 :: [8]) := by decide +kernel

theorem test_witness_ConflictDetection : ([.vconf 0 false 2 4, .vcomb 0 false 2 4 6, .visect 0 false 2 4 6] : List Instr).all
    (fun i => canBegin i ints) = true := by decide

/-- Slot 0 has the coordinate store, 64-bit integer format, `vl` 2. -/
def stored : State := withCtl (fun c => { c with fmt := 3, vl := 2 }) store

theorem test_witness_CoordinateStore : ([.cins 0 false 2 4, .clook 0 false 2 4 6, .cacc 0 false 2 4, .cdrain 0 false 2, .cclr 0 false] :
    List Instr).all (fun i => canBegin i stored && canBegin i (withFmt 3 floats)) = true ∧ (began stored).s.unit.ccs = true ∧
    (began floats).s.unit.ccs = false ∧ floats.work.s.thr.binds = [] ∧ (began floats).s.ctl.vstart = 0 := by decide

theorem test_witness_LinkedGatherScatter : canBegin (.vgathl 0 false 2 4 10 false) vectors = true ∧
    canBegin (.vscatc 0 false 2 4 10 false 3) vectors = true ∧
    (let w := began vectors
     plans w.dropHolds false (w.indexedPlan false false false 4 10) = true ∧ plans w true (w.indexedPlan true false false 4 10) = true ∧
     okB (w.dropHolds.sample 2 false false [] 0) = true ∧ okB (w.dropHolds.sample 2 false true [] 0) = true) := by decide +kernel

/-- Slot 5 holds the line of the word that x4 names for its linked sequence. -/
def heldByOther (s : State) : State :=
  let line := match (began s).req ((began s).x 4) 4 false false with | .ok r => lineOf (r.locs.headD 0) | .error _ => 0
  let m := s.toMach.setSlot 5 { s.toMach.slot 5 with thr := { (s.toMach.slot 5).thr with linkRun := some 0 } }
  { s with toMach := { m with pkg := { m.pkg with holds := [(line, 5)] } } }

/-- The pod has 1,024 packages. -/
def podOf (s : State) : State := { s with pkg := { s.toMach.pkg with podSize := 1024 } }

/-- The vector address in x4 maps to another package. -/
def elsewhere : State :=
  podOf (onCtx (fun c => { c with vpt := [(0, 0x10000000000007)] }) (withX [(4, 0x1000)] floats))

theorem test_witness_LinkedGatherScatter_waits :
    (let w := began (heldByOther vectors)
     canBegin (.vgathl 0 false 2 4 10 false) (heldByOther vectors) = true ∧
     okB (w.unheld ((planLocs (planAll (w.indexedPlan false false false 4 10) w.active).1).map lineOf)) = false ∧
     okB ((began vectors).unheld ((planLocs (planAll ((began vectors).indexedPlan false false false 4 10) [0, 1]).1).map lineOf)) = true) ∧
    (let w := began elsewhere
     canBegin (.vscatc 0 false 2 4 10 false 3) elsewhere = true ∧ w.active.head? = some 0 ∧
     (match w.indexedPlan true false false 4 10 0 with
      | .ok rs => (rs.find? (fun q => q.locs.any isRemote)).isSome
      | .error _ => false) = true) := by decide +kernel

theorem test_witness_fibres : canBegin (.fibdef 0 false 4) (withX [(4, 0x4000)] user) = true ∧ canBegin (.fibend 0 false) user = true ∧
    okB ((began (withX [(4, 0x4000)] user)).loadRun 0x4000 48) = true ∧ (0x4000 : Word).toNat % 64 = 0 ∧
    ((onSlot0 (fun v => { v with thr := { v.thr with fibre := some { desc := 0x4000, words := [], pos := 0 } } })
      user).toMach.slot 0).thr.fibre.isSome = true := by decide

theorem test_witness_ElementWrites : (32 ∈ ([8, 16, 32, 64] : List Nat)) ∧ (∀ p ∈ ([(0, 5), (511, 6)] : List (Nat × Nat)), p.1 < 16384 / 32) ∧
    (([(0, 5), (511, 6)] : List (Nat × Nat)).map (fun p => p.1)).Nodup ∧
    (planLocs [(0, [{ a := 0, locs := [64, 65] }]), (1, [{ a := 2, locs := [66, 67] }])]).Nodup := by decide

/-! ### Witnesses: tile and weight-buffer instructions -/

/-- Slot 0 owns the tile group; x4 holds an address in its stack, x6 a row, x8 a count. -/
def tiled : State := onCore0 (fun c => { c with owner := some 0, tstate := 1 })
  (withX [(4, BitVec.ofNat 64 (stackTop 0 - 0x4000)), (6, 63), (8, 1)] user)

theorem test_witness_TileClaim : canBegin (.ten 0) user = true ∧ (began user).core.owner = none ∧ canBegin (.ten 0) tiled = true ∧
    (began tiled).core.owner = some (began tiled).m.cur ∧ canBegin (.tdis 0) tiled = true ∧ (began tiled).s.mseq.st ≠ .running ∧
    canBegin (.ten 0) (onCore0 (fun c => { c with owner := some 1, tstate := 1 }) user) = true ∧
    (let s := onSlot0 (fun v => { v with mseq := { v.mseq with st := .running } }) tiled
     canBegin (.tdis 0) s = true ∧ (began s).s.mseq.st = .running ∧ (began s).core.owner = some (began s).m.cur) := by decide

/-- The row checksums are on; the lanes err in rows as listed, one for each computation to come (log 54). -/
def checked (upset : List Nat) : State := withFmt 0 (onCore0 (fun c => { c with elt := 2, cen := true, upset := upset }) tiled)

theorem test_witness_checksums : canBegin (.tmop 0 0 7 4 6) (checked []) = true ∧ canBegin (.tmop 0 0 7 4 6) (checked [3, 3]) = true ∧
    (began (checked [])).core.cen = true ∧ (began (checked [])).fmt = 0 ∧ (began (checked [])).core.upset = [] ∧
    (began (checked [3, 3])).core.upset = [3, 3] ∧ 3 ∈ (began (checked [3, 3])).enabledRows 0 ∧
    (began (checked [3, 3])).enabledCols 0 ≠ [] := by decide +kernel

theorem test_witness_TileOuterProduct : canBegin (.tzero 0 0 0) tiled = true ∧ canBegin (.tmop 0 3 7 4 6) (withFmt 9 tiled) = true ∧
    (began tiled).core.cen = false := by decide

/-- A weight format of bf16 blocks, dense, and structured with N = 2. -/
def products (cmp nsel : Nat) : State := withFmt 9 (onCore0 (fun c => { c with elt := 1, cmp := cmp, nsel := nsel }) tiled)

theorem test_witness_tmma : (let w := began (products 0 0)
    let src := w.tileSrc 10 12
    canBegin (.tmma 0 3 7 10 12 false false) (products 0 0) = true ∧ w.core.cmp ≠ 1 ∧ w.core.cen = false ∧
    okB (w.checkA src false false (w.fmt == 9) 2048) = true ∧
    (match w.denseBlock (w.x 12) src.since with
     | .ok (offs, _) => okB (w.operandsReady src (w.aBlockBytes false false false 2 16 src) offs)
     | .error _ => false) = true) := by decide +kernel

theorem test_witness_tmms : (let w := began (products 1 1)
    let src := w.tileSrc 10 12
    canBegin (.tmms 0 3 7 10 12 false false) (products 1 1) = true ∧ w.core.cmp = 1 ∧ w.core.cen = false ∧
    okB (w.checkA src false false (w.fmt == 9) 2048) = true ∧
    (match w.structuredBlock (w.x 12) with
     | .ok (offs, _) => okB (w.operandsReady src (w.aBlockBytes false false false 2 16 src) offs)
     | .error _ => false) = true) := by decide +kernel

theorem test_witness_SplitPrecision : (let s := withFmt 11 tiled
    let w := began s
    let src := w.tileSrc 10 12
    canBegin (.tmf64 0 3 6 10 12 false false) s = true ∧ okB (w.checkA src false false true 2048) = true ∧
    okB (w.wbBlock (w.x 12) 2048) = true ∧
    okB (w.operandsReady src (w.aBlockBytes false false true 8 4 src) (offsets 0 2048)) = true ∧
    w.core.cen = false) := by decide +kernel

theorem test_witness_TileMoves : canBegin (.trowmv 0 7 2 6 true) tiled = true ∧ canBegin (.tcolmv 0 7 2 6 false) tiled = true ∧
    ((began tiled).x 6).toNat < 64 ∧ canBegin (.tvmv 0 7 4 true) tiled = true ∧ canBegin (.tvmv 0 7 4 false) tiled = true ∧
    (began tiled).prot = false := by decide

/-- A place that nothing keeps back. -/
def freePlace (w : Work) (x : Nat) : Bool :=
  (w.m.lostAt x).isNone && !w.m.owned (lineOf x) && !isRemote x && !w.m.heldFor w.m.cur (lineOf x) && !w.m.poisoned x &&
    !w.s.unit.lost.contains (lineOf x)

theorem plan_of_all (plan : Nat → Except EFault (List Req)) (good : Nat → Bool) (es : List Nat)
    (h : es.all (fun e => match plan e with
      | .ok rs => rs.all (fun r => r.locs.all good)
      | .error _ => false) = true) :
    ∃ l, planAll plan es = (l, none) ∧ ∀ p ∈ l, ∀ r ∈ p.2, ∀ x ∈ r.locs, good x = true := by
  induction es with
  | nil => exact ⟨[], rfl, by simp⟩
  | cons e es ih =>
    simp only [List.all_cons, Bool.and_eq_true] at h
    obtain ⟨h1, h2⟩ := h
    obtain ⟨l, hl, hg⟩ := ih h2
    cases hp : plan e with
    | error f => simp [hp] at h1
    | ok rs =>
      simp only [hp, List.all_eq_true] at h1
      refine ⟨(e, rs) :: l, by simp [planAll, hp, hl], ?_⟩
      intro p hm
      rcases List.mem_cons.1 hm with rfl | hm
      · exact h1
      · exact hg p hm

theorem free_plan (w : Work) (l : List (Nat × List Req))
    (h : ∀ p ∈ l, ∀ r ∈ p.2, ∀ x ∈ r.locs, freePlace w x = true) :
    readable w.m (planLocs l) = .ok () ∧ writable w.m w.m.cur (planLocs l) = .ok () ∧ lostAddr w.s.unit.lost false l = none ∧
      firstPoison w.m l = none := by
  simp only [freePlace, Bool.and_eq_true, Bool.not_eq_true', Option.isNone_iff_eq_none] at h
  have hm : ∀ x ∈ planLocs l, ∃ p ∈ l, ∃ r ∈ p.2, x ∈ r.locs := by
    simp only [planLocs, List.mem_flatMap]
    intro x hx
    exact hx
  have h1 : (planLocs l).any (fun x => w.m.owned (lineOf x)) = false := by
    rw [List.any_eq_false]
    intro x hx
    obtain ⟨p, hp, r, hr, hx⟩ := hm x hx
    simp [(h p hp r hr x hx).1.1.1.1.2]
  have h2 : (planLocs l).findSome? w.m.lostAt = none := by
    rw [List.findSome?_eq_none_iff]
    intro x hx
    obtain ⟨p, hp, r, hr, hx⟩ := hm x hx
    exact (h p hp r hr x hx).1.1.1.1.1
  have h3 : (planLocs l).any (fun x => w.m.heldFor w.m.cur (lineOf x)) = false := by
    rw [List.any_eq_false]
    intro x hx
    obtain ⟨p, hp, r, hr, hx⟩ := hm x hx
    simp [(h p hp r hr x hx).1.1.2]
  have hr : readable w.m (planLocs l) = .ok () := by simp only [readable, h1, h2, Bool.false_eq_true, if_false]
  refine ⟨hr, by simp [writable, hr, h3, bind, Except.bind], ?_, ?_⟩
  · simp only [lostAddr, List.findSome?_eq_none_iff]
    intro p hp r hr
    rw [Option.map_eq_none_iff, List.findIdx?_eq_none_iff]
    intro x hx
    exact (h p hp r hr x hx).2
  · simp only [firstPoison, List.findSome?_eq_none_iff]
    intro p hp r hr
    rw [if_neg]
    simp only [List.any_eq_true, not_exists, not_and]
    intro x hx
    simp [(h p hp r hr x hx).1.2]

/-- The plan of a tile transfer of the witness. -/
def tilePlan' (write : Bool) (e : Nat) : Except EFault (List Req) :=
  ((began tiled).req ((began tiled).x 4 + BitVec.ofNat 64 (4 * e)) 4 write false).map (fun r => [r])

def tileAll (write : Bool) : Bool := (List.range 4096).all (fun e => match tilePlan' write e with
  | .ok rs => rs.all (fun r => r.locs.all (freePlace (began tiled)))
  | .error _ => false)

theorem tile_all : tileAll false = true ∧ tileAll true = true := by decide +kernel

theorem test_witness_TileMemory : canBegin (.tld 0 7 4 false) tiled = true ∧ canBegin (.tst 0 7 4 false) tiled = true ∧
    ((began tiled).x 4).toNat % 64 = 0 ∧
    (∃ l, planAll (tilePlan' false) (List.range 4096) = (l, none) ∧ readable (began tiled).m (planLocs l) = .ok () ∧
      lostAddr (began tiled).s.unit.lost false l = none ∧ firstPoison (began tiled).m l = none) ∧
    (∃ l, planAll (tilePlan' true) (List.range 4096) = (l, none) ∧
      writable (began tiled).m (began tiled).m.cur (planLocs l) = .ok ()) := by
  refine ⟨by decide, by decide, by decide, ?_, ?_⟩
  · obtain ⟨l, hl, hg⟩ := plan_of_all _ (freePlace (began tiled)) _ tile_all.1
    obtain ⟨h1, -, h3, h4⟩ := free_plan _ _ hg
    exact ⟨l, hl, h1, h3, h4⟩
  · obtain ⟨l, hl, hg⟩ := plan_of_all _ (freePlace (began tiled)) _ tile_all.2
    obtain ⟨-, h2, -, -⟩ := free_plan _ _ hg
    exact ⟨l, hl, h2⟩

theorem test_witness_WeightBuffer : Memory.wf tiled.mem = true ∧ (let w := began tiled
    let l := planAll (fun e => (w.req (w.x 4 + BitVec.ofNat 64 (64 * e)) 64 false false).map (fun r => [r])) (List.range 32)
    canBegin (.wbld 0 4 10) tiled = true ∧ (w.x 4).toNat % 64 = 0 ∧ (w.x 10).toNat = 0 ∧ l.2.isNone = true ∧
    okB (readable w.m (planLocs l.1)) = true ∧
    (List.range 2048).all (fun i => !w.m.ownedBefore (w.tileSrc 4 10).since (wbLoc 0 (0 + i) / 64)) = true ∧
    lostAddr w.s.unit.lost false l.1 = none ∧ firstPoison w.m l.1 = none ∧ canBegin (.wbfmt 0 8) tiled = true ∧
    canBegin (.tchk 0 8) tiled = true ∧ canBegin (.tchkrd 0 8) tiled = true ∧ (w.x 8).toNat = 1) := by decide +kernel

/-- Slot 0 has an instruction in its window; all 16 lanes have arrived. -/
def inWindow (i : Instr) (s : State) : State :=
  onSlot0 (fun v => { v with thr := { v.thr with window := [{ (s.work.newFlight i) with arrivals := 0xFFFF }] } }) s

/-- The head of core 0's queue is a word. -/
def queued (word : Nat) : State :=
  onCore0 (fun c => { c with queue := [{ word := word, opa := 0, opb := 0, ksteps := 0 }] }) tiled

theorem test_witness_MatrixCommands : ((queued 0).toMach.core 0).owner = some 0 ∧ commandInstr 0 = none ∧
    (let word := encode (.tzero 0 0 0)
     let src (s : State) : TileSrc :=
       { own := false, fmt := s.work.fmt, slc := s.work.s.ctl.slc.toNat, rm := s.work.rm, opa := 0, opb := 0, since := s.pkg.nextCopy, lost := [] }
     let word2 := encode (.tmma 0 0 2 10 9 true true)
     (commandInstr word).isSome = true ∧ (commandInstr word2).isSome = true ∧
     (queued word).work.offerFault (.tzero 0 0 0) (src (queued word)) word = none ∧
     ((withFmt 2 (queued word2)).work.offerFault (.tmma 0 0 2 10 9 true true) (src (withFmt 2 (queued word2))) word2).isSome = true) ∧
    ((queued 0).toMach.core 0).queue.length = 1 := by decide +kernel

/-! ### Witnesses: instructions in flight -/

/-- The oldest entry of slot 0's window with the work that it leaves at its end. -/
def flightOf (s : State) : Option (InFlight × Work) :=
  match Work.inFlight (State.work { s with cur := 0 }) with
  | some (f, w) => (match w.runFlight f (meaningOf f.instr) with | .ok w1 => some (f, w1) | .error _ => none)
  | none => none

/-- The core's tile unit holds a `tzero` of the command queue, at which all 16 lanes have arrived. -/
def offered (mismatched : Bool) : State :=
  let src : TileSrc := { own := false, fmt := 10, slc := 3, rm := 0, opa := 0, opb := 0, since := 0, lost := [] }
  let op : TileOp :=
    { bySeq := false, instr := .tzero 0 0 0, word := encode (.tzero 0 0 0), src := src, ksteps := 0, arrivals := 0xFFFF, mismatched := mismatched,
      consumed := [], after := 0 }
  onCore0 (fun c => { c with tileOps := [op] }) tiled

theorem test_witness_CommitEvents_more : let s := inWindow (.vld 0 false 2 4 false) vectors
    (match flightOf s with
     | some (f, w) => (infoOf f.ctl.fmt f.instr).cls == .ld && !isRendezvous f.ctl.fmt f.instr && s.work.s.toRun f
     | none => false) = true ∧
    ((issuedAdd true).work.inFlight.any (fun p => !p.2.s.toRun p.1 && (infoOf p.1.ctl.fmt p.1.instr).cls != .scalar &&
      !isRendezvous p.1.ctl.fmt p.1.instr)) = true := by decide +kernel

/-- The tile unit holds a `tmma` of the command queue whose A block has an uncorrectable error in its first line, consumed before or
not. -/
def offeredPoison (consumed : List Word) : State :=
  let s := onSlot0 (fun v => { v with unit := { v.unit with clsp := true } }) (withFmt 9 (onCore0 (fun c => { c with elt := 1 }) tiled))
  let i : Instr := .tmma 0 3 7 10 12 true false
  let op : TileOp :=
    { bySeq := false, instr := i, word := encode i, src := { s.work.tileSrc 10 12 with opa := BitVec.ofNat 64 lspBase }, ksteps := 0, arrivals := 0xFFFF,
      mismatched := false, consumed := consumed, after := 0 }
  let s := onCore0 (fun c => { c with tileOps := [op] }) s
  { s with toMach := { s.toMach with pkg := { s.toMach.pkg with poison := [(lineOf (lspLoc 0 0), 3)] } } }

theorem test_witness_CommitEvents_poison :
    let stval : Word := BitVec.ofNat 64 lspBase
    let ends (s : State) : Bool := match s.toMach.laneOp 0 with
      | some op => op.arrivals == 0xFFFF && (match s.work.tileWork 0 op with
        | .error (.trap _ t) => t.cause == 0x10 && t.stval == stval
        | _ => false)
      | none => false
    ends (offeredPoison []) = true ∧ ends (offeredPoison [stval]) = true := by decide +kernel

theorem test_witness_CommitEvents :
    (let s := inWindow (.vadd 0 false 2 4 6 false) ints
     (match flightOf s with
      | some (f, _) => (infoOf f.ctl.fmt f.instr).cls != .scalar && !isRendezvous f.ctl.fmt f.instr && s.work.s.toRun f
      | none => false) = true) ∧
    (let s := inWindow (.ld64 0 2 4 1) pointers
     (match flightOf s with
      | some (f, _) => (infoOf f.ctl.fmt f.instr).cls == .scalar && !isRendezvous f.ctl.fmt f.instr &&
          (infoOf f.ctl.fmt f.instr).lat.isNone && (infoOf f.ctl.fmt f.instr).wr != []
      | none => false) = true) ∧
    (let s := inWindow (.vcompress 0 false 2 4) ints
     (match flightOf s with
      | some (f, _) => isRendezvous f.ctl.fmt f.instr && !(infoOf f.ctl.fmt f.instr).tile && f.arrivals == 0xFFFF
      | none => false) = true) ∧
    (let s := inWindow (.tvmv 0 7 4 true) tiled
     (match flightOf s with
      | some (f, _) => isRendezvous f.ctl.fmt f.instr && (infoOf f.ctl.fmt f.instr).tile && f.arrivals == 0xFFFF
      | none => false) = true ∧ (s.toMach.core (coreOf 0)).owner = some 0 ∧ s.toMach.laneOp 0 = none) ∧
    ((offered false).toMach.laneOp 0).any (fun op => op.arrivals == 0xFFFF && okB ((offered false).work.tileWork 0 op)) = true := by
  decide +kernel

/-- A paired, protected context. -/
def paired (s : State) : State := onCtx (fun c => { c with prot := true, lockstep := true }) s

theorem test_witness_WindowEvents : (let s := paired (inWindow (.vcompress 0 false 2 4) ints)
     s.toMach.laneOp 0 = none ∧
     (match Work.inFlight (State.work { s with cur := 0 }) with
      | some (f, w) => isRendezvous f.ctl.fmt f.instr && w.s.thr.window == [] ++ [f] &&
          (infoOf f.ctl.fmt f.instr).cls != .scalar && w.prot && w.ctx.lockstep && !f.mismatched && !f.lanes.getLsbD 5
      | none => false) = true) ∧
    (let e : InFlight := { (issuedAdd true).work.newFlight (.vadd 0 false 2 4 6 false) with lanes := 0x20 }
     let s := onSlot0 (fun v => { v with thr := { v.thr with window := e :: v.thr.window } }) (inWindow (.vcompress 0 false 2 4) ints)
     s.toMach.laneOp 0 = none ∧
     (match s.work.s.thr.window with
      | [e, g] => e.lanes.getLsbD 5 && !g.lanes.getLsbD 5 && isRendezvous g.ctl.fmt g.instr
      | _ => false) = true ∧ (Work.inFlight (State.work { s with cur := 0 })).isSome = true) ∧
    ((offered false).toMach.laneOp 0).any (fun op => !op.mismatched) = true ∧
    ((offered true).toMach.laneOp 0).any (fun op => op.mismatched) = true ∧ (paired (offered true)).work.prot = true ∧
    (paired (offered true)).work.s.unit.st = .run := by decide +kernel

theorem test_witness_TrapEntryEvent : let s := inWindow (.trap 0 5) handled
    (match Work.nextTrap (State.work { s with cur := 0 }) with
     | some (w, t) => okB (w.takeTrap t)
     | none => false) = true := by decide +kernel

/-! ### Witnesses: copies -/

/-- Parameters of a copy in x4 and the registers after it. -/
def copyRegs (ps : List Word) : State := withX (ps.zipIdx.map (fun p => (4 + p.2, p.1))) user

/-- A copy instruction passes its checks, and its command takes its issue point. -/
def issues (s : State) (i : CopyIn) : Bool :=
  let w := began s
  match w.checkCopy (w.newCopy i (w.s.regs.level == .supervisor) 2 false) with
  | .ok (c0, w1) =>
    let c := c0.atIssue w1.m
    let w2 := (w1.toEngine c).setX 2 0xFFFFFFFFFFFFFFFF
    okB (claimCopy c (w2.mapThr (fun t => { t with pend := t.pend ++ [{ sup := inBank w2.s.regs.level 2, reg := 2, ident := c.ident }] })))
  | .error _ => false

def plain : State := copyRegs [0x5000, 0x6000, 100]
def rows : State := copyRegs [0x5000, 0x6000, 16, 4, 64, 64]

/-- A command issued from its parameters. -/
def issuesFrom (k : Nat) (ps sh : List Word) : Bool := issues (copyRegs ps) { code := k, params := ps, od := false, os := false, shape := sh }

theorem test_witness_CopyInstructions : ([.cpy 0 2 4 false false, .cpy2 0 2 4 false false, .cpyt 0 2 4 10 false false, .cpyr 0 2 4 false false,
    .cpym 0 2 4 false false, .cpyx 0 2 4 false false, .cpyfill 0 2 4 false, .cpybc 0 2 4 false false] : List Instr).all
      (fun i => canBegin i rows) = true ∧ (began rows).s.unit.remoteOut = 0 ∧
    issuesFrom 0 [0x5000, 0x6000, 100] [] = true ∧ issuesFrom 1 [0x5000, 0x6000, 16, 4, 64, 64] [] = true ∧
    issuesFrom 2 [0x5000, 8] [0x6000, 0x00A1, 64, 0, 0, 0, 4, 0, 0, 0] = true ∧
    issuesFrom 3 [0x5000, 0x6000, 0xA000000010] [] = true ∧
    issuesFrom 4 [BitVec.ofNat 64 (stackTop 0 - 0x4000), 0x6000, 64, 0x4000] [] = true ∧
    issuesFrom 5 [0x5000, 0x6000, 64, 0] [] = true ∧ issuesFrom 6 [0x5000, 0x11, 64] [] = true ∧
    issuesFrom 7 [BitVec.ofNat 64 (stackTop 0 - 0x4000), 0x6000, 64, 1] [] = true := by decide +kernel

/-- A copy of 100 bytes issued. -/
def copying : State := after (.cpy 0 2 4 false false) plain

/-- Its command, not yet accepted, or cancelled. -/
def withCopy (f : Copy → Copy) : State := { copying with toMach := copying.toMach.mapCopies f }

theorem test_witness_CopyEvents :
    (let s := withCopy (fun c => { c with accepted := false, lines := [] })
     (match s.toMach.inOrder ((s.toMach.engine 0).cmds.filter (fun c =>
        !c.accepted && !c.cancelled && !c.failedReq && c.request.isNone)) with
      | c :: _ => (match claimCopy c s.work with
        | .ok w1 => (w1.m.engine (clusterOf c.slot)).cmds.all (fun x => x.ident != c.ident || x.accepted)
        | .error _ => false)
      | [] => false) = true) ∧
    (match (copying.toMach.engine 0).cmds.find? (fun c => c.ident = copying.toMach.pkg.nextCopy - 1) with
     | some c => !c.cancelled && c.accepted && c.request.isNone && !c.failedReq && c.code == 0 &&
       (c.ownerFaultAtC copying.toMach).isNone && !c.waits copying.work && okB (c.run c.placedPieces copying.work)
     | none => false) = true ∧
    (let s := withCopy (fun c => { c with accepted := false, lines := [] })
     (match (s.toMach.engine 0).cmds.find? (fun c => c.ident = copying.toMach.pkg.nextCopy - 1) with
      | some c => !c.empty && c.doomed.isNone && (c.placing c.placedPieces s.work).1.misses.isEmpty &&
          (c.placing c.placedPieces s.work).1.lines.all (fun l => (c.placing c.placedPieces s.work).2.takes c.ident l)
      | none => false) = true) ∧
    ([withCopy (fun c => { c with cancelled := true }), withCopy (fun c => { c with failedReq := true, accepted := false }),
      withCopy (fun c => { c with doomed := some (0x0A, 7, 0) })] : List State).all (fun s =>
        (s.toMach.engine 0).cmds.any (fun c => c.ident == copying.toMach.pkg.nextCopy - 1 &&
          !c.imageBusy s.work &&
          (c.cancelled || c.failedReq || (c.accepted && c.request.isNone && (c.ownerFaultAtC s.toMach).isSome)))) = true := by
  decide +kernel

/-- A `cpym` into the LSP of the core, whose follow-on command is a `tzero`, accepted; the core has an owner, or its queue a length. -/
def following (owner : Option Nat) (len : Nat) : State :=
  let s := withBytes 0x4000 (leBytes 8 (encode (.tzero 0 0 0))) (copyRegs [BitVec.ofNat 64 lspBase, 0x6000, 64, 0x4000])
  let q : MatrixCommand := { word := 0, opa := 0, opb := 0, ksteps := 0 }
  let s := onSlot0 (fun v => { v with unit := { v.unit with clsp := true } }) s
  let t := after (.cpym 0 2 4 false false) (onCore0 (fun c => { c with owner := some 0, tstate := 1 }) s)
  onCore0 (fun c => { c with owner := owner, queue := List.replicate len q }) t

/-- The copy that a state has just issued is a `cpym` at its completion point, with nothing to wait for. -/
def followsNow (s : State) : Bool :=
  match (s.toMach.engine 0).cmds.find? (fun c => c.ident = s.toMach.pkg.nextCopy - 1) with
  | some c => !c.cancelled && c.accepted && !c.failedReq && c.request.isNone && (c.ownerFaultAtC s.toMach).isNone && c.code == 4 &&
      !c.waits s.work && okB (c.run c.placedPieces s.work) && c.target == some 0
  | none => false

theorem test_witness_CopyEvents_follow : followsNow (following (some 0) 0) = true ∧ followsNow (following (some 0) 31) = true ∧
    followsNow (following (some 0) 32) = true ∧ followsNow (following none 0) = true := by decide +kernel

/-! ### Witnesses: ordering, barriers and waits -/

/-- A unit with an access outstanding. -/
def busy : State := onSlot0 (fun v => { v with unit := { v.unit with remoteOut := 1 } }) user

theorem test_witness_Scopes : canBegin (.fence 0 3) user = true ∧ canBegin (.fence 0 3) busy = true ∧ canBegin (.acq 0 3) busy = true ∧
    canBegin (.rel 0 3) user = true ∧ (began user).s.unit.remoteOut = 0 ∧ (began busy).s.unit.remoteOut ≠ 0 ∧
    (began user).m.slots.all (fun p => p.2.unit.remoteOut == 0) = true ∧
    (let s := { user with toMach := user.toMach.setSlot 7 { user.toMach.slot 7 with unit := { (user.toMach.slot 7).unit with remoteOut := 1 } } }
     canBegin (.rel 0 3) s = true ∧ canBegin (.fence 0 3) s = true ∧ (began s).s.unit.remoteOut = 0 ∧
       (began s).m.slots.any (fun p => p.2.unit.remoteOut != 0) = true) := by decide

/-- Barrier slot 2 of cluster 0, of context 0. -/
def barrier (bar : Barrier) (s : State) : State := { s with toMach := s.toMach.setBarrier 2 { bar with ctx := some 0 } }

theorem test_witness_Barriers : let x := withX [(4, 2), (6, 3)] user
    let b := barrier { Barrier.reset with expect := 3, arrived := 2, gen := 5 } x
    let t := barrier { Barrier.reset with expect := 3, gen := 6 } (withCtl (fun c => { c with barseq := 0x500000082 }) x)
    (tabGet Barrier.reset (began x).m.barriers 2).ctx = none ∧ canBegin (.barinit 0 4 6 false) x = true ∧ ((began x).x 4).toNat = 2 ∧
    ((began x).x 6).toNat < 2 ^ 32 ∧ (tabGet Barrier.reset (began b).m.barriers 2).ctx = some (began b).s.unit.ctx ∧
    canBegin (.barinit 0 4 6 false) b = true ∧ canBegin (.bararr 0 4 2 false) b = true ∧
    canBegin (.barwait 0 4 false) (barrier Barrier.reset x) = true ∧
    (tabGet Barrier.reset (began (barrier Barrier.reset x)).m.barriers 2).expect = 0 ∧ (began x).s.ctl.barseq = 0 ∧
    (began x).m.cancelledLid (began x).s.unit.lid = false ∧ canBegin (.barwait 0 4 false) t = true ∧
    bitsN (began t).s.ctl.barseq 0 8 = 2 + 128 ∧ bitsN (began t).s.ctl.barseq 8 6 = 0 ∧
    (tabGet Barrier.reset (began t).m.barriers 2).gen.toNat ≠ bitsN (began t).s.ctl.barseq 32 32 := by decide

theorem test_witness_Barriers_clauses : let x := withX [(4, 2), (6, 3), (8, 64), (10, 0x100000000)] user
    let waits (t : Option (BitVec 32)) (s : State) : State := onSlot0 (fun v => { v with unit := { v.unit with waiting := some (.barrier t) } }) s
    let b := barrier { Barrier.reset with expect := 3, gen := 5 } x
    let t (q : Word) (c : Nat) : State := withCtl (fun v => { v with barseq := q })
      { x with toMach := x.toMach.setBarrier (c * 64 + 2) { Barrier.reset with ctx := some 0, expect := 3, gen := 5 } }
    canBegin (.barwait 0 4 false) cancelledUnit = true ∧ (began cancelledUnit).m.cancelledLid (began cancelledUnit).s.unit.lid = true ∧
    63 < ((began x).x 8).toNat ∧ ([.barinit 0 8 6 false, .bararr 0 8 2 true, .barwait 0 8 true, .barinit 0 4 10 true, .bararr 0 4 2 false,
      .barwait 0 4 false] : List Instr).all (fun i => canBegin i x) = true ∧ 2 ^ 32 ≤ ((began x).x 10).toNat ∧
    (tabGet Barrier.reset (began x).m.barriers 2).ctx ≠ some (began x).s.unit.ctx ∧ (began x).s.unit.waiting = none ∧
    -- without a ticket: the wait begins, its generation stands, its generation is over
    canBegin (.barwait 0 4 false) b = true ∧ (began b).s.ctl.barseq = 0 ∧ (began b).s.unit.waiting = none ∧
    canBegin (.barwait 0 4 false) (waits (some 5) b) = true ∧ (began (waits (some 5) b)).s.unit.waiting = some (.barrier (some 5)) ∧
    canBegin (.barwait 0 4 false) (waits (some 4) b) = true ∧ (tabGet Barrier.reset (began b).m.barriers 2).gen ≠ 4 ∧
    -- with a ticket of cluster 3
    (let s := t 0x500000382 3
     canBegin (.barwait 0 4 false) s = true ∧ bitsN (began s).s.ctl.barseq 0 8 = 2 + 128 ∧ bitsN (began s).s.ctl.barseq 8 6 = 3 ∧
       (tabGet Barrier.reset (began s).m.barriers (3 * 64 + 2)).gen.toNat = bitsN (began s).s.ctl.barseq 32 32 ∧
       (tabGet Barrier.reset (began s).m.barriers (3 * 64 + 2)).ctx = some 0) := by decide

/-- The unit waits for one producer, entry 5 with a status, whose progress word at 0x7000 is 9. -/
def watching (status : Nat) : State :=
  let s := withBytes 0x7000 (leBytes 8 9) (onSlot0 (fun v => { v with unit := { v.unit with
    wms := [{ producer := some 5, rnum := 1, rden := 1, offset := 0, addr := 0x7000 }] } }) (withX [(4, 9)] user))
  { s with toMach := s.toMach.setEntry 5 { Entry.reset with serial := 1, status := status } }

theorem test_witness_WatermarkWait : canBegin (.wmwait 0 4) (watching 2) = true ∧ canBegin (.wmwait 0 4) (watching 1) = true ∧
    ((began (watching 2)).s.unit.wms.all (fun k => k.status (began (watching 2)).m == 2)) = true ∧
    (began (watching 1)).m.cancelledLid (began (watching 1)).s.unit.lid = false ∧
    ((began (watching 1)).s.unit.wms.all (fun k => k.status (began (watching 1)).m == 1 && decide (k.need 9 = 9))) = true ∧
    canRead (began (watching 1)) 0x7000 8 = true ∧
    (match scalarPlace (began (watching 1)) 0 (began (watching 1)).ctx.spt false 0x7000 0 with
     | .ok (loc, w1) => leNat (w1.bytes loc 8) == 9
     | .error _ => false) = true := by decide

theorem test_witness_Wait : canBegin (.wait 0 2 4) pointers = true ∧ canRead (began pointers) 0x3000 8 = true ∧
    (began pointers).leaving = false ∧ (began (withX [(2, 1)] pointers)).x 2 = 1 ∧ (began pointers).x 2 = 0 := by decide

/-- Slot 0 waits with an instruction held. -/
def waiting (why : Waiting) (i : Instr) (s : State) : State :=
  onSlot0 (fun v => { v with unit := { v.unit with waiting := some why, held := some i } }) s

theorem test_witness_EndsOfWaits :
    (let s := waiting (.barrier none) (.barwait 0 4 false) (barrier Barrier.reset (withX [(4, 2)] user))
     canBegin (.barwait 0 4 false) s = true ∧ okB (Sys2Proof.Machine.bodyBarwait 4 false (began s)) = true) ∧
    (let s := waiting .watermark (.wmwait 0 4) (watching 1)
     canBegin (.wmwait 0 4) s = true ∧ okB ((began s).passWatermarks 9 (began s).s.unit.wms) = true) ∧
    (let s := waiting .watch (.wait 0 2 4) pointers
     canBegin (.wait 0 2 4) s = true ∧ canRead (began s) 0x3000 8 = true ∧ (began s).calendar = false) ∧
    (let s := waiting .watch (.wait 0 2 4) (withX [(2, 1)] pointers)
     canBegin (.wait 0 2 4) s = true ∧ (began s).x 2 ≠ 0) ∧
    linked.toMach.pkg.holds ≠ [] := by decide

/-! ### Witnesses: recovery -/

/-- The job of context 0 is live, its Almanac region the second gibibyte's first 64 MiB, the recovery instructions enabled. -/
def recovering : State :=
  let s := onCtx (fun c => { c with job := 1, ckpctl := 3 }) (withX [(4, 0x8000), (6, 0x100000), (8, 0x100001), (10, 5)] user)
  { s with toMach := s.toMach.setJob 1 { s.toMach.job 1 with live := true, almanac := [(0, 0x4000000)] } }

/-- A record is open with its header at 0x100000. -/
def openRecord : State := onSlot0 (fun v => { v with unit := { v.unit with
  record := some { hdr := 0x100000, seq := 5, gen := 0, ovf := false, cerr := false, listed := 0, lines := [] } } }) recovering

/-- A sealed record without footprint lines, SEQ 5, at 0x100000. -/
def sealed : State :=
  withBytes 0x100000 (leBytes 4 0x5EA10002 ++ leBytes 4 0 ++ leBytes 8 5 ++ leBytes 8 0 ++ leBytes 8 0 ++ leBytes 8 0 ++ leBytes 8 0 ++
    List.replicate 16 0 ++ recovering.work.sealHash 5 0 0 [] ++ List.replicate 32 0) recovering

theorem test_witness_RecoveryInstructions : ([.rprd 0 2 1, .relrcv 0, .ckpabort 0, .ckpbeg 0 10 6, .ckpverify 0 2 8] : List Instr).all
      (fun i => canBegin i recovering) = true ∧ canBegin (.ckpseal 0 2) openRecord = true ∧
    bitB (began recovering).ctx.ckpctl 0 = true ∧ (began recovering).m.copiesOf (began recovering).s.unit.lid 0 = [] ∧
    (began recovering).s.unit.remoteOut = 0 ∧ (began recovering).s.unit.notDurable = [] ∧
    (began recovering).s.unit.record = none ∧ (began recovering).x 10 ≠ 0 ∧ ((began recovering).x 6).toNat % 128 = 0 ∧
    (began recovering).s.unit.stage = 0 := by decide

/-- The instruction has gone some way, its last write at the persistence point or not. -/
def staged (n : Nat) (lines : List Nat) (s : State) : State :=
  onSlot0 (fun v => { v with unit := { v.unit with stage := n, notDurable := lines } }) s

theorem test_witness_recovery_stages :
    (let s := staged 1 [] recovering
     canBegin (.ckpbeg 0 10 6) s = true ∧ (began s).s.unit.stage ≠ 0 ∧ (began s).s.unit.notDurable = []) ∧
    (let s := staged 1 [64] recovering
     canBegin (.ckpbeg 0 10 6) s = true ∧ (began s).s.unit.stage ≠ 0 ∧ (began s).s.unit.notDurable ≠ []) ∧
    (let s := staged 1 [] openRecord
     canBegin (.ckpseal 0 2) s = true ∧ (began s).s.unit.stage = 1 ∧
       (match s.work.runPlaces 1 (pageRuns 0x100000 8) with
        | .ok (places, w1) => okB (writable w1.m w1.m.cur (runLocs places))
        | .error _ => false) = true) ∧
    (let s := staged 2 [] openRecord
     canBegin (.ckpseal 0 2) s = true ∧ 2 ≤ (began s).s.unit.stage ∧ (began s).s.unit.notDurable = []) := by decide

theorem test_witness_ckpseal : let w := began openRecord
    (match openRecord.work.runPlaces 1 (pageRuns 0x100008 120) with
     | .ok (places, w1) => okB (writable w1.m w1.m.cur (runLocs places))
     | .error _ => false) = true ∧ w.x 2 = 0 ∧ w.s.unit.record.isSome = true ∧ w.s.unit.stage = 0 ∧
    (w.s.unit.record.all (fun r => r.lines == [] && !r.ovf && !r.cerr)) = true := by decide

theorem test_witness_ckpverify : let w := began sealed
    bitsN (w.x 8) 1 6 = 0 ∧ putBit (w.x 8) 0 false = 0x100000 ∧ bitB (w.x 8) 0 = true ∧ bitB w.ctx.ckpctl 1 = true ∧
    (match w.runPlaces 0 (pageRuns 0x100000 128) with
     | .ok (places, w1) =>
       let w2 := w1.draw.2
       let k := readSeal (w2.checkRuns w1.draw.1 places)
       let r := w2.verify w1.draw.1 w2.linePlace k places []
       okB (readable w1.m (linesRun places)) && places.all (fun p => w2.m.almanac p.1) && k.magic == 0x5EA10002 &&
         k.count == 0 && !k.reserved && k.gen == w2.ctx.rpgen.toNat && decide (w2.ctx.rpseq.toNat < k.seq.toNat) &&
         r.status == 0 && okB (readable w2.m (linesRun r.read))
     | .error _ => false) = true := by decide +kernel

theorem test_witness_ckpbeg : let w := recovering.work
    (match w.runPlaces 1 (pageRuns 0x100000 2097280) with
     | .ok (places, w1) => places.all (fun p => w1.m.almanacRun p.1 p.2) &&
         okB (writable w1.m w1.m.cur ((places.take 1).flatMap (fun p => span p.1 128)))
     | .error _ => false) = true := by decide +kernel

/-! ### Witnesses: launches, sequencers and system instructions -/

/-- A launch packet of one unit at 0x6000, whose address x4 holds. -/
def submitting : State :=
  withBytes 0x6000 (leBytes 8 0x301 ++ leBytes 8 0x1000 ++ leBytes 8 1 ++ List.replicate 104 0) (withX [(4, 0x6000)] user)

/-- The same, with no table entry free. -/
def noRoom : State := { submitting with toMach := submitting.toMach.setSched (fun c => { c with fresh := 4096 }) }

def takes (s : State) : Option Bool :=
  let w := began s
  match w.loadRun (w.x 4) 128 with
  | .ok (bytes, w1) =>
    let k := readPacket bytes
    if k.malformed || !k.valid then none
    else some (w1.m.acceptDevice w1.origin { k with prio := max k.prio (w1.m.prioOf w1.s.unit.lid) }).isSome
  | .error _ => none

theorem test_witness_Launches : ([.launch 0 4, .launchn 0 2 4] : List Instr).all (fun i => canBegin i submitting && canBegin i noRoom) =
    true ∧ (began submitting).m.cancelledLid (began submitting).s.unit.lid = false ∧ (began submitting).s.unit.remoteOut = 0 ∧
    ((began submitting).x 4).toNat % 128 = 0 ∧ takes submitting = some true ∧ takes noRoom = some false := by decide +kernel

/-- x4 holds a live handle, entry 5 with serial number 1 of job 0. -/
def handle : State := withX [(4, 4101)] { user with toMach := user.toMach.setEntry 5 { Entry.reset with serial := 1, status := 1 } }

theorem test_witness_Counters : ([.cancel 0 4 0, .cntrd 0 2 4] : List Instr).all (fun i => canBegin i handle && canBegin i user) = true ∧
    (let w := began handle
     let h := (w.x 4).toNat
     let e := w.m.entry (h % 4096)
     w.s.unit.remoteOut = 0 ∧ h ≠ 0 ∧ h < 2 ^ 44 ∧ e.serial ≠ 0 ∧ e.serial = h / 4096 ∧ e.job = w.ctx.job) ∧
    ((began user).x 4).toNat = 0 := by decide

/-- A turn of slot 0's matrix or copy sequencer. -/
def sequencing (m c : SeqState) (l : List Turn) : State :=
  { onSlot0 (fun v => { v with mseq := { v.mseq with st := m }, cseq := { v.cseq with st := c } }) tiled with agenda := l }

theorem test_witness_SequencerForkJoin : canBegin (.fork 0 8 0) (withX [(8, 0x1040)] tiled) = true ∧
    (let w := began (withX [(8, 0x1040)] tiled)
     w.s.mseq.st = .idle ∧ w.s.cseq.st = .idle ∧ (w.x 8).toNat % 4 = 0 ∧ w.x 8 ≠ 0 ∧ tileDetail w.m w.m.cur = none ∧
       w.s.unit.remoteOut = 0) ∧
    ((sequencing .running .idle [.matrixSequencer 0]).toMach.slot 0).mseq.st = .running ∧
    ((sequencing .idle .running [.copySequencer 0]).toMach.slot 0).cseq.st = .running ∧
    canBegin (.join 0) (sequencing .arrived .idle []) = true ∧ canBegin (.join 0) (sequencing .stopped .arrived []) = true := by decide

/-- Context 0's only queue, mapped or not, with its control block at 0x9000; x4 names it. -/
def queue0 (hwq : Option Nat) : State :=
  let s := withX [(4, 0)] user
  let q : Queue := { pa := 0x9000, job := 0, num := 0, hwq := hwq, unmapping := false, dead := false, notified := false, failing := none }
  { s with toMach := s.toMach.setQueue 0 q }

theorem test_witness_YieldExitNotify : canBegin (.yield 0) user = true ∧ (began user).s.unit.st ≠ .stop ∧ (began user).outranked = false ∧
    (let s := onSlot0 (fun v => { v with unit := { v.unit with st := .stop } }) user
     canBegin (.yield 0) s = true ∧ (began s).s.unit.st = .stop) ∧
    canBegin (.uexit 0) user = true ∧
    okB (began user).checkStrip = true ∧ okB (began user).endStrip = true ∧
    (let w := began (queue0 (some 3))
     canBegin (.notify 0 4) (queue0 (some 3)) = true ∧ (w.x 4).toNat ≤ 1023 ∧ w.s.unit.remoteOut = 0 ∧
     (w.m.sched.queues.find? (fun e => e.2.job = w.ctx.job && e.2.num = 0)).isSome = true) ∧
    (let w := began (queue0 none)
     canBegin (.notify 0 4) (queue0 none) = true ∧
     (w.m.sched.queues.find? (fun e => e.2.job = w.ctx.job && e.2.num = 0)).isSome = true ∧ 0x9000 + 64 ≤ hbmEnd ∧
       w.m.busyLine (hbmLoc 0x9000 + 8) = false ∧
       (let s := queue0 none
        let h : State := { s with toMach := { s.toMach with pkg := { s.toMach.pkg with holds := [(lineOf (hbmLoc 0x9000), 5)] } } }
        let h := { h with toMach := h.toMach.setSlot 5 { h.toMach.slot 5 with thr := { (h.toMach.slot 5).thr with linkRun := some 0 } } }
        canBegin (.notify 0 4) h = true ∧ (began h).m.busyLine (hbmLoc 0x9000 + 8) = true)) := by decide

/-- A Supervisor thread with a number in x24, x4 and x6. -/
def calling (n : Word) : State :=
  onSlot0 (fun v => { v with regs := ((v.regs.setX true 24 n).setX false 4 n).setX false 6 0 }) sup

theorem test_witness_SystemInstructions : ([.vptwr 0 4 6, .tlbinv 0 4 6, .mcall 0, .halt 0] : List Instr).all
      (fun i => canBegin i (calling 3)) = true ∧ canBegin (.mcall 0) (calling 9) = true ∧ canBegin (.mcall 0) (calling 2) = true ∧
    (began (calling 3)).x 24 = 3 ∧ (began (calling 9)).x 24 = 9 ∧ (began (calling 2)).x 24 = 2 ∧ ((began (calling 3)).x 4).toNat < 4096 ∧
    ((began (calling 3)).x 6).toNat < 3 ∧ (began (calling 3)).m.copyTranslated (began (calling 3)).s.unit.ctx = false ∧ (began (calling 3)).s.unit.remoteOut = 0 ∧
    (began (calling 3)).m.slots.all (fun p => p.2.unit.remoteOut == 0) = true ∧
    (began (calling 3)).m.copiesOf (began (calling 3)).s.unit.lid (began (calling 3)).s.unit.unit = [] ∧
    (began (calling 3)).s.mseq.st ≠ .running ∧ (began (calling 3)).s.cseq.st ≠ .running := by decide

/-- A Supervisor thread whose x4 names a save area at 0x100000 and the part M. -/
def saving : State := withX [(4, 0x100004)] sup

/-- The same with an image that holds the part. -/
def saved : State := withBytes 0x100000 (leBytes 8 4) saving

theorem test_witness_ContextImages : canBegin (.ctxsave 0 4) saving = true ∧
    ((began saving).x 4).toNat % 4096 = 4 ∧
    okB (({ base := 0x100000, slot := (began saving).m.cur, spt := (began saving).ctx.spt, sup := true } : ImageAt).probe 1 (maskPages 4)
      (began saving)) = true ∧
    (match ({ base := 0x100000, slot := (began saving).m.cur, spt := (began saving).ctx.spt, sup := true } : ImageAt).probe 1 (maskPages 4)
        (began saving) with
     | .ok w1 => !({ base := 0x100000, slot := (began saving).m.cur, spt := (began saving).ctx.spt, sup := true } : ImageAt).runsBusy 4 false w1
     | .error _ => false) = true ∧
    canBegin (.ctxrest 0 4) saved = true ∧
    okB ((began saved).restoreParts 0x100000 4) = true := by decide +kernel

/-- A Supervisor thread with marks traced; with `dbgctl`.BH. -/
def marking : State := onSlot0 (fun v => { v with sup := { v.sup with trcctl := 2, dbgctl := 16 } }) sup

theorem test_witness_Observation : canBegin (.tmark 0 4) user = true ∧ bitB (began user).s.sup.trcctl 1 = false ∧
    canBegin (.tmark 0 4) marking = true ∧ bitB (began marking).s.sup.trcctl 1 = true ∧
    okB ((began marking).trace 2 ((began marking).s.ctl.vstripno.toNat + 2 ^ 32 - 1) (began marking).s.regs.pc 0 0 0 0) = true ∧
    canBegin (.smpl 0 4) user = true ∧ canBegin (.brk 0 5) marking = true ∧ bitB (began marking).s.sup.dbgctl 4 = true ∧
    (began marking).m.copiesOf (began marking).s.unit.lid (began marking).s.unit.unit = [] := by decide

/-- A Supervisor thread with an image of part S, x4 naming it. -/
def savedS : State := withBytes 0x100000 (leBytes 8 1) (withX [(4, 0x100001)] sup)

theorem test_witness_system_others : canBegin (.mcall 0) (calling 1) = true ∧ ((began (calling 1)).mapThr (fun t => { t with wins := [] })).x 24 = 1 ∧
    canBegin (.mcall 0) (calling 0) = true ∧ (began (calling 0)).x 24 ∉ [1, 2, 3] ∧
    canBegin (.ctxsave 0 4) savedS = true ∧ canBegin (.ctxrest 0 4) savedS = true := by decide

theorem test_witness_ctxrest_S : (match (began savedS).restoreParts 0x100000 1 with
    | .ok w1 => w1.s.thr.fibre.isNone
    | .error _ => false) = true := by decide +kernel

/-! ### Witnesses: queues, the host window and scheduling -/

/-- The scheduling state changed. -/
def withSched (f : Sched → Sched) (s : State) : State := { s with toMach := s.toMach.setSched f }

/-- The loader has passed: the application cores run. -/
def started (s : State) : State := { s with mgmt := { s.mgmt with stage := 3 } }

theorem test_witness_started : 3 ≤ (started user).mgmt.stage ∧ (∃ d < 4, d ∉ (started user).toMach.pkg.basesFailed) ∧
    (∀ a < 16, a / 4 ∉ (started user).toMach.pkg.basesFailed) ∧ user.mgmt.stage < 3 ∧
    (8 : Nat) % 8 = 0 ∧ 0x2C0000 ≤ 0xFFFFF8 ∧ 0xFFFFF8 < 0x1000000 ∧ 0x1000000 ≤ 0x1000008 := by decide

/-- The job's queue, mapped to register 3. -/
def mapped (unmapping notified : Bool) : State :=
  let q : Queue :=
    { pa := 0x9000, job := 0, num := 0, hwq := some 3, unmapping := unmapping, dead := false, notified := notified, failing := none }
  { user with toMach := user.toMach.setQueue 0 q }

theorem test_witness_QueueEvents :
    (match (mapped false false).work.m.mappedQueue 3 with
     | some (k, q) => k == 0 && !q.unmapping && q.hwq == some 3
     | none => false) = true ∧
    (let w := (mapped false true).work
     w.m.poisoned (hbmLoc 0x9000) = false ∧ w.m.busyLine (hbmLoc 0x9000) = false ∧ w.m.busyLine (hbmLoc 0x9000 + 8) = false ∧
     w.m.readsQueues = true ∧ (w.m.queue? 0).all (w.m.firstQueue 0) = true ∧
     w.num (hbmLoc 0x9000 + 16) 8 ≤ w.num (hbmLoc 0x9000 + 24) 8 ∧ okB (w.serve 0 (hbmLoc 0x9000) 4096) = true) ∧
    (let w := (queue0 none).work
     (w.m.queue? 0).any (fun q => q.failing == none) = true ∧ w.m.busyLine (hbmLoc 0x9000) = false ∧
       w.m.busyLine (hbmLoc 0x9000 + 8) = false ∧ w.m.freeHwq = some 0 ∧ bitsN (BitVec.ofNat 64 (w.num (hbmLoc 0x9000 + 8) 8)) 8 2 ≠ 2) ∧
    ((mapped true false).work.m.queue? 0).any (fun q => q.hwq != none && q.unmapping && !q.notified) = true ∧
    user.work.m.sched.queues = [] ∧ 0x9000 % 64 = 0 ∧ 0x9000 + 64 ≤ hbmEnd := by decide +kernel

/-- A launch of one unit of context 0. -/
def aLaunch (lid prio left : Nat) : Launch :=
  { lid := lid, job := 0, ctx := 0, age := lid, prio := prio, entry := 0x1000, count := 1, prog := 0, args := [], gl := 0, clsp := false,
    ccs := false, wms := [], span := none, next := 1 - left, spilled := none, dropped := false, queue := none, jseq := 0, again := none,
    back := [], bound := false }

/-- Launches of job 0, whose partition is given. -/
def launched (slots : List Nat) (ls : List Launch) (s : State) : State :=
  withSched (fun c => { c with launches := ls })
    { s with toMach := s.toMach.setJob 0 { s.toMach.job 0 with live := true, partition := slots } }

theorem test_witness_spillReturn :
    let t := launched [0] [{ aLaunch 4101 3 1 with spilled := some 0 }] user
    ((byAge (t.toMach.sched.launches.filter (fun l => l.waits && l.spilled.isSome))).take t.toMach.storeFree).filter
      (fun l => l.spilled = some 0) ≠ [] := by
  decide +kernel

/-- Entry 5 of a level, open. -/
def counters (level : Nat) : State :=
  let e : Entry := { Entry.reset with serial := 1, status := 1, level := level, closed := false, count := 1 }
  { user with toMach := user.toMach.setEntry 5 e }

theorem test_witness_HostWindow :
    (let m := (counters 2).toMach
     m.counterParent 1 4101 = some (some 5) ∧ (m.newEntry { Entry.reset with level := 1, count := 1, parent := some 5 }).isSome = true) ∧
    (user.toMach.newEntry { Entry.reset with level := 3, count := 1 }).isSome = true ∧
    ((counters 2).toMach.handleIx 4101 = some 5 ∧ ((counters 2).toMach.entry 5).level ≠ 0 ∧
      ((counters 2).toMach.entry 5).closed = false) ∧
    ((counters 0).toMach.handleIx 4101 = some 5 ∧ ((counters 0).toMach.entry 5).level = 0) ∧
    tabGet none (counters 2).toMach.sched.counterArg 3 = none := by decide

/-- Where Umante would bind a candidate. -/
def place (m : Mach) : Option Nat := (m.candidates.findSome? (fun c => (c.slots.find? (m.fits c)).map (fun n => (c, n)))).map (fun p => p.2)

theorem test_witness_Scheduling :
    place (launched [0, 2] [aLaunch 4101 3 1] user).toMach = some 2 ∧
    (let m := (launched [0] [aLaunch 4102 3 1, aLaunch 4101 40 0]
       (onSlot0 (fun v => { v with unit := { v.unit with lid := 4101 } }) user)).toMach
     place m = none ∧ m.victims [] m.candidates = some 0) ∧
    user.toMach.sched.requests = [] ∧
    (let k := copying.toMach.pkg.nextCopy - 1
     let r : PageRequest := { num := 7, ctx := 0, gen := 0, lid := 0, unit := 0, slot := none, ident := some k, token := none, addr := 0, cause := 0x0D, acc := 1 }
     let m := (withSched (fun c => { c with requests := [r] }) copying).toMach
     m.sched.requests.find? (fun r => r.num = 7) = some r ∧ 0 = (m.context r.ctx).gen ∧
       (m.engines.any (fun e => e.2.cmds.any (fun c => c.ident == k))) = true) ∧
    (let m := (launched [2, 3] [] user).toMach
     ((m.job 0).partition.map coreOf).eraseDups.all (fun k => m.landed (2 * k) && m.landed (2 * k + 1))) = true := by
  decide +kernel

/-- Slot 2 is bound to a unit of launch 4101. -/
def binding (resume : Bool) : State :=
  let u : SlotUnit := { SlotUnit.reset with cmd := 1, lid := 4101, resume := resume }
  let s := launched [2] [aLaunch 4101 3 0] user
  { s with toMach := s.toMach.setSlot 2 { Slot.reset with unit := u } }

/-- A suspended unit that slot 2 resumes. -/
def suspension : Suspended :=
  { slot := Slot.reset, image := 0x100000, hasTile := false, request := none, answered := false, success := false, halted := false,
    resuming := some 2, ended := false }

theorem test_witness_SlotStates_bind : (let s := binding false
     let u := (s.toMach.slot 2).unit
     u.st = .idle ∧ u.cmd = 1 ∧ (s.toMach.context u.ctx).resident = true ∧ s.toMach.claimHeld 2 u.clsp u.ccs = false ∧ u.resume = false ∧
       (s.toMach.sched.launches.find? (fun l => l.lid = u.lid)).isSome = true ∧ s.toMach.pkg.inService (dieOf 2) = true ∧
       ({ s with pkg := { s.toMach.pkg with diesOff := [0, 1, 2, 3] } } : State).toMach.pkg.inService (dieOf 2) = false ∧
       ((onCtx (fun c => { c with resident := false }) s).toMach.context u.ctx).resident = false ∧
       (onSlot0 (fun v => { v with unit := { v.unit with clsp := true } })
         { s with toMach := s.toMach.setSlot 1 { Slot.reset with unit := { u with clsp := true } } }).toMach.claimHeld 1 true false = true) ∧
    (let s := withSched (fun c => { c with suspended := [suspension] }) (binding true)
     let u := (s.toMach.slot 2).unit
     u.resume = true ∧ u.ccs = false ∧ s.toMach.sched.suspended.find? (fun g => g.resuming = some 2) = some suspension ∧
       s.toMach.imageAwaits u.ctx 0x100000 = false ∧
       okB (Work.loadImage { s.work with m := { s.toMach.setSlot 2 Slot.reset with cur := 2 } } 0x100000) = true) := by decide +kernel

/-- Slot 0 in a state, with what it waits for. -/
def inState (st : SlotState) (why : Option Waiting) (discard : Bool) : State :=
  onSlot0 (fun v => { v with unit := { v.unit with st := st, waiting := why, discard := discard } }) user

theorem test_witness_SlotStates : ((inState .load none false).toMach.slot 0).unit.st = .load ∧ (user.toMach.slot 0).unit.st = .run ∧
    ((inState .load none false).toMach.slot 0).unit.st ≠ .run ∧ ((inState .stop (some .landing) false).toMach.slot 0).unit.mayLand = true ∧
    ((inState .save none false).toMach.slot 0).unit.st = .save ∧ ((inState .save none false).toMach.slot 0).unit.discard = false ∧
    user.toMach.cancelledLid 0 = false ∧ ((inState .save none true).toMach.slot 0).unit.discard = true ∧
    (let m := (inState .save none false).toMach
     (m.slot 0).unit.remoteOut = 0 ∧ (m.core 0).tileOps = [] ∧ m.copiesOf 0 0 = [] ∧
       (m.saveImage 0).blocked (inState .save none false).work (maskPieces (heldParts m 0)) = false) := by decide +kernel

/-- Entry 5 completed, with a completion block address. -/
def completedEntry (target : Word) : State :=
  let e : Entry := { Entry.reset with serial := 1, status := 2, target := target, written := false }
  { user with toMach := user.toMach.setEntry 5 e }

theorem test_witness_UnitAndLaunchEnd :
    (let s := inState .drain none false
     let v := s.toMach.slot 0
     v.unit.st = .drain ∧ v.unit.remoteOut = 0 ∧ s.work.m.copiesOf v.unit.lid v.unit.unit = [] ∧ v.mseq.st ≠ .running ∧
       v.cseq.st ≠ .running ∧ (s.toMach.core (coreOf 0)).tileOps = []) ∧
    (let e := (completedEntry (BitVec.ofNat 64 lspBase)).toMach.entry 5
     2 ≤ e.status ∧ e.target ≠ 0 ∧ e.level = 0 ∧ inLocal e.target.toNat = true) ∧
    (let e := (completedEntry 0).toMach.entry 5
     2 ≤ e.status ∧ e.written = false ∧ e.request = none ∧ e.target = 0) ∧
    (let s := completedEntry 0x5000
     let e := s.toMach.entry 5
     2 ≤ e.status ∧ e.level = 0 ∧ inLocal e.target.toNat = false ∧ e.reqFailed = false ∧
       (match walkPlace s.work 384 (s.work.m.context e.ctx).spt true e.target.toNat 1 with
        | .ok (loc, w1) => okB (writable w1.m 384 (span loc e.blockBytes.length)) && !w1.m.poisoned loc
        | .error _ => false) = true) := by decide +kernel

/-! ### Witnesses: containment, recovery and the management core -/

/-- Job 0 is live on slot 0. -/
def running : State := launched [0] [] user

theorem test_witness_Resets : running.toMach.jobsOn 0 = [0] ∧ dieOf 0 = 0 ∧ (running.toMach.job 0).live = true := by decide

/-- The unit of slot 0 is in a state with an access outstanding; a line of HBM has an uncorrectable error. -/
def outstanding (st : SlotState) : State := onSlot0 (fun v => { v with unit := { v.unit with st := st, remoteOut := 2 } }) user

theorem test_witness_Remote_clauses : (∀ l ∈ span (hbmLoc 0x5000) 8, user.toMach.poisoned l = false) ∧ (0 : Nat) ≠ 384 ∧
    ((outstanding .drain).toMach.slot 0).unit.remoteOut ≠ 0 ∧ ((outstanding .drain).toMach.slot 0).unit.st ≠ .idle ∧
    ((outstanding .drain).toMach.slot 0).unit.discard = false := by decide

theorem test_witness_RemoteAndPersistence : readable user.toMach (span (hbmLoc 0x5000) 8) = .ok () ∧
    okB (writable user.toMach 384 (span (hbmLoc 0x5000) 8)) = true ∧ Memory.wf user.mem = true ∧
    ((inState .run (some (.lost 7 0x5000)) false).toMach.slot 0).unit.waiting = some (.lost 7 0x5000) ∧ (busy.toMach.slot 0).unit.remoteOut ≠ 0 ∧
    (busy.toMach.slot 0).unit.st.runs = true := by
  refine ⟨?_, by decide, by decide, by decide, by decide, by decide⟩
  rfl

/-- The job of the sealed record, stopped; context 0 has advanced to it, or to nothing. -/
def stoppedJob (rpbase rpseq : Word) : State :=
  let s := onCtx (fun c => { c with rpbase := rpbase, rpseq := rpseq }) sealed
  { s with toMach := s.toMach.setJob 1 { s.toMach.job 1 with stopped := true } }

theorem test_witness_JobRestore :
    (let s := stoppedJob 0x100000 5
     let i := s.toMach.fresh
     let w1 : Work := { s.work with m := { s.toMach.dropJobs [1] with fresh := i + 1 } }
     let j := s.toMach.job 1
     j.live = true ∧ j.stopped = true ∧ j.failedRestore = false ∧ j.agreed = none ∧ s.toMach.contextsOf 1 = [0] ∧
     (5 : Nat) ≤ (s.toMach.context 0).rpseq.toNat ∧ (w1.followPrev i 0 5 0x100000 6).1 = some 0x100000 ∧
     ((w1.followPrev i 0 5 0x100000 6).2.scrubRecord i 0 0x100000).verifies i 0 0x100000 = true) ∧
    (let s := stoppedJob 0x200000 5
     let i := s.toMach.fresh
     let w1 : Work := { s.work with m := { s.toMach.dropJobs [1] with fresh := i + 1 } }
     s.toMach.contextsOf 1 = [0] ∧ (w1.followPrev i 0 5 0x200000 6).1 = none) := by decide +kernel

/-- The management core in a boot stage, with one authenticated connection. -/
def managed (stage : Nat) : State := { running with mgmt := { running.mgmt with stage := stage, conns := [(0, true)], nextConn := 1 } }

/-- A firmware image of version 3, Umante or the loader, with a signature. -/
def image (loader : Bool) (sig : List Byte) : FirmwareImage :=
  { version := 3, revokesOlder := true, loader := loader, content := [7], signature := sig }

/-- The fuse counter at 4, so that the image is too old. -/
def fused (s : State) : State := { s with mgmt := { s.mgmt with fuse := 4 } }

/-- Keys in the ROM and the store. -/
def withKeys (vendor operator : BitVec 512) (s : State) : State :=
  { s with mgmt := { s.mgmt with vendorKey := vendor, operatorKey := operator } }

/-- There are keys and two images of version 3 that they verify, in any state. -/
theorem signed_images : ∃ (vendor operator : BitVec 512) (a b : List Byte), ∀ s : State,
    xmssVerify (withKeys vendor operator s).mgmt.vendorKey (imageMessage (image false a)) (image false a).signature = true ∧
    xmssVerify (withKeys vendor operator s).mgmt.operatorKey (imageMessage (image true b)) (image true b).signature = true := by
  obtain ⟨k, a, h⟩ := xmss_signs (imageMessage (image false []))
  obtain ⟨l, b, g⟩ := xmss_signs (imageMessage (image true []))
  exact ⟨k, l, a, b, fun s => ⟨h, g⟩⟩

theorem test_witness_PackageEvents : user.toMach.coreLanded 3 = true ∧ (user.toMach.site 3).spareUsed = false ∧
    (let m := (user.toMach.setSite 3 { user.toMach.site 3 with spareUsed := true })
     m.coreLanded 3 = true ∧ (m.site 3).spareUsed = true) ∧
    (let m := (after (.linkRetrain 2 1) user).toMach
     m.pkg.badLanes = [(2, 1)] ∧ 2 ∉ m.pkg.spareLanes) ∧
    (user.toMach.slot 0).unit.st ≠ .idle ∧ (user.toMach.slot 0).unit.discard = false := by decide

/-- No image without a signature verifies. -/
theorem unsigned_fails (key : BitVec 512) (loader : Bool) : xmssVerify key (imageMessage (image loader [])) [] ≠ true := by
  simp [xmssVerify]

theorem test_witness_boot : ∃ (vendor operator : BitVec 512) (a b : List Byte),
    let s := withKeys vendor operator State.reset
    let runs (i : FirmwareImage) (key : BitVec 512) : Prop := s.mgmt.fuse ≤ i.version ∧ xmssVerify key (imageMessage i) i.signature = true
    s.mgmt.stage = 0 ∧ runs (image false a) s.mgmt.vendorKey ∧ runs (image true b) s.mgmt.operatorKey ∧
      ¬runs (image false []) s.mgmt.vendorKey ∧ ¬runs (image true []) s.mgmt.operatorKey := by
  obtain ⟨k, l, a, b, h⟩ := signed_images
  exact ⟨k, l, a, b, rfl, ⟨Nat.zero_le _, (h State.reset).1⟩, ⟨Nat.zero_le _, (h State.reset).2⟩,
    fun g => unsigned_fails _ _ g.2, fun g => unsigned_fails _ _ g.2⟩

theorem test_witness_firmware : ∃ (vendor operator : BitVec 512) (a b : List Byte), ∀ stage ∈ [1, 2],
    let s := withKeys vendor operator (managed stage)
    let signed (i : FirmwareImage) : Prop :=
      xmssVerify (if i.loader then s.mgmt.operatorKey else s.mgmt.vendorKey) (imageMessage i) i.signature = true
    1 ≤ s.mgmt.stage ∧ (∃ c ∈ s.mgmt.conns, c.2 = true) ∧ signed (image false a) ∧ signed (image true b) ∧ s.mgmt.fuse ≤ 3 ∧
      (image false a).version = 3 ∧ (image true b).version = 3 ∧ s.mgmt.loader = none ∧ ¬signed (image false []) ∧
      ¬(fused s).mgmt.fuse ≤ 3 ∧
      (let t : State := { s with mgmt := { s.mgmt with loader := some (image true b) } }
       ∃ l, t.mgmt.loader = some l ∧ xmssVerify t.mgmt.operatorKey (imageMessage l) l.signature = true ∧
         max t.mgmt.fuse (image false a).version ≤ l.version) := by
  obtain ⟨k, l, a, b, h⟩ := signed_images
  refine ⟨k, l, a, b, fun stage hs => ?_⟩
  have hk : 1 ≤ stage := by simp at hs; omega
  exact ⟨hk, ⟨(0, true), List.mem_cons_self .., rfl⟩, (h (managed stage)).1, (h (managed stage)).2, Nat.zero_le _, rfl, rfl, rfl,
    unsigned_fails _ _, (by decide : ¬(4 : Nat) ≤ 3), ⟨image true b, rfl, (h (managed stage)).2, (by decide : max (0 : Nat) 3 ≤ 3)⟩⟩

theorem test_witness_Itrus : (managed 1).mgmt.stage ≠ 0 ∧ (managed 1).mgmt.conns.length < 8 ∧ 2 ≤ (managed 2).mgmt.stage ∧
    (∃ c ∈ (managed 2).mgmt.conns, c.2 = true) ∧ ¬2 ≤ (managed 1).mgmt.stage ∧
    ((managed 2).work.partition (.createJob 1 [2] [] 0 0)).isSome = true ∧
    ((managed 2).work.partition (.resizePartition 9 [2])).isNone = true ∧ ((managed 2).toMach.context 0).resident = true ∧
    ((managed 2).work.traceSetup (.removeRing 0)).isSome = true ∧
    ((withSched (fun c => { c with entries := (handle.toMach.sched.entries) }) (managed 2)).work.debug (.setControls 4101 0 0 0)).isSome =
      true ∧
    (let s : State := { stoppedJob 0x100000 5 with mgmt := (managed 2).mgmt }
     s.toMach.minSeq 1 = some 5 ∧ (s.toMach.job 1).live = true ∧ (s.toMach.job 1).stopped = true) ∧
    (managed 2).mgmt.keyIndex < 2 ^ 20 := by decide +kernel

/-- A halted unit of launch 4101. -/
def haltedUnit : Suspended := { suspension with halted := true, resuming := none, slot := { Slot.reset with unit := { SlotUnit.reset with lid := 4101, unit := 2 } } }

theorem test_witness_Itrus_messages :
    (let halted (h : Suspended) : Bool := h.halted && h.slot.unit.lid == 4101 && h.slot.unit.unit == 2
     (withSched (fun c => { c with suspended := [haltedUnit] }) (managed 2)).toMach.sched.suspended.find? halted = some haltedUnit ∧
       (managed 2).toMach.sched.suspended.find? halted = none) ∧
    (managed 2).toMach.handleIx 4101 = none ∧
    (withSched (fun c => { c with entries := handle.toMach.sched.entries }) (managed 2)).toMach.handleIx 4101 ≠ none ∧
    (let s := withBytes (0x8000 + 16) [10] (managed 2)
     s.work.num (hbmLoc (0x8000 + 16)) 1 % 32 = 10 ∧ (0x8000 : Nat) % 64 = 0 ∧ 0x8000 + 64 + 64 * 2 ^ 10 ≤ hbmEnd ∧
       (s.toMach.job 0).live = true ∧ s.mgmt.stage = 2 ∧ s.mgmt.conns = [(0, true)]) ∧
    (managed 2).work.num (hbmLoc (0x8000 + 16)) 1 % 32 < 8 ∧ ((managed 2).toMach.job 5).live = false ∧
    (managed 2).toMach.minSeq 5 = none ∧
    itrusClass (.itrusAnnals .readMachineChecks) ≠ none ∧
    (match exec (.itrusAnnals .readMachineChecks) (managed 2) with | .next _ => true | _ => false) = true := by decide +kernel

theorem test_witness_Itrus_keys : let s : State := { managed 2 with mgmt := { (managed 2).mgmt with keyIndex := 2 ^ 20 } }
    2 ^ 20 ≤ s.mgmt.keyIndex ∧ (∃ c ∈ s.mgmt.conns, c.2 = true) := by decide

/-! ### Each check of `wf` refuses a term -/

theorem test_wf_registers : (Instr.rdc 0 1 0x015).wf = false ∧ (Instr.wrc 0 1 0x106).wf = false ∧
    (Instr.vcmp 0 false 8 1 2 false 0).wf = false ∧ (Instr.vcmpF 0 false 8 1 2 false 0).wf = false ∧
    (Instr.mand 0 false 8 1 2).wf = false ∧ (Instr.mor 0 false 1 8 2).wf = false ∧ (Instr.mxor 0 false 1 2 8).wf = false ∧
    (Instr.mnot 0 false 1 8).wf = false ∧ (Instr.msbf 0 false 8 1).wf = false ∧ (Instr.mset 0 false 8 1).wf = false ∧
    (Instr.mpopc 0 false 1 8).wf = false ∧ (Instr.mfirst 0 false 1 8).wf = false ∧ (Instr.viota 0 false 1 8).wf = false ∧
    (Instr.vconf 0 false 8 1).wf = false ∧ (Instr.cins 0 false 8 1).wf = false ∧ (Instr.clook 0 false 1 2 8).wf = false ∧
    (Instr.bararr 0 1 8 false).wf = false := by decide

theorem test_wf_vector : (Instr.vwadd 0 false 3 0 1 false).wf = false ∧ (Instr.vwadd 0 false 2 3 4 false).wf = false ∧
    (Instr.vwmul 0 false 2 4 3 false).wf = false ∧ (Instr.vwmul 0 false 2 4 3 true).wf = true ∧
    (Instr.vwaddF 0 false 3 0 1 false).wf = false ∧ (Instr.vwmulF 0 false 2 3 4 false).wf = false ∧
    (Instr.vcvt 0 false 1 2 13 0).wf = false ∧ (Instr.vcvt 0 false 1 2 12 6).wf = false ∧
    (Instr.vldsc 0 false 8 1 2).wf = false ∧ (Instr.vmvscToScale 0 false 8 1).wf = false ∧
    (Instr.vmvscFromScale 0 false 1 8).wf = false ∧ (Instr.vapsc 0 false 1 2 8).wf = false ∧
    (Instr.vlseg 0 false 1 2 10 false 0).wf = false ∧ (Instr.vlseg 0 false 1 2 13 false 1).wf = false ∧
    (Instr.vsseg 0 false 31 2 10 false false 1).wf = false ∧ (Instr.vred 0 false 1 2 3 false 5).wf = false ∧
    (Instr.vred 0 false 1 2 3 true 3).wf = false ∧ (Instr.vscan 0 false 1 2 3 false 2).wf = false ∧
    (Instr.cdrain 0 false 31).wf = false := by decide

theorem test_wf_units : (Instr.tmma 0 0 1 2 3 false true).wf = false ∧ (Instr.tmms 0 0 1 2 3 false true).wf = false ∧
    (Instr.tmf64 0 0 3 2 3 false false).wf = false ∧ (Instr.tvmv 0 1 9 true).wf = false ∧
    (Instr.cpy 0 0 4 false false).wf = false ∧ (Instr.cpy 0 1 30 false false).wf = false ∧ (Instr.cpy2 0 1 27 false false).wf = false ∧
    (Instr.cpyt 0 1 31 2 false false).wf = false ∧ (Instr.cpyr 0 1 30 false false).wf = false ∧
    (Instr.cpym 0 1 29 false false).wf = false ∧ (Instr.cpyx 0 1 29 false false).wf = false ∧
    (Instr.cpyfill 0 0 1 false).wf = false ∧ (Instr.cpybc 0 1 29 false false).wf = false ∧ (Instr.fence 0 4).wf = false ∧
    (Instr.acq 0 7).wf = false ∧ (Instr.rel 0 4).wf = false ∧ (Instr.rprd 0 1 3).wf = false ∧ (Instr.cancel 0 1 4).wf = false := by
  decide

theorem test_wf_events : (Instr.fibrePrefetch 384).wf = false ∧ (Instr.tileOpComplete 192).wf = false ∧
    (Instr.matrixCommandAccept 192).wf = false ∧ (Instr.copyEngineAccept 48).wf = false ∧ (Instr.copyCompletion 48 0).wf = false ∧
    (Instr.barwaitRelease 384).wf = false ∧ (Instr.watermarkSatisfied 384).wf = false ∧ (Instr.waitWake 384).wf = false ∧
    (Instr.waitTimeout 384).wf = false ∧ (Instr.vectorCommit 384).wf = false ∧ (Instr.variableLatencyResult 384).wf = false ∧
    (Instr.rendezvousArrival 384 0).wf = false ∧ (Instr.rendezvousComplete 384).wf = false ∧ (Instr.trapEntry 384).wf = false ∧
    (Instr.windowReplay 384).wf = false ∧ (Instr.laneMismatch 384 0).wf = false ∧ (Instr.lockstepMismatch 384).wf = false ∧
    (Instr.bind 384).wf = false ∧ (Instr.bindResume 384).wf = false ∧ (Instr.preempt 384).wf = false ∧ (Instr.kill 384 0).wf = false ∧
    (Instr.unitLoadComplete 384).wf = false ∧ (Instr.preemptionLands 384).wf = false ∧ (Instr.saveComplete 384).wf = false ∧
    (Instr.unitRetire 384).wf = false ∧ (Instr.remoteAckTimeout 384 0 0).wf = false ∧
    (Instr.remoteAcknowledgement 384).wf = false ∧ (Instr.persistencePointReached 385).wf = false := by decide

/-! ### Words of the spec's encoding tables -/

/-- Whether every word decodes to the instruction beside it. -/
def decodes (l : List (Nat × Instr)) : Bool := l.all (fun p => (decodeWord p.1).toOption == some p.2)

/-- 02 Tables of worked encodings; 03 "Encodings". -/
theorem test_decode_scalar : decodes [(0x00450007, .addi 0 5 0 7), (0x10262950, .mul 1 6 5 5), (0x002531C0, .add 0 5 6 7),
    (0x00253221, .slli 0 5 6 8 true), (0x004537FF, .addi 0 5 6 0x7FF), (0x00D0075A, .lih 0 16 0x075A),
    (0x01074C04, .ld32 0 7 9 4), (0x01054FFF, .ld64 0 5 9 0x1FF), (0x01744800, .ldl 0 20 9), (0x01754D01, .stc 0 21 9 20),
    (0x01A503FD, .bne 0 5 0 0x1FD), (0x01800005, .jal 0 5), (0x01E00800, .jalr 0 0 1), (0x01E04801, .wait 0 0 9),
    (0x01EC5802, .setvl 0 12 11), (0x01F18003, .setvt 0 17 16), (0x01E50008, .rdc 0 5 0), (0x01E70109, .wrc 0 7 4),
    (0x01E00004, .nop 0), (0xF1E00004, .nop 15)] = true := by decide

/-- 04 and 05 "Encodings". -/
theorem test_decode_vector : decodes [(0x0B240880, .vmulF 0 true 4 1 2 false), (0x02030880, .vadd 0 false 3 1 2 false),
    (0x02030A60, .vadd 0 false 3 1 9 true), (0x02850880, .vsel 0 false 5 1 2 false), (0x02813002, .vbcast 0 false 1 6),
    (0x02480887, .vwmul 0 false 8 1 2 false), (0x03262142, .vmaddF 0 false 6 4 5 false), (0x03612142, .vcmpF 0 false 1 4 5 false 2),
    (0x03473001, .vrcpa 0 false 7 6), (0x034831C3, .vrcps 0 false 8 6 7), (0x03C30880, .mand 0 false 3 1 2),
    (0x03C23805, .mset 0 false 2 7), (0x03E51800, .mpopc 0 false 5 3), (0x03E21802, .viota 0 false 2 3),
    (0x03820B00, .vcvt 0 false 2 1 12 0), (0x038308A8, .vcvt 0 false 3 1 2 5), (0x03430805, .vclass 0 false 3 1),
    (0x03A14A80, .vldsc 0 false 1 9 10), (0x03A22801, .vmvscToScale 0 false 2 5), (0x03A51002, .vmvscFromScale 0 false 5 2),
    (0x03A62043, .vapsc 0 false 6 4 1)] = true := by decide

/-- 06, 07 and 08 "Encodings". -/
theorem test_decode_memory : decodes [(0x04015000, .vld 0 false 1 10 false), (0x04025020, .vld 0 false 2 10 true),
    (0x04034801, .vlds 0 false 3 9 false), (0x0401490A, .vldx 0 false 1 9 4 false true), (0x040531C3, .vldt 0 false 5 6 7 false),
    (0x04004804, .vpf 0 false 9 false), (0x04255810, .vst 0 false 5 11 false true), (0x04226021, .vsts 0 false 2 12 true false),
    (0x04274A0B, .vstxu 0 false 7 9 8 false false true), (0x042531C4, .vstt 0 false 5 6 7 false false),
    (0x04484A42, .vlseg 0 false 8 9 9 false 2), (0x04484A99, .vsseg 0 false 8 9 10 false true 1), (0x04635000, .vbind 0 false 3 10),
    (0x04630001, .vunbind 0 false 3), (0x04C30880, .vperm 0 false 3 1 2), (0x04C30A42, .vsld 0 false 3 1 9),
    (0x04E92808, .vred 0 false 9 5 0 true 0), (0x04E629D0, .vscan 0 false 6 5 7 false 0), (0x05004800, .vfetch 0 false 9),
    (0x05002003, .vpsend 0 false 4), (0x05050004, .vprecv 0 false 5), (0x05432000, .vconf 0 false 3 4),
    (0x05662081, .clook 0 false 6 4 2), (0x05602142, .cacc 0 false 4 5), (0x05874A11, .vscatc 0 false 7 9 8 false 4),
    (0x05874A20, .vgathl 0 false 7 9 8 true), (0x05806002, .fibdef 0 false 12), (0x05800003, .fibend 0 false)] = true := by decide

/-- 09, 10, 15, 18 and 19 "Encodings"; 14 Table 14.7; 12 Table 12.3, 13 Table 13.2 and 16 Table 16.6, field by field. -/
theorem test_decode_units : decodes [(0x05B10002, .tzero 0 2 1), (0x05C90880, .tmop 0 1 1 1 2), (0x05C25271, .tmma 0 0 2 10 9 true true),
    (0x06035020, .tld 0 3 10 true), (0x06035801, .tst 0 3 11 false), (0x06222A40, .trowmv 0 2 5 9 false),
    (0x06222A50, .trowmv 0 2 5 9 true), (0x06234012, .tvmv 0 3 8 true), (0x05F32240, .tmms 0 2 3 4 9 false false),
    (0x05E652E1, .tmf64 0 0 6 10 11 true false), (0x06404A80, .wbld 0 9 10), (0x067BA801, .cpy2 0 27 21 false false),
    (0x0679A804, .cpym 0 25 21 false false), (0x06E06420, .barinit 0 12 16 true), (0x06E06061, .bararr 0 12 1 true),
    (0x06E05822, .barwait 0 11 true), (0x06C00018, .fence 0 3), (0x06C0000A, .rel 0 1), (0x06E06003, .wmwait 0 12),
    (0b0000_0_111001_00000_00101_00110_000001, .ckpbeg 0 5 6), (0b0000_0_111001_00111_00000_00010_000101, .rprd 0 7 2),
    (0x07544801, .launchn 0 20 9), (0x07404882, .cancel 0 9 2), (0x07464803, .cntrd 0 6 9),
    (0x076052C0, .fork 0 10 11), (0x07600004, .uexit 0), (0x07604805, .notify 0 9), (0x07C04801, .tmark 0 9),
    (0x07C000C0, .brk 0 3), (0x07800140, .trap 0 5), (0x07800001, .eret 0),
    (0x07800002, .mcall 0), (0x07800003, .halt 0), (0x07A052C0, .vptwr 0 10 11), (0x07A052C1, .tlbinv 0 10 11),
    (0x07A06002, .ctxsave 0 12), (0x07A06003, .ctxrest 0 12)] = true := by decide

theorem test_decode_refuses : ([0x07800004, 0x07800041, 0x07A06042, 0, 0xFFFFFFFF, 0x0220003F] : List Nat).all
    (fun w => (decodeWord w).toOption.isNone) = true := by decide

/-! ### One step of an instruction -/

/-- X[n] of slot 0 after an instruction in a state. -/
def xAfter (i : Instr) (s : State) (n : Nat) : Word := ((after i s).toMach.slot 0).regs.getX false n

/-- x4 = a, x6 = b, at User level. -/
def xx (a b : Word) : State := withX [(4, a), (6, b)] user

theorem test_add_wraps : xAfter (.add 0 2 4 6) (xx 0xFFFFFFFFFFFFFFFF 2) 2 = 1 ∧ ((after (.add 0 2 4 6) (xx 0 2)).toMach.slot 0).regs.pc =
    0x1004 := by decide

theorem test_x0_discards : xAfter (.add 0 0 4 6) (xx 1 2) 0 = 0 := by decide

theorem test_mulh_signed : xAfter (.mulh 0 2 4 6) (xx 0xFFFFFFFFFFFFFFFF 2) 2 = 0xFFFFFFFFFFFFFFFF ∧
    xAfter (.mulhn 0 2 4 6) (xx 0xFFFFFFFFFFFFFFFF 2) 2 = 1 := by decide

/-- 03 R62: division by zero, and the one overflow. -/
theorem test_div_corners : xAfter (.div 0 2 4 6) (xx 7 0) 2 = 0xFFFFFFFFFFFFFFFF ∧ xAfter (.rem 0 2 4 6) (xx 7 0) 2 = 7 ∧
    xAfter (.div 0 2 4 6) (xx 0x8000000000000000 0xFFFFFFFFFFFFFFFF) 2 = 0x8000000000000000 ∧
    xAfter (.rem 0 2 4 6) (xx 0xFFFFFFFFFFFFFFF9 2) 2 = 0xFFFFFFFFFFFFFFFF := by decide

theorem test_slli_high : xAfter (.slli 0 2 4 8 true) (xx 1 0) 2 = 0x10000000000 := by decide

theorem test_slt_signed : xAfter (.slt 0 2 4 6) (xx 0xFFFFFFFFFFFFFFFF 0) 2 = 1 ∧ xAfter (.sltn 0 2 4 6) (xx 0xFFFFFFFFFFFFFFFF 0) 2 = 0 := by
  decide

theorem test_clz_of_zero : xAfter (.clz 0 2 4) (xx 0 0) 2 = 64 ∧ xAfter (.ctz 0 2 4) (xx 8 0) 2 = 3 := by decide

theorem test_addi_sign_extends : xAfter (.addi 0 2 4 0x7FF) (xx 0 0) 2 = 0xFFFFFFFFFFFFFFFF := by decide

/-- 03 R67: a load sign-extends its datum and OFF9 counts in accesses. -/
theorem test_ld16_sign : let s := withBytes 0x2FFE [0xFE, 0xFF] (xx 0x3000 0)
    xAfter (.ld16 0 2 4 0x1FF) s 2 = 0xFFFFFFFFFFFFFFFE ∧ xAfter (.ld16N 0 2 4 0x1FF) s 2 = 0xFFFE := by decide

theorem test_bne_taken : ((after (.bne 0 4 6 0x1FD) (xx 1 2)).toMach.slot 0).regs.pc = 0xFF4 ∧
    ((after (.bne 0 4 6 0x1FD) (xx 2 2)).toMach.slot 0).regs.pc = 0x1004 := by decide

theorem test_jal_links : ((after (.jal 0 5) user).toMach.slot 0).regs.pc = 0x1014 ∧ xAfter (.jal 0 5) user 1 = 0x1004 := by decide

/-- 15 R365: `trap` enters the handler with `sepc` at the next word. -/
theorem test_trap_enters : let t := (after (.trap 0 5) handled).toMach.slot 0
    t.regs.pc = 0x2000 ∧ t.regs.level = .supervisor ∧ t.sup.sepc = 0x1004 := by decide +kernel

/-- 05 "Worked conversions". -/
theorem test_conversions : convert 10 0 0 0x40200000 = (2, 1) ∧ convert 10 0 4 0x40200000 = (3, 1) ∧
    (convert 10 0 1 0x43960000).1 = 127 ∧ convert 10 9 0 0x3F800001 = (0x3F80, 1) ∧ (convert 10 9 3 0x3F800001).1 = 0x3F81 ∧
    (convert 10 8 0 0x7F7FFFFF).1 = 0x7C00 ∧ (convert 10 8 1 0x7F7FFFFF).1 = 0x7BFF ∧ convert 8 10 0 1 = (0x33800000, 0) ∧
    convert 12 12 0 0x11 = (0x07, 0) := by decide +kernel

/-- v registers of slot 0 from lists of elements. -/
def withV (ew : Nat) (l : List (Nat × List Nat)) (s : State) : State :=
  onSlot0 (fun v => { v with regs := { v.regs with v := l.map (fun p => (p.1, (p.2.zipIdx.foldl (fun r e =>
    putBits r (ew * e.2) ew e.1) (0 : VReg)))) } }) s

/-- The first elements of a v register. -/
def elems (s : State) (n ew k : Nat) : List Nat := (List.range k).map (fun i => (elem ew ((s.toMach.slot 0).regs.getV n) i).toNat)

/-- 04 "Example: masked saturation and prefix counts". -/
def saturating : State :=
  onSlot0 (fun v => { v with regs := { v.regs with m := [(1, 0x2D)] } })
    (withV 8 [(1, [100, 20, 156, 50, 7, 127]), (2, [60, 5, 196, 100, 9, 1])]
      (withCtl (fun c => { c with fmt := 0, vl := 6, msel := 1, mall := false }) user))

theorem test_masked_saturation : elems (after (.vaddsat 0 false 3 1 2 false) saturating) 3 8 6 = [127, 0, 128, 127, 0, 127] ∧
    elems (after (.viota 0 false 4 1) saturating) 4 8 6 = [0, 0, 1, 2, 0, 3] ∧ xAfter (.mpopc 0 false 5 1) saturating 5 = 4 := by
  decide +kernel

/-- 07 "Example: the fold order decides the bits". -/
theorem test_fold_order : let s := withV 32 [(5, [0x4B800000, 0x3F800000, 0x3F800000, 0x3F800000])] (withCtl (fun c => { c with vl := 4 }) user)
    xAfter (.vred 0 false 9 5 0 true 0) s 9 = 0x4B800001 := by decide +kernel

/-- 04 "Example: one refinement of 1/3 in f32". -/
theorem test_reciprocal_estimate :
    let s := withV 32 [(6, [0x40400000]), (7, [0x3EAAB000])] (withCtl (fun c => { c with vl := 1 }) user)
    elems (after (.vrcpa 0 false 7 6) s) 7 32 1 = [0x3EAAB000] ∧ elems (after (.vrcps 0 false 8 6 7) s) 8 32 1 = [0x3F7FF800] := by
  decide +kernel

/-- 06 R157: a store of two words at the stack. -/
theorem test_vst_stores : let s := withV 32 [(2, [0x11223344, 0x55667788, 0x99AABBCC])] vectors
    let t := after (.vst 0 false 2 4 false false) s
    t.work.num (lspLoc 0 (0xF8000 - 64)) 8 = 0x5566778811223344 ∧ t.work.num (lspLoc 0 (0xF8000 - 56)) 4 = 0 := by decide +kernel

/-- 12 "Example: an arrival that overshoots", the second arrival: 5 workers, for `vl` is 5. -/
theorem test_arrival_overshoots :
    let s := barrier { Barrier.reset with expect := 10, arrived := 6, gen := 1 }
      (onSlot0 (fun v => { v with regs := { v.regs with m := [(1, 0x7F)] } }) (withCtl (fun c => { c with vl := 5 }) (withX [(4, 2)] user)))
    let t := after (.bararr 0 4 1 false) s
    (tabGet Barrier.reset t.toMach.barriers 2).gen = 2 ∧ (tabGet Barrier.reset t.toMach.barriers 2).arrived = 1 ∧
      bitsN (t.toMach.slot 0).ctl.barseq 32 32 = 2 := by decide +kernel

/-- The state after a step that takes a turn off the agenda, other turns to follow. -/
def taking (t : Turn) (s : State) : State :=
  match step { s with agenda := [t, .slot 0] } with
  | .next t => t
  | _ => s

/-- 12 test 5; 12 R290, R291: element 0 of a store stands before element 1, and other accesses may stand between; the rest of the
store follows at the slot's next turn. -/
theorem test_elements_apart :
    let s := (withV 32 [(2, [0x11223344, 0x55667788])] vectors).withFetchWord 32 (encode (.vst 0 false 2 4 false false))
    let at_ := lspLoc 0 (0xF8000 - 64)
    let t := taking (.part 0 1) s
    let e := taking (.event .umanteDispatch) t
    let u := taking (.slot 0) e
    t.work.num at_ 8 = 0x11223344 ∧ t.work.s.regs.pc = 0x1000 ∧ e.work.num at_ 8 = 0x11223344 ∧ u.work.num at_ 8 = 0x5566778811223344 ∧
      u.work.s.regs.pc = 0x1004 ∧ u.parts = [] := by decide +kernel

/-- The first GiB of the vector window lies in package 1 of the pod. -/
def farVectors : State := podOf (onCtx (fun c => { c with vpt := [(0, 0x0010000000000007)] }) (withX [(4, 0x5000)] vectors))

/-- 12 R301, test 7: each word of a remote store is performed at its home after its thread has gone on, in any order, and a remote
load may return what the word held before. -/
theorem test_remote_accesses :
    let at_ := remoteLoc 1 0x5000
    let s := (withV 32 [(2, [0x11223344, 0x55667788])] farVectors).withFetchWord 32 (encode (.vst 0 false 2 4 false false))
    let t := taking (.loose 0) s
    let l := taking (.sight 0 at_) (farVectors.withFetchWord 32 (encode (.vld 0 false 2 4 false)))
    let l := (l.work.putNum at_ 4 0x77).finish l
    t.work.num at_ 8 = 0 ∧ t.work.s.regs.pc = 0x1004 ∧ (taking (.arrive 0 at_) t).work.num at_ 8 = 0x11223344 ∧
      (taking (.arrive 0 (at_ + 4)) t).work.num at_ 8 = 0x5566778800000000 ∧
      elems (taking (.loose 0) l) 2 32 1 = [0] ∧ elems (taking (.slot 0) l) 2 32 1 = [0x77] := by decide +kernel

end Sys2Proof.Tests
end

section
/-! The state right after reset, the writes of registers and of their elements, what completion leaves, and the bytes that the
stores of a vector instruction leave. -/

namespace Sys2Proof.Machine

/-! ### Reset (01 R17, R21) -/

@[simp] theorem slot_reset (n : Nat) : State.reset.toMach.slot n = Slot.reset := rfl
@[simp] theorem core_reset (n : Nat) : State.reset.toMach.core n = Core.reset := rfl
@[simp] theorem vault_reset (n : Nat) : State.reset.toMach.vault n = Vault.reset := rfl

/-- Every x register reads 0 after reset, in both banks. -/
theorem getX_reset (bank : Bool) (n : Nat) : SlotRegs.reset.getX bank n = 0 := by
  simp [SlotRegs.getX, SlotRegs.reset]

/-- `vtype` after reset: FMT f32, blocks of 32 elements, SLC 7, not protected. -/
theorem vtypeWord_reset : vtypeWord SlotCtl.reset false = 0x75A := by decide

/-- `vmsel` after reset selects all elements. -/
theorem vmselWord_reset : vmselWord SlotCtl.reset = 8 := by decide

/-- After reset no slot's core has an owner, so `tstate` reads 0. -/
theorem tstateWord_reset (n : Nat) : tstateWord State.reset.toMach n = 0 := by
  simp [tstateWord, Core.reset]

/-- Settles O4: every table of the machine is empty, so every numbered thing is in its own reset state. -/
theorem resetState : Obligations.ResetState := by
  intro slot
  simp only [slot_reset, core_reset, vault_reset]
  exact ⟨getX_reset, fun _ => rfl, fun _ => rfl, fun _ => rfl, rfl, rfl, rfl, vtypeWord_reset, rfl, vmselWord_reset, rfl, rfl,
    rfl, tstateWord_reset slot, rfl, fun _ => rfl, fun _ => rfl, fun _ => rfl⟩

/-! ### Writes of x registers (01 R21; 03 R60; 15 R359) -/

@[simp] theorem x_zero (w : Work) : w.x 0 = 0 := rfl

/-- A register write changes the running slot's registers as `SlotRegs.setX` does, in the bank of the slot's level. -/
@[simp] theorem setX_s_regs (w : Work) (n : Nat) (v : Word) :
    (w.setX n v).s.regs = w.s.regs.setX (inBank w.s.regs.level n) n v := by
  simp [Work.setX]

/-- The register written is read back. -/
theorem getX_setX_self (r : SlotRegs) (bank : Bool) {n : Nat} (v : Word) (h : n ≠ 0) : (r.setX bank n v).getX bank n = v := by
  simp [getX_setX, h]

/-- A register write leaves every other register of either bank as it was. -/
theorem setX_sameXBut (w : Work) (n : Nat) (v : Word) : SameXBut n w.s (w.setX n v).s := by
  intro bank k hne
  have : ¬(n ≠ 0 ∧ bank = inBank w.s.regs.level n ∧ k = n) := fun ⟨_, hb, hk⟩ => hne ⟨hk, hk ▸ hb⟩
  rw [setX_s_regs, getX_setX, if_neg this]

/-! ### What completion leaves (02 R30; 03 R84) -/

@[simp] theorem countKeys_s_ctl (w : Work) (keys : List Nat) : (w.countKeys keys).s.ctl = w.s.ctl := by
  unfold Work.countKeys; split <;> rfl

@[simp] theorem orFlags_vstart (w : Work) (f : BitVec 5) : (w.orFlags f).s.ctl.vstart = w.s.ctl.vstart := by
  simp [Work.orFlags]

/-- Counting the strips of a completed instruction leaves `vstart` as it was. -/
@[simp] theorem countStrips_vstart (w : Work) : w.countStrips.s.ctl.vstart = w.s.ctl.vstart := by
  have go (l : List Strip) (t : Work) :
      (l.foldl (fun w p => (w.countKeys p.keys).orFlags (p.flags.foldl (fun a x => a ||| x.2) 0)) t).s.ctl.vstart =
        t.s.ctl.vstart := by
    induction l generalizing t with
    | nil => rfl
    | cons p l ih => rw [List.foldl_cons, ih, orFlags_vstart, countKeys_s_ctl]
  exact go w.strips { w with strips := [] }

@[simp] theorem retire_cur (w : Work) (i : Instr) (b : Slot) : (w.retire i b).m.cur = w.m.cur := by
  obtain ⟨⟨slots, ctx, hm⟩, -⟩ := retire_m w i b
  rw [hm]

/-- Of a unit that runs, completion changes the pc and no other register. -/
theorem retire_s_regs {w : Work} (i : Instr) (b : Slot) (h : w.s.unit.st.runs = true) :
    (w.retire i b).s.regs = { w.s.regs with pc := w.npc } := by
  obtain ⟨hx, hsx, hv, hm, hk, hl⟩ := retire_regs w i b
  have hpc := retire_pc i b h
  cases hr : (w.retire i b).s.regs
  simp_all

/-- Of a unit that runs, completion sets `vstart` to 0 after a vector or tile instruction and leaves it after any other. -/
theorem retire_vstart {w : Work} (i : Instr) (b : Slot) (h : w.s.unit.st.runs = true) :
    (w.retire i b).s.ctl.vstart = (if (infoOf b.ctl.fmt i).cls = .scalar ∧ (infoOf b.ctl.fmt i).tile = false ∧
      switchesTile i = false then w.s.ctl.vstart else 0) := by
  simp [Work.retire, h, and_assoc]

/-- Of a unit that runs, completion counts one instruction more. -/
theorem retire_iseq {w : Work} (i : Instr) (b : Slot) (h : w.s.unit.st.runs = true) :
    (w.retire i b).s.thr.iseq = w.s.thr.iseq + 1 := by
  simp [Work.retire, h, (countStrips_only w).thr]

/-- Of a unit that runs, completion leaves nothing to wait for. -/
theorem retire_waiting {w : Work} (i : Instr) (b : Slot) (h : w.s.unit.st.runs = true) :
    (w.retire i b).s.unit.waiting = none := by
  simp [Work.retire, h]

/-- An instruction that has written no byte leaves memory as it was, and the machine as its retirement left it. -/
theorem completed_of_no_writes (i : Instr) (s : State) {w : Work} (h : w.ws = []) :
    completed i s w = { toMach := (w.retire i s.work.s).m, mem := s.mem } :=
  finish_of_no_writes _ s ((retire_ws w i _).trans h)

/-- Settles O7: each write of a register by the rules of `SlotRegs.setX`, and completion field by field from the rules of
`Work.retire`. -/
theorem registerWrites : Obligations.RegisterWrites := by
  refine ⟨fun w n v => ⟨x_zero w, ?_, ?_, setX_sameXBut w n v, ?_, ?_⟩, ?_⟩
  · rw [setX_s_regs, setX_zero]
  · intro hn
    rw [setX_s_regs]
    exact getX_setX_self w.s.regs (inBank w.s.regs.level n) v hn
  · rw [setX_s_regs, setX_level]
  · rw [setX_s_regs, setX_pc]
  · intro i s w hruns hcur hws _
    have hslot : (w.retire i s.work.s).m.slot s.cur = (w.retire i s.work.s).s := by
      rw [← hcur, ← retire_cur w i s.work.s]; rfl
    rw [completed_of_no_writes i s hws]
    dsimp only
    rw [hslot]
    exact ⟨retire_s_regs i _ hruns, retire_sup w i _, rfl, retire_vstart i _ hruns, retire_iseq i _ hruns,
      retire_waiting i _ hruns, fun n hn => (retire_m w i _).2 n (hcur ▸ hn)⟩

/-! ### Elements of a register (01 R8, R20) -/

/-- Bit j of a register after element e is written: the value's where j lies in the element, the register's elsewhere. -/
theorem getLsbD_setElem {N width e j : Nat} (r : BitVec N) (v : BitVec width) (hN : j < N) :
    (setElem width r e v).getLsbD j = if e * width ≤ j ∧ j < e * width + width then v.getLsbD (j - e * width) else r.getLsbD j := by
  simp only [setElem, BitVec.getLsbD_or, BitVec.getLsbD_and, BitVec.getLsbD_not, BitVec.getLsbD_shiftLeft,
    BitVec.getLsbD_setWidth, BitVec.getLsbD_allOnes, hN, Nat.lt_of_le_of_lt (Nat.sub_le j (e * width)) hN, decide_true,
    Bool.true_and]
  by_cases hbelow : j < e * width
  · rw [if_neg (fun h => Nat.not_lt.2 h.1 hbelow)]
    simp only [hbelow, decide_true, Bool.not_true, Bool.false_and, Bool.not_false, Bool.and_true, Bool.or_false]
  · by_cases hin : j - e * width < width
    · rw [if_pos ⟨Nat.not_lt.1 hbelow, by omega⟩]
      simp only [hbelow, hin, decide_false, decide_true, Bool.not_false, Bool.and_self, Bool.not_true, Bool.and_false,
        Bool.true_and, Bool.false_or]
    · rw [if_neg (by omega), BitVec.getLsbD_of_ge v _ (Nat.not_lt.1 hin)]
      simp only [hin, decide_false, Bool.and_false, Bool.not_false, Bool.and_true, Bool.or_false]

/-- An element within the register reads the value just written to it. -/
theorem elem_setElem_self {N width e : Nat} (r : BitVec N) (v : BitVec width) (h : (e + 1) * width ≤ N) :
    elem width (setElem width r e v) e = v := by
  ext i hi
  rw [Nat.succ_mul] at h
  rw [elem, BitVec.getElem_extractLsb', getLsbD_setElem r v (by omega), if_pos (by omega), Nat.add_sub_cancel_left,
    BitVec.getLsbD_eq_getElem hi]

/-- Writing an element leaves every other element as it was. -/
theorem elem_setElem_ne {N width e k : Nat} (r : BitVec N) (v : BitVec width) (h : k ≠ e) :
    elem width (setElem width r e v) k = elem width r k := by
  ext i hi
  have hle {a b : Nat} (hab : a < b) : a * width + width ≤ b * width := by
    rw [← Nat.succ_mul]; exact Nat.mul_le_mul_right width hab
  have hout : ¬(e * width ≤ k * width + i ∧ k * width + i < e * width + width) := by
    rcases Nat.lt_or_gt_of_ne h with hlt | hgt
    · have := hle hlt; omega
    · have := hle hgt; omega
  rw [elem, elem, BitVec.getElem_extractLsb', BitVec.getElem_extractLsb']
  by_cases hN : k * width + i < N
  · rw [getLsbD_setElem r v hN, if_neg hout]
  · rw [BitVec.getLsbD_of_ge _ _ (Nat.not_lt.1 hN), BitVec.getLsbD_of_ge _ _ (Nat.not_lt.1 hN)]

/-- Elements that a list of writes does not name keep their bits. -/
theorem elem_putElems_of_notMem {N width e : Nat} (l : List (Nat × Nat)) (r : BitVec N) (h : ∀ p ∈ l, p.1 ≠ e) :
    elem width (putElems width r l) e = elem width r e := by
  induction l generalizing r with
  | nil => rfl
  | cons q l ih =>
    rw [List.forall_mem_cons] at h
    exact (ih _ h.2).trans (elem_setElem_ne r _ h.1.symm)

/-- Where no element is named twice, each one written holds the low bits of its value. -/
theorem elem_putElems_of_mem {N width : Nat} (l : List (Nat × Nat)) (r : BitVec N) (hN : ∀ p ∈ l, (p.1 + 1) * width ≤ N)
    (hd : (l.map (fun p => p.1)).Nodup) (p : Nat × Nat) (hp : p ∈ l) :
    elem width (putElems width r l) p.1 = BitVec.ofNat width p.2 := by
  induction l generalizing r with
  | nil => cases hp
  | cons q l ih =>
    rw [List.forall_mem_cons] at hN
    rw [List.map_cons, List.nodup_cons] at hd
    rcases List.mem_cons.1 hp with rfl | hp
    · have hother : ∀ q ∈ l, q.1 ≠ p.1 := fun q hq he => hd.1 (he ▸ List.mem_map_of_mem hq)
      exact (elem_putElems_of_notMem l _ hother).trans (elem_setElem_self r _ hN.1)
    · exact ih _ hN.2 hd.2 hp

/-! ### Destinations (04 R101, R104; 06 R170) -/

@[simp] theorem markDirty_s_regs (w : Work) (b : Word) : (w.markDirty b).s.regs = w.s.regs := by simp [Work.markDirty]
@[simp] theorem markDirty_s_thr (w : Work) (b : Word) : (w.markDirty b).s.thr = w.s.thr := by simp [Work.markDirty]

@[simp] theorem unbind_s_regs (w : Work) (n : Nat) : (w.unbind n).s.regs = w.s.regs := by
  unfold Work.unbind; split <;> simp

/-- Unbinding a register removes its binding, if it has one, and no other. -/
theorem unbind_binds (w : Work) (n : Nat) : (w.unbind n).s.thr.binds = w.s.thr.binds.filter (fun b => b.reg ≠ n) := by
  unfold Work.unbind
  split
  · simp
  · rename_i h
    refine (List.filter_eq_self.2 fun b hb => ?_).symm
    exact decide_eq_true fun hr => h (List.any_eq_true.2 ⟨b, hb, decide_eq_true hr⟩)

@[simp] theorem setV_s_regs (w : Work) (d : Nat) (v : VReg) : (w.setV d v).s.regs = { w.s.regs with v := tabSet w.s.regs.v d v } := by
  simp [Work.setV, Work.loadV]

@[simp] theorem setV_s_binds (w : Work) (d : Nat) (v : VReg) : (w.setV d v).s.thr.binds = (w.unbind d).s.thr.binds := by
  simp [Work.setV, Work.loadV]

/-- Elements written: the destination register holds them, and the other v registers are as they were. -/
theorem getV_putV (w : Work) (d width : Nat) (l : List (Nat × Nat)) (n : Nat) :
    (w.putV d width l).s.regs.getV n = if n = d then putElems width (w.s.regs.getV d) l else w.s.regs.getV n := by
  unfold Work.putV
  split
  · rename_i hl; subst hl
    rw [unbind_s_regs]
    split
    · rename_i hn; rw [hn]; rfl
    · rfl
  · simp [SlotRegs.getV, tabGet_tabSet]

/-- Elements written to a v register change no other register file. -/
theorem putV_s_regs (w : Work) (d width : Nat) (l : List (Nat × Nat)) :
    (w.putV d width l).s.regs = { w.s.regs with v := (w.putV d width l).s.regs.v } := by
  unfold Work.putV
  split <;> simp

theorem putV_binds (w : Work) (d width : Nat) (l : List (Nat × Nat)) :
    (w.putV d width l).s.thr.binds = w.s.thr.binds.filter (fun b => b.reg ≠ d) := by
  unfold Work.putV
  split <;> simp only [setV_s_binds, unbind_binds]

/-- A register whose elements are written is unbound. -/
theorem putV_unbinds (w : Work) (d width : Nat) (l : List (Nat × Nat)) : ∀ b ∈ (w.putV d width l).s.thr.binds, b.reg ≠ d := by
  simp [putV_binds]

theorem getX_putV (w : Work) (d width : Nat) (l : List (Nat × Nat)) (bank : Bool) (n : Nat) :
    (w.putV d width l).s.regs.getX bank n = w.s.regs.getX bank n := by
  rw [putV_s_regs]; rfl

theorem putV_sameMasks (w : Work) (d width : Nat) (l : List (Nat × Nat)) : SameMasks w.s (w.putV d width l).s := by
  constructor <;> intro n <;> rw [putV_s_regs] <;> rfl

theorem putV_sameVBut (w : Work) (d width : Nat) (l : List (Nat × Nat)) : SameVBut [d] w.s (w.putV d width l).s := by
  intro n hn
  rw [getV_putV, if_neg (List.ne_of_not_mem_cons hn)]

/-! ### The bytes of a store -/

/-- The low n bytes of a number, put together again. -/
theorem leNat_leBytes (n v : Nat) : leNat (leBytes n v) = v % 2 ^ (8 * n) := by
  induction n generalizing v with
  | zero => simp [leBytes, leNat, Nat.mod_one]
  | succ n ih =>
    have hpow : 2 ^ (8 * (n + 1)) = 256 * 2 ^ (8 * n) := by rw [Nat.mul_succ, Nat.pow_add, Nat.mul_comm]
    rw [hpow, Nat.mod_mul]
    simp [leBytes, leNat, ih]

/-- Bytes written at places of a list, one after another, change no byte elsewhere. -/
theorem byte_putAll_of_notMem (l : List (Nat × Byte)) (w : Work) {x : Nat} (h : ∀ p ∈ l, p.1 ≠ x) :
    (l.foldl (fun w p => w.putByte p.1 p.2) w).byte x = w.byte x := by
  induction l generalizing w with
  | nil => rfl
  | cons q l ih =>
    rw [List.forall_mem_cons] at h
    rw [List.foldl_cons, ih _ h.2, byte_putByte, if_neg h.1.symm]

/-- Bytes written at different places are the bytes read there. -/
theorem bytes_putAll (locs : List Nat) (data : List Byte) (w : Work) (hd : locs.Nodup) (hl : data.length = locs.length) :
    locs.map ((locs.zip data).foldl (fun w p => w.putByte p.1 p.2) w).byte = data := by
  induction locs generalizing data w with
  | nil => exact (List.length_eq_zero_iff.1 hl).symm
  | cons x locs ih =>
    obtain ⟨b, data, rfl⟩ := List.exists_cons_of_length_eq_add_one hl
    rw [List.nodup_cons] at hd
    have hx : ∀ p ∈ locs.zip data, p.1 ≠ x := fun p hp he => hd.1 (he ▸ (List.of_mem_zip hp).1)
    rw [List.zip_cons_cons, List.foldl_cons, List.map_cons, byte_putAll_of_notMem _ _ hx, byte_putByte, if_pos rfl,
      ih data _ hd.2 (Nat.succ.inj hl)]

theorem putAll_s (l : List (Nat × Byte)) (w : Work) : (l.foldl (fun w p => w.putByte p.1 p.2) w).s = w.s := by
  induction l generalizing w with
  | nil => rfl
  | cons q l ih => exact ih _

@[simp] theorem noteBytes_byte (w : Work) (a b : Nat) (c : Bool) (l : List (Nat × Byte)) : (w.noteBytes a b c l).byte = w.byte := rfl
@[simp] theorem noteBytes_s (w : Work) (a b : Nat) (c : Bool) (l : List (Nat × Byte)) : (w.noteBytes a b c l).s = w.s := rfl

@[simp] theorem storeMarks_byte (w : Work) (a : Word) (l : List Nat) : (w.storeMarks a l).byte = w.byte := by
  unfold Work.storeMarks Work.countRemote; split <;> split <;> rfl

@[simp] theorem storeMarks_s_regs (w : Work) (a : Word) (l : List Nat) : (w.storeMarks a l).s.regs = w.s.regs := by
  unfold Work.storeMarks Work.countRemote; split <;> split <;> simp

@[simp] theorem feedWrite_byte (w : Work) (a : Word) (data : List Byte) : (w.feedWrite a data).byte = w.byte := rfl

@[simp] theorem feedWrite_s_regs (w : Work) (a : Word) (data : List Byte) : (w.feedWrite a data).s.regs = w.s.regs := by
  simp [Work.feedWrite]

/-- A store changes no byte outside its places. -/
theorem byte_stored_of_notMem (w : Work) (a : Word) {locs : List Nat} (data : List Byte) {x : Nat} (h : x ∉ locs) :
    (w.stored a locs data).byte x = w.byte x := by
  have hz : ∀ p ∈ locs.zip data, p.1 ≠ x := fun p hp he => h (he ▸ (List.of_mem_zip hp).1)
  simp only [Work.stored, Work.storeBytes, feedWrite_byte, storeMarks_byte, byte_putAll_of_notMem _ _ hz]
  split <;> rfl

/-- A store to different places leaves its data there. -/
theorem bytes_stored (w : Work) (a : Word) {locs : List Nat} {data : List Byte} (hd : locs.Nodup)
    (hl : data.length = locs.length) : locs.map (w.stored a locs data).byte = data := by
  simp only [Work.stored, Work.storeBytes, feedWrite_byte, storeMarks_byte]
  exact bytes_putAll locs data _ hd hl

/-- A store changes no register. -/
@[simp] theorem stored_s_regs (w : Work) (a : Word) (locs : List Nat) (data : List Byte) :
    (w.stored a locs data).s.regs = w.s.regs := by
  simp only [Work.stored, Work.storeBytes, feedWrite_s_regs, storeMarks_s_regs, putAll_s]
  split <;> rfl

/-! ### The stores of a vector instruction, one after another (06 R157) -/

/-- One access of a vector store: its bits written at its places, the flags of its result ORed. -/
def Work.storeAccess (w : Work) (q : Req × FRes) : Work :=
  (w.stored q.1.a q.1.locs (leBytes q.1.locs.length q.2.1)).orFlags q.2.2

/-- The accesses of a vector store in element order, each with its result. -/
def storeAccesses (bits : Nat → List FRes) (l : List (Nat × List Req)) : List (Req × FRes) :=
  l.flatMap (fun p => p.2.zip (bits p.1))

/-- The places of a list of accesses. -/
def accessLocs (qs : List (Req × FRes)) : List Nat := qs.flatMap (fun q => q.1.locs)

/-- A vector store makes its accesses one after another. -/
theorem storeElems_eq_foldl (w : Work) (bits : Nat → List FRes) (l : List (Nat × List Req)) :
    w.storeElems bits l = (storeAccesses bits l).foldl Work.storeAccess w :=
  (List.foldl_flatMap ..).symm

/-- The accesses of one element that have a result are among its accesses, in the same order. -/
theorem accessLocs_zip_sublist (rs : List Req) (bs : List FRes) :
    (accessLocs (rs.zip bs)).Sublist (rs.flatMap (fun r => r.locs)) := by
  induction rs generalizing bs with
  | nil => exact List.nil_sublist _
  | cons r rs ih =>
    cases bs with
    | nil => exact List.nil_sublist _
    | cons b bs => exact (List.Sublist.refl r.locs).append (ih bs)

/-- The accesses that a vector store makes are among those planned, in the same order: an access without a result is not made. -/
theorem accessLocs_sublist_planLocs (bits : Nat → List FRes) (l : List (Nat × List Req)) :
    (accessLocs (storeAccesses bits l)).Sublist (planLocs l) := by
  induction l with
  | nil => exact List.nil_sublist _
  | cons p l ih =>
    rw [storeAccesses, List.flatMap_cons, accessLocs, List.flatMap_append, planLocs, List.flatMap_cons]
    exact (accessLocs_zip_sublist p.2 (bits p.1)).append ih

theorem byte_storeAccess_of_notMem (w : Work) {q : Req × FRes} {x : Nat} (h : x ∉ q.1.locs) :
    (w.storeAccess q).byte x = w.byte x :=
  byte_stored_of_notMem w q.1.a _ h

@[simp] theorem storeAccess_s_regs (w : Work) (q : Req × FRes) : (w.storeAccess q).s.regs = w.s.regs := by
  simp [Work.storeAccess, Work.orFlags]

/-- An access to different places leaves its bits there. -/
theorem reqBits_storeAccess (w : Work) {q : Req × FRes} (h : q.1.locs.Nodup) :
    (w.storeAccess q).reqBits q.1 = q.2.1 % 2 ^ (8 * q.1.locs.length) := by
  have hbytes : q.1.locs.map (w.storeAccess q).byte = leBytes q.1.locs.length q.2.1 :=
    bytes_stored w q.1.a h (leBytes_length _ _)
  rw [Work.reqBits, hbytes, leNat_leBytes]

theorem byte_storeAccesses_of_notMem (qs : List (Req × FRes)) (w : Work) {x : Nat} (h : x ∉ accessLocs qs) :
    (qs.foldl Work.storeAccess w).byte x = w.byte x := by
  induction qs generalizing w with
  | nil => rfl
  | cons q qs ih =>
    rw [accessLocs, List.flatMap_cons, List.mem_append, not_or] at h
    exact (ih _ h.2).trans (byte_storeAccess_of_notMem w h.1)

theorem storeAccesses_s_regs (qs : List (Req × FRes)) (w : Work) : (qs.foldl Work.storeAccess w).s.regs = w.s.regs := by
  induction qs generalizing w with
  | nil => rfl
  | cons q qs ih => exact (ih _).trans (storeAccess_s_regs w q)

/-- Where no two accesses share a byte, no later access changes what an earlier one has written. -/
theorem reqBits_storeAccesses (qs : List (Req × FRes)) (w : Work) (hd : (accessLocs qs).Nodup) (q : Req × FRes) (hq : q ∈ qs) :
    (qs.foldl Work.storeAccess w).reqBits q.1 = q.2.1 % 2 ^ (8 * q.1.locs.length) := by
  induction qs generalizing w with
  | nil => cases hq
  | cons p qs ih =>
    rw [accessLocs, List.flatMap_cons, List.nodup_append] at hd
    obtain ⟨hp, hqs, hdisj⟩ := hd
    rcases List.mem_cons.1 hq with rfl | hq
    · have hkept : q.1.locs.map (qs.foldl Work.storeAccess (w.storeAccess q)).byte = q.1.locs.map (w.storeAccess q).byte :=
        List.map_congr_left fun x hx => byte_storeAccesses_of_notMem qs _ fun hq => hdisj x hx x hq rfl
      rw [List.foldl_cons, Work.reqBits, hkept]
      exact reqBits_storeAccess w hp
    · exact ih _ hqs hq

/-- Settles O36: elements one write at a time, and the stores of a vector instruction as one list of accesses, each of which
leaves every byte outside its own places. -/
theorem elementWrites : Obligations.ElementWrites := by
  constructor
  · intro w d width l _ hin hd
    have hfits : ∀ p ∈ l, (p.1 + 1) * width ≤ 16384 := fun p hp =>
      Nat.le_trans (Nat.mul_le_mul_right width (hin p hp)) (Nat.div_mul_le_self 16384 width)
    have hdest : (w.putV d width l).s.regs.getV d = putElems width (w.s.regs.getV d) l := by rw [getV_putV, if_pos rfl]
    rw [hdest]
    exact ⟨elem_putElems_of_mem l _ hfits hd, fun e _ he => elem_putElems_of_notMem l _ he, putV_sameVBut w d width l,
      putV_unbinds w d width l, getX_putV w d width l, putV_sameMasks w d width l⟩
  · intro w bits l
    have hsub := accessLocs_sublist_planLocs bits l
    rw [storeElems_eq_foldl]
    exact ⟨fun x hx => byte_storeAccesses_of_notMem _ w fun h => hx (hsub.subset h), storeAccesses_s_regs _ w,
      fun hd p hp r hr => reqBits_storeAccesses _ w (hd.sublist hsub) r (List.mem_flatMap.2 ⟨p, hp, hr⟩)⟩

end Sys2Proof.Machine
end

section
/-! The arithmetic of the vector unit: what each element-wise operation leaves, word by word. -/

namespace Sys2Proof.Machine

/-! ### Words by their work -/

/-- In the state s, the word i is issued with the work `bodyOf i`, whose answer on w is r. -/
def Runs (i : Instr) (s : State) (w : Work) (r : M Work) : Prop := exec i s = issue i (bodyOf i) s ∧ bodyOf i w = r

theorem Runs.trans {i : Instr} {s : State} {w : Work} {r t : M Work} (h : Runs i s w r) (e : r = t) : Runs i s w t := e ▸ h

/-- A word that begins, and whose work is done, completes. -/
theorem exec_of_runs {i : Instr} {s : State} {w w' : Work} (h : Runs i s w (.ok w')) (b : Begins i s w) :
    exec i s = .next (completed i s w') :=
  h.1.trans (issue_of_begins b h.2)

/-! ### Element-wise operations (04 R101, R104, R113) -/

/-- The flags of the results of a list of elements, ORed. -/
theorem flagsOf_map (l : List Nat) (f : Nat → FRes) :
    flagsOf (l.map (fun e => (e, f e))) = l.foldl (fun y e => y ||| (f e).2) 0 :=
  List.foldl_map

/-- The flags of elements that raise none. -/
theorem foldl_or_zero (l : List Nat) : l.foldl (fun (y : BitVec 5) _ => y ||| 0) 0 = 0 := by
  induction l with
  | nil => rfl
  | cons e l ih => exact ih

/-- A result for every active element: its bits into the element of vd, its flags ORed into `fflags`. -/
theorem mapV_eq (w : Work) (d : Reg) (f : Nat → FRes) :
    w.mapV d f = .ok ((w.putV d.val w.ew (w.active.map (fun e => (e, (f e).1)))).orFlags
      (w.active.foldl (fun y e => y ||| (f e).2) 0)) := by
  simp only [Work.mapV, flagsOf_map, List.map_map, Function.comp_def]

theorem mapV_plain (w : Work) (d : Reg) (g : Nat → Nat) :
    w.mapV d (fun e => plain (g e)) = .ok ((w.putV d.val w.ew (w.active.map (fun e => (e, g e)))).orFlags 0) := by
  simp only [mapV_eq, plain, foldl_or_zero]

/-- A mask bit for every active element, with flags. -/
theorem mapM_eq (w : Work) (d : Reg) (f : Nat → Bool × BitVec 5) :
    w.mapM d f = .ok ((w.putM d.val (w.active.map (fun e => (e, (f e).1)))).orFlags
      (w.active.foldl (fun y e => y ||| (f e).2) 0)) := by
  simp only [Work.mapM, List.map_map, List.foldl_map, Function.comp_def]

theorem mapM_plain (w : Work) (d : Reg) (g : Nat → Bool) :
    w.mapM d (fun e => (g e, 0)) = .ok ((w.putM d.val (w.active.map (fun e => (e, g e)))).orFlags 0) := by
  simp only [mapM_eq, foldl_or_zero]

/-- A result of twice the element width for every active element, into a register pair. -/
theorem mapWide_eq (w : Work) (d : Reg) (f : Nat → FRes) :
    w.mapWide d f = .ok ((w.putBlock d.val (2 * w.ew) (vlmaxBits (2 * w.ew) w.prot) (w.active.map (fun e => (e, (f e).1))) 2).orFlags
      (w.active.foldl (fun y e => y ||| (f e).2) 0)) := by
  simp only [Work.mapWide, flagsOf_map, List.map_map, Function.comp_def]

theorem mapWide_plain (w : Work) (d : Reg) (g : Nat → Nat) :
    w.mapWide d (fun e => plain (g e)) =
      .ok ((w.putBlock d.val (2 * w.ew) (vlmaxBits (2 * w.ew) w.prot) (w.active.map (fun e => (e, g e))) 2).orFlags 0) := by
  simp only [mapWide_eq, plain, foldl_or_zero]

/-! ### Integer and floating operations (04 R105 to R112, R114 to R119; 05 R135) -/

/-- The low n bits of a word. -/
theorem bitsN_zero {k : Nat} (x : BitVec k) (n : Nat) : bitsN x 0 n = x.toNat % 2 ^ n := by
  rw [bitsN, Nat.pow_zero, Nat.div_one]

/-- `vbcast` gives every active element the low bits of X[A]. -/
theorem bodyVbcast_eq (d a : Reg) (w : Work) :
    bodyVbcast d a w = w.mapV d (fun _ => plain ((w.x a.val).toNat % 2 ^ w.ew)) := by
  rw [bodyVbcast, bitsN_zero]

/-- Settles O26: the work of every word applies its function of Table 4.4 to the active elements, without flags. -/
theorem vectorInteger : Obligations.VectorInteger := by
  intro s w st c x d a b n p q o u v wrap clamp k hk hbegins
  suffices hruns : Runs k.1 s w (w.mapV d (fun e => plain (k.2 e))) from exec_of_runs (hruns.trans (mapV_plain w d k.2)) hbegins
  clear hbegins
  revert k
  simp only [List.forall_mem_cons]
  exact ⟨⟨rfl, rfl⟩, ⟨rfl, rfl⟩, -- vadd, vsub
    ⟨rfl, rfl⟩, ⟨rfl, rfl⟩, -- vmin, vmax
    ⟨rfl, rfl⟩, ⟨rfl, rfl⟩, -- vaddsat, vsubsat
    ⟨rfl, rfl⟩, ⟨rfl, rfl⟩, -- vabs, vneg
    ⟨rfl, rfl⟩, ⟨rfl, rfl⟩, ⟨rfl, rfl⟩, -- vand, vor, vxor
    ⟨rfl, rfl⟩, ⟨rfl, rfl⟩, ⟨rfl, rfl⟩, -- vsll, vsrl, vsra
    ⟨rfl, rfl⟩, ⟨rfl, rfl⟩, -- vmul, vmulh
    ⟨rfl, rfl⟩, ⟨rfl, rfl⟩, ⟨rfl, rfl⟩, -- vmadd, vmsub, vnmadd
    ⟨rfl, rfl⟩, -- vdiv
    ⟨rfl, rfl⟩, ⟨rfl, bodyVbcast_eq d a w⟩, -- vmv, vbcast
    List.forall_mem_nil _⟩

/-- Settles O27: the work of every word applies the operation of the format to the active elements and ORs their flags. -/
theorem vectorFloating : Obligations.VectorFloating := by
  intro s w st c x d a b f r p q o u v k hk hbegins
  suffices hruns : Runs k.1 s w (w.mapV d k.2) from exec_of_runs (hruns.trans (mapV_eq w d k.2)) hbegins
  clear hbegins
  revert k
  simp only [List.forall_mem_cons]
  exact ⟨⟨rfl, rfl⟩, ⟨rfl, rfl⟩, -- vadd.f, vsub.f
    ⟨rfl, rfl⟩, ⟨rfl, rfl⟩, -- vmin.f, vmax.f
    ⟨rfl, rfl⟩, ⟨rfl, rfl⟩, -- vabs.f, vneg.f
    ⟨rfl, rfl⟩, ⟨rfl, rfl⟩, -- vmul.f, vdiv.f
    ⟨rfl, rfl⟩, ⟨rfl, rfl⟩, ⟨rfl, rfl⟩, -- vmadd.f, vmsub.f, vnmadd.f
    ⟨rfl, rfl⟩, -- vsqrt
    ⟨rfl, rfl⟩, ⟨rfl, rfl⟩, ⟨rfl, rfl⟩, ⟨rfl, rfl⟩, -- vrcpa, vrsqa, vrcps, vrsqs
    ⟨rfl, rfl⟩, ⟨rfl, rfl⟩, -- vclass, vapsc
    List.forall_mem_nil _⟩

/-! ### Widening and conversion (04 R104, R112, R113; 05 R130, R131) -/

/-- Of the flags, only NV is left. -/
theorem and_fNV (f : BitVec 5) : f &&& fNV = if f.getLsbD 4 then 16 else 0 := BitVec.and_twoPow f 4

/-- `vwmul.f` multiplies in the wide format; of the flags only NV is raised. -/
theorem bodyVwmulF_eq (d a b : Reg) (x : Bool) (w : Work) :
    bodyVwmulF d a b x w = w.mapWide d (fun e =>
      let r := fMul (wideFmt w.ffmt) w.rm (w.valV a e) (w.valB x b e)
      (r.1, if r.2.getLsbD 4 then 16 else 0)) := by
  simp only [bodyVwmulF, and_fNV]

/-- `vcvt` writes the converted elements into the block of vd that their width takes. -/
theorem bodyVcvt_eq (d a b : Reg) (rm : Fin 8) (w : Work) :
    bodyVcvt d a b rm w =
      let cv (e : Nat) : FRes := convert w.fmt b.val (w.modeOf rm) (w.elemV a e)
      let tw := codeWidth b.val
      .ok ((w.putBlock d.val tw (vlmaxBits tw w.prot) (w.active.map (fun e => (e, (cv e).1))) (max 1 (tw / w.ew))).orFlags
        (w.active.foldl (fun y e => y ||| (cv e).2) 0)) := by
  simp only [bodyVcvt, flagsOf_map, List.map_map, Function.comp_def]

/-- Settles O28: the widening words write the pair, the integer ones without flags; comparison and conversion have destinations
of their own. -/
theorem vectorWideningAndConversions : Obligations.VectorWideningAndConversions := by
  constructor
  · intro s w st c x d a b wide
    have hruns {i : Instr} {g : Nat → Nat} (h : Runs i s w (w.mapWide d (fun e => plain (g e)))) :
        Runs i s w (.ok (wide (w.active.map (fun e => (e, g e))))) := h.trans (mapWide_plain w d g)
    exact ⟨exec_of_runs (hruns ⟨rfl, rfl⟩), exec_of_runs (hruns ⟨rfl, rfl⟩)⟩
  · intro s w st c x d a b q rm f wf flags wide cmp tw cv p hp hbegins
    suffices hruns : Runs p.1 s w (.ok p.2) from exec_of_runs hruns hbegins
    clear hbegins
    revert p
    simp only [List.forall_mem_cons]
    exact ⟨⟨rfl, mapM_eq w d cmp⟩,
      ⟨rfl, mapWide_eq w d _⟩,
      ⟨rfl, (bodyVwmulF_eq d a b x w).trans (mapWide_eq w d _)⟩,
      ⟨rfl, bodyVcvt_eq d a b rm w⟩,
      List.forall_mem_nil _⟩

/-! ### Masks and scale registers (04 R107, R114, R120 to R122; 05 R139, R140) -/

/-- `vmvsc` to a scale register takes the 4,096 bits of the first 256 elements. -/
theorem bodyVmvscToScale_eq (d a : Reg) (w : Work) :
    bodyVmvscToScale d a w = .ok (w.setK d.val ((w.v a.val).extractLsb' 0 4096)) := by
  rw [bodyVmvscToScale, BitVec.setWidth_eq_extractLsb' (by decide)]

/-- `mand` writes the AND of the two masks' bits, `mor` their OR and `mxor` whether they differ (04 R120). -/
theorem bodyMand_eq (d a b : Reg) (w : Work) : bodyMand d a b w =
    .ok (w.putM d.val (w.range.map (fun e => (e, (w.mr a.val).getLsbD e && (w.mr b.val).getLsbD e)))) := by
  simp only [bodyMand, bitB, BitVec.getLsbD_and]

theorem bodyMor_eq (d a b : Reg) (w : Work) : bodyMor d a b w =
    .ok (w.putM d.val (w.range.map (fun e => (e, (w.mr a.val).getLsbD e || (w.mr b.val).getLsbD e)))) := by
  simp only [bodyMor, bitB, BitVec.getLsbD_or]

theorem bodyMxor_eq (d a b : Reg) (w : Work) : bodyMxor d a b w =
    .ok (w.putM d.val (w.range.map (fun e => (e, (w.mr a.val).getLsbD e != (w.mr b.val).getLsbD e)))) := by
  simp only [bodyMxor, bitB, BitVec.getLsbD_xor]

/-- The work of `vldsc` without an entry to load: a sampled instruction all the same (16 R398). -/
theorem bodyVldsc_none {d a b : Reg} {w : Work} (hn : w.scaleCount = 0) :
    bodyVldsc d a b w = w.sample (if w.x b.val = 2 then 0 else 1) false false [] 0 := by
  simp only [bodyVldsc, hn, if_true]

/-- Access j of `vldsc`: two bytes at X[A] + j x X[B] (05 R139). -/
def Work.scalePlan (w : Work) (a b : Reg) (j : Nat) : Except EFault (List Req) :=
  (w.req (w.x a.val + w.x b.val * BitVec.ofNat 64 j) 2 false false).map (fun r => [r])

/-- The work of `vldsc` where every entry passes its checks. -/
theorem bodyVldsc_done {d a b : Reg} {w : Work} {good : List (Nat × List Req)} (hl : w.limit = none) (hm : w.made = [])
    (hn : w.scaleCount ≠ 0) (ha : (w.x a.val).toNat % 2 = 0) (hb : (w.x b.val).toNat % 2 = 0)
    (hplan : planAll (w.scalePlan a b) (List.range w.scaleCount) = (good, none))
    (hread : readable w.m (planLocs good) = .ok ()) (hgood : firstPoison w.m good = none) :
    bodyVldsc d a b w =
      let cls := if w.x b.val = 2 then 0 else 1
      ((((((planLocs good).foldl (fun w x => w.scrub x) w).putK d.val (good.map (fun p => (p.1, p.2.map w.reqBits)))).countHot cls
        good).countRemote (planLocs good)).touchFibre (planLocs good)).sample cls false false good 0 := by
  have hmay : w.mayRead good = .ok () := by rw [Work.mayRead, hread]; rfl
  unfold Work.scalePlan at hplan
  simp only [bodyVldsc, hn, ha, hb, hplan, ne_eq, not_true, if_false, bind, Except.bind, ahead_whole hm, hmay, hgood,
    readPlan_whole good hl hm]

/-- Settles O29: the mask words each with their destination, `vldsc` with the accesses of a word that begins. -/
theorem masksAndScales : Obligations.MasksAndScales := by
  constructor
  · intro s w st c x d a b q i j cond bits m n below p hp hbegins
    suffices hruns : Runs p.1 s w (.ok p.2) from exec_of_runs hruns hbegins
    clear hbegins
    revert p
    simp only [List.forall_mem_cons]
    exact ⟨⟨rfl, mapM_plain w d cond⟩, ⟨rfl, rfl⟩, -- vcmp, vsel
      ⟨rfl, bodyMand_eq d a b w⟩, ⟨rfl, bodyMor_eq d a b w⟩, ⟨rfl, bodyMxor_eq d a b w⟩, ⟨rfl, rfl⟩, -- mand, mor, mxor, mnot
      ⟨rfl, rfl⟩, ⟨rfl, rfl⟩, -- msbf, mset
      ⟨rfl, rfl⟩, ⟨rfl, rfl⟩, -- mpopc, mfirst
      ⟨rfl, mapV_plain w d _⟩, -- viota
      List.forall_mem_nil _⟩
  · intro s w w' st c d a b good n plan cls
    refine ⟨fun hbegins hn ha hb hplan hread hgood hsample => ?_, fun hbegins hn hsample => ?_, ?_, ?_⟩
    · obtain ⟨hl, hm⟩ := begins_whole hbegins
      exact exec_of_runs ⟨rfl, (bodyVldsc_done hl hm hn ha hb hplan hread hgood).trans hsample⟩ hbegins
    · exact exec_of_runs ⟨rfl, (bodyVldsc_none hn).trans hsample⟩ hbegins
    · exact exec_of_runs ⟨rfl, bodyVmvscToScale_eq d a w⟩
    · exact exec_of_runs ⟨rfl, rfl⟩

end Sys2Proof.Machine
end

section
/-! Vector memory: the checks of an element's access, loads and stores as a whole, loads that end at a failing element, prefetch,
stream binding and fibre definitions. -/

namespace Sys2Proof.Machine

/-! ### The causes of a check (06 R153) -/

/-- Where the result is a failure, P holds of it. -/
def FailsOnly {ε α : Type} (P : ε → Prop) (r : Except ε α) : Prop := ∀ x, r = .error x → P x

section
variable {ε α β : Type} {P : ε → Prop}

theorem FailsOnly.ok (a : α) : FailsOnly P (.ok a) := fun _ h => nomatch h

theorem FailsOnly.error {x : ε} (h : P x) : FailsOnly P (.error x : Except ε α) := fun _ hx => Except.error.inj hx ▸ h

theorem FailsOnly.bind {r : Except ε α} {f : α → Except ε β} (hr : FailsOnly P r) (hf : ∀ a, FailsOnly P (f a)) :
    FailsOnly P (r >>= f) := by
  cases r with
  | error x => exact .error (hr x rfl)
  | ok a => exact hf a

theorem FailsOnly.map {r : Except ε α} (f : α → β) (hr : FailsOnly P r) : FailsOnly P (r.map f) := by
  cases r with
  | error x => exact .error (hr x rfl)
  | ok a => exact .ok (f a)

theorem FailsOnly.mapM {f : α → Except ε β} (hf : ∀ a, FailsOnly P (f a)) (l : List α) : FailsOnly P (l.mapM f) := by
  induction l with
  | nil => exact .ok []
  | cons a l ih =>
    rw [List.mapM_cons]
    exact (hf a).bind fun b => ih.bind fun bs => .ok (b :: bs)

end

/-- The trap cause of an access that does not take place; none where it waits or the machine stops. -/
def Miss.cause : Miss → Option Nat
  | .flt c _ => some c
  | .walk c _ _ => some c
  | .hold _ => none
  | .lost _ => none
  | .stop _ => none

/-- The trap cause of an element's fault; none where the machine stops short without a trap. -/
def EFault.cause : EFault → Option Nat
  | .flt c _ => some c
  | .stop _ => none

/-- A miss of another cause than a consumed uncorrectable error. -/
def Miss.Unpoisoned (x : Miss) : Prop := x.cause ≠ some cMEMORY_POISON

/-- A fault of another cause than a consumed uncorrectable error. -/
def EFault.Unpoisoned (x : EFault) : Prop := x.cause ≠ some cMEMORY_POISON

theorem miss_flt_unpoisoned {c d : Nat} (hc : c ≠ cMEMORY_POISON) : (Miss.flt c d).Unpoisoned := fun h => hc (Option.some.inj h)

/-- A fault of an element's access has the cause of the miss that its checks found. -/
theorem toE_cause (x : Miss) (a : Word) : (x.toE a).cause = x.cause := by cases x <;> rfl

/-- A local address names a byte or fails the range of its vault or the rights of its slot (06 R142, R143, R146). -/
theorem localPlace_unpoisoned (m : Mach) (n a : Nat) : FailsOnly Miss.Unpoisoned (localPlace m n a) := by
  unfold localPlace
  dsimp only
  split
  · split
    · exact .ok _
    · exact .error (miss_flt_unpoisoned (by decide))
  split
  · exact .error (miss_flt_unpoisoned (by decide))
  split
  · split
    · exact .ok _
    · exact .error (miss_flt_unpoisoned (by decide))
  · split
    · exact .ok _
    · exact .error (miss_flt_unpoisoned (by decide))

/-- An entry of the vector page table is absent, malformed or without the right, or it names a byte (06 R152; 15 R377). -/
theorem vptPlace_unpoisoned (m : Mach) (vwbase : Word) (e a : Nat) (write : Bool) :
    FailsOnly Miss.Unpoisoned (vptPlace m vwbase e a write) := by
  unfold vptPlace
  dsimp only
  split
  · exact .error (miss_flt_unpoisoned (by decide))
  split
  · exact .error (miss_flt_unpoisoned (by decide))
  split
  · exact .error (miss_flt_unpoisoned (by decide))
  split
  · exact .error (miss_flt_unpoisoned (by decide))
  · exact .ok _

/-- A vector address reaches the local region, the window at row orientation, or nothing (06 R143, R150). -/
theorem vectorPlace_unpoisoned (m : Mach) (n : Nat) (a : Word) (write col : Bool) :
    FailsOnly Miss.Unpoisoned (vectorPlace m n a write col) := by
  unfold vectorPlace
  split
  · exact (localPlace_unpoisoned m n _).bind fun _ => localPlace_unpoisoned m n _
  dsimp only
  split
  · exact .error (miss_flt_unpoisoned (by decide))
  split
  · exact .error (miss_flt_unpoisoned (by decide))
  · exact vptPlace_unpoisoned m _ _ _ write

theorem elemLocs_unpoisoned (m : Mach) (n : Nat) (a : Word) (size : Nat) (write col : Bool) :
    FailsOnly Miss.Unpoisoned (elemLocs m n a size write col) := by
  unfold elemLocs
  split
  · exact .error (miss_flt_unpoisoned (by decide))
  split
  · exact .mapM (fun _ => vectorPlace_unpoisoned m n _ write true) _
  · exact (vectorPlace_unpoisoned m n a write col).map _

theorem req_unpoisoned (w : Work) (a : Word) (size : Nat) (write col : Bool) :
    FailsOnly EFault.Unpoisoned (w.req a size write col) := by
  unfold Work.req
  split
  · exact .ok _
  · rename_i x hx
    exact .error fun h => elemLocs_unpoisoned _ _ _ _ _ _ x hx ((toE_cause x a).symm.trans h)

/-! Of the plans of loads and stores none consumes an uncorrectable error in its checks. -/

theorem one_unpoisoned (w : Work) (write col : Bool) (addr : Nat → Word) (e : Nat) :
    FailsOnly EFault.Unpoisoned (w.one write col addr e) :=
  (req_unpoisoned w _ _ _ _).map _

theorem indexedPlan_unpoisoned (w : Work) (write col bd : Bool) (a b : Reg) (e : Nat) :
    FailsOnly EFault.Unpoisoned (w.indexedPlan write col bd a b e) := by
  unfold Work.indexedPlan
  dsimp only
  split
  · exact .error fun h => absurd (Option.some.inj h) (by decide)
  · exact one_unpoisoned w write col _ e

theorem fields_unpoisoned (w : Work) (write col : Bool) (a : Reg) (mw n e : Nat) :
    FailsOnly EFault.Unpoisoned (w.fields write col a mw n e) :=
  .mapM (fun _ => req_unpoisoned w _ _ _ _) _

theorem tensorPlan_unpoisoned (w : Work) (g : Shape) (write col : Bool) (q e : Nat) :
    FailsOnly EFault.Unpoisoned (w.tensorPlan g write col q e) := by
  unfold Work.tensorPlan
  split
  · exact .ok []
  · exact (req_unpoisoned w _ _ _ _).map _

/-- The first element that fails is one of those planned, and its checks give that fault. -/
theorem planAll_fault {plan : Nat → Except EFault (List Req)} {es : List Nat} {l : List (Nat × List Req)} {e : Nat} {f : EFault}
    (h : planAll plan es = (l, some (e, f))) : e ∈ es ∧ plan e = .error f := by
  induction es generalizing l with
  | nil => cases h
  | cons x es ih =>
    cases hx : plan x with
    | error y =>
      simp only [planAll, hx, Prod.mk.injEq, Option.some.injEq] at h
      obtain ⟨-, rfl, rfl⟩ := h
      exact ⟨List.mem_cons_self, hx⟩
    | ok rs =>
      simp only [planAll, hx, Prod.mk.injEq] at h
      obtain ⟨hmem, he⟩ := ih (Prod.ext rfl h.2)
      exact ⟨List.mem_cons_of_mem x hmem, he⟩

/-! ### Stores as a whole (06 R157, R162, R168) -/

/-- The progress word of a notify store is found by a walk, which makes no access of the instruction. -/
theorem progress_sameRun {w w1 : Work} {nt : Bool} {prog : Option (List Nat)} (h : w.progress nt = .ok (prog, w1)) : w.sameRun w1 := by
  unfold Work.progress at h
  dsimp only at h
  split at h
  · cases h; exact sameRun_refl w
  · obtain ⟨⟨loc, w2⟩, hscalar, h⟩ := bind_ok h
    obtain ⟨-, -, h⟩ := bind_ok h
    cases h
    unfold Work.scalar at hscalar
    split at hscalar
    · cases hscalar
    · exact scalarPlace_sameRun (liftMiss_ok hscalar)

/-- The stores of a vector instruction list no access, where it makes all of them now. -/
theorem storeElems_keep (bits : Nat → List FRes) (l : List (Nat × List Req)) (w : Work) :
    (w.storeElems bits l).limit = w.limit ∧ (w.storeElems bits l).made = w.made := by
  rw [storeElems_eq_foldl]
  generalize storeAccesses bits l = qs
  induction qs generalizing w with
  | nil => exact ⟨rfl, rfl⟩
  | cons q qs ih =>
    obtain ⟨hlimit, hmade⟩ := ih (w.storeAccess q)
    exact ⟨hlimit.trans (stored_limit w _ _ _), hmade.trans (stored_made w _ _ _)⟩

/-- Choosing one writer of each address makes no access. -/
theorem settleUnordered_sameRun (bits : Nat → Nat) (w : Work) (l : List (Nat × List Req)) : w.sameRun (w.settleUnordered bits l) := by
  unfold Work.settleUnordered
  split
  · exact sameRun_refl w
  · refine foldl_sameRun _ (fun v a => ?_) _ w
    dsimp only
    split
    · exact sameRun_refl v
    · split
      · exact foldl_sameRun (fun (w : Work) (q : Nat × Byte) => w.putByte q.1 q.2) (fun u _ => sameRun_refl u) _ v.draw.2
      · exact sameRun_refl v

/-- A store word that begins and whose active elements all pass their checks completes with what its stores, the choice among
several writers, the progress word, the page counters and the sample leave. -/
theorem exec_vstore {i : Instr} {s : State} {w w1 w' : Work} {cls : Nat} {o nt : Bool} {prog : Option (List Nat)}
    {plan : Nat → Except EFault (List Req)} {bits : Nat → List FRes} {fix : Work → List (Nat × List Req) → Work}
    {l : List (Nat × List Req)} (hruns : Runs i s w (w.vstore (kind cls o) nt plan bits fix))
    (hfix : ∀ (w : Work) l, w.sameRun (fix w l)) (hprog : w.progress nt = .ok (prog, w1)) (hbegins : Begins i s w)
    (hwritten : ElemsWritten w1 plan l)
    (hsample : (((fix (w1.storeElems bits l) l).progressed prog (storedCount l)).countHot cls l).sample cls o true l 0 = .ok w') :
    exec i s = .next (completed i s w') := by
  obtain ⟨hl, hm⟩ := begins_whole hbegins
  obtain ⟨hl1, hm1, -⟩ := progress_sameRun hprog
  obtain ⟨hl2, hm2⟩ := storeElems_keep bits l w1
  obtain ⟨hl3, hm3, -⟩ := hfix (w1.storeElems bits l) l
  have hdone := vstore_done (k := kind cls o) hprog (hl1.trans hl) (hm1.trans hm) hwritten
    (hl3.trans (hl2.trans (hl1.trans hl))) (hm3.trans (hm2.trans (hm1.trans hm)))
  exact exec_of_runs (hruns.trans (hdone.trans hsample)) hbegins

/-- The work of `vstt` whose record is well formed. -/
theorem bodyVstt_of_shape {d a b : Reg} {o nt : Bool} {w : Work} {g : Shape} (h : readShape (w.v a.val) = .ok g) :
    bodyVstt d a b o nt w = w.vstore (kind 1 o) nt (w.tensorPlan g true o (w.x b.val).toNat)
      (fun e => [convert w.fmt g.mfmt w.rm (w.elemV d e)]) noFix := by
  simp only [bodyVstt, h]

/-- Settles O30: every store is a `vstore` with its own plan and bits; only `vstxu` settles what several elements wrote. -/
theorem vectorStores : Obligations.VectorStores := by
  intro s w w1 w' st c o nt bd d a b n g l prog size at_ old hprog p hp
  have hkeep : ∀ (v : Work) l, v.sameRun (noFix v l) := fun v _ => sameRun_refl v
  refine ⟨?_, fun hbegins hshape =>
    exec_vstore (fix := noFix) ⟨rfl, bodyVstt_of_shape hshape⟩ hkeep hprog hbegins⟩
  revert p
  simp only [List.forall_mem_cons]
  exact ⟨exec_vstore ⟨rfl, rfl⟩ hkeep hprog, -- vst
    exec_vstore ⟨rfl, rfl⟩ hkeep hprog, -- vsts
    exec_vstore ⟨rfl, rfl⟩ hkeep hprog, -- vstx
    exec_vstore (fix := fun v l => v.settleUnordered (w.elemV d) l) ⟨rfl, rfl⟩ (settleUnordered_sameRun _) hprog, -- vstxu
    exec_vstore ⟨rfl, rfl⟩ hkeep hprog, -- vsseg
    List.forall_mem_nil _⟩

/-! ### What a load leaves of the control registers -/

/-- A good copy written back changes no slot. -/
@[simp] theorem scrub_s (w : Work) (x : Nat) : (w.scrub x).s = w.s := by
  have go (l : List (Nat × Nat)) (f : Nat × Nat → AnnalsKey) (m : Mach) :
      (l.foldl (fun m p => m.countAnnals (f p)) m).slots = m.slots ∧ (l.foldl (fun m p => m.countAnnals (f p)) m).cur = m.cur := by
    induction l generalizing m with
    | nil => exact ⟨rfl, rfl⟩
    | cons p l ih => exact ih (m.countAnnals (f p))
  unfold Work.scrub
  dsimp only
  split
  · obtain ⟨hslots, hcur⟩ := go _ _ w.m
    simp only [Work.s, Mach.slot]
    rw [hslots, hcur]
  · rfl

theorem scrubs_s (l : List Nat) (w : Work) : (l.foldl (fun w x => w.scrub x) w).s = w.s := by
  induction l generalizing w with
  | nil => rfl
  | cons x l ih => exact (ih (w.scrub x)).trans (scrub_s w x)

@[simp] theorem orFlags_vl (w : Work) (f : BitVec 5) : (w.orFlags f).s.ctl.vl = w.s.ctl.vl := by simp [Work.orFlags]
@[simp] theorem markDirty_vl (w : Work) (b : Word) : (w.markDirty b).s.ctl.vl = w.s.ctl.vl := by simp [Work.markDirty]
@[simp] theorem markDirty_vstart (w : Work) (b : Word) : (w.markDirty b).s.ctl.vstart = w.s.ctl.vstart := by simp [Work.markDirty]

@[simp] theorem unbind_vl (w : Work) (n : Nat) : (w.unbind n).s.ctl.vl = w.s.ctl.vl := by
  unfold Work.unbind; split <;> simp

@[simp] theorem putV_vl (w : Work) (d width : Nat) (l : List (Nat × Nat)) : (w.putV d width l).s.ctl.vl = w.s.ctl.vl := by
  unfold Work.putV
  split <;> simp [Work.setV, Work.loadV]

@[simp] theorem putField_vl (w : Work) (d : Reg) (code : Nat) (l : List (Nat × List Nat)) (j : Nat) :
    (w.putField d code l j).s.ctl.vl = w.s.ctl.vl := by
  simp [Work.putField]

@[simp] theorem putTensor_vl (w : Work) (d : Reg) (code : Nat) (l : List (Nat × List Nat)) :
    (w.putTensor d code l).s.ctl.vl = w.s.ctl.vl := by
  simp [Work.putTensor]

theorem putFields_vl (w : Work) (d : Reg) (code : Nat) (l : List (Nat × List Nat)) (js : List Nat) :
    (js.foldl (fun w j => w.putField d code l j) w).s.ctl.vl = w.s.ctl.vl := by
  induction js generalizing w with
  | nil => rfl
  | cons j js ih => exact (ih _).trans (putField_vl w d code l j)

@[simp] theorem countRemote_s_ctl (w : Work) (l : List Nat) : (w.countRemote l).s.ctl = w.s.ctl := by
  unfold Work.countRemote; split <;> simp

@[simp] theorem touchFibre_s_ctl (w : Work) (l : List Nat) : (w.touchFibre l).s.ctl = w.s.ctl := by
  unfold Work.touchFibre; split <;> simp

/-- Loaded elements leave `vl` where writing them does. -/
theorem loadedElems_vl {put : Work → List (Nat × List Nat) → Work} (hput : ∀ w l, (put w l).s.ctl.vl = w.s.ctl.vl) (w : Work)
    (cls : Nat) (l : List (Nat × List Req)) : (w.loadedElems cls put l).s.ctl.vl = w.s.ctl.vl := by
  simp only [Work.loadedElems, touchFibre_s_ctl, countRemote_s_ctl, Work.countHot, countKeys_s_ctl, hput, scrubs_s]

/-! ### Traps at an element (01 R19; 15 R365) -/

/-- In a thread without bindings, a word that is no rendezvous and whose meaning traps at element e takes that trap with
`vstart` := e: beside that its work is what the meaning left, with destinations marked dirty. -/
theorem exec_raiseAt {i : Instr} {s : State} {w v : Work} {e cause : Nat} {x : Word} (hruns : Runs i s w (raiseAt v e cause x))
    (hbegins : Begins i s w) (hbinds : s.work.s.thr.binds = []) (hlane : isRendezvous s.work.s.ctl.fmt i = false)
    (hcause : cause ≠ cMEMORY_POISON) : ∃ w2,
      exec i s = settle s (some i) (.error (.trap w2 { cause := cause, acc := 0, stval := x })) ∧
      w2.s.ctl.vstart = BitVec.ofNat 11 e ∧ w2.s.ctl.vl = v.s.ctl.vl ∧ w2.s.regs = v.s.regs ∧ w2.ws = v.ws := by
  obtain ⟨hexec, hbody⟩ := hruns
  obtain ⟨hissue, w1, hsources, rfl⟩ := hbegins
  have hbound : s.work.s.boundSources i = [] := by simp [Slot.boundSources, hbinds]
  rw [hexec, issue_runs hissue]
  simp only [Work.runMeaning, hsources, hbody, raiseAt, raise, hbound, hlane, Work.returnStrips, Bool.false_eq_true, if_true,
    if_false]
  rw [orReplay_other (t := { cause := cause, acc := 0, stval := x }) (c := hcause)]
  refine ⟨_, rfl, ?_⟩
  split <;> simp [Work.markWritten, Work.setVstart, Work.markDirty]

/-! ### Loads as a whole, and loads that end at a failing element (06 R153 to R156) -/

/-- A load whose first active element fails traps there, with nothing done. -/
theorem vload_first {w : Work} {k : Kind} {plan : Nat → Except EFault (List Req)} {put : Work → List (Nat × List Nat) → Work}
    {l : List (Nat × List Req)} {e cause : Nat} {v : Word} (hplan : planAll plan w.active = (l, some (e, .flt cause v)))
    (hfirst : w.active.head? = some e) : w.vload k plan put = raiseAt w e cause v := by
  have he : e = w.active.headD 0 := by rw [List.headD_eq_head?_getD, hfirst, Option.getD_some]
  simp only [Work.vload, hplan, ← he, if_true, raiseAt, raise, bind, Except.bind]

/-- A load that fails at a later element reads the elements below it; it then traps at a failed bounds check, and ends with
`vl` := e at any other (06 R155; 16 R400). -/
theorem vload_later {w : Work} {k : Kind} {plan : Nat → Except EFault (List Req)} {put : Work → List (Nat × List Nat) → Work}
    {l : List (Nat × List Req)} {e cause : Nat} {v : Word} (hl : w.limit = none) (hm : w.made = [])
    (hplan : planAll plan w.active = (l, some (e, .flt cause v))) (hlater : w.active.head? ≠ some e)
    (hread : readable w.m (planLocs l) = .ok ()) (hgood : firstPoison w.m l = none) :
    w.vload k plan put =
      if cause = cBOUNDS then raiseAt (w.loadedElems k.cls put l) e cause v
      else
        let w2 := (w.loadedElems k.cls put l).mapCtl (fun x => { x with vl := BitVec.ofNat 12 e })
        if k.sampled then w2.sample k.cls k.col false l (absentElems plan w.active) else .ok w2 := by
  have he : e ≠ w.active.headD 0 := by
    obtain ⟨x, xs, hx⟩ := List.exists_cons_of_ne_nil (List.ne_nil_of_mem (planAll_fault hplan).1)
    rw [hx] at hlater ⊢
    exact fun h => hlater (congrArg some h.symm)
  have hmay : w.mayRead l = .ok () := by rw [Work.mayRead, hread]; rfl
  simp only [Work.vload, hplan, he, if_false, bind, Except.bind, ahead_whole hm, hmay, hgood, readPlan_whole l hl hm,
    Work.loadedElems]

/-- A load word that begins and whose active elements all pass their checks completes with them loaded. -/
theorem exec_vload {i : Instr} {s : State} {w w' : Work} {cls : Nat} {o : Bool} {plan : Nat → Except EFault (List Req)}
    {put : Work → List (Nat × List Nat) → Work} {l : List (Nat × List Req)} (hruns : Runs i s w (w.vload (kind cls o) plan put))
    (hbegins : Begins i s w) (hread : ElemsRead w plan l) (hsample : (w.loadedElems cls put l).sample cls o false l 0 = .ok w') :
    exec i s = .next (completed i s w') := by
  obtain ⟨hl, hm⟩ := begins_whole hbegins
  exact exec_of_runs (hruns.trans ((vload_done (k := kind cls o) hl hm hread).trans hsample)) hbegins

/-- The work of `vldt` whose record is well formed. -/
theorem bodyVldt_of_shape {d a b : Reg} {o : Bool} {w : Work} {g : Shape} (h : readShape (w.v a.val) = .ok g) :
    bodyVldt d a b o w = w.vload (kind 1 o) (w.tensorPlan g false o (w.x b.val).toNat) (fun w l => w.putTensor d g.mfmt l) := by
  simp only [bodyVldt, h]

/-- Settles O31: every load is a `vload` with its own plan, which finds no uncorrectable error, and its own way of writing
elements, which leaves `vl`. -/
theorem vectorLoads : Obligations.VectorLoads := by
  constructor
  · intro s w w' st c o bd d a b n g l size at_ put p hp
    refine ⟨?_, fun hbegins hshape => exec_vload ⟨rfl, bodyVldt_of_shape hshape⟩ hbegins⟩
    revert p
    simp only [List.forall_mem_cons]
    exact ⟨exec_vload ⟨rfl, rfl⟩, exec_vload ⟨rfl, rfl⟩, -- vld, vlds
      exec_vload ⟨rfl, rfl⟩, exec_vload ⟨rfl, rfl⟩, -- vldx, vlseg
      List.forall_mem_nil _⟩
  · intro s w w' st c o bd d a b n g l e cause v size at_ put fails
    have hfails {i : Instr} {cls : Nat} {plan : Nat → Except EFault (List Req)} {put : Work → List (Nat × List Nat) → Work}
        (hruns : Runs i s w (w.vload (kind cls o) plan put)) (hlane : isRendezvous s.work.s.ctl.fmt i = false)
        (hchecks : ∀ e, FailsOnly EFault.Unpoisoned (plan e)) (hput : ∀ w l, (put w l).s.ctl.vl = w.s.ctl.vl) : fails i cls plan put := by
      intro hbegins hplan
      obtain ⟨hl, hm⟩ := begins_whole hbegins
      refine ⟨fun hfirst hbinds => ?_, fun hlater hread hgood => ?_⟩
      · have hcause : cause ≠ cMEMORY_POISON := fun h => hchecks e _ (planAll_fault hplan).2 (congrArg some h)
        exact exec_raiseAt (hruns.trans (vload_first hplan hfirst)) hbegins hbinds hlane hcause
      · have hload := hruns.trans (vload_later hl hm hplan hlater hread hgood)
        refine ⟨fun hbounds hbinds => ?_, fun hother hsample => ?_⟩
        · obtain ⟨w2, hexec, hvstart, hvl, hregs, -⟩ := exec_raiseAt (hload.trans (if_pos hbounds)) hbegins hbinds hlane
            (hbounds ▸ by decide)
          exact ⟨w2, hexec, hvstart, hvl.trans (loadedElems_vl hput w cls l), hregs⟩
        · exact exec_of_runs ((hload.trans (if_neg hother)).trans hsample) hbegins
    have hputV (w : Work) (l : List (Nat × List Nat)) : (put w l).s.ctl.vl = w.s.ctl.vl := putV_vl w _ _ _
    exact ⟨hfails ⟨rfl, rfl⟩ rfl (one_unpoisoned w false o _) hputV,
      hfails ⟨rfl, rfl⟩ rfl (one_unpoisoned w false o _) hputV,
      hfails ⟨rfl, rfl⟩ rfl (indexedPlan_unpoisoned w false o bd a b) hputV,
      hfails ⟨rfl, rfl⟩ rfl (fields_unpoisoned w false o a _ _) (fun w l => putFields_vl w d _ l _),
      fun hshape => hfails ⟨rfl, bodyVldt_of_shape hshape⟩ rfl (tensorPlan_unpoisoned w g false o _)
        (fun w l => putTensor_vl w d _ l)⟩

/-! ### Prefetch, stream binding and fibre definitions (06 R163, R170; 08 R208 to R210) -/

/-- The work of `vbind` whose record is valid. -/
theorem bodyVbind_of_record {d a : Reg} {w : Work} {b : Binding}
    (h : readBinding d (w.v a.val) (decide (8 ≤ (w.s.thr.binds.filter (fun b => b.reg ≠ d.val)).length)) = .ok b) :
    bodyVbind d a w = .ok ((w.mapThr (fun t =>
      { t with binds := w.s.thr.binds.filter (fun b => b.reg ≠ d.val) ++ [b] })).markDirty 16) := by
  simp only [bodyVbind, h]

/-- The work of `fibdef` whose descriptor is read. -/
theorem bodyFibdef_of_read {a : Reg} {w w1 : Work} {bytes : List Byte} (halign : (w.x a.val).toNat % 64 = 0)
    (hrun : w.loadRun (w.x a.val) 48 = .ok (bytes, w1)) :
    bodyFibdef a w =
      let words := (List.range 6).map (fun i => BitVec.ofNat 64 (leNat ((bytes.drop (8 * i)).take 8)))
      .ok (w1.mapThr (fun t => { t with fibre := some { desc := w.x a.val, words := words, pos := 0 } })) := by
  simp only [bodyFibdef, Work.readFibre, halign, ne_eq, not_true, if_false, hrun, bind, Except.bind]

/-- Settles O35: each word has the work of its own; the scanner writes no byte, and no part of the machine but the fibre lines. -/
theorem prefetchBindingFibres : Obligations.PrefetchBindingFibres := by
  refine ⟨fun s w st c o d a b => ⟨exec_of_runs ⟨rfl, rfl⟩, fun hbegins hrecord => ?_, exec_of_runs ⟨rfl, rfl⟩⟩,
    fun s w w1 st c a bytes slot => ⟨fun hbegins halign hrun => ?_, exec_of_runs ⟨rfl, rfl⟩, fun hfibre => ?_⟩⟩
  · exact exec_of_runs ⟨rfl, bodyVbind_of_record hrecord⟩ hbegins
  · exact exec_of_runs ⟨rfl, bodyFibdef_of_read halign hrun⟩ hbegins
  · obtain ⟨f, hf⟩ := Option.ne_none_iff_exists'.1 hfibre
    have hscan : bodyFibrePrefetch slot s.work = .ok (s.work.prefetchFibres slot f) := by
      simp only [bodyFibrePrefetch, work_m, hf]
    exact ⟨_, (event_ok hscan).trans (congrArg _ (finish_of_no_writes _ s rfl))⟩

end Sys2Proof.Machine
end

section
/-! Cross-lane moves, reductions and scans; an episode whose base is read while an older value of its register is still visible. -/

namespace Sys2Proof.Machine

/-! ### Moves, reductions and scans (07 R178, R180 to R183) -/

/-- `vred` with no active element: the initial operand alone (07 R181). -/
theorem bodyVred_of_none {d a b : Reg} {f : Bool} {q : Fin 8} {w : Work}
    (htree : (foldTree (w.redOp f q.val) 4
      ((List.range w.lanes).map (lanePartial (w.redOp f q.val) (w.elemV a) w.active w.lanes))).headD none = none) :
    bodyVred d a b f q w = .ok ((w.setX d.val (w.extend ((w.x b.val).toNat % 2 ^ w.ew))).orFlags 0) := by
  simp only [bodyVred, htree, plain, bitsN_zero]

/-- `vred` with an active element: the initial operand combined with what the tree of lanes gives (07 R181). -/
theorem bodyVred_of_some {d a b : Reg} {f : Bool} {q : Fin 8} {w : Work} {r : FRes}
    (htree : (foldTree (w.redOp f q.val) 4
      ((List.range w.lanes).map (lanePartial (w.redOp f q.val) (w.elemV a) w.active w.lanes))).headD none = some r) :
    bodyVred d a b f q w =
      let y := w.redOp f q.val ((w.x b.val).toNat % 2 ^ w.ew, 0) r
      .ok ((w.setX d.val (w.extend y.1)).orFlags y.2) := by
  simp only [bodyVred, htree, plain, bitsN_zero]

/-- `vscan` writes the running results and ORs their flags (07 R183). -/
theorem bodyVscan_eq (d a b : Reg) (f : Bool) (q : Fin 8) (w : Work) :
    bodyVscan d a b f q w =
      let run := scanFrom (w.redOp f q.val) (w.elemV a) ((w.x b.val).toNat % 2 ^ w.ew, 0) w.active
      .ok ((w.putV d.val w.ew (run.map (fun r => (r.1, r.2.1)))).orFlags (run.foldl (fun y r => y ||| r.2.2) 0)) := by
  simp only [bodyVscan, flagsOf, plain, bitsN_zero]

/-- Settles O32: each move has the work of its own; a reduction divides by whether the tree of lanes has a value. -/
theorem laneExchange : Obligations.LaneExchange := by
  constructor
  · intro s w st c d a b n vl u each p hp hbegins
    suffices hruns : Runs p.1 s w (.ok p.2) from exec_of_runs hruns hbegins
    clear hbegins
    revert p
    simp only [List.forall_mem_cons]
    exact ⟨⟨rfl, mapV_plain w d _⟩, -- vperm
      ⟨rfl, rfl⟩, ⟨rfl, mapV_plain w d _⟩, -- vslu, vsld
      ⟨rfl, rfl⟩, ⟨rfl, rfl⟩, -- vcompress, vexpand
      List.forall_mem_nil _⟩
  · intro s w st c f d a b q op i tree run
    exact ⟨fun hbegins htree => exec_of_runs ⟨rfl, bodyVred_of_none htree⟩ hbegins,
      fun hbegins r htree => exec_of_runs ⟨rfl, bodyVred_of_some htree⟩ hbegins,
      exec_of_runs ⟨rfl, bodyVscan_eq d a b f q w⟩⟩

/-! ### The base of an episode (07 R184) -/

/-- A User unit about to issue `vfetch x4`, two elements active. x4 holds 0x5000, where a block of one `vpend` stands. A product has just
been written there: its window, not yet at its distance, keeps the older value 0x4000, where the block `vprecv v3`, `vpsend v2`, `vpend`
stands. Element 0 of v2 is 7, every element of v3 is 0. -/
def staleBase : State :=
  let unit := State.reset.withUnit
  let code (block : List Instr) : List Byte := block.flatMap (fun i => leBytes 4 (encode i))
  let w := unit.work.mapRegs (fun r => { (r.setX false 4 0x5000) with v := [(2, 7)] })
  let w := w.mapCtl (fun c => { c with vl := 2 })
  let w := w.mapThr (fun t => { t with wins := [{ pc := 0x0FFC, rem := 2, conv := false, olds := [.x false 4 0x4000] }] })
  ((w.putBytes (hbmLoc 0x4000) (code [.vprecv 0 false 3, .vpsend 0 false 2, .vpend 0 false])).putBytes (hbmLoc 0x5000)
    (code [.vpend 0 false])).finish unit

/-- The work on which its meaning runs. -/
def staleBaseWork : Work := { staleBase.work with npc := staleBase.work.s.regs.pc + 4 }

/-- The same with every window closed, as `vfetch` closes them before it reads. -/
def staleBaseClosed : Work := staleBaseWork.mapThr (fun t => { t with wins := [] })

theorem staleBase_begins : Begins (.vfetch 0 false 4) staleBase staleBaseWork :=
  ⟨⟨by decide +kernel, by decide +kernel, by decide +kernel, by decide +kernel⟩, _, sources_of_unbound (by decide +kernel), rfl⟩

/-- At the older value of x4, a multiple of 256, stands the block that passes elements of v2 on to v3, each word legal there. -/
theorem staleBase_block : ∃ w1, staleBaseClosed.checkBlock (staleBaseWork.x 4) 64 =
    .ok ([.vprecv 0 false 3, .vpsend 0 false 2, .vpend 0 false], w1) := by
  have hblock : (staleBaseClosed.checkBlock (staleBaseWork.x 4) 64).toOption.map (fun p => p.1) =
      some [.vprecv 0 false 3, .vpsend 0 false 2, .vpend 0 false] := by decide +kernel
  generalize staleBaseClosed.checkBlock _ _ = r at hblock ⊢
  cases r with
  | error e => cases hblock
  | ok p => exact ⟨p.2, congrArg Except.ok (Prod.ext (Option.some.inj hblock) rfl)⟩

/-- `vfetch x4` completes: its base is the value that x4 holds, and the block there leaves v3 as it was. -/
theorem staleBase_keeps_v3 : ∃ t, exec (.vfetch 0 false 4) staleBase = .next t ∧
    (elem staleBaseWork.ew (t.work.s.regs.getV 3) 1).toNat = 0 := by
  have hstep : (match exec (.vfetch 0 false 4) staleBase with
      | .next t => (elem staleBaseWork.ew (t.work.s.regs.getV 3) 1).toNat == 0
      | _ => false) = true := by decide +kernel
  split at hstep
  · exact ⟨_, ‹_›, eq_of_beq hstep⟩
  · cases hstep

/-- Refutes O33: `vfetch` reads its base once every window is closed (07 R184), and the last clause takes for that base what X[B] reads
before: the block at the older value, which would pass 7 on to element 1 of v3. -/
theorem not_episodes : ¬ Obligations.Episodes := by
  unfold Obligations.Episodes
  rintro ⟨-, -, hrelay⟩
  obtain ⟨w1, hblock⟩ := staleBase_block
  obtain ⟨t, hexec, helems⟩ := hrelay staleBase staleBaseWork w1 0 false 2 4 3 staleBase_begins (by decide +kernel) (by decide) hblock
  obtain ⟨t', hexec', hkept⟩ := staleBase_keeps_v3
  obtain rfl : t' = t := Host.Outcome.next.inj (hexec'.symm.trans hexec)
  obtain ⟨hpassed, -⟩ := helems 1 (by decide +kernel)
  have hseven : staleBaseClosed.elemV 2 0 = 7 := by decide +kernel
  have hzero : 0 = staleBaseClosed.elemV 2 0 := hkept.symm.trans (hpassed.trans (if_pos (by decide +kernel)))
  exact absurd (hzero.trans hseven) (by decide)

end Sys2Proof.Machine
end

section
/-! Conflict detection, the coordinate store, gather-linked and scatter-conditional. -/

namespace Sys2Proof.Machine

/-! ### Traps of a word's meaning (01 R19; 15 R365) -/

@[simp] theorem returnStrips_ws (w : Work) (before : Slot) (bound : List Nat) (wr : List RegName) :
    (w.returnStrips before bound wr).ws = w.ws := by
  unfold Work.returnStrips
  split <;> rfl

/-- What a trap of the meaning of the word i, issued by a slot, leaves of the meaning's work v: the strips stand as before (06 R171), a
rendezvous has `vstart` 0 (07 R177), and destinations written in part are marked (19 R425). -/
def Work.atTrap (v : Work) (i : Instr) (before : Slot) : Work :=
  let f := infoOf before.ctl.fmt i
  let w := v.returnStrips before (before.boundSources i) f.wr
  let w := if isRendezvous before.ctl.fmt i then w.setVstart 0 else w
  if f.cls = .scalar || w.s.ctl.vstart = 0 then w else w.markWritten f.wr

@[simp] theorem atTrap_ws (v : Work) (i : Instr) (before : Slot) : (v.atTrap i before).ws = v.ws := by
  unfold Work.atTrap
  dsimp only
  split <;> split <;> simp [Work.markWritten, Work.markDirty, Work.setVstart]

/-- Of a word that is no rendezvous, in a thread without bindings, a trap at `vstart` 0 leaves what the meaning left. -/
theorem atTrap_of_start {v : Work} {i : Instr} {before : Slot} (hbinds : before.thr.binds = []) (hstart : v.s.ctl.vstart = 0)
    (hlane : isRendezvous before.ctl.fmt i = false) : v.atTrap i before = v := by
  have hbound : before.boundSources i = [] := by simp [Slot.boundSources, hbinds]
  simp [Work.atTrap, hbound, Work.returnStrips, hlane, hstart]

/-- A word that begins, and whose meaning traps, takes that trap. -/
theorem exec_of_trap {i : Instr} {s : State} {w v : Work} {t : Trap} (hruns : Runs i s w (.error (.trap v t)))
    (hbegins : Begins i s w) (hcause : t.cause ≠ cMEMORY_POISON) :
    exec i s = settle s (some i) (.error (.trap (v.atTrap i s.work.s) t)) := by
  obtain ⟨hexec, hbody⟩ := hruns
  obtain ⟨hissue, w1, hsources, rfl⟩ := hbegins
  rw [hexec, issue_runs hissue]
  simp only [Work.runMeaning, hsources, hbody]
  rw [orReplay_other (c := hcause)]
  rfl

/-! ### Conflict detection (08 R189 to R191) -/

/-- `vcomb` writes the sum of each key at its lowest active element and ORs the flags of the sums. -/
theorem bodyVcomb_eq (d a b : Reg) (w : Work) :
    bodyVcomb d a b w =
      let leaders := w.active.filter (fun e => !w.active.any (fun j => decide (j < e) && w.elemV a j == w.elemV a e))
      .ok ((w.putV d.val w.ew (leaders.map (fun e => (e, (w.combined a b e).1)))).orFlags
        (leaders.foldl (fun y e => y ||| (w.combined a b e).2) 0)) := by
  simp only [bodyVcomb, flagsOf_map, List.map_map, Function.comp_def]

/-! ### The coordinate store (08 R194, R197 to R201) -/

theorem ownStore_of_owner {w : Work} (h : w.s.unit.ccs = true) : w.ownStore = .ok () := if_pos h

theorem ownStore_of_other {w : Work} (h : w.s.unit.ccs = false) :
    w.ownStore = .error (.trap w { cause := cACCESS_VIOLATION, acc := 0, stval := detailAddr 3 0 }) := by
  rw [Work.ownStore, h]
  rfl

/-- A word that works on the coordinate store completes in the slot that owns the store, and traps in any other (08 R194). -/
theorem exec_onStore {i : Instr} {s : State} {w w' : Work} {f : Unit → M Work} (hruns : Runs i s w (w.ownStore >>= f))
    (hlane : isRendezvous s.work.s.ctl.fmt i = false) (hdone : f () = .ok w') (hbegins : Begins i s w) :
    (w.s.unit.ccs = true → exec i s = .next (completed i s w')) ∧
    (w.s.unit.ccs = false → s.work.s.thr.binds = [] → w.s.ctl.vstart = 0 → exec i s =
      settle s (some i) (.error (.trap w { cause := cACCESS_VIOLATION, acc := 0, stval := detailAddr 3 0 }))) := by
  refine ⟨fun howner => ?_, fun hother hbinds hstart => ?_⟩
  · rw [ownStore_of_owner howner] at hruns
    exact exec_of_runs (hruns.trans hdone) hbegins
  · rw [ownStore_of_other hother] at hruns
    rw [exec_of_trap hruns hbegins (by decide), atTrap_of_start hbinds hstart hlane]

/-- What `clook` reads at an element: the value under its key, 0 where the store does not hold it (08 R198). -/
def Work.lookup (w : Work) (a : Reg) (e : Nat) : FRes :=
  match w.core.findKey (w.key a e) with
  | some i => w.fromStore (w.core.valueAt i)
  | none => (0, 0)

/-- `clook` writes what it reads at each active element, and whether the store holds its key. -/
theorem bodyClook_eq (d a b : Reg) (w : Work) :
    bodyClook d a b w = w.ownStore >>= fun _ =>
      .ok (((w.putV d.val w.ew (w.active.map (fun e => (e, (w.lookup a e).1)))).orFlags
        (w.active.foldl (fun y e => y ||| (w.lookup a e).2) 0)).putM b.val
          (w.active.map (fun e => (e, (w.core.findKey (w.key a e)).isSome)))) := by
  simp only [bodyClook, flagsOf_map, List.map_map, Function.comp_def]
  rfl

/-! ### Gather-linked (08 R204, R207) -/

/-- Breaking links leaves the control registers of every slot. -/
theorem slot_breakLinks_ctl (m : Mach) (hit : Nat → Bool) (n : Nat) : ((m.breakLinks hit).slot n).ctl = (m.slot n).ctl := by
  unfold Mach.slot Mach.breakLinks
  dsimp only
  induction m.slots with
  | nil => rfl
  | cons p t ih =>
    rw [List.map_cons]
    split <;> simp only [tabGet] <;> split
    · rfl
    · exact ih
    · rfl
    · exact ih

@[simp] theorem spend_s_ctl (w : Work) : w.spend.s.ctl = w.s.ctl := by
  have hcur : (w.m.wrote w.unspent).cur = w.m.cur := by
    unfold Mach.wrote; split <;> rfl
  have hslot (n : Nat) : ((w.m.wrote w.unspent).slot n).ctl = (w.m.slot n).ctl := by
    unfold Mach.wrote
    split
    · rfl
    · exact slot_breakLinks_ctl w.m _ n
  change ((w.m.wrote w.unspent).slot (w.m.wrote w.unspent).cur).ctl = _
  rw [hcur, hslot]
  rfl

/-- Where a linked read does not find its lines free of other slots' sequences, it waits. -/
theorem unheld_waits {w : Work} {lines : List Nat} (h : w.unheld lines ≠ .ok ()) : w.unheld lines = .error (.wait .heldLine) := by
  unfold Work.unheld at h ⊢
  split
  · rfl
  · rename_i hfree
    exact absurd (if_neg hfree) h

/-- What a gather-linked of the elements `l` leaves, all of which passed their checks: it loads as any other load, and links each
element to the lines that it reads. -/
def Work.gatheredElems (w : Work) (d : Reg) (l : List (Nat × List Req)) : Work :=
  ((((w.linkedReads l).putLoaded d (l.map (fun p => (p.1, p.2.map w.reqBits)))).countHot 2 l).countRemote (planLocs l)).touchFibre
    (planLocs l)

/-- The load of a gather-linked whose elements all pass their checks. -/
theorem vload_linked {w : Work} {d : Reg} {o : Bool} {plan : Nat → Except EFault (List Req)} {l : List (Nat × List Req)}
    (hl : w.limit = none) (hm : w.made = []) (hread : ElemsRead w plan l) :
    w.vload (kind 2 o) plan (fun w l => w.putLoaded d l) (fun e r w => w.linkElement e r) =
      (w.gatheredElems d l).sample 2 o false l 0 := by
  obtain ⟨hplan, hreadable, hgood⟩ := hread
  have hmay : w.mayRead l = .ok () := by rw [Work.mayRead, hreadable]; rfl
  simp only [Work.vload, hplan, bind, Except.bind, ahead_whole hm, hmay, hgood, linkPlan_whole l hl hm, Work.gatheredElems, kind,
    if_true]

/-- A gather-linked waits while another slot's sequence holds one of its lines. -/
theorem bodyVgathl_held {d a b : Reg} {o : Bool} {w : Work} (hm : w.made = [])
    (hheld : w.spend.unheld ((planLocs (planAll (w.spend.indexedPlan false o false a b) w.spend.active).1).map lineOf) ≠ .ok ()) :
    bodyVgathl d a b o w = .error (.wait .heldLine) := by
  have hspent : w.spend.made = [] := hm
  simp only [bodyVgathl, ahead_whole hspent, unheld_waits hheld, bind, Except.bind]

/-- A gather-linked whose lines no other slot's sequence holds, and whose elements all pass their checks. -/
theorem bodyVgathl_done {d a b : Reg} {o : Bool} {w w' : Work} {l : List (Nat × List Req)} (hl : w.limit = none) (hm : w.made = [])
    (hheld : w.spend.unheld ((planLocs (planAll (w.spend.indexedPlan false o false a b) w.spend.active).1).map lineOf) = .ok ())
    (hread : ElemsRead w.spend.dropHolds (w.spend.indexedPlan false o false a b) l)
    (hsample : (w.spend.dropHolds.gatheredElems d l).sample 2 o false l 0 = .ok w') (hvl : w'.s.ctl.vl = w.s.ctl.vl) :
    bodyVgathl d a b o w = .ok w' := by
  have hspent : w.spend.made = [] := hm
  have hload := (vload_linked (d := d) (o := o) (w := w.spend.dropHolds) hl hm hread).trans hsample
  simp only [bodyVgathl, ahead_whole hspent, hheld, bind, Except.bind, past_of_made hspent, if_true, hload, hvl, spend_s_ctl]

/-! ### Scatter-conditional (08 R206; 17 R416) -/

@[simp] theorem putM_nil (w : Work) (m : Nat) : w.putM m [] = w := rfl

@[simp] theorem countHot_nil (w : Work) (cls : Nat) : w.countHot cls [] = w := rfl

/-- A plan whose first element fails has no element that passes. -/
theorem planAll_of_head {plan : Nat → Except EFault (List Req)} {es : List Nat} {e : Nat} {f : EFault} (hfirst : es.head? = some e)
    (hfault : plan e = .error f) : planAll plan es = ([], some (e, f)) := by
  cases es with
  | nil => cases hfirst
  | cons x es =>
    obtain rfl : x = e := Option.some.inj hfirst
    simp only [planAll, hfault]

/-- A remote access of an element of `vscatc` is refused. -/
theorem localReqs_of_remote {rs : List Req} {q : Req} (h : rs.find? (fun q => q.locs.any isRemote) = some q) :
    localReqs (.ok rs) = .error (.flt cACCESS_VIOLATION (detailAddr 14 q.a)) := by
  simp only [localReqs, bind, Except.bind, h]

/-- A scatter-conditional whose first active element fails traps there: nothing is written, and the slot's holds are given up. -/
theorem bodyVscatc_first {d a b : Reg} {o : Bool} {m : Fin 8} {w : Work} {e cause : Nat} {v : Word} (hm : w.made = [])
    (hplan : planAll (fun e => localReqs (w.indexedPlan true o false a b e)) w.active = ([], some (e, .flt cause v))) :
    bodyVscatc d a b o m w = raiseAt w.dropHolds e cause v 1 := by
  have hmay : w.mayWrite [] = .ok () := rfl
  simp only [bodyVscatc, hplan, ahead_whole hm, List.filter_nil, hmay, Work.scatter, putM_nil, countHot_nil, bind, Except.bind]

/-- A scatter-conditional whose elements all pass their checks writes those that are linked. -/
theorem bodyVscatc_done {d a b : Reg} {o : Bool} {m : Fin 8} {w : Work} {l : List (Nat × List Req)} (hl : w.limit = none)
    (hm : w.made = []) (hplan : planAll (fun e => localReqs (w.indexedPlan true o false a b e)) w.active = (l, none))
    (hwrite : writable w.m w.m.cur (planLocs (l.filter (fun p => w.elementLinked p.1 p.2))) = .ok ()) :
    bodyVscatc d a b o m w =
      let out := w.scattered (w.elemV d) l
      (((out.2.2.putM m.val out.1).countHot 2 out.2.1).dropHolds).sample 2 o true out.2.1 0 := by
  have hmay : w.mayWrite (l.filter (fun p => w.elementLinked p.1 p.2)) = .ok () := by rw [Work.mayWrite, hwrite]; rfl
  simp only [bodyVscatc, hplan, ahead_whole hm, hmay, scatter_whole (w.elemV d) l hl hm, bind, Except.bind]

/-- Settles O34: conflict detection by the work of each word; the words of the coordinate store by its owner; gather-linked by whether
a line is held, scatter-conditional by whether its first element is remote. -/
theorem sparseOperations : Obligations.SparseOperations := by
  refine ⟨fun s w st c d a b => ?_, fun s w st c d a b => ?_, fun s w w' st c o d a b m l => ?_⟩
  · intro u lead sum leaders p hp hbegins
    suffices hruns : Runs p.1 s w (.ok p.2) from exec_of_runs hruns hbegins
    clear hbegins
    revert p
    simp only [List.forall_mem_cons]
    exact ⟨⟨rfl, mapM_plain w d lead⟩, ⟨rfl, bodyVcomb_eq d a b w⟩, ⟨rfl, mapV_plain w d _⟩, -- vconf, vcomb, visect
      List.forall_mem_nil _⟩
  · intro k ins add hit val out drained
    simp only [List.forall_mem_cons]
    exact ⟨exec_onStore ⟨rfl, rfl⟩ rfl rfl, -- cins
      exec_onStore ⟨rfl, bodyClook_eq d a b w⟩ rfl rfl, -- clook
      exec_onStore ⟨rfl, rfl⟩ rfl rfl, -- cacc
      exec_onStore ⟨rfl, rfl⟩ rfl rfl, exec_onStore ⟨rfl, rfl⟩ rfl rfl, -- cdrain, cclr
      List.forall_mem_nil _⟩
  · intro w0 loaded out held plan
    refine ⟨fun hbegins hheld => ?_, fun hbegins hheld hread hsample hvl => ?_, fun hbegins e rs q hfirst hrs hremote => ?_,
      fun hbegins hplan hwrite hsample => ?_⟩
    · exact issue_waits hbegins (bodyVgathl_held (begins_whole hbegins).2 hheld)
    · obtain ⟨hl, hm⟩ := begins_whole hbegins
      exact exec_of_runs ⟨rfl, bodyVgathl_done hl hm hheld hread hsample hvl⟩ hbegins
    · have hfault : plan e = .error (.flt cACCESS_VIOLATION (detailAddr 14 q.a)) :=
        (congrArg localReqs hrs).trans (localReqs_of_remote hremote)
      have hbody := bodyVscatc_first (d := d) (m := m) (begins_whole hbegins).2 (planAll_of_head hfirst hfault)
      have hcause : cACCESS_VIOLATION ≠ cMEMORY_POISON := by decide
      exact ⟨_, exec_of_trap ⟨rfl, hbody⟩ hbegins hcause, atTrap_ws _ _ _⟩
    · obtain ⟨hl, hm⟩ := begins_whole hbegins
      exact exec_of_runs ⟨rfl, (bodyVscatc_done hl hm hplan hwrite).trans hsample⟩ hbegins

end Sys2Proof.Machine
end

section
/-! Products on the tile unit: `tzero`, `tmop`, `tmma` and `tmms`, with their row checksums. -/

namespace Sys2Proof.Machine

/-! ### What leaves the running core as it was -/

/-- The running core is read from the table of cores alone. -/
theorem core_of_cores {v w : Work} (hcores : v.m.cores = w.m.cores) (hcur : v.m.cur = w.m.cur) : v.core = w.core := by
  rw [Work.core, Work.core, Mach.core, Mach.core, hcores, hcur]

@[simp] theorem core_setCore_running (w : Work) (c : Core) : (w.setCore c).core = c := core_setCore_self _ _ _
@[simp] theorem countAnnals_core (w : Work) (k : AnnalsKey) : { w with m := w.m.countAnnals k }.core = w.core := rfl
@[simp] theorem setVstart_core (w : Work) (n : Nat) : (w.setVstart n).core = w.core := rfl

/-- A good copy written back changes no core and leaves the same slot running. -/
theorem scrub_cores (w : Work) (x : Nat) : (w.scrub x).m.cores = w.m.cores ∧ (w.scrub x).m.cur = w.m.cur := by
  have counted (l : List (Nat × Nat)) (f : Nat × Nat → AnnalsKey) (m : Mach) :
      (l.foldl (fun m p => m.countAnnals (f p)) m).cores = m.cores ∧ (l.foldl (fun m p => m.countAnnals (f p)) m).cur = m.cur := by
    induction l generalizing m with
    | nil => exact ⟨rfl, rfl⟩
    | cons p l ih => exact ih (m.countAnnals (f p))
  unfold Work.scrub
  dsimp only
  split
  · exact counted _ _ w.m
  · exact ⟨rfl, rfl⟩

theorem scrubs_cores (l : List Nat) (w : Work) :
    (l.foldl (fun w x => w.scrub x) w).m.cores = w.m.cores ∧ (l.foldl (fun w x => w.scrub x) w).m.cur = w.m.cur := by
  induction l generalizing w with
  | nil => exact ⟨rfl, rfl⟩
  | cons x l ih =>
    obtain ⟨hcores, hcur⟩ := scrub_cores w x
    exact ⟨(ih _).1.trans hcores, (ih _).2.trans hcur⟩

/-- Fetching the A operand changes no core. -/
theorem aRead_core (w : Work) (lsp col wide : Bool) (size k : Nat) (src : TileSrc) :
    (w.aRead lsp col wide size k src).core = w.core := by
  have hscrubs : w.aRead lsp col wide size k src =
      ((w.aBlockBytes lsp col wide size k src).map (fun b => b.loc)).foldl (fun w x => w.scrub x) w := List.foldl_map.symm
  obtain ⟨hcores, hcur⟩ := scrubs_cores ((w.aBlockBytes lsp col wide size k src).map (fun b => b.loc)) w
  rw [hscrubs]
  exact core_of_cores hcores hcur

/-! ### Row checksums (10 R258 to R261) -/

/-- Integer rows are all checked, and all pass. -/
theorem checkRows_integer (f : FFmt) (rm : Nat) (rows : List (Nat × List Cell)) :
    checkRows f rm false rows = (0, rows.map (fun r => (r.1, true))) := by
  have hnone : rows.filter (fun _ => false) = [] := List.filter_eq_nil_iff.2 fun _ _ => Bool.false_ne_true
  have hall : rows.filter (fun _ => true) = rows := List.filter_eq_self.2 fun _ _ => rfl
  simp only [checkRows, Bool.false_and, Bool.not_false, Bool.true_or, hnone, hall, List.length_nil]

/-- Of rows that pass, none fails where no lane errs. -/
theorem failingRow_none (rows : List (Nat × List Cell)) : failingRow (rows.map (fun r => (r.1, true))) none = none := by
  simp [failingRow]

/-- Of rows that pass, the one in which a lane errs fails. -/
theorem failingRow_upset {rows : List (Nat × List Cell)} {r : Nat} {cells : List Cell} (h : (r, cells) ∈ rows) :
    failingRow (rows.map (fun r => (r.1, true))) (some r) = some r := by
  cases hfind : (rows.map (fun r => (r.1, true))).find? (fun x => !x.2 || some r == some x.1) with
  | none =>
    have hmiss := List.find?_eq_none.1 hfind (r, true) (List.mem_map_of_mem h)
    simp at hmiss
  | some x =>
    obtain ⟨y, -, rfl⟩ := List.mem_map.1 (List.mem_of_find?_eq_some hfind)
    have hrow : r = y.1 := by simpa using List.find?_some hfind
    rw [failingRow, hfind, Option.map_some, hrow]

/-- A product operation whose row checksums are off, or that finds every row of integers right, stores its results. -/
theorem productDone_stores {w : Work} {own flt : Bool} {f : FFmt} {rm t : Nat} {rows : List (Nat × List (Nat × Cell))}
    {put : Work → List (Nat × Nat) → Work} (h : w.core.cen = false ∨ (flt = false ∧ w.core.upset = [])) :
    w.productDone own f rm t flt rows put =
      let all := rows.flatMap (fun r => r.2.map (fun x => (r.1 * 64 + x.1, x.2)))
      .ok ((put (w.setCore { w.core with unchk := min 0xFFFF w.core.unchk }) (all.map (fun x => (x.1, x.2.res)))).orFlags
        (all.foldl (fun a x => a ||| x.2.flags) 0)) := by
  cases hcen : w.core.cen with
  | false => simp [Work.productDone, hcen]
  | true =>
    obtain ⟨rfl, hupset⟩ := h.resolve_left (by simp [hcen])
    simp [Work.productDone, hcen, hupset, checkRows_integer, failingRow_none]

/-- A product operation of integers, checked, in both computations of which a lane errs in the row r, raises CHECKSUM_FAIL with
that row: the failure is counted, both errors are past, and no accumulator has changed. -/
theorem productDone_fails {w : Work} {own : Bool} {f : FFmt} {rm t r : Nat} {rest : List Nat} {cells : List (Nat × Cell)}
    {rows : List (Nat × List (Nat × Cell))} {put : Work → List (Nat × Nat) → Work} (hcen : w.core.cen = true)
    (hupset : w.core.upset = r :: r :: rest) (hrow : (r, cells) ∈ rows) (hcells : cells ≠ []) :
    ∃ v, w.productDone own f rm t false rows put =
        .error (.trap v { cause := cCHECKSUM_FAIL, acc := 0, stval := BitVec.ofNat 64 (r + 256 * t) }) ∧
      v.core = { w.core with upset := rest, fail := min 0xFFFF (w.core.fail + 1) } := by
  have hchecked : (r, cells.map (fun x => x.2)) ∈
      (rows.map (fun r => (r.1, r.2.map (fun x => x.2)))).filter (fun r => r.2 ≠ []) :=
    List.mem_filter.2 ⟨List.mem_map_of_mem (f := fun r : Nat × List (Nat × Cell) => (r.1, r.2.map (fun x => x.2))) hrow,
      by simpa using hcells⟩
  have hfails := failingRow_upset hchecked
  simp only [Work.productDone, hcen, hupset, checkRows_integer, if_true, List.head?_cons, List.drop_succ_cons, List.drop_zero,
    hfails, Option.bind_some, Option.isSome_some, tileRaise, raise]
  refine ⟨_, rfl, ?_⟩
  simp only [setVstart_core, countAnnals_core, core_setCore_running]

/-! ### Sums of products (09 R222 to R229) -/

/-! What the control thread's operation is given. -/
@[simp] theorem tileSrc_fmt (w : Work) (a b : Reg) : (w.tileSrc a b).fmt = w.fmt := rfl
@[simp] theorem tileSrc_opa (w : Work) (a b : Reg) : (w.tileSrc a b).opa = w.x a.val := rfl
@[simp] theorem tileSrc_opb (w : Work) (a b : Reg) : (w.tileSrc a b).opb = w.x b.val := rfl

/-- The cells of the enabled accumulators row by row are those of all of them, numbered. -/
theorem enabledCells_flatMap (rows cols : List Nat) (cell : Nat → Nat → Cell) :
    (rows.map (fun r => (r, cols.map (fun c => (c, cell r c))))).flatMap (fun r => r.2.map (fun x => (r.1 * 64 + x.1, x.2))) =
      rows.flatMap (fun r => cols.map (fun c => (r * 64 + c, cell r c))) := by
  simp only [List.flatMap_map, List.map_map, Function.comp_def]

/-- A sum of products whose row checksums are off, or which is of integers with no lane error, is accumulated. -/
theorem product_accumulates {w : Work} {src : TileSrc} {t pr bcode : Nat} {pairs : Nat → Nat → List (Nat × Nat)}
    (h : w.core.cen = false ∨ (src.fmt = 0 ∧ w.core.upset = [])) :
    w.product src t pr bcode pairs =
      .ok (w.accumulated t pr (fun row col => w.cellOf src t bcode row col (pairs row col))) := by
  have hchecks : w.core.cen = false ∨ ((src.fmt != 0) = false ∧ w.core.upset = []) := by simpa using h
  rw [Work.product, productDone_stores hchecks]
  simp only [enabledCells_flatMap]
  rfl

/-- A cell is computed from the tile registers of the running core. -/
theorem cellOf_of_core {v w : Work} (h : v.core = w.core) : v.cellOf = w.cellOf := by
  funext src t bcode row col ps
  simp only [Work.cellOf, Work.acc, Work.tile, h]

/-- `tzero` zeroes the enabled accumulators. -/
theorem tzero_eq (w : Work) (t pr : Nat) :
    w.tzero t pr =
      .ok (w.putAcc t ((w.enabledRows pr).flatMap (fun r => (w.enabledCols pr).map (fun c => (r * 64 + c, 0))))) := by
  simp only [Work.tzero, Work.enabledAcc, List.map_flatMap, List.map_map, Function.comp_def]

/-- The work of `tmop` whose row is summed as it stands. -/
theorem bodyTmop_accumulates {p : Fin 4} {t : Fin 8} {a b : Reg} {w : Work}
    (h : w.core.cen = false ∨ (w.fmt = 0 ∧ w.core.upset = [])) :
    bodyTmop p t a b w = .ok (w.accumulated t.val p.val (fun row col => w.cellOf (w.tileSrc a b) t.val w.fmt row col
      [(w.elemAt (8 * codeBytes w.fmt) a.val row, w.elemAt (8 * codeBytes w.fmt) b.val col)])) :=
  product_accumulates h

/-- The work of `tmop` of integers, checked, in both computations of which a lane errs in the same enabled row. -/
theorem bodyTmop_fails {p : Fin 4} {t : Fin 8} {a b : Reg} {w : Work} {r : Nat} {rest : List Nat} (hcen : w.core.cen = true)
    (hfmt : w.fmt = 0) (hupset : w.core.upset = r :: r :: rest) (hrow : r ∈ w.enabledRows p.val)
    (hcols : w.enabledCols p.val ≠ []) :
    ∃ v, bodyTmop p t a b w =
        .error (.trap v { cause := cCHECKSUM_FAIL, acc := 0, stval := BitVec.ofNat 64 (r + 256 * t.val) }) ∧
      v.core = { w.core with upset := rest, fail := min 0xFFFF (w.core.fail + 1) } := by
  have hinteger : ((w.tileSrc a b).fmt != 0) = false := by simpa using hfmt
  rw [bodyTmop, Work.product, hinteger]
  exact productDone_fails hcen hupset (List.mem_map_of_mem hrow) (by simpa using hcols)

/-! ### Blocks of the weight buffer (09 R232, R233; 10 R251 to R253) -/

section
variable {w : Work} {src : TileSrc} {t pr : Nat} {a : Reg} {l o : Bool} {offs : List Nat}

/-- `tmma` whose operands pass their checks adds a K-block of 16. -/
theorem tmma_accumulates {bt : Array Nat} (hlimit : w.limit = none) (hmade : w.made = [])
    (hA : w.checkA src l o (src.fmt == 9) (1024 * codeBytes src.fmt) = .ok ()) (hcmp : w.core.cmp ≠ 1)
    (hB : w.denseBlock src.opb src.since = .ok (offs, bt))
    (hready : w.operandsReady src (w.aBlockBytes l o false (codeBytes src.fmt) 16 src) offs = .ok ())
    (hsums : w.core.cen = false ∨ (src.fmt = 0 ∧ w.core.upset = [])) :
    w.tmma src t pr a l o =
      let at_ := w.aNums l o false (codeBytes src.fmt) 16 src a
      .ok ((w.aRead l o false (codeBytes src.fmt) 16 src).accumulated t pr (fun row col =>
        w.cellOf src t (eltCode w.core.elt) row col
          ((List.range 16).map (fun j => (at_.getD (j * 64 + row) 0, bt.getD (j * 64 + col) 0))))) := by
  have hcore := aRead_core w l o false (codeBytes src.fmt) 16 src
  rw [← hcore] at hsums
  simp only [Work.tmma, hA, hcmp, if_false, hB, hready, aTable_whole hlimit hmade, bind, Except.bind,
    product_accumulates hsums, cellOf_of_core hcore]

/-- `tmms` whose operands pass their checks adds the N terms of each column of a structured block. -/
theorem tmms_accumulates {bt : Array (Nat × Nat)} (hlimit : w.limit = none) (hmade : w.made = [])
    (hA : w.checkA src l o (src.fmt == 9) (1024 * codeBytes src.fmt) = .ok ()) (hcmp : w.core.cmp = 1)
    (hB : w.structuredBlock src.opb = .ok (offs, bt))
    (hready : w.operandsReady src (w.aBlockBytes l o false (codeBytes src.fmt) 16 src) offs = .ok ())
    (hsums : w.core.cen = false ∨ (src.fmt = 0 ∧ w.core.upset = [])) :
    w.tmms src t pr a l o =
      let at_ := w.aNums l o false (codeBytes src.fmt) 16 src a
      .ok ((w.aRead l o false (codeBytes src.fmt) 16 src).accumulated t pr (fun row col =>
        w.cellOf src t (eltCode w.core.elt) row col ((List.range (2 ^ w.core.nsel)).map (fun i =>
          (at_.getD ((bt.getD (i * 64 + col) (0, 0)).1 * 64 + row) 0, (bt.getD (i * 64 + col) (0, 0)).2))))) := by
  have hcore := aRead_core w l o false (codeBytes src.fmt) 16 src
  rw [← hcore] at hsums
  simp only [Work.tmms, hA, hcmp, ne_eq, not_true, if_false, hB, hready, aTable_whole hlimit hmade, bind, Except.bind,
    product_accumulates hsums, cellOf_of_core hcore]

end

/-! ### Traps of a tile instruction -/

/-- A scalar word reads no register through a binding. -/
theorem boundSources_of_scalar {s : Slot} {i : Instr} (h : (infoOf s.ctl.fmt i).cls = .scalar) : s.boundSources i = [] := by
  simp [Slot.boundSources, h]

/-- What a trap leaves of a scalar word's work keeps the running core. -/
theorem atTrap_core_of_scalar {v : Work} {i : Instr} {before : Slot} (h : (infoOf before.ctl.fmt i).cls = .scalar) :
    (v.atTrap i before).core = v.core := by
  simp only [Work.atTrap, boundSources_of_scalar h, Work.returnStrips, h, if_true, decide_true, Bool.true_or]
  split <;> rfl

/-- Settles O37: `tzero` by its list of accumulators; the products by `Work.product`, which stores or fails by its row
checksums. -/
theorem tileProducts : Obligations.TileProducts := by
  refine ⟨fun s w st p t a b => ?_, fun s w st p t a b l o offs bt sbt => ?_⟩
  · intro src n
    refine ⟨exec_of_runs ⟨rfl, tzero_eq w t.val p.val⟩, fun hbegins hsums => ?_,
      fun hbegins hcen hfmt r rest hupset hrow hcols => ?_⟩
    · exact exec_of_runs ⟨rfl, bodyTmop_accumulates hsums⟩ hbegins
    · have hcause : cCHECKSUM_FAIL ≠ cMEMORY_POISON := by decide
      obtain ⟨v, hbody, hcore⟩ := bodyTmop_fails hcen hfmt hupset hrow hcols
      refine ⟨_, exec_of_trap ⟨rfl, hbody⟩ hbegins hcause, ?_⟩
      rw [atTrap_core_of_scalar rfl, hcore]
      exact ⟨rfl, rfl, rfl⟩
  · intro src size at_ read ready hA hready hsums
    refine ⟨fun hbegins hcmp hB => ?_, fun hbegins hcmp hB => ?_⟩
    · obtain ⟨hlimit, hmade⟩ := begins_whole hbegins
      exact exec_of_runs ⟨rfl, tmma_accumulates hlimit hmade hA hcmp hB hready hsums⟩ hbegins
    · obtain ⟨hlimit, hmade⟩ := begins_whole hbegins
      exact exec_of_runs ⟨rfl, tmms_accumulates hlimit hmade hA hcmp hB hready hsums⟩ hbegins

end Sys2Proof.Machine
end

section
/-! Whole tiles, rows and columns of accumulators moved between the tile group, memory and the vector registers. -/

namespace Sys2Proof.Machine

/-- A scalar word runs on the state in which it issues, no instruction of its slot standing in the window. -/
theorem begins_of_scalar {i : Instr} {s : State} {w : Work} (hbegins : Begins i s w)
    (hscalar : (infoOf s.work.s.ctl.fmt i).cls = .scalar) :
    w = { s.work with npc := s.work.s.regs.pc + 4 } ∧ w.s.thr.window = [] := by
  obtain ⟨⟨-, hwindow, -, -⟩, w1, hsources, rfl⟩ := hbegins
  rw [sources_of_unbound (boundSources_of_scalar hscalar)] at hsources
  cases hsources
  exact ⟨rfl, hwindow⟩

/-- With no instruction in the window, an operation of the control thread has lost the lines that its unit has (09 R227). -/
theorem tileSrc_lost {w : Work} (h : w.s.thr.window = []) (a b : Reg) : (w.tileSrc a b).lost = w.s.unit.lost := by
  simp only [Work.tileSrc, h, List.append_nil]

/-! ### Whole tiles in memory (09 R234) -/

/-- The accesses of a whole tile that is aligned and whose elements all pass their checks. -/
theorem tilePlan_passes {w : Work} {a : Word} {write col : Bool} {l : List (Nat × List Req)}
    (halign : a.toNat % (if col then 0x4000 else 64) = 0)
    (hplan : planAll (fun e => (w.req (tileAddr a e) 4 write col).map (fun r => [r])) (List.range 4096) = (l, none)) :
    w.tilePlan a write col = .ok l := by
  rw [Work.tilePlan, if_neg (fun hne => hne halign)]
  generalize List.range 4096 = es at hplan ⊢
  rw [hplan]

/-- Reads of lines that no copy owns may take place. -/
theorem mayRead_of_readable {w : Work} {l : List (Nat × List Req)} (h : readable w.m (planLocs l) = .ok ()) :
    w.mayRead l = .ok () := by
  rw [Work.mayRead, h]; rfl

/-- Writes of lines that neither a copy owns nor another slot holds may take place. -/
theorem mayWrite_of_writable {w : Work} {l : List (Nat × List Req)} (h : writable w.m w.m.cur (planLocs l) = .ok ()) :
    w.mayWrite l = .ok () := by
  rw [Work.mayWrite, h]; rfl

/-- `tld` of a tile whose accesses pass their checks. -/
theorem tld_loads {w : Work} {src : TileSrc} {t : Nat} {col : Bool} {l : List (Nat × List Req)} (hlimit : w.limit = none)
    (hmade : w.made = []) (hplan : w.tilePlan src.opa false col = .ok l) (hread : readable w.m (planLocs l) = .ok ())
    (hkept : lostAddr src.lost col l = none) (hgood : firstPoison w.m l = none) :
    w.tld src t col = .ok (((((planLocs l).foldl (fun w x => w.scrub x) w).putAcc t
      (l.map (fun p => (p.1, (p.2.map w.reqBits).headD 0)))).countHot 0 l).countRemote (planLocs l) |>.touchFibre (planLocs l)) := by
  simp only [Work.tld, hplan, bind, Except.bind, ahead_whole hmade, mayRead_of_readable hread, hkept, hgood,
    readPlan_whole l hlimit hmade, List.map_map, Function.comp_def]

/-- `tst` of a tile whose accesses pass their checks stores accumulator e at access e. -/
theorem tst_stores {w : Work} {src : TileSrc} {t : Nat} {col : Bool} {l : List (Nat × List Req)} (hlimit : w.limit = none)
    (hmade : w.made = []) (hplan : w.tilePlan src.opa true col = .ok l) (hwrite : writable w.m w.m.cur (planLocs l) = .ok ()) :
    w.tst src t col = .ok ((w.storeElems (fun e => [(w.acc t (e / 64) (e % 64), 0)]) l).countHot 0 l) := by
  simp only [Work.tst, hplan, bind, Except.bind, ahead_whole hmade, mayWrite_of_writable hwrite,
    putPlan_whole _ l hlimit hmade, Work.acc, Nat.div_add_mod']

/-! ### Rows, columns and whole tiles in registers (09 R235, R236) -/

/-- A line of accumulators below 64 is moved to the tile or from it. -/
theorem moveLine_of_lt {w : Work} {t : Nat} {a b : Reg} {num : Nat → Nat → Nat} (h : (w.x b.val).toNat < 64) (k : Bool) :
    w.moveLine t a b k num =
      .ok (if k then w.putAcc t ((List.range 64).map (fun j => (num (w.x b.val).toNat j, w.elemAt 32 a.val j)))
        else w.putV a.val 32 ((List.range 64).map (fun j => (j, (elem 32 (w.tile t) (num (w.x b.val).toNat j)).toNat)))) := by
  have hline : ¬63 < (w.x b.val).toNat := by omega
  cases k <;> simp [Work.moveLine, hline]

/-- Outside protected mode `tvmv` moves eight registers into the tile. -/
theorem bodyTvmv_toTile {w : Work} (h : w.prot = false) (t : Fin 8) (a : Reg) :
    bodyTvmv t a true w = .ok (w.putAcc t.val ((List.range 8).flatMap (fun g => (List.range 512).map (fun e =>
      (e % 64 * 64 + (8 * g + e / 64), w.elemAt 32 ((a.val + g) % 32) e))))) := by
  simp only [bodyTvmv, h, Bool.false_eq_true, if_true, if_false, tileElem]

/-- Outside protected mode `tvmv` moves the tile into eight registers. -/
theorem bodyTvmv_fromTile {w : Work} (h : w.prot = false) (t : Fin 8) (a : Reg) :
    bodyTvmv t a false w = .ok ((List.range 8).foldl (fun x g => x.putV ((a.val + g) % 32) 32
      ((List.range 512).map (fun e => (e, (elem 32 (w.tile t.val) (e % 64 * 64 + (8 * g + e / 64))).toNat)))) w) := by
  simp only [bodyTvmv, h, Bool.false_eq_true, if_false, tileElem]

/-- Settles O39: a tile in memory by the plan of its accesses, lines by `Work.moveLine`, `tvmv` by its direction. -/
theorem tileTransfers : Obligations.TileTransfers := by
  refine ⟨fun s w st t a o l => ?_, fun s w st t a b => ?_⟩
  · intro plan halign
    refine ⟨fun hbegins hplan hread hkept hgood => ?_, fun hbegins hplan hwrite => ?_⟩
    · obtain ⟨hlimit, hmade⟩ := begins_whole hbegins
      obtain ⟨-, hwindow⟩ := begins_of_scalar hbegins rfl
      rw [← tileSrc_lost hwindow a a] at hkept
      exact exec_of_runs ⟨rfl, tld_loads hlimit hmade (tilePlan_passes halign hplan) hread hkept hgood⟩ hbegins
    · obtain ⟨hlimit, hmade⟩ := begins_whole hbegins
      exact exec_of_runs ⟨rfl, tst_stores hlimit hmade (tilePlan_passes halign hplan) hwrite⟩ hbegins
  · intro i line
    exact ⟨fun k hbegins hi => exec_of_runs ⟨rfl, moveLine_of_lt (num := fun i c => i * 64 + c) hi k⟩ hbegins,
      fun k hbegins hi => exec_of_runs ⟨rfl, moveLine_of_lt (num := fun i r => r * 64 + i) hi k⟩ hbegins,
      fun hbegins hprot => exec_of_runs ⟨rfl, bodyTvmv_toTile hprot t a⟩ hbegins,
      fun hbegins hprot => exec_of_runs ⟨rfl, bodyTvmv_fromTile hprot t a⟩ hbegins⟩

end Sys2Proof.Machine
end

section
/-! The tile group claimed and given up, its weight buffer, and the checksum counters. -/

namespace Sys2Proof.Machine

/-! ### The tile group (09 R214, R215) -/

/-- The core of a slot that has claimed its tile group. -/
theorem claimTile_core (w : Work) (n : Nat) : (w.claimTile n).m.core (coreOf n) =
    { (w.m.core (coreOf n)).release with owner := some n, claim := (w.m.core (coreOf n)).release.claim + 1, tstate := 1 } :=
  core_setCore_self _ _ _

/-- Every byte of a claimed weight buffer reads 0. -/
theorem byte_claimTile (w : Work) (n : Nat) {off : Nat} (h : off < 2 ^ 18) : (w.claimTile n).byte (wbLoc (coreOf n) off) = 0 := by
  rw [Work.claimTile, byte_clearBytes, if_pos]
  unfold wbLoc
  omega

/-- A slot that gives up the tile group leaves it without an owner. -/
theorem releaseTile_owner {w : Work} {n : Nat} (h : (w.m.core (coreOf n)).owner = some n) :
    ((w.releaseTile n).m.core (coreOf n)).owner = none := by
  simp [Work.releaseTile, h, Core.release]

/-- Giving up a tile group has no effect in a slot that does not own it. -/
theorem releaseTile_of_other {w : Work} {n : Nat} (h : (w.m.core (coreOf n)).owner ≠ some n) : w.releaseTile n = w := if_neg h

/-! `ten` by the owner of the tile group. -/

theorem bodyTen_free {w : Work} (h : w.core.owner = none) : bodyTen w = .ok (w.claimTile w.m.cur) := by
  have howner : (w.m.core (coreOf w.m.cur)).owner = none := h
  rw [bodyTen, Work.ten, howner]

theorem bodyTen_owned {w : Work} (h : w.core.owner = some w.m.cur) : bodyTen w = .ok w := by
  have howner : (w.m.core (coreOf w.m.cur)).owner = some w.m.cur := h
  simp only [bodyTen, Work.ten, howner, if_true]

theorem bodyTen_other {w : Work} {o : Nat} (h : w.core.owner = some o) (hother : o ≠ w.m.cur) :
    bodyTen w = .error (.trap w { cause := cTILE_DISABLED, acc := 0, stval := 2 }) := by
  have howner : (w.m.core (coreOf w.m.cur)).owner = some o := h
  simp only [bodyTen, Work.ten, howner, hother, if_false, raise]

/-- `tdis` gives the group up, unless its matrix sequencer runs. -/
theorem bodyTdis_releases {w : Work} (h : w.s.mseq.st ≠ .running ∨ w.core.owner ≠ some w.m.cur) :
    bodyTdis w = .ok (w.releaseTile w.m.cur) := if_neg fun hruns => h.elim (fun h => h hruns.2) (fun h => h hruns.1)

theorem bodyTdis_waits {w : Work} (hruns : w.s.mseq.st = .running) (howner : w.core.owner = some w.m.cur) :
    bodyTdis w = .error (.wait .sequencer) := if_pos ⟨howner, hruns⟩

/-! ### The bytes that `wbld` reads (06 R153; 10 R250) -/

/-- Where all elements pass their checks, each has its accesses. -/
theorem planAll_passes {plan : Nat → Except EFault (List Req)} {es : List Nat} {l : List (Nat × List Req)}
    (h : planAll plan es = (l, none)) : l.length = es.length ∧ ∀ p ∈ l, plan p.1 = .ok p.2 := by
  induction es generalizing l with
  | nil => cases h; exact ⟨rfl, List.forall_mem_nil _⟩
  | cons e es ih =>
    cases he : plan e with
    | error f => simp only [planAll, he, Prod.mk.injEq, reduceCtorEq, and_false] at h
    | ok rs =>
      simp only [planAll, he, Prod.mk.injEq] at h
      obtain ⟨rfl, hrest⟩ := h
      obtain ⟨hlength, hplan⟩ := ih (Prod.ext rfl hrest)
      exact ⟨congrArg Nat.succ hlength, List.forall_mem_cons.2 ⟨he, hplan⟩⟩

/-- An access at row orientation has as many places as bytes. -/
theorem elemLocs_length {m : Mach} {n size : Nat} {a : Word} {write : Bool} {locs : List Nat}
    (h : elemLocs m n a size write false = .ok locs) : locs.length = size := by
  unfold elemLocs at h
  split at h
  · cases h
  rw [Bool.false_and, if_neg Bool.false_ne_true] at h
  cases hplace : vectorPlace m n a write false with
  | error x => rw [hplace] at h; cases h
  | ok loc => rw [hplace] at h; cases h; simp [span]

theorem req_locs_length {w : Work} {a : Word} {size : Nat} {write : Bool} {r : Req} (h : w.req a size write false = .ok r) :
    r.locs.length = size := by
  unfold Work.req at h
  split at h
  · rename_i locs hlocs
    cases h
    exact elemLocs_length hlocs
  · cases h

/-- One access of n bytes for each element. -/
def OneAccess (n : Nat) (l : List (Nat × List Req)) : Prop := ∀ p ∈ l, ∃ r, p.2 = [r] ∧ r.locs.length = n

/-- A plan of one access of n bytes for each element. -/
theorem oneAccess_of_plan {w : Work} {addr : Nat → Word} {n : Nat} {es : List Nat} {l : List (Nat × List Req)}
    (h : planAll (fun e => (w.req (addr e) n false false).map (fun r => [r])) es = (l, none)) : OneAccess n l := by
  intro p hp
  have hplan := (planAll_passes h).2 p hp
  cases hreq : w.req (addr p.1) n false false with
  | error f => rw [hreq] at hplan; cases hplan
  | ok r => rw [hreq] at hplan; exact ⟨r, (Except.ok.inj hplan).symm, req_locs_length hreq⟩

theorem OneAccess.planLocs_length {n : Nat} {l : List (Nat × List Req)} (h : OneAccess n l) : (planLocs l).length = l.length * n := by
  induction l with
  | nil => simp [planLocs]
  | cons p l ih =>
    obtain ⟨⟨r, hr, hlength⟩, hrest⟩ := List.forall_mem_cons.1 h
    have htail : (l.flatMap (fun p => p.2.flatMap (fun r => r.locs))).length = l.length * n := ih hrest
    simp only [planLocs, List.flatMap_cons, List.length_append, htail, hr, List.flatMap_nil, List.append_nil, hlength,
      List.length_cons, Nat.succ_mul, Nat.add_comm]

/-- The bytes of the accesses, each read as a number and written again. -/
theorem OneAccess.data_eq {n : Nat} {l : List (Nat × List Req)} (h : OneAccess n l) (w : Work) :
    l.flatMap (fun p => leBytes n ((p.2.map w.reqBits).headD 0)) = (planLocs l).map w.byte := by
  rw [planLocs, List.map_flatMap, List.flatMap_def, List.flatMap_def]
  refine congrArg List.flatten (List.map_congr_left fun p hp => ?_)
  obtain ⟨r, hr, rfl⟩ := h p hp
  have hbytes := leBytes_leNat (r.locs.map w.byte)
  rw [List.length_map] at hbytes
  simpa [hr, Work.reqBits] using hbytes

/-! ### What a load of the weight buffer leaves (10 R244, R250) -/

theorem putBytes_m (bs : List Byte) (w : Work) (loc : Nat) : (w.putBytes loc bs).m = w.m := by
  induction bs generalizing w loc with
  | nil => rfl
  | cons b bs ih => exact ih _ _

theorem putBytes_base (bs : List Byte) (w : Work) (loc : Nat) : (w.putBytes loc bs).base = w.base := by
  induction bs generalizing w loc with
  | nil => rfl
  | cons b bs ih => exact ih _ _

@[simp] theorem countRemote_byte (w : Work) (l : List Nat) : (w.countRemote l).byte = w.byte := by
  unfold Work.countRemote; split <;> rfl

@[simp] theorem countRemote_base (w : Work) (l : List Nat) : (w.countRemote l).base = w.base := by
  unfold Work.countRemote; split <;> rfl

@[simp] theorem countRemote_cores (w : Work) (l : List Nat) : (w.countRemote l).m.cores = w.m.cores := by
  unfold Work.countRemote; split <;> rfl

@[simp] theorem scrub_base (w : Work) (x : Nat) : (w.scrub x).base = w.base := by
  unfold Work.scrub; dsimp only; split <;> rfl

theorem scrubs_base (l : List Nat) (w : Work) : (l.foldl (fun w x => w.scrub x) w).base = w.base := by
  induction l generalizing w with
  | nil => rfl
  | cons x l ih => exact (ih _).trans (scrub_base w x)

theorem clearPoisons_cores (l : List Nat) (line : Nat → Nat) (m : Mach) :
    (l.foldl (fun m i => m.clearPoison (line i)) m).cores = m.cores := by
  induction l generalizing m with
  | nil => rfl
  | cons x l ih => exact ih (m.clearPoison (line x))

/-- The lines that the accesses `l` of `wbld` read scrubbed, and their bytes written at offset b of the weight buffer. -/
def Work.weightBytes (w : Work) (b : Nat) (l : List (Nat × List Req)) : Work :=
  (((planLocs l).foldl (fun w x => w.scrub x) w).putBytes (wbLoc (coreOf w.m.cur) b)
    (l.flatMap (fun p => leBytes 64 ((p.2.map w.reqBits).headD 0)))).countRemote (planLocs l)

/-- What the accesses `l` of `wbld`, all of which passed their checks, leave: the bytes written at offset b of the weight buffer, the
lines written whole without poison and without marks. -/
def Work.weightsLoaded (w : Work) (b : Nat) (l : List (Nat × List Req)) : Work :=
  let core := coreOf w.m.cur
  let m := (List.range 32).foldl (fun m i => m.clearPoison (lineOf (wbLoc core b) + i)) (w.weightBytes b l).m
  let c := m.core core
  let marks := c.marks.filter (fun n => !(decide (b / 64 ≤ n) && decide (n < b / 64 + 32)))
  { w.weightBytes b l with m := m.setCore core ({ c with marks := marks }).touched }

/-- `wbld` whose checks pass. -/
theorem wbld_loads {w : Work} {src : TileSrc} {l : List (Nat × List Req)} (hlimit : w.limit = none) (hmade : w.made = [])
    (hsource : src.opa.toNat % 64 = 0) (hdest : src.opb.toNat % 64 = 0) (hrange : src.opb.toNat + 2048 ≤ 0x40000)
    (hplan : planAll (fun e => (w.req (src.opa + BitVec.ofNat 64 (64 * e)) 64 false false).map (fun r => [r])) (List.range 32) =
      (l, none))
    (hread : readable w.m (planLocs l) = .ok ())
    (hfree : ∀ i < 2048, w.m.ownedBefore src.since (wbLoc (coreOf w.m.cur) (src.opb.toNat + i) / 64) = false)
    (hkept : lostAddr src.lost false l = none) (hgood : firstPoison w.m l = none) :
    w.wbld src = .ok (w.weightsLoaded src.opb.toNat l) := by
  have hwritable : ((List.range 2048).map (fun i => wbLoc (coreOf w.m.cur) (src.opb.toNat + i))).any
      (fun x => w.m.ownedBefore src.since (lineOf x)) = false := by
    simpa only [List.any_map, List.any_eq_false, List.mem_range, Function.comp_def, lineOf, Bool.not_eq_true] using hfree
  have hroom : ¬0x40000 < src.opb.toNat + 2048 := Nat.not_lt.2 hrange
  simp only [Work.wbld, hsource, hdest, hroom, ne_eq, not_true, if_false, hplan, hwritable, Bool.false_eq_true,
    ahead_whole hmade, mayRead_of_readable hread, hkept, hgood, bind, Except.bind, readPlan_whole l hlimit hmade,
    List.flatMap_map, Work.weightsLoaded, Work.weightBytes]

theorem weightsLoaded_base (w : Work) (b : Nat) (l : List (Nat × List Req)) : (w.weightsLoaded b l).base = w.base := by
  unfold Work.weightsLoaded Work.weightBytes
  dsimp only
  rw [countRemote_base, putBytes_base, scrubs_base]

/-- The bytes read stand in the weight buffer from offset b on, and every other byte is as it was. -/
theorem byte_weightsLoaded {l : List (Nat × List Req)} (h : OneAccess 64 l) (w : Work) (b x : Nat) :
    (w.weightsLoaded b l).byte x =
      if wbLoc (coreOf w.m.cur) b ≤ x ∧ x < wbLoc (coreOf w.m.cur) b + (planLocs l).length then
        ((planLocs l).map w.byte).getD (x - wbLoc (coreOf w.m.cur) b) 0
      else w.byte x := by
  have hbytes : (w.weightsLoaded b l).byte x = (w.weightBytes b l).byte x := by
    unfold Work.byte Work.weightsLoaded
    dsimp only
  rw [hbytes, Work.weightBytes, countRemote_byte, byte_putBytes, h.data_eq, List.length_map, (scrubs_keep (planLocs l) w).2.2]

/-- Byte i read stands at offset b + i. -/
theorem byte_weightsLoaded_read {l : List (Nat × List Req)} (h : OneAccess 64 l) (w : Work) (b : Nat) {i : Nat}
    (hi : i < (planLocs l).length) :
    (w.weightsLoaded b l).byte (wbLoc (coreOf w.m.cur) (b + i)) = w.byte ((planLocs l).getD i 0) := by
  have hplace : wbLoc (coreOf w.m.cur) (b + i) = wbLoc (coreOf w.m.cur) b + i := (Nat.add_assoc _ _ _).symm
  rw [byte_weightsLoaded h, hplace, if_pos (by omega), Nat.add_sub_cancel_left]
  simp only [List.getD_eq_getElem?_getD, List.getElem?_map, List.getElem?_eq_getElem hi, Option.map_some, Option.getD_some]

/-- A byte outside the bytes written is as it was. -/
theorem byte_weightsLoaded_other {l : List (Nat × List Req)} (h : OneAccess 64 l) (w : Work) (b : Nat) {x : Nat}
    (hx : x < wbLoc (coreOf w.m.cur) b ∨ wbLoc (coreOf w.m.cur) b + (planLocs l).length ≤ x) :
    (w.weightsLoaded b l).byte x = w.byte x := by
  rw [byte_weightsLoaded h, if_neg (by omega)]

/-- The running core has lost the marks of the 32 lines from offset b on. -/
theorem weightsLoaded_core (w : Work) (b : Nat) (l : List (Nat × List Req)) :
    (w.weightsLoaded b l).m.core (coreOf w.m.cur) = ({ w.core with
      marks := w.core.marks.filter (fun n => !(decide (b / 64 ≤ n) && decide (n < b / 64 + 32))) }).touched := by
  have hbytes : (w.weightBytes b l).m.cores = w.m.cores := by
    rw [Work.weightBytes, countRemote_cores, putBytes_m, (scrubs_cores (planLocs l) w).1]
  have hcore : ((List.range 32).foldl (fun m i => m.clearPoison (lineOf (wbLoc (coreOf w.m.cur) b) + i))
      (w.weightBytes b l).m).core (coreOf w.m.cur) = w.core := by
    rw [Mach.core, clearPoisons_cores, hbytes]
    rfl
  rw [Work.weightsLoaded]
  dsimp only
  rw [core_setCore_self, hcore]

/-- The marks of the lines from offset b on are cleared, and no other. -/
theorem mem_marks_weightsLoaded (w : Work) (b n : Nat) (l : List (Nat × List Req)) :
    n ∈ ((w.weightsLoaded b l).m.core (coreOf w.m.cur)).marks ↔ n ∈ w.core.marks ∧ (n < b / 64 ∨ b / 64 + 32 ≤ n) := by
  rw [weightsLoaded_core, Core.touched, List.mem_filter]
  simp only [Bool.not_eq_true', Bool.and_eq_false_iff, decide_eq_false_iff_not, Nat.not_le, Nat.not_lt]

/-! ### A word that completes -/

/-- A completed word leaves the bytes that its meaning left. -/
theorem memGet_completed {s : State} {w : Work} (i : Instr) (hmem : s.MemOk) (hbase : w.base = s.mem) (x : Nat) :
    memGet (completed i s w).mem x = w.byte x := by
  rw [completed, finish_mem, retire_ws, memGet_applyWrs hmem, Work.byte, hbase]

/-- Writes break links in slots, and change no core. -/
theorem wrote_cores (m : Mach) (ws : List Wr) : (m.wrote ws).cores = m.cores := by
  unfold Mach.wrote; split <;> rfl

/-- A completed word leaves the cores as its meaning left them. -/
theorem completed_core (i : Instr) (s : State) (w : Work) (k : Nat) : (completed i s w).toMach.core k = w.m.core k := by
  obtain ⟨⟨slots, ctx, hm⟩, -⟩ := retire_m w i s.work.s
  rw [completed, finish_toMach, Mach.core, wrote_cores, hm]
  rfl

/-! ### The weight format and the checksum counters (10 R246, R258, R262) -/

/-- A legal weight format. -/
theorem weightFormat_of_legal {v : Word} (helt : v.toNat % 4 ≠ 3) (hcmp : v.toNat / 4 % 4 ≠ 3)
    (hnsel : v.toNat / 16 % 4 = 0 ∨ v.toNat / 4 % 4 = 1) (hsmall : v.toNat < 64) :
    weightFormat v = some { elt := v.toNat % 4, cmp := v.toNat / 4 % 4, nsel := v.toNat / 16 % 4 } := by
  unfold weightFormat
  simp only [bitsN, Nat.reducePow, Nat.div_one]
  exact if_neg (by omega)

/-- `wbfmt` of a legal weight format. -/
theorem bodyWbfmt_of_legal {a : Reg} {w : Work} {f : WeightFormat} (h : weightFormat (w.x a.val) = some f) :
    bodyWbfmt a w = .ok (w.setCore { w.core with elt := f.elt, cmp := f.cmp, nsel := f.nsel }) := by
  rw [bodyWbfmt, Work.wbfmt, h]

/-- `tchk` of 0 or 1. -/
theorem bodyTchk_of_lt {a : Reg} {w : Work} (h : (w.x a.val).toNat < 2) :
    bodyTchk a w = .ok (w.setCore { w.core with cen := (w.x a.val).toNat == 1 }) := by
  have hfield : bitsN (w.x a.val) 1 63 = 0 := by simp only [bitsN]; omega
  have hbit : bitB (w.x a.val) 0 = ((w.x a.val).toNat == 1) := by
    rw [bitB, BitVec.getLsbD, Nat.testBit_zero]
    rcases (by omega : (w.x a.val).toNat = 0 ∨ (w.x a.val).toNat = 1) with h | h <;> rw [h] <;> rfl
  simp only [bodyTchk, hfield, hbit, ne_eq, not_true, if_false]

/-- Settles O40: the tile group by its owner; `wbld` by what its accesses leave, the other words each by their work. -/
theorem tileClaimAndWeights : Obligations.TileClaimAndWeights := by
  refine ⟨fun s w st => ?_, fun s w st a b l => ?_⟩
  · intro k
    refine ⟨fun hbegins hfree => ⟨exec_of_runs ⟨rfl, bodyTen_free hfree⟩ hbegins, ?_, ?_, ?_,
        fun off => byte_claimTile w w.m.cur⟩,
      fun hbegins howner => exec_of_runs ⟨rfl, bodyTen_owned howner⟩ hbegins,
      fun hbegins o howner hother => issue_traps hbegins rfl (.inl rfl) rfl (bodyTen_other howner hother),
      fun hbegins h => exec_of_runs ⟨rfl, bodyTdis_releases h⟩ hbegins,
      fun hbegins hruns howner => issue_waits hbegins (bodyTdis_waits hruns howner),
      releaseTile_owner, releaseTile_of_other⟩
    · rw [claimTile_core]
    · rw [claimTile_core]
    · exact fun t => by rw [claimTile_core]; rfl
  · intro k off v c
    refine ⟨?_, ?_, ?_, ?_⟩
    · intro hbegins hsource hdest hrange hplan hread hfree hkept hgood hmem
      obtain ⟨hlimit, hmade⟩ := begins_whole hbegins
      obtain ⟨hw, hwindow⟩ := begins_of_scalar hbegins rfl
      rw [← tileSrc_lost hwindow a b] at hkept
      have hloads : bodyWbld a b w = .ok (w.weightsLoaded off l) :=
        wbld_loads hlimit hmade hsource hdest hrange hplan hread hfree hkept hgood
      have haccess : OneAccess 64 l := oneAccess_of_plan hplan
      have hlength : (planLocs l).length = 2048 := by
        rw [haccess.planLocs_length, (planAll_passes hplan).1, List.length_range]
      have hbase : (w.weightsLoaded off l).base = s.mem := by rw [weightsLoaded_base, hw]; rfl
      refine ⟨hlength, _, exec_of_runs ⟨rfl, hloads⟩ hbegins, fun i hi => ?_, fun x hx => ?_, fun n => ?_⟩
      · exact (memGet_completed _ hmem hbase _).trans (byte_weightsLoaded_read haccess w off (hlength ▸ hi))
      · exact (memGet_completed _ hmem hbase x).trans (byte_weightsLoaded_other haccess w off (hlength ▸ hx))
      · rw [completed_core]
        exact mem_marks_weightsLoaded w off n l
    · intro hbegins helt hcmp hnsel hsmall
      exact exec_of_runs ⟨rfl, bodyWbfmt_of_legal (weightFormat_of_legal helt hcmp hnsel hsmall)⟩ hbegins
    · exact fun hbegins hv => exec_of_runs ⟨rfl, bodyTchk_of_lt hv⟩ hbegins
    · exact exec_of_runs ⟨rfl, rfl⟩

end Sys2Proof.Machine
end

section
/-! The queue of matrix commands. -/

namespace Sys2Proof.Machine

/-! ### The command at the head of a queue (09 R217, R241, R242) -/

/-- The work as slot n runs. -/
def Work.runAs (w : Work) (n : Nat) : Work := { w with m := { w.m with cur := n } }

/-- What an operation of the queue of the running slot's core is given: the command's operands, and the formats of the slot now. -/
def Work.commandSrc (w : Work) (q : MatrixCommand) : TileSrc :=
  { own := false, fmt := w.fmt, slc := w.s.ctl.slc.toNat, rm := w.rm, opa := q.opa, opb := q.opb,
    since := w.m.pkg.nextCopy, lost := [] }

/-- A core's queue cut down to `rest`, and then the core changed by f. -/
def Work.headTaken (w : Work) (core : Nat) (rest : List MatrixCommand) (f : Core → Core) : Work :=
  let c : Core := { w.m.core core with queue := rest }
  { w with m := (w.m.setCore core c).setCore core (f c) }

section
variable {w : Work} {core n : Nat} {q : MatrixCommand} {rest : List MatrixCommand} {i : Instr}

/-- A command that is no legal one is discarded with ILLEGAL. -/
theorem acceptCommand_illegal (howner : (w.m.core core).owner = some n) (hqueue : (w.m.core core).queue = q :: rest)
    (hword : commandInstr q.word = none) :
    acceptCommand core w = .ok (w.headTaken core rest (fun c => c.commandDone (some cILLEGAL))) := by
  simp only [acceptCommand, howner, hqueue, hword, core_setCore_self, Work.headTaken]

/-- A command that the tile unit turns away is discarded with the cause. -/
theorem acceptCommand_refused {t : Trap} (howner : (w.m.core core).owner = some n) (hqueue : (w.m.core core).queue = q :: rest)
    (hword : commandInstr q.word = some i) (hfault : (w.runAs n).offerFault i ((w.runAs n).commandSrc q) q.word = some t) :
    acceptCommand core w = .ok (w.headTaken core rest (fun c => c.commandDone (some t.cause))) := by
  unfold Work.runAs Work.commandSrc at hfault
  simp only [acceptCommand, howner, hqueue, hword, hfault, core_setCore_self, Work.headTaken]

/-- A command that the tile unit takes stands behind the operations that it has accepted. -/
theorem acceptCommand_accepts (howner : (w.m.core core).owner = some n) (hqueue : (w.m.core core).queue = q :: rest)
    (hword : commandInstr q.word = some i) (hoffer : (w.runAs n).offerFault i ((w.runAs n).commandSrc q) q.word = none) :
    acceptCommand core w = .ok (w.headTaken core rest (fun c => { c with tileOps := c.tileOps ++
      [{ bySeq := false, instr := i, word := q.word, src := (w.runAs n).commandSrc q, ksteps := q.ksteps, arrivals := 0,
         mismatched := false, consumed := [], after := (w.runAs n).s.tilePlace }] })) := by
  unfold Work.runAs Work.commandSrc at hoffer
  simp only [acceptCommand, howner, hqueue, hword, hoffer, Work.acceptTile, core_setCore_self, Work.headTaken, Work.runAs,
    Work.commandSrc]

end

/-- Settles O41: the command at the head of the queue by whether it is legal, and whether the tile unit takes its operation. -/
theorem matrixCommands : Obligations.MatrixCommands := by
  intro s core n q rest howner hqueue w1 src c after turnedAway
  exact ⟨fun hword => event_ok (acceptCommand_illegal howner hqueue hword),
    fun i hword => ⟨fun t hfault => event_ok (acceptCommand_refused howner hqueue hword hfault),
      fun hoffer => event_ok (acceptCommand_accepts howner hqueue hword hoffer)⟩⟩

end Sys2Proof.Machine
end

section
/-! The split-precision tile product: `tmf64` over a pair of tile registers. -/

namespace Sys2Proof.Machine

/-! ### What fetching the A operand leaves as it was -/

/-- Fetching the A operand scrubs the lines of its bytes. -/
theorem aRead_eq_scrubs (w : Work) (lsp col wide : Bool) (size k : Nat) (src : TileSrc) :
    w.aRead lsp col wide size k src =
      ((w.aBlockBytes lsp col wide size k src).map (fun b => b.loc)).foldl (fun w x => w.scrub x) w :=
  List.foldl_map.symm

theorem aRead_s (w : Work) (lsp col wide : Bool) (size k : Nat) (src : TileSrc) :
    (w.aRead lsp col wide size k src).s = w.s := by
  rw [aRead_eq_scrubs, scrubs_s]

theorem enabledRows_aRead (w : Work) (lsp col wide : Bool) (size k : Nat) (src : TileSrc) (pr : Nat) :
    (w.aRead lsp col wide size k src).enabledRows pr = w.enabledRows pr := by
  rw [Work.enabledRows, aRead_s, Work.enabledRows]

theorem enabledCols_aRead (w : Work) (lsp col wide : Bool) (size k : Nat) (src : TileSrc) (pr : Nat) :
    (w.aRead lsp col wide size k src).enabledCols pr = w.enabledCols pr := by
  rw [Work.enabledCols, aRead_s, Work.enabledCols]

/-- Bytes in a row are read one by one. -/
theorem bytes_of_byte {v w : Work} (h : v.byte = w.byte) (loc n : Nat) : v.bytes loc n = w.bytes loc n := by
  induction n generalizing loc with
  | zero => rfl
  | succ n ih => rw [Work.bytes, Work.bytes, h, ih]

/-- The weight buffer reads after the A operand is fetched as it did before. -/
theorem wbNum_aRead (w : Work) (lsp col wide : Bool) (size k : Nat) (src : TileSrc) :
    (w.aRead lsp col wide size k src).wbNum = w.wbNum := by
  let locs := (w.aBlockBytes lsp col wide size k src).map (fun b => b.loc)
  obtain ⟨-, -, hbyte⟩ := scrubs_keep locs w
  obtain ⟨-, hcur⟩ := scrubs_cores locs w
  funext off n
  rw [aRead_eq_scrubs, Work.wbNum, Work.num, hcur, bytes_of_byte hbyte, Work.wbNum, Work.num]

/-! ### Factors and cells (10 R255, R256) -/

/-- The four f64 factors of one row or column of a K-block, from their element bits. -/
def splitFactors (num : Nat → Nat) : List FVal := (List.range 4).map (fun j => fDecode f64 (num j))

/-- The cell of an accumulator pair, from the factors in its row of A and in its column of B. -/
def Work.splitCellOf (w : Work) (src : TileSrc) (t row col : Nat) (av bv : List FVal) : Cell :=
  splitCell src.slc src.rm (w.acc t row col + 2 ^ 32 * w.acc (t + 1) row col) av bv (topExp av) (topExp bv)
    (av.map (slices src.slc (topExp av))) (bv.map (slices src.slc (topExp bv)))

/-- What a split-precision product leaves whose rows are not checked: of every enabled cell the low half of its result in tile
register t and the high half in t + 1, and the flags of all of them ORed. -/
def Work.splitAccumulated (w : Work) (t pr : Nat) (cell : Nat → Nat → Cell) : Work :=
  let all := (w.enabledRows pr).flatMap (fun r => (w.enabledCols pr).map (fun c => (r * 64 + c, cell r c)))
  (((w.setCore { w.core with unchk := min 0xFFFF w.core.unchk }).putAcc t (all.map (fun x => (x.1, x.2.res % 2 ^ 32)))).putAcc
    (t + 1) (all.map (fun x => (x.1, x.2.res / 2 ^ 32)))).orFlags (all.foldl (fun a x => a ||| x.2.flags) 0)

theorem lt_of_mem_enabledCols {w : Work} {pr col : Nat} (h : col ∈ w.enabledCols pr) : col < 64 :=
  List.mem_range.1 (List.mem_filter.1 h).1

/-- Only the cells of the 64 columns count. -/
theorem splitAccumulated_congr (w : Work) (t pr : Nat) {cell cell' : Nat → Nat → Cell}
    (h : ∀ row, ∀ col < 64, cell row col = cell' row col) : w.splitAccumulated t pr cell = w.splitAccumulated t pr cell' := by
  have hcells (row : Nat) : (w.enabledCols pr).map (fun col => (row * 64 + col, cell row col)) =
      (w.enabledCols pr).map (fun col => (row * 64 + col, cell' row col)) :=
    List.map_congr_left fun col hcol => by rw [h row col (lt_of_mem_enabledCols hcol)]
  simp only [Work.splitAccumulated, hcells]

/-- The factors of a column, taken from the table of all 256 elements of a K-block of 4. -/
theorem splitFactors_table (num : Nat → Nat) {col : Nat} (hcol : col < 64) :
    splitFactors (fun j => ((List.range 256).map num).toArray.getD (j * 64 + col) 0) =
      splitFactors (fun j => num (j * 64 + col)) :=
  List.map_congr_left fun j hj => by
    have hrow : j < 4 := List.mem_range.1 hj
    have hentry : j * 64 + col < 256 := by omega
    simp [hentry]

/-! ### The operation -/

/-- `tmf64` whose operands pass their checks, the row checksums off, adds a K-block of 4. -/
theorem tmf64_accumulates {w : Work} {src : TileSrc} {t pr : Nat} {a : Reg} {l o : Bool} (hlimit : w.limit = none)
    (hmade : w.made = []) (hA : w.checkA src l o true 2048 = .ok ()) (hB : w.wbBlock src.opb 2048 = .ok ())
    (hready : w.operandsReady src (w.aBlockBytes l o true 8 4 src) (offsets src.opb.toNat 2048) = .ok ())
    (hcen : w.core.cen = false) :
    w.tmf64 src t pr a l o =
      .ok ((w.aRead l o true 8 4 src).splitAccumulated t pr (fun row col => w.splitCellOf src t row col
        (splitFactors fun j => (w.aNums l o true 8 4 src a).getD (j * 64 + row) 0)
        (splitFactors fun j => w.wbNum (src.opb.toNat + (j * 64 + col) * 8) 8))) := by
  let num (e : Nat) : Nat := w.wbNum (src.opb.toNat + e * 8) 8
  let aFactors (row : Nat) : List FVal := splitFactors fun j => (w.aNums l o true 8 4 src a).getD (j * 64 + row) 0
  have hcore := aRead_core w l o true 8 4 src
  have hsums : (w.aRead l o true 8 4 src).core.cen = false := by rw [hcore, hcen]
  have htable : w.tmf64 src t pr a l o = .ok ((w.aRead l o true 8 4 src).splitAccumulated t pr (fun row col =>
      w.splitCellOf src t row col (aFactors row)
        (splitFactors fun j => ((List.range 256).map num).toArray.getD (j * 64 + col) 0))) := by
    simp only [Work.tmf64, hA, hB, hready, aTable_whole hlimit hmade, bind, Except.bind, productDone_stores (.inl hsums),
      wbNum_aRead, Work.acc, Work.tile, hcore, Work.splitAccumulated, Work.splitCellOf, splitFactors, aFactors, num,
      List.flatMap_map, List.map_map, Function.comp_def]
  rw [htable]
  exact congrArg Except.ok (splitAccumulated_congr _ t pr fun row col hcol =>
    congrArg (w.splitCellOf src t row col (aFactors row)) (splitFactors_table num hcol))

/-- Settles O38: `Work.tmf64` past its checks, with every cell written out. -/
theorem splitPrecision : Obligations.SplitPrecision := by
  intro s w st p t a b l o src off at_ read n av bv cell all w1 hbegins hA hB hready hcen
  obtain ⟨hlimit, hmade⟩ := begins_whole hbegins
  have hstored : read.splitAccumulated t.val p.val cell = ((w1.putAcc t.val (all.map (fun x => (x.1, x.2.res % 2 ^ 32)))).putAcc
      (t.val + 1) (all.map (fun x => (x.1, x.2.res / 2 ^ 32)))).orFlags (all.foldl (fun a x => a ||| x.2.flags) 0) := by
    simp only [Work.splitAccumulated, read, aRead_core, enabledRows_aRead, enabledCols_aRead]
    rfl
  rw [← hstored]
  exact exec_of_runs ⟨rfl, tmf64_accumulates hlimit hmade hA hB hready hcen⟩ hbegins

end Sys2Proof.Machine
end

section
/-! Copies: their issue, the acceptance of their destination lines, and their completion point. -/

namespace Sys2Proof.Machine

/-! ### Copies in their engines -/

/-- A change of every entry of a table that leaves the default alone. -/
theorem tabGet_map {α : Type} {d : α} {f : α → α} (hd : f d = d) (t : Tab α) (n : Nat) :
    tabGet d (t.map (fun e => (e.1, f e.2))) n = f (tabGet d t n) := by
  induction t with
  | nil => exact hd.symm
  | cons p t ih =>
    simp only [List.map_cons, tabGet]
    split
    · rfl
    · exact ih

@[simp] theorem engine_mapCopies (m : Mach) (f : Copy → Copy) (k : Nat) :
    (m.mapCopies f).engine k = { cmds := (m.engine k).cmds.map f } :=
  tabGet_map (d := Engine.reset) (f := fun e => { cmds := e.cmds.map f }) rfl m.engines k

@[simp] theorem engine_breakLinks (m : Mach) (hit : Nat → Bool) (k : Nat) : (m.breakLinks hit).engine k = m.engine k := rfl

/-- Where the commands of a number are replaced by `new`, each command of that number is `new`. -/
theorem eq_of_mem_map_ident {l : List Copy} {ident : Nat} {new x : Copy}
    (hx : x ∈ l.map (fun y => if y.ident = ident then new else y)) (hident : x.ident = ident) : x = new := by
  obtain ⟨y, -, rfl⟩ := List.mem_map.1 hx
  by_cases hy : y.ident = ident
  · exact if_pos hy
  · rw [if_neg hy] at hident
    exact absurd hident hy

/-! ### Issue (11 R264 to R268) -/

theorem performed_of_none {w : Work} (h : w.s.unit.remoteOut = 0) : w.performed = .ok () := if_neg (not_not_intro h)

/-- The command in its engine, xd at the pending mark, and its token awaited there (11 R264, R267). -/
def Work.copyGiven (w : Work) (c : Copy) (d : Reg) : Work :=
  let given := (w.toEngine c).setX d.val 0xFFFFFFFFFFFFFFFF
  given.mapThr (fun t => { t with pend := t.pend ++ [{ sup := inBank given.s.regs.level d.val, reg := d.val, ident := c.ident }] })

/-- A copy whose command passes its checks gives it to the engine, and the command takes its issue point. -/
theorem issueCopy_claims {w w1 w' : Work} {d : Reg} {i : CopyIn} {c : Copy} (hremote : w.s.unit.remoteOut = 0)
    (hchecks : w.checkCopy (w.newCopy i (w.s.regs.level == .supervisor) d.val false) = .ok (c, w1))
    (hclaim : claimCopy (c.atIssue w1.m) (w1.copyGiven (c.atIssue w1.m) d) = .ok w') : w.issueCopy d i = .ok w' := by
  simp only [Work.issueCopy, performed_of_none hremote, hchecks, bind, Except.bind]
  exact hclaim

/-! ### Acceptance (11 R264, R270, R271) -/

/-- A command whose destination bytes all have their place, on lines that it owns or can take, is accepted and owns them. -/
theorem claimCopy_accepts {c : Copy} {w w1 : Work} {p : Placing} (hbytes : c.empty = false) (hsound : c.doomed = none)
    (hplacing : c.placing c.placedPieces w = (p, w1)) (hplaced : p.misses = [])
    (hlines : ∀ l ∈ p.lines, l ∈ c.lines ∨ w1.takes c.ident l = true) :
    ∃ w', claimCopy c w = .ok w' ∧ ∀ k, ∀ x ∈ (w'.m.engine k).cmds, x.ident = c.ident →
      x.accepted = true ∧ ∀ l ∈ p.lines, l ∈ x.lines := by
  have htakes : ∀ l ∈ p.lines.eraseDups.filter (fun l => !c.lines.contains l), w1.takes c.ident l = true := by
    intro l hl
    obtain ⟨hmem, hnew⟩ := List.mem_filter.1 hl
    exact (hlines l (List.mem_eraseDups.1 hmem)).resolve_left (by simpa using hnew)
  have hgot := List.filter_eq_self.2 htakes
  have hwants : (p.lines.eraseDups.filter (fun l => !c.lines.contains l)).filter (fun l => !w1.takes c.ident l) = [] :=
    List.filter_eq_nil_iff.2 fun l hl => by simp [htakes l hl]
  simp only [claimCopy, hbytes, hsound, hplacing, hplaced, hgot, hwants, List.map_nil, List.findSome?_nil, Option.isSome_none,
    Bool.false_eq_true, if_false]
  refine ⟨_, rfl, fun k x hx hident => ?_⟩
  simp only [engine_breakLinks, engine_mapCopies] at hx
  rw [eq_of_mem_map_ident hx hident]
  refine ⟨rfl, fun l hl => ?_⟩
  by_cases hown : l ∈ c.lines
  · exact List.mem_append_left _ hown
  · exact List.mem_append_right _ (List.mem_filter.2 ⟨List.mem_eraseDups.2 hl, by simpa using hown⟩)

/-- A command that was accepted is not one that trying again has left as it was. -/
theorem not_stuck_of_accepted {c : Copy} {m : Mach}
    (h : ∀ x ∈ (m.engine (clusterOf c.slot)).cmds, x.ident = c.ident → x.accepted = true) : c.stuck m = false := by
  refine List.any_eq_false.2 fun x hx => ?_
  by_cases hident : x.ident = c.ident
  · simp [h x hx hident]
  · simp [hident]

/-- The first of the waiting commands that is accepted ends the engine's turn. -/
theorem acceptFirst_of_accepted {c : Copy} {w w1 : Work} (cs : List Copy) (hclaim : claimCopy c w = .ok w1)
    (h : ∀ x ∈ (w1.m.engine (clusterOf c.slot)).cmds, x.ident = c.ident → x.accepted = true) :
    acceptFirst (c :: cs) w = .ok w1 := by
  simp only [acceptFirst, hclaim, not_stuck_of_accepted h, Bool.false_eq_true, if_false]

/-! ### The follow-on command of a `cpym` (11 R282) -/

section
variable {c : Copy} {m : Mach} {k n : Nat}

theorem enqueue_of_ownerless (htarget : c.target = some k) (howner : (m.core k).owner = none) :
    c.enqueue m = some (.error (cTILE_DISABLED, 4)) := by
  simp only [Copy.enqueue, htarget, howner]

theorem enqueue_of_full (htarget : c.target = some k) (howner : (m.core k).owner = some n) (hfull : 32 ≤ (m.core k).queue.length) :
    c.enqueue m = none := by
  simp only [Copy.enqueue, htarget, howner, hfull, if_true]

theorem enqueue_of_room (htarget : c.target = some k) (howner : (m.core k).owner = some n) (hroom : (m.core k).queue.length < 32) :
    c.enqueue m = some (.ok (m.setCore k { m.core k with queue := (m.core k).queue ++ [{
      word := c.word, opa := c.opa, opb := c.opb, ksteps := kstepsOfWord (m.formatNow k).nsel (m.slot n).ctl.slc.toNat c.word }] })) := by
  simp only [Copy.enqueue, htarget, howner, Nat.not_le.2 hroom, if_false]

end

/-! ### The completion point (11 R269 to R272, R279, R285) -/

/-- A turn of an event that must wait leaves the state as it is. -/
theorem event_wait {f : Work → M Work} {s : State} {why : Waiting} (e : f s.work = .error (.wait why)) : event f s = .next s := by
  simp only [event, e]

theorem copyCompletion_ok {cluster ident : Nat} {s : State} {w : Work} (h : completeCopy cluster ident s.work = .ok w) :
    exec (.copyCompletion cluster ident) s = .next (w.finish s) := event_ok h

theorem copyCompletion_wait {cluster ident : Nat} {s : State} {why : Waiting}
    (h : completeCopy cluster ident s.work = .error (.wait why)) : exec (.copyCompletion cluster ident) s = .next s := event_wait h

/-- Where every image can take the token, a copy that has failed leaves its engine. -/
theorem failNow_of_free {w : Work} {c : Copy} (h : c.imageBusy w = false) (cause detail off : Nat) (addr : Word) :
    w.failNow c cause detail off addr = .ok (w.failCopy c cause detail off addr) := by
  simp only [Work.failNow, h, Bool.false_eq_true, if_false]

section
variable {cluster ident : Nat} {c : Copy} {w : Work}
  (hfound : (w.m.engine cluster).cmds.find? (fun c => c.ident = ident) = some c)
include hfound

theorem completeCopy_cancelled (hcancelled : c.cancelled = true) (hfree : c.imageBusy w = false) :
    completeCopy cluster ident w = .ok (w.failCopy c cCANCELLED 0 0 (c.p 0)) := by
  simp only [completeCopy, hfound, hcancelled, if_true, failNow_of_free hfree]

theorem completeCopy_refused (hlive : c.cancelled = false) (hrefused : c.failedReq = true) (hfree : c.imageBusy w = false) :
    completeCopy cluster ident w = .ok (w.failCopy c cPAGE_FAULT 0x7F c.asked.1 c.asked.2) := by
  simp only [completeCopy, hfound, hlive, hrefused, Bool.false_eq_true, if_true, if_false, failNow_of_free hfree]

/-- An accepted copy whose owner has changed fails with the cause that the check of its owner names. -/
theorem completeCopy_ownerFault {cause d off : Nat} (hlive : c.cancelled = false) (haccepted : c.accepted = true)
    (hgranted : c.failedReq = false) (hanswered : c.request = none) (hfree : c.imageBusy w = false)
    (howner : c.ownerFaultAtC w.m = some (cause, d, off)) :
    completeCopy cluster ident w = .ok (w.failCopy c cause d off (c.p 0 + BitVec.ofNat 64 off)) := by
  simp [completeCopy, hfound, hlive, haccepted, hgranted, hanswered, howner, failNow_of_free hfree]

end

/-- The copy c, number `ident` in the engine of a cluster, is accepted, alive and owed no page, its destination is still its owner's, and
it need not wait; its pieces write `ws`, with the flags `fl` and the work w1 (11 R270, R271, R279). -/
structure ReachesCompletion (cluster ident : Nat) (c : Copy) (w : Work) (ws : List (Nat × Word × Byte)) (fl : BitVec 5)
    (w1 : Work) : Prop where
  found : (w.m.engine cluster).cmds.find? (fun c => c.ident = ident) = some c
  live : c.cancelled = false
  accepted : c.accepted = true
  granted : c.failedReq = false
  answered : c.request = none
  owned : c.ownerFaultAtC w.m = none
  ready : c.waits w = false
  run : c.run c.placedPieces w = .ok (ws, fl, w1)

section
variable {cluster ident : Nat} {c : Copy} {w w1 : Work} {ws : List (Nat × Word × Byte)} {fl : BitVec 5}
  (h : ReachesCompletion cluster ident c w ws fl w1)
include h

theorem completeCopy_lands (hcode : c.code ≠ 4) : completeCopy cluster ident w = .ok ((w1.landCopy c ws).endCopy c 0 0 fl) := by
  simp [completeCopy, h.found, h.live, h.accepted, h.granted, h.answered, h.owned, h.ready, h.run, hcode]

/-- A `cpym` lands together with its follow-on command, which its core's queue takes. -/
theorem completeCopy_queued {m : Mach} (hcode : c.code = 4) (hqueued : c.enqueue w1.m = some (.ok m)) :
    completeCopy cluster ident w = .ok ((({ w1 with m := m } : Work).landCopy c ws).endCopy c 0 0 0) := by
  simp [completeCopy, h.found, h.live, h.accepted, h.granted, h.answered, h.owned, h.ready, h.run, hcode, hqueued]

theorem completeCopy_queueFull (hcode : c.code = 4) (hfull : c.enqueue w1.m = none) :
    completeCopy cluster ident w = .error (.wait .copyEngine) := by
  simp [completeCopy, h.found, h.live, h.accepted, h.granted, h.answered, h.owned, h.ready, h.run, hcode, hfull]

theorem completeCopy_queueLost {cause d : Nat} (hcode : c.code = 4) (hlost : c.enqueue w1.m = some (.error (cause, d))) :
    completeCopy cluster ident w = .ok (w1.failCopy c cause d 0 (c.p 0)) := by
  simp [completeCopy, h.found, h.live, h.accepted, h.granted, h.answered, h.owned, h.ready, h.run, hcode, hlost]

end

/-- Settles O43: the issue of each copy instruction by the one lemma of `issueCopy`, acceptance by what `claimCopy` leaves, and the
completion point by the outcomes of `completeCopy`. -/
theorem copies : Obligations.Copies := by
  refine ⟨fun s w w1 w' st d a b u t c0 hremote => ?_, fun s cluster ident c cs w1 => ⟨?_, ?_, ?_, ?_, ?_, ?_, ?_⟩⟩
  · intro c w2 tok issued p z ends
    have hends {i : Instr} {x : CopyIn} (hbody : Runs i s w (w.issueCopy d x)) (hbegins : Begins i s w) (hissued : issued x) :
        ends i :=
      exec_of_runs (hbody.trans (issueCopy_claims hremote hissued.1 hissued.2)) hbegins
    exact ⟨hends ⟨rfl, rfl⟩, hends ⟨rfl, rfl⟩, hends ⟨rfl, rfl⟩, hends ⟨rfl, rfl⟩, hends ⟨rfl, rfl⟩,
      hends ⟨rfl, rfl⟩, hends ⟨rfl, rfl⟩, hends ⟨rfl, rfl⟩⟩
  · intro p _ hbytes hsound hplacing hplaced hlines
    obtain ⟨w', hclaim, howned⟩ := claimCopy_accepts hbytes hsound hplacing hplaced hlines
    exact ⟨w', hclaim, howned _⟩
  · intro horder hclaim haccepted
    have haccept : acceptCopy cluster s.work = acceptFirst (c :: cs) s.work := congrArg (acceptFirst · s.work) horder
    exact event_ok (haccept.trans (acceptFirst_of_accepted cs hclaim haccepted))
  · intro hfound hlive haccepted hgranted hanswered howned hcode hready ws fl hrun
    have hreaches : ReachesCompletion cluster ident c s.work ws fl w1 :=
      ⟨hfound, hlive, haccepted, hgranted, hanswered, howned, hready, hrun⟩
    exact copyCompletion_ok (completeCopy_lands hreaches hcode)
  · intro hfound hlive haccepted hgranted hanswered howned hcode hready ws fl k hrun htarget core
    have hreaches : ReachesCompletion cluster ident c s.work ws fl w1 :=
      ⟨hfound, hlive, haccepted, hgranted, hanswered, howned, hready, hrun⟩
    refine ⟨fun howner => ?_, fun n howner hfull => ?_, fun n howner hroom => ?_⟩
    · exact copyCompletion_ok (completeCopy_queueLost hreaches hcode (enqueue_of_ownerless htarget howner))
    · exact copyCompletion_wait (completeCopy_queueFull hreaches hcode (enqueue_of_full htarget howner hfull))
    · exact copyCompletion_ok (completeCopy_queued hreaches hcode (enqueue_of_room htarget howner hroom))
  · intro hfound hlive haccepted hgranted hanswered hfree cause d off howner
    exact copyCompletion_ok (completeCopy_ownerFault (w := s.work) hfound hlive haccepted hgranted hanswered hfree howner)
  · intro hfound hlive hrefused hfree
    exact copyCompletion_ok (completeCopy_refused hfound hlive hrefused hfree)
  · intro hfound hcancelled hfree
    exact copyCompletion_ok (completeCopy_cancelled hfound hcancelled hfree)

end Sys2Proof.Machine
end

section
/-! Scopes, watermark waits and barriers. -/

namespace Sys2Proof.Machine

/-! ### Words whose work waits or traps -/

/-- A word that begins, and whose work waits, leaves its slot waiting. -/
theorem exec_of_wait {i : Instr} {s : State} {w : Work} {why : Waiting} (hruns : Runs i s w (.error (.wait why)))
    (hbegins : Begins i s w) : exec i s = .next (s.await why (some i)) :=
  hruns.1.trans (issue_waits hbegins hruns.2)

/-- A scalar word that begins, is no rendezvous, and whose work raises a cause, takes that trap. -/
theorem exec_of_raise {i : Instr} {s : State} {w v : Work} {cause : Nat} {x : Word} (hruns : Runs i s w (raise v cause x))
    (hcls : (infoOf s.work.s.ctl.fmt i).cls = .scalar) (hlane : isRendezvous s.work.s.ctl.fmt i = false)
    (hcause : cause ≠ cMEMORY_POISON) (hbegins : Begins i s w) :
    exec i s = settle s (some i) (.error (.trap v { cause := cause, acc := 0, stval := x })) :=
  hruns.1.trans (issue_traps hbegins hcls (.inr hcause) hlane hruns.2)

/-- A scalar word that begins, is a rendezvous, and whose work raises a cause, takes that trap with `vstart` 0 (07 R177). -/
theorem exec_of_raise_rendezvous {i : Instr} {s : State} {w v : Work} {cause : Nat} {x : Word}
    (hruns : Runs i s w (raise v cause x)) (hcls : (infoOf s.work.s.ctl.fmt i).cls = .scalar)
    (hlane : isRendezvous s.work.s.ctl.fmt i = true) (hcause : cause ≠ cMEMORY_POISON) (hbegins : Begins i s w) :
    exec i s = settle s (some i) (.error (.trap (v.setVstart 0) { cause := cause, acc := 0, stval := x })) := by
  have hbound : s.work.s.boundSources i = [] := by simp [Slot.boundSources, hcls]
  have hleft : v.atTrap i s.work.s = v.setVstart 0 := by simp [Work.atTrap, hbound, Work.returnStrips, hlane, hcls]
  rw [exec_of_trap hruns hbegins hcause, hleft]

/-! ### Scopes (12 R298, R301, R302) -/

theorem bodyFence_of_performed {k : Fin 8} {w : Work} (h : k.val ≠ 3 ∨ w.s.unit.remoteOut = 0) : bodyFence k w = .ok w :=
  if_neg fun ⟨hsystem, hout⟩ => h.elim (· hsystem) hout

theorem bodyFence_of_outstanding {k : Fin 8} {w : Work} (hsystem : k.val = 3) (hout : w.s.unit.remoteOut ≠ 0) :
    bodyFence k w = .error (.wait .remote) :=
  if_pos ⟨hsystem, hout⟩

/-- An access of the package is still to be performed where one of a slot's unit is. -/
theorem anyRemoteOut_iff {m : Mach} :
    m.slots.any (fun p => p.2.unit.remoteOut != 0) = true ↔ ∃ p ∈ m.slots, p.2.unit.remoteOut ≠ 0 := by
  simp only [List.any_eq_true, bne_iff_ne]

theorem bodyRel_of_performed {k : Fin 8} {w : Work} (h : k.val ≠ 3 ∨ ∀ p ∈ w.m.slots, p.2.unit.remoteOut = 0) :
    bodyRel k w = .ok w :=
  if_neg fun ⟨hsystem, hany⟩ => by
    obtain ⟨p, hp, hout⟩ := anyRemoteOut_iff.1 hany
    exact h.elim (· hsystem) fun hnone => hout (hnone p hp)

theorem bodyRel_of_outstanding {k : Fin 8} {w : Work} (hsystem : k.val = 3) (hout : ∃ p ∈ w.m.slots, p.2.unit.remoteOut ≠ 0) :
    bodyRel k w = .error (.wait .remote) :=
  if_pos ⟨hsystem, anyRemoteOut_iff.2 hout⟩

/-! ### Scalar reads (03 R68) -/

/-- The bytes of a run of places are those of its places one by one. -/
theorem map_byte_span (w : Work) (loc n : Nat) : (span loc n).map w.byte = w.bytes loc n := by
  induction n generalizing loc with
  | zero => rfl
  | succ n ih =>
    rw [Work.bytes, ← ih, span, span, List.range_succ_eq_map]
    simp [Function.comp_def, Nat.add_assoc, Nat.add_comm 1]

/-- A scalar read that passes its checks, of an instruction that makes all its accesses now. -/
theorem load_of_reads {w w1 : Work} {a : Word} {size loc : Nat} (hlimit : w.limit = none) (hmade : w.made = [])
    (hreads : ScalarReads w a size loc w1) : w.load a size = .ok (leNat (w1.bytes loc size), loc, w1.readAt loc size) := by
  obtain ⟨halign, hplace, hreadable, hsound⟩ := hreads
  obtain ⟨hlimit1, hmade1, -⟩ := scalarPlace_sameRun hplace
  have hmade1 := hmade1.trans hmade
  simp only [Work.load, Work.scalar, halign, hplace, hreadable, hsound, liftMiss, past_of_made hmade1,
    read_whole (hlimit1.trans hlimit) hmade1, map_byte_span, Work.readAt, bind, Except.bind, ne_eq, not_true, if_false, if_true,
    Bool.false_eq_true]

/-! ### Watermark waits (03 R78; 12 R309) -/

/-- A producer has neither FAILED nor been CANCELLED, and has passed the bound without a look at its progress word: the bound asks
for nothing of it, or it is no longer live. -/
def Watermark.Passed (k : Watermark) (m : Mach) (bound : Nat) : Prop :=
  k.status m ≠ 3 ∧ k.status m ≠ 4 ∧ (k.need bound ≤ 0 ∨ k.status m ≠ 1)

/-- A watermark that is passed without a read leaves the work as it is. -/
theorem passWatermarks_cons_of_passed {w : Work} {bound : Nat} {k : Watermark} (ks : List Watermark) (h : k.Passed w.m bound) :
    w.passWatermarks bound (k :: ks) = w.passWatermarks bound ks := by
  obtain ⟨hfailed, hcancelled, hpassed⟩ := h
  simp only [Work.passWatermarks, hpassed, hfailed, hcancelled, or_self, if_true, if_false, bind, Except.bind]

theorem passWatermarks_of_passed {w : Work} {bound : Nat} {ks : List Watermark} (h : ∀ k ∈ ks, k.Passed w.m bound) :
    w.passWatermarks bound ks = .ok w := by
  induction ks with
  | nil => rfl
  | cons k ks ih =>
    rw [List.forall_mem_cons] at h
    rw [passWatermarks_cons_of_passed ks h.1, ih h.2]

/-- A watermark of a live producer is passed where the word at its progress address has reached what it needs. -/
theorem passWatermarks_cons_of_reached {w w1 : Work} {bound v loc : Nat} {k : Watermark} (ks : List Watermark)
    (hlive : k.status w.m = 1) (hneed : 0 < k.need bound) (hload : w.load k.addr 8 = .ok (v, loc, w1))
    (hreached : k.need bound ≤ v) : w.passWatermarks bound (k :: ks) = w1.passWatermarks bound ks := by
  simp [Work.passWatermarks, hlive, Int.not_le.2 hneed, hload, hreached, bind, Except.bind]

/-- `wmwait` of a launch that is not cancelled. -/
theorem bodyWmwait_of_live {a : Reg} {w : Work} (h : w.m.cancelledLid w.s.unit.lid = false) :
    bodyWmwait a w = w.passWatermarks (w.x a.val).toNat w.s.unit.wms := by
  simp only [bodyWmwait, h, Bool.false_eq_true, if_false]

/-- Settles O45: `fence` and `rel` by what is outstanding; `wmwait` by its watermarks one after another. -/
theorem scopesAndWatermarks : Obligations.ScopesAndWatermarks := by
  constructor
  · intro s w st k
    exact ⟨fun hbegins h => exec_of_runs ⟨rfl, bodyFence_of_performed h⟩ hbegins,
      fun hbegins hsystem hout => exec_of_wait ⟨rfl, bodyFence_of_outstanding hsystem hout⟩ hbegins,
      exec_of_runs ⟨rfl, rfl⟩, -- acq
      fun hbegins h => exec_of_runs ⟨rfl, bodyRel_of_performed h⟩ hbegins,
      fun hbegins hsystem hout => exec_of_wait ⟨rfl, bodyRel_of_outstanding hsystem hout⟩ hbegins⟩
  · intro s w st a hbegins hlive bound
    refine ⟨fun hpassed => ?_, fun k loc w1 hwms hstatus hneed hreads hreached => ?_⟩
    · exact exec_of_runs ⟨rfl, (bodyWmwait_of_live hlive).trans (passWatermarks_of_passed hpassed)⟩ hbegins
    · obtain ⟨hlimit, hmade⟩ := begins_whole hbegins
      have hpass : w.passWatermarks bound w.s.unit.wms = .ok (w1.readAt loc 8) := by
        rw [hwms, passWatermarks_cons_of_reached [] hstatus hneed (load_of_reads hlimit hmade hreads) hreached]
        rfl
      exact exec_of_runs ⟨rfl, (bodyWmwait_of_live hlive).trans hpass⟩ hbegins

/-! ### The slot of a barrier (12 R304) -/

/-- The address of a number that fits its field stands beside the detail code. -/
theorem detailAddr_of_lt {n : Nat} (detail : Nat) (h : n < 2 ^ 57) :
    detailAddr detail (BitVec.ofNat 64 n) = BitVec.ofNat 64 (n + detail * 2 ^ 57) := by
  rw [detailAddr, BitVec.toNat_ofNat, Nat.mod_eq_of_lt (show n < 2 ^ 64 by omega), Nat.mod_eq_of_lt h, Nat.add_comm]

theorem barrierSlot_of_ours {w : Work} {g : Bool} {c n : Nat} (h : (w.m.barrier (barrierIx g c n)).ctx = some w.s.unit.ctx) :
    w.barrierSlot g c n = .ok (barrierIx g c n, w.m.barrier (barrierIx g c n)) :=
  if_pos h

theorem barrierSlot_of_other {w : Work} {g : Bool} {c n : Nat} (hn : n ≤ 63)
    (h : (w.m.barrier (barrierIx g c n)).ctx ≠ some w.s.unit.ctx) :
    w.barrierSlot g c n = raise w cACCESS_VIOLATION (BitVec.ofNat 64 (n + 12 * 2 ^ 57)) := by
  rw [← detailAddr_of_lt 12 (by omega)]
  exact if_neg h

/-! ### `barinit` (12 R306) -/

theorem bodyBarinit_of_noSlot {a b : Reg} {g : Bool} {w : Work} (h : 63 < (w.x a.val).toNat) :
    bodyBarinit a b g w = raise w cBOUNDS (w.x a.val) :=
  if_pos h

theorem bodyBarinit_of_wide {a b : Reg} {g : Bool} {w : Work} (hn : (w.x a.val).toNat ≤ 63) (h : 2 ^ 32 ≤ (w.x b.val).toNat) :
    bodyBarinit a b g w = raise w cBOUNDS (w.x b.val) :=
  (if_neg (Nat.not_lt.2 hn)).trans (if_pos (by omega))

theorem bodyBarinit_of_other {a b : Reg} {g : Bool} {w : Work} (hn : (w.x a.val).toNat ≤ 63) (h : (w.x b.val).toNat < 2 ^ 32)
    (hother : (w.m.barrier (barrierIx g w.cluster (w.x a.val).toNat)).ctx ≠ some w.s.unit.ctx) :
    bodyBarinit a b g w = raise w cACCESS_VIOLATION (BitVec.ofNat 64 ((w.x a.val).toNat + 12 * 2 ^ 57)) := by
  rw [bodyBarinit, if_neg (Nat.not_lt.2 hn), if_neg (by omega), barrierSlot_of_other hn hother]
  rfl

theorem bodyBarinit_of_ours {a b : Reg} {g : Bool} {w : Work} (hn : (w.x a.val).toNat ≤ 63) (h : (w.x b.val).toNat < 2 ^ 32)
    (hours : (w.m.barrier (barrierIx g w.cluster (w.x a.val).toNat)).ctx = some w.s.unit.ctx) :
    bodyBarinit a b g w =
      let ix := barrierIx g w.cluster (w.x a.val).toNat
      let bar := w.m.barrier ix
      .ok { w with m := w.m.setBarrier ix { bar with expect := (w.x b.val).setWidth 32, arrived := 0, gen := bar.gen + 1 } } := by
  rw [bodyBarinit, if_neg (Nat.not_lt.2 hn), if_neg (by omega), barrierSlot_of_ours hours]
  rfl

/-! ### `bararr` (12 R307) -/

/-- The workers with which the running slot arrives: its active elements whose bit of mb is set. -/
def Work.arriving (w : Work) (b : Reg) : Nat := (w.active.filter (fun e => bitB (w.s.regs.getM b.val) e)).length

/-- The generation in which the last of k arrivals counts. -/
def Barrier.ticket (bar : Barrier) (k : Nat) : BitVec 32 :=
  if bar.expect = 0 ∨ k = 0 then bar.gen else bar.gen + BitVec.ofNat 32 ((bar.arrived.toNat + k - 1) / bar.expect.toNat)

/-- A slot after k arrivals: one generation opens at every EXPECT of them. -/
def Barrier.arrive (bar : Barrier) (k : Nat) : Barrier :=
  if bar.expect = 0 then bar else { bar with
    gen := bar.gen + BitVec.ofNat 32 ((bar.arrived.toNat + k) / bar.expect.toNat),
    arrived := BitVec.ofNat 32 ((bar.arrived.toNat + k) % bar.expect.toNat) }

/-- The value of `barseq` after an arrival at slot n (12 R305). -/
def ticketWord (g : Bool) (cluster n : Nat) (gen : BitVec 32) : Word :=
  BitVec.ofNat 64 (n + 64 * g.toNat + 128 + 256 * (if g then 0 else cluster) + 2 ^ 32 * gen.toNat)

theorem bodyBararr_of_noSlot {a b : Reg} {g : Bool} {w : Work} (h : 63 < (w.x a.val).toNat) :
    bodyBararr a b g w = raise w cBOUNDS (w.x a.val) :=
  if_pos h

theorem bodyBararr_of_other {a b : Reg} {g : Bool} {w : Work} (hn : (w.x a.val).toNat ≤ 63)
    (hother : (w.m.barrier (barrierIx g w.cluster (w.x a.val).toNat)).ctx ≠ some w.s.unit.ctx) :
    bodyBararr a b g w = raise w cACCESS_VIOLATION (BitVec.ofNat 64 ((w.x a.val).toNat + 12 * 2 ^ 57)) := by
  rw [bodyBararr, if_neg (Nat.not_lt.2 hn), barrierSlot_of_other hn hother]
  rfl

/-- `bararr` at a slot of its context arrives there and leaves the ticket. -/
theorem bodyBararr_of_ours {a b : Reg} {g : Bool} {w : Work} (hn : (w.x a.val).toNat ≤ 63)
    (hours : (w.m.barrier (barrierIx g w.cluster (w.x a.val).toNat)).ctx = some w.s.unit.ctx) :
    bodyBararr a b g w =
      let ix := barrierIx g w.cluster (w.x a.val).toNat
      let bar := w.m.barrier ix
      .ok ({ w with m := w.m.setBarrier ix (bar.arrive (w.arriving b)) }.mapCtl (fun c => { c with
        barseq := ticketWord g w.cluster (w.x a.val).toNat (bar.ticket (w.arriving b)), vstart := 0 })) := by
  have hzero (x : BitVec 32) : x.toNat = 0 ↔ x = 0 := BitVec.toNat_inj (y := 0)
  rw [bodyBararr, if_neg (Nat.not_lt.2 hn), barrierSlot_of_ours hours]
  simp only [hzero, Barrier.arrive, Barrier.ticket, ticketWord, Work.arriving, at_, Nat.mul_comm]
  rfl

/-! ### `barwait` (12 R308) -/

/-- The ticket in `barseq` names slot n. -/
def Work.holdsTicket (w : Work) (g : Bool) (n : Nat) : Bool := bitsN w.s.ctl.barseq 0 8 == n + 64 * g.toNat + 128

/-- VALID, SLOT and G of a ticket as the low byte of `barseq` (12 R305). -/
theorem ticket_fields_eq {g : Bool} {n : Nat} (q : Word) (hn : n ≤ 63) :
    (bitB q 7 && bitsN q 0 6 == n && bitB q 6 == g) = (bitsN q 0 8 == n + 64 * g.toNat + 128) := by
  rw [Bool.eq_iff_iff]
  simp only [Bool.and_eq_true, beq_iff_eq, bitB, BitVec.getLsbD, Nat.testBit_eq_decide_div_mod_eq, bitsN_zero, decide_eq_true_eq]
  cases g <;> simp <;> omega

/-- The cluster at whose slot n a `barwait` looks. -/
def Work.waitCluster (w : Work) (g : Bool) (n : Nat) : Nat := if w.holdsTicket g n then bitsN w.s.ctl.barseq 8 6 else w.cluster

/-- The slot at which a `barwait` looks. -/
def Work.awaitedSlot (w : Work) (g : Bool) (n : Nat) : Barrier := w.m.barrier (barrierIx g (w.waitCluster g n) n)

/-- The generation that a `barwait` on a slot waits for: its ticket's, else the one that it read when its wait began, else the
slot's. -/
def Work.waitTarget (w : Work) (g : Bool) (n : Nat) (bar : Barrier) : BitVec 32 :=
  if w.holdsTicket g n then BitVec.ofNat 32 (bitsN w.s.ctl.barseq 32 32) else
    match w.s.unit.waiting with
    | some (.barrier (some t)) => t
    | _ => bar.gen

/-- What a `barwait` on a slot comes to. -/
def Work.awaitGen (w : Work) (g : Bool) (n : Nat) (bar : Barrier) : M Work :=
  if bar.expect = 0 ∨ bar.gen ≠ w.waitTarget g n bar then .ok w
  else .error (.wait (.barrier (if w.holdsTicket g n then none else some (w.waitTarget g n bar))))

theorem bodyBarwait_of_cancelled {a : Reg} {g : Bool} {w : Work} (h : w.m.cancelledLid w.s.unit.lid = true) :
    bodyBarwait a g w = raise w cCANCELLED 0 :=
  if_pos h

theorem bodyBarwait_of_noSlot {a : Reg} {g : Bool} {w : Work} (hlive : w.m.cancelledLid w.s.unit.lid = false)
    (h : 63 < (w.x a.val).toNat) : bodyBarwait a g w = raise w cBOUNDS (w.x a.val) := by
  rw [bodyBarwait, hlive]
  exact if_pos h

/-- `barwait` within its bounds looks at the slot at its cluster. -/
theorem bodyBarwait_of_le {a : Reg} {g : Bool} {w : Work} (hlive : w.m.cancelledLid w.s.unit.lid = false)
    (hn : (w.x a.val).toNat ≤ 63) :
    bodyBarwait a g w =
      w.waitedSlot g (w.waitCluster g (w.x a.val).toNat) (w.x a.val).toNat >>= w.awaitGen g (w.x a.val).toNat := by
  rw [bodyBarwait, hlive]
  simp only [Bool.false_eq_true, if_false, Nat.not_lt.2 hn, ticket_fields_eq _ hn]
  rfl

/-- A package slot, or a cluster below 48, is a slot of the machine. -/
theorem cluster_named {g : Bool} {c : Nat} (hc : g = true ∨ c < 48) : (!g && decide (48 ≤ c)) = false := by
  rcases hc with rfl | hc
  · rfl
  · simp [hc]

/-- A wait that has begun looks at its slot whatever context it is of. -/
theorem waitedSlot_of_waiting {w : Work} {g : Bool} {c n : Nat} {t : Option (BitVec 32)} (hc : g = true ∨ c < 48)
    (h : w.s.unit.waiting = some (.barrier t)) : w.waitedSlot g c n = .ok (w.m.barrier (barrierIx g c n)) := by
  simp only [Work.waitedSlot, cluster_named hc, h, Bool.false_eq_true, if_false]

/-- A `barwait` whose wait has not begun looks at a slot of its context. -/
theorem waitedSlot_of_beginning {w : Work} {g : Bool} {c n : Nat} (hc : g = true ∨ c < 48)
    (h : ¬∃ t, w.s.unit.waiting = some (.barrier t)) : w.waitedSlot g c n = (w.barrierSlot g c n).map (fun p => p.2) := by
  simp only [Work.waitedSlot, cluster_named hc, Bool.false_eq_true, if_false]
  split
  · rename_i t ht
    exact absurd ⟨t, ht⟩ h
  · rfl

theorem waitedSlot_of_open {w : Work} {g : Bool} {c n : Nat} (hc : g = true ∨ c < 48)
    (h : (w.m.barrier (barrierIx g c n)).ctx = some w.s.unit.ctx ∨ ∃ t, w.s.unit.waiting = some (.barrier t)) :
    w.waitedSlot g c n = .ok (w.m.barrier (barrierIx g c n)) := by
  by_cases hwaiting : ∃ t, w.s.unit.waiting = some (.barrier t)
  · obtain ⟨t, ht⟩ := hwaiting
    exact waitedSlot_of_waiting hc ht
  · rw [waitedSlot_of_beginning hc hwaiting, barrierSlot_of_ours (h.resolve_right hwaiting)]
    rfl

theorem waitedSlot_of_other {w : Work} {g : Bool} {c n : Nat} (hn : n ≤ 63) (hc : g = true ∨ c < 48)
    (h : (w.m.barrier (barrierIx g c n)).ctx ≠ some w.s.unit.ctx) (hbeginning : ¬∃ t, w.s.unit.waiting = some (.barrier t)) :
    w.waitedSlot g c n = raise w cACCESS_VIOLATION (BitVec.ofNat 64 (n + 12 * 2 ^ 57)) := by
  rw [waitedSlot_of_beginning hc hbeginning, barrierSlot_of_other hn h]
  rfl

/-- A `barwait` within its bounds, at a cluster that exists, waits at its slot where the slot is its context's or the wait has
begun. -/
theorem bodyBarwait_of_open {a : Reg} {g : Bool} {w : Work} (hlive : w.m.cancelledLid w.s.unit.lid = false)
    (hn : (w.x a.val).toNat ≤ 63) (hc : g = true ∨ w.waitCluster g (w.x a.val).toNat < 48)
    (h : (w.awaitedSlot g (w.x a.val).toNat).ctx = some w.s.unit.ctx ∨ ∃ t, w.s.unit.waiting = some (.barrier t)) :
    bodyBarwait a g w = w.awaitGen g (w.x a.val).toNat (w.awaitedSlot g (w.x a.val).toNat) := by
  rw [bodyBarwait_of_le hlive hn, waitedSlot_of_open hc h]
  rfl

theorem bodyBarwait_of_other {a : Reg} {g : Bool} {w : Work} (hlive : w.m.cancelledLid w.s.unit.lid = false)
    (hn : (w.x a.val).toNat ≤ 63) (hc : g = true ∨ w.waitCluster g (w.x a.val).toNat < 48)
    (hother : (w.awaitedSlot g (w.x a.val).toNat).ctx ≠ some w.s.unit.ctx)
    (hbeginning : ¬∃ t, w.s.unit.waiting = some (.barrier t)) :
    bodyBarwait a g w = raise w cACCESS_VIOLATION (BitVec.ofNat 64 ((w.x a.val).toNat + 12 * 2 ^ 57)) := by
  rw [bodyBarwait_of_le hlive hn, waitedSlot_of_other hn hc hother hbeginning]
  rfl

/-- What is the ticket's cluster with a ticket, and the running slot's without, is the cluster of the wait. -/
theorem eq_waitCluster_of {w : Work} {g : Bool} {n k : Nat} (hwith : w.holdsTicket g n = true → k = bitsN w.s.ctl.barseq 8 6)
    (hwithout : w.holdsTicket g n = false → k = w.cluster) : k = w.waitCluster g n := by
  cases h : w.holdsTicket g n with
  | true => rw [Work.waitCluster, h, hwith h, if_pos rfl]
  | false => rw [Work.waitCluster, h, hwithout h]; rfl

/-- Nothing waits at a slot whose EXPECT is 0. -/
theorem awaitGen_of_inert {w : Work} {g : Bool} {n : Nat} {bar : Barrier} (h : bar.expect = 0) : w.awaitGen g n bar = .ok w :=
  if_pos (.inl h)

/-- With a ticket a `barwait` waits for the generation that the ticket holds, and only for that. -/
theorem awaitGen_of_ticket {w : Work} {g : Bool} {n : Nat} {bar : Barrier} (hticket : w.holdsTicket g n = true) :
    w.awaitGen g n bar = if bar.expect = 0 ∨ bar.gen.toNat ≠ bitsN w.s.ctl.barseq 32 32 then .ok w
      else .error (.wait (.barrier none)) := by
  have hgen : bar.gen = BitVec.ofNat 32 (bitsN w.s.ctl.barseq 32 32) ↔ bar.gen.toNat = bitsN w.s.ctl.barseq 32 32 := by
    rw [← BitVec.toNat_inj, BitVec.toNat_ofNat, bitsN, Nat.mod_mod]
  simp only [Work.awaitGen, Work.waitTarget, hticket, if_true, ne_eq, hgen]

/-- Without a ticket a `barwait` whose wait has begun waits for the generation that it read then. -/
theorem awaitGen_of_begun {w : Work} {g : Bool} {n : Nat} {bar : Barrier} {t : BitVec 32} (hticket : w.holdsTicket g n = false)
    (hbegun : w.s.unit.waiting = some (.barrier (some t))) :
    w.awaitGen g n bar = if bar.expect = 0 ∨ bar.gen ≠ t then .ok w else .error (.wait (.barrier (some t))) := by
  simp only [Work.awaitGen, Work.waitTarget, hticket, hbegun, Bool.false_eq_true, if_false]

/-- Without a ticket a `barwait` that has read no generation yet waits for the slot's. -/
theorem awaitGen_of_beginning {w : Work} {g : Bool} {n : Nat} {bar : Barrier} (hticket : w.holdsTicket g n = false)
    (hbeginning : ∀ t, w.s.unit.waiting ≠ some (.barrier (some t))) :
    w.awaitGen g n bar = if bar.expect = 0 then .ok w else .error (.wait (.barrier (some bar.gen))) := by
  have htarget : w.waitTarget g n bar = bar.gen := by
    rw [Work.waitTarget, if_neg (Bool.eq_false_iff.1 hticket)]
    split
    · exact absurd ‹_› (hbeginning _)
    · rfl
  simp only [Work.awaitGen, htarget, hticket, ne_eq, not_true, or_false, Bool.false_eq_true, if_false]

/-- Settles O44: each word by its bounds and its slot, and `barwait` by the generation that it waits for. -/
theorem barriers : Obligations.Barriers := by
  intro s w st a b g n barrier ix bar traps notOurs
  refine ⟨fun hbegins hcancelled => exec_of_raise ⟨rfl, bodyBarwait_of_cancelled hcancelled⟩ rfl rfl (by decide) hbegins,
    fun hrange => ⟨?_, ?_, fun hbegins hlive => ?_⟩,
    fun hn => ⟨fun hbegins => ⟨fun hwide => ?_, fun hfits hother => ?_, fun hfits hours => ?_⟩,
      fun hbegins => ⟨fun hother => ?_, fun hours => ?_⟩, fun hbegins hlive => ?_⟩⟩
  · exact exec_of_raise ⟨rfl, bodyBarinit_of_noSlot hrange⟩ rfl rfl (by decide)
  · exact exec_of_raise_rendezvous ⟨rfl, bodyBararr_of_noSlot hrange⟩ rfl rfl (by decide)
  · exact exec_of_raise ⟨rfl, bodyBarwait_of_noSlot hlive hrange⟩ rfl rfl (by decide) hbegins
  · exact exec_of_raise ⟨rfl, bodyBarinit_of_wide hn hwide⟩ rfl rfl (by decide) hbegins
  · exact exec_of_raise ⟨rfl, bodyBarinit_of_other hn hfits hother⟩ rfl rfl (by decide) hbegins
  · exact exec_of_runs ⟨rfl, bodyBarinit_of_ours hn hfits hours⟩ hbegins
  · exact exec_of_raise_rendezvous ⟨rfl, bodyBararr_of_other hn hother⟩ rfl rfl (by decide) hbegins
  · exact exec_of_runs ⟨rfl, bodyBararr_of_ours hn hours⟩ hbegins
  · intro q ticket slotOf waiting k hslot hc now
    have hticket : ticket ↔ w.holdsTicket g n = true := beq_iff_eq.symm
    have hnoTicket (h : ¬ticket) : w.holdsTicket g n = false := Bool.eq_false_iff.2 fun ht => h (hticket.2 ht)
    have hk : k = w.waitCluster g n := eq_waitCluster_of (hslot.1 ∘ hticket.2) (fun h => hslot.2 (by simp [hticket, h]))
    subst hk
    refine ⟨fun hother hbeginning => ?_, fun hopen => ?_⟩
    · exact exec_of_raise ⟨rfl, bodyBarwait_of_other hlive hn hc hother hbeginning⟩ rfl rfl (by decide) hbegins
    · have hruns : Runs (.barwait st a g) s w (w.awaitGen g n now) := ⟨rfl, bodyBarwait_of_open hlive hn hc hopen⟩
      refine ⟨fun hinert => ?_, fun ht hgen => ?_, fun ht hexpect hgen => ?_, fun ht hexpect hbeginning => ?_,
        fun ht t hbegun => ⟨fun hgen => ?_, fun hexpect hgen => ?_⟩⟩
      · exact exec_of_runs (hruns.trans (awaitGen_of_inert hinert)) hbegins
      · exact exec_of_runs (hruns.trans ((awaitGen_of_ticket (hticket.1 ht)).trans (if_pos (.inr hgen)))) hbegins
      · exact exec_of_wait (hruns.trans ((awaitGen_of_ticket (hticket.1 ht)).trans
          (if_neg (not_or.2 ⟨hexpect, (· hgen)⟩)))) hbegins
      · exact exec_of_wait (hruns.trans ((awaitGen_of_beginning (hnoTicket ht) hbeginning).trans (if_neg hexpect))) hbegins
      · exact exec_of_runs (hruns.trans ((awaitGen_of_begun (hnoTicket ht) hbegun).trans (if_pos (.inr hgen)))) hbegins
      · exact exec_of_wait (hruns.trans ((awaitGen_of_begun (hnoTicket ht) hbegun).trans
          (if_neg (not_or.2 ⟨hexpect, (· hgen)⟩)))) hbegins

end Sys2Proof.Machine
end

section
/-! The canonical form of memory: right after reset, and over every step. -/

namespace Sys2Proof.Machine

/-- Settles O5: no byte is listed after reset. -/
theorem resetMemoryOk : Obligations.ResetMemoryOk := rfl

/-- The next state that an outcome gives, if any, has canonical memory. -/
def Canonical (o : Host.Outcome State Fault Refusal) : Prop := ∀ t, o = .next t → t.MemOk

@[simp] theorem canonical_next {t : State} : Canonical (.next t) ↔ t.MemOk :=
  ⟨fun h => h t rfl, fun h _ e => Host.Outcome.next.inj e ▸ h⟩

@[simp] theorem canonical_fault (f : Fault) : Canonical (.fault f) := fun _ e => nomatch e

theorem canonical_ite {p : Prop} [Decidable p] {a b : Host.Outcome State Fault Refusal} (ha : Canonical a) (hb : Canonical b) :
    Canonical (if p then a else b) := by
  split
  · exact ha
  · exact hb

/-- What follows the next state of an outcome, and keeps its bytes, has canonical memory with it. -/
theorem Canonical.andThen {o : Host.Outcome State Fault Refusal} {f : State → State} (h : Canonical o) (hf : ∀ t, (f t).mem = t.mem) :
    Canonical (match (generalizing := false) o with | .next t => .next (f t) | o => o) := by
  cases o with
  | next t => exact canonical_next.2 ((congrArg (Memory.wf · = true) (hf t)).mpr (canonical_next.1 h))
  | fault f => exact canonical_fault f
  | refused r => exact fun _ e => nomatch e

section
variable {s : State} (h : s.MemOk)
include h

theorem canonical_finish (w : Work) : Canonical (.next (w.finish s)) := canonical_next.2 (finish_mem_wf w h)

/-- The outcome leaves the state as it was, or what some work leaves. -/
theorem canonical_of_next {o : Host.Outcome State Fault Refusal} (ho : ∀ t, o = .next t → t = s ∨ ∃ w : Work, t = w.finish s) :
    Canonical o := fun t e => by
  obtain rfl | ⟨w, rfl⟩ := ho t e
  · exact h
  · exact finish_mem_wf w h

/-! ### Instructions and events -/

theorem canonical_settle (i : Option Instr) (r : M Work) : Canonical (settle s i r) :=
  canonical_of_next h fun _ e => .inr (settle_next e)

theorem canonical_issue (i : Instr) (f : Work → M Work) : Canonical (issue i f s) :=
  canonical_of_next h fun _ e => issue_next e

theorem canonical_issueStage (i : Instr) (f : Work → M Work) : Canonical (issueStage i f s) :=
  canonical_of_next h fun _ e => issueStage_next e

theorem canonical_event (f : Work → M Work) : Canonical (event f s) :=
  canonical_of_next h fun _ e => (event_next e).imp_right fun ⟨w, _, hw⟩ => ⟨w, hw⟩

/-- A turn taken as another slot keeps what the turn keeps. -/
theorem canonical_asSlot (n : Nat) {turn : State → Host.Outcome State Fault Refusal}
    (hturn : ∀ s : State, s.MemOk → Canonical (turn s)) : Canonical (asSlot n turn s) :=
  (hturn { s with cur := n } h).andThen (f := fun t => { t with cur := s.cur }) fun _ => rfl

theorem canonical_heldEvent (n : Nat) (why : Waiting → Bool) (f : Instr → Option (Work → M Work)) :
    Canonical (heldEvent n why f s) := by
  have stays : Canonical (.next s) := canonical_next.2 h
  refine canonical_ite stays ?_
  split
  · exact stays
  next i _ =>
    split
    · exact stays
    · dsimp only
      split
      · exact stays
      · exact (canonical_settle (s := { s with cur := n }) h (some i) _).andThen (f := fun t => { t with cur := s.cur }) fun _ => rfl

theorem canonical_onFlight (n : Nat) (p : Work → InFlight → Bool) (act : Work → InFlight → Work) :
    Canonical (onFlight n p act s) :=
  canonical_asSlot h n fun s h => by
    split
    · exact canonical_next.2 h
    · split
      · exact canonical_finish h _
      · exact canonical_next.2 h

theorem canonical_commitFlight (n : Nat) (p : InFlight → Bool) : Canonical (commitFlight n p s) :=
  canonical_asSlot h n fun s h => by
    split
    · exact canonical_next.2 h
    · split
      · exact canonical_next.2 h
      · split
        · exact canonical_finish h _
        · exact canonical_settle h _ _

/-! ### The events of the lanes -/

theorem canonical_rendezvousArrival (n : Nat) (lane : Fin 16) : Canonical (execRendezvousArrival n lane s) := by
  unfold execRendezvousArrival
  split
  · exact canonical_finish h _
  · exact canonical_onFlight h _ _ _

theorem canonical_tileOpComplete (core : Nat) : Canonical (execTileOpComplete core s) := by
  unfold execTileOpComplete
  split
  · exact canonical_next.2 h
  · split
    · exact canonical_ite (canonical_event h _) (canonical_next.2 h)
    · exact canonical_commitFlight h _ _

theorem canonical_trapEntry (n : Nat) : Canonical (execTrapEntry n s) :=
  canonical_asSlot h n fun s h => by
    split
    · exact canonical_next.2 h
    · exact canonical_settle h _ _

theorem canonical_windowReplay (n : Nat) : Canonical (execWindowReplay n s) := by
  unfold execWindowReplay
  split
  · exact canonical_finish h _
  · exact canonical_onFlight h _ _ _

theorem canonical_laneMismatch (n : Nat) (lane : Fin 8) : Canonical (execLaneMismatch n lane s) := by
  unfold execLaneMismatch
  split
  · exact canonical_asSlot h n fun s h => canonical_ite (canonical_finish h _) (canonical_next.2 h)
  · exact canonical_onFlight h _ _ _

omit h in
theorem arrive_mem (copy : Bool) (n : Nat) (s : State) : (arrive copy n s).mem = s.mem := by
  unfold arrive
  dsimp only
  split <;> rfl

theorem canonical_arrive (copy : Bool) (n : Nat) : Canonical (.next (arrive copy n s)) :=
  canonical_next.2 ((congrArg (Memory.wf · = true) (arrive_mem copy n s)).mpr h)

theorem canonical_send (st : Fin 16) : Canonical (execSend st s) := by
  unfold execSend
  split
  · exact canonical_arrive h _ _
  · exact canonical_arrive h _ _
  · exact canonical_issue h _ _

/-- Every instruction word and every event keeps the canonical form. -/
theorem canonical_exec (i : Instr) : Canonical (exec i s) := by
  cases i with
  | waitWake | waitTimeout | barwaitRelease | watermarkSatisfied => exact canonical_heldEvent h _ _ _
  | vectorCommit | variableLatencyResult | rendezvousComplete => exact canonical_commitFlight h _ _
  | lockstepMismatch => exact canonical_onFlight h _ _ _
  | rendezvousArrival => exact canonical_rendezvousArrival h _ _
  | tileOpComplete => exact canonical_tileOpComplete h _
  | trapEntry => exact canonical_trapEntry h _
  | windowReplay => exact canonical_windowReplay h _
  | laneMismatch => exact canonical_laneMismatch h _ _
  | send => exact canonical_send h _
  | ckpbeg | ckpseal => exact canonical_ite (canonical_issueStage h _ _) (canonical_issue h _ _)
  | matrixCommandAccept | copyEngineAccept | copyCompletion | linkHoldExpiry | serveQueue | spillReturn | queueMap | queueDestroy
  | umanteDispatch | bind | bindResume | kill | unitLoadComplete | preemptionLands | saveComplete | unitRetire | launchCompletion
  | pageRequestAnswer | partitionSwap | recoveryRestore | remoteAckTimeout | spareSwitch | powerOnBoot | itrusPartitionControl | itrusDebug | itrusTrace | itrusAnnals
  | itrusRecovery | itrusFirmwareUpdate | itrusAttestation | itrusPower | remoteAccessArrival | persistencePointReached
  | queueUnmap | itrusConnection =>
    exact canonical_event h _
  | writeVl => exact canonical_event h (bodyWriteVl _)
  | writeVtype => exact canonical_event h (bodyWriteVtype _)
  | writeFflags => exact canonical_event h (bodyWriteFflags _)
  | writeWaypart => exact canonical_event h (bodyWriteWaypart _)
  | writeVstate => exact canonical_event h (bodyWriteVstate _)
  | writeTstate => exact canonical_event h (bodyWriteTstate _)
  | writeVhot => exact canonical_event h (bodyWriteVhot _)
  | fibrePrefetch => exact canonical_event h (bodyFibrePrefetch _)
  | notifyRegisterWrite => exact canonical_event h (fun w => w.hosted none (bodyNotifyRegisterWrite _))
  | mapRequest => exact canonical_event h (fun w => w.hosted none (bodyMapRequest _))
  | counterCreate app => exact canonical_event h (fun w => w.hosted (some app) (bodyCounterCreate app _))
  | counterClose app => exact canonical_event h (fun w => w.hosted (some app) (bodyCounterClose app _))
  | hostVptEntryWrite => exact canonical_event h (fun w => w.hosted none (bodyHostVptEntryWrite _ _ _))
  | hostHotnessClear => exact canonical_event h (fun w => w.hosted none (bodyHostHotnessClear _ _))
  | preempt => exact canonical_event h (bodyPreempt _)
  | computeDieReset => exact canonical_event h (bodyComputeDieReset _)
  | linkRetrain => exact canonical_event h (bodyLinkRetrain _ _)
  | thermalClockReduction => exact canonical_event h bodyThermalClockReduction
  | thermalShutdown => exact canonical_event h bodyThermalShutdown
  | remoteAcknowledgement => exact canonical_event h (bodyRemoteAcknowledgement _)
  | powerLoss => exact canonical_event h bodyPowerLoss
  | baseDieFailure => exact canonical_event h (bodyBaseDieFailure _)
  | annalsObservation => exact canonical_event h (bodyAnnalsObservation _ _ _)
  | _ => exact canonical_issue h _ _

/-! ### Turns -/

theorem canonical_runSlot : Canonical (runSlot s) := by
  unfold runSlot
  split
  · exact canonical_ite (canonical_exec h _) (canonical_finish h _)
  · split
    · exact canonical_settle h _ _
    · split
      · exact canonical_exec (finish_mem_wf _ h) _
      · exact canonical_settle h _ _

theorem canonical_endHalf (x : Half) : Canonical (endHalf x s) := 
  canonical_settle (s := { s with toMach := s.toMach.setPart s.cur Part.reset }) h _ _

theorem canonical_endTile (core : Nat) : Canonical (endTile core s) := 
  canonical_event (s := { s with toMach := s.toMach.setPart (384 + core) Part.reset }) h
    (fun w => finishTile core { w with made := s.toMach.tileMade core })

theorem memOk_issuing (n : Nat) : (s.issuing n).MemOk := by
  unfold State.issuing
  split <;> exact h

theorem canonical_slotTurn (n : Nat) : Canonical (slotTurn n s) := by
  unfold slotTurn
  dsimp only
  split
  · exact canonical_endHalf (s := { s with cur := s.work.granted n }) h _
  · have hsettled : (s.settled (s.work.granted n)).MemOk := settled_mem_wf _ h
    refine canonical_ite (canonical_next.2 hsettled) ?_
    exact canonical_runSlot (s := { State.issuing _ _ with cur := _ }) (memOk_issuing hsettled _)

/-- A turn of another form keeps the canonical form where each state that the form gives has it. -/
theorem canonical_otherTurn (n : Nat) {form : State → Option State}
    (hform : ∀ s t : State, s.MemOk → form s = some t → t.MemOk) : Canonical (otherTurn n form s) := by
  refine canonical_ite (canonical_slotTurn h n) ?_
  split
  next t ht => exact canonical_next.2 (hform { s.tied n with cur := n } t h ht)
  · exact canonical_slotTurn h n

theorem memOk_tilePartTurn (core k : Nat) : (tilePartTurn core k s).MemOk := by
  obtain he | ⟨w, he⟩ := tilePartTurn_finish core k s <;> rw [he]
  · exact h
  · exact finish_mem_wf w h

theorem memOk_gather (cluster ident loc : Nat) : (s.gather cluster ident loc).MemOk := by
  unfold State.gather
  split
  · exact h
  · dsimp only
    split <;> exact h

theorem canonical_aheadTurn (n : Nat) : Canonical (aheadTurn n s) :=
  canonical_asSlot h n fun s h => canonical_ite (canonical_next.2 h) <| by
    split
    · exact canonical_next.2 h
    · exact canonical_finish h _

theorem canonical_laneTurn (n k : Nat) : Canonical (laneTurn n k s) :=
  canonical_asSlot h n fun _ h => canonical_finish h _

theorem canonical_seqTurn (copy : Bool) (n : Nat) : Canonical (seqTurn copy n s) := by
  unfold seqTurn
  extract_lets q mach work w close done
  have hclose (w : Work) : Canonical (close w) := canonical_finish h _
  have hdone (r : M Work) : Canonical (done r) := by
    dsimp only [done]
    split
    · exact hclose _
    · exact hclose _
    · exact hclose _
    · exact canonical_next.2 h
    · exact canonical_next.2 h
    · exact canonical_fault _
  refine canonical_ite (canonical_next.2 h) (canonical_ite (canonical_event h _) ?_)
  split
  · exact hdone _
  · refine canonical_ite ?_ (hdone _)
    exact (canonical_send (s := { s with agenda := seqTurnOf copy n :: s.agenda }) h 0).andThen
      (f := fun t => { t with agenda := s.agenda }) fun _ => rfl

theorem canonical_itrusRequest (conn : Nat) (number : Word) (length cls : Nat) (i : Instr) :
    Canonical (itrusRequest conn number length cls (exec i) s) :=
  canonical_ite (canonical_next.2 h) <| canonical_ite (canonical_next.2 h) <|
    (canonical_exec h i).andThen (f := fun t => t.replied _) fun _ => rfl

theorem canonical_plainTurn (t : Turn) : Canonical (plainTurn t s) := by
  cases t with
  | slot n => exact canonical_slotTurn h n
  | part n k =>
    unfold plainTurn
    dsimp only
    split
    · exact canonical_next.2 (memOk_tilePartTurn h _ _)
    · refine canonical_otherTurn h n fun s t h ht => ?_
      obtain ⟨w, rfl⟩ := partTurn_finish ht
      exact finish_mem_wf w (settled_mem_wf n h)
  | loose n => exact canonical_otherTurn h n fun s t h ht => looseTurn_mem_wf ht h
  | late n =>
    refine canonical_otherTurn h n fun s t h ht => ?_
    obtain ⟨w, rfl⟩ := lateTurn_finish ht
    exact finish_mem_wf w h
  | sight n l => exact canonical_next.2 ((congrArg (Memory.wf · = true) (sight_mem s n l)).mpr h)
  | arrive n l => exact canonical_next.2 (arrive_mem_wf n l h)
  | gather k i l => exact canonical_next.2 (memOk_gather h k i l)
  | ahead n => exact canonical_aheadTurn h n
  | lane n k => exact canonical_ite (canonical_laneTurn h n k) (canonical_next.2 h)
  | event i => exact canonical_exec h i
  | host a x => exact canonical_event h (hostAccess a x)
  | request conn number length i =>
    unfold plainTurn
    dsimp only
    split
    · exact canonical_itrusRequest h _ _ _ _ _
    · exact canonical_next.2 h
  | upset k r => exact canonical_next.2 h
  | matrixSequencer n => exact canonical_seqTurn h false n
  | copySequencer n => exact canonical_seqTurn h true n

theorem canonical_plainDue (d : Due) : Canonical (plainDue d s) := by
  cases d with
  | slot n => exact canonical_slotTurn h n
  | sequencer copy n => exact canonical_seqTurn h copy n
  | copyAccept k => exact canonical_exec h (.copyEngineAccept k)
  | copyDone k i => exact canonical_exec h (.copyCompletion k i)
  | command k => exact canonical_exec h (.matrixCommandAccept k)
  | tileOp k => exact canonical_event h (finishTile k)
  | bind n => exact canonical_ite (canonical_exec h (.bindResume n)) (canonical_exec h (.bind n))
  | preempt n => exact canonical_exec h (.preempt n)
  | loaded n => exact canonical_exec h (.unitLoadComplete n)
  | lands n => exact canonical_exec h (.preemptionLands n)
  | saved n => exact canonical_exec h (.saveComplete n)
  | acknowledged n => exact canonical_exec h (.remoteAcknowledgement n)
  | unanswered n pkg a => exact canonical_exec h (.remoteAckTimeout n pkg a)
  | persisted n => exact canonical_exec h (.persistencePointReached n)
  | retires n => exact canonical_exec h (.unitRetire n)
  | completes ix => exact canonical_exec h (.launchCompletion ix)
  | unspill j => exact canonical_exec h (.spillReturn j)
  | dispatch => exact canonical_exec h .umanteDispatch
  | serve q => exact canonical_exec h (.serveQueue q)
  | map q => exact canonical_exec h (.queueMap q)
  | expiry l => exact canonical_exec h (.linkHoldExpiry l)
  | timeout n => exact canonical_exec h (.waitTimeout n)

/-! ### Steps -/

omit h in
/-- The first turn of a list that changes anything keeps what every turn keeps. -/
theorem canonical_firstChange {run : Due → State → Host.Outcome State Fault Refusal} (hrun : ∀ d, Canonical (run d s))
    (l : List Due) {p : Due × Host.Outcome State Fault Refusal} (hp : firstChange run s l = some p) : Canonical p.2 := by
  induction l with
  | nil => cases hp
  | cons d l ih =>
    unfold firstChange at hp
    split at hp
    next t ht =>
      split at hp
      · exact ih hp
      · cases hp
        exact ht ▸ hrun d
    · cases hp
      exact hrun d

theorem canonical_calendarGate {d : Option Due} {o : Host.Outcome State Fault Refusal} (ho : s.calendarGate d = some o) :
    Canonical o := by
  cases d with
  | none => cases ho
  | some d =>
    obtain ⟨job, -, ho⟩ := Option.bind_eq_some_iff.mp ho
    split at ho
    · cases ho
      exact canonical_next.2 h
    · obtain ⟨p, hp, ho⟩ := Option.bind_eq_some_iff.mp ho
      split at ho
      · cases ho
      · cases ho
        exact canonical_firstChange (canonical_plainDue h) _ hp

/-- A turn in whose place a job in Calendar mode may set another. -/
theorem canonical_gated (d : Option Due) {o : Host.Outcome State Fault Refusal} (ho : Canonical o) :
    Canonical ((s.calendarGate d).getD o) := by
  cases hgate : s.calendarGate d with
  | none => exact ho
  | some o' => exact canonical_calendarGate h hgate

theorem canonical_firstTurn (l : List Due) : Canonical (firstTurn s l) := by
  unfold firstTurn
  cases hp : firstChange runDue s l with
  | none => exact canonical_next.2 h
  | some p => exact canonical_firstChange (fun d => canonical_gated h (some d) (canonical_plainDue h d)) l hp

theorem canonical_takeTurn (t : Turn) (rest : List Turn) : Canonical (takeTurn t rest s) :=
  (canonical_gated h _ (canonical_plainTurn h t)).andThen (f := fun t => { t with agenda := rest }) fun _ => rfl

theorem canonical_settleSlot (n : Nat) : Canonical (settleSlot n s) := by
  unfold settleSlot
  split
  · exact canonical_endTile h _
  · exact canonical_asSlot h n fun s h => canonical_endHalf h _
  · exact canonical_next.2 (settled_mem_wf n h)

theorem canonical_settleSlots (l : List Nat) : Canonical (settleSlots l s) := by
  have go (o : Host.Outcome State Fault Refusal) (ho : Canonical o) : Canonical
      (l.foldl (fun o n => match o with | .next s => settleSlot n s | o => o) o) := by
    induction l generalizing o with
    | nil => exact ho
    | cons n l ih =>
      refine ih _ ?_
      cases o with
      | next t => exact canonical_settleSlot (canonical_next.1 ho) n
      | fault f => exact ho
      | refused r => exact ho
  exact go _ (canonical_next.2 h)

theorem canonical_agendaTurn (t : Turn) (rest : List Turn) : Canonical (agendaTurn t rest s) := by
  have hall : Canonical (settleAll s) := canonical_settleSlots h _
  refine canonical_ite (canonical_ite hall (canonical_takeTurn h _ _)) ?_
  split
  next t' ht =>
    exact canonical_ite (ht ▸ canonical_takeTurn h t rest) (canonical_ite (canonical_settleSlots h _) (canonical_takeTurn h _ _))
  next o _ => exact canonical_ite hall (canonical_takeTurn h t rest)

theorem canonical_step : Canonical (step s) := by
  unfold step
  split
  · exact canonical_agendaTurn h _ _
  · exact canonical_ite (canonical_gated h _ (canonical_runSlot (memOk_issuing h _))) (canonical_firstTurn h _)

end

/-- Settles O6: every turn ends in the state as it was, or in what works leave, whose writes keep the canonical form. -/
theorem stepKeepsMemoryOk : Obligations.StepKeepsMemoryOk := fun _ t h e => canonical_step h t e

end Sys2Proof.Machine
end

section
/-! Traps: entry into a handler, a trap inside one, what the hardware does without one, and `trap`, `brk` and `eret`. -/

namespace Sys2Proof.Machine

/-! ### Failures of launches (14 R338) -/

@[simp] theorem failLaunch_slot (m : Mach) (lid : Nat) (f : Failure) (n : Nat) : (m.failLaunch lid f).slot n = m.slot n := by
  unfold Mach.failLaunch
  split
  · rfl
  · dsimp only
    split <;> rfl

@[simp] theorem failLaunch_cur (m : Mach) (lid : Nat) (f : Failure) : (m.failLaunch lid f).cur = m.cur := by
  unfold Mach.failLaunch
  split
  · rfl
  · dsimp only
    split <;> rfl

/-- A failure by no page fault leaves every queue as it was. -/
theorem failLaunch_of_noFault (w : Work) (lid : Nat) {f : Failure} (h : ¬(f.cause = cPAGE_FAULT ∨ f.cause = cVPAGE_FAULT)) :
    w.failLaunch lid f = { w with m := w.m.failLaunch lid f } := by
  unfold Work.failLaunch Work.faultQueue
  split
  · exact if_neg fun hf => h hf.1
  · rfl

/-! ### What stands before a trap is taken (03 R79; 09 R217) -/

/-- The failure that a trap at the current instruction of a work is. -/
def Work.failureAt (w : Work) (t : Trap) : Failure := failureOf t.cause t.stval (keepBits w.s.regs.pc 0 57) w.s.unit.unit

/-- The work with which a trap is taken: the tile operations behind the instruction stand before what follows, and a CANCELLED with
detail 1 has failed the launch. -/
def Work.beforeTrap (w : Work) (t : Trap) : Work :=
  if t.cause = cCANCELLED ∧ t.stval = 1 then w.passTiles.failLaunch w.s.unit.lid (w.failureAt t) else w.passTiles

/-- The work before a trap differs in no slot. -/
theorem beforeTrap_keeps (w : Work) (t : Trap) : (w.beforeTrap t).s = w.s ∧ (w.beforeTrap t).ws = w.ws ∧
    (w.beforeTrap t).m.cur = w.m.cur ∧ ∀ n, (w.beforeTrap t).m.slot n = w.m.slot n := by
  obtain ⟨hs, hws, -, hcur, hslot⟩ := passTiles_keeps w
  unfold Work.beforeTrap
  split
  next h =>
    have hcause : ¬((w.failureAt t).cause = cPAGE_FAULT ∨ (w.failureAt t).cause = cVPAGE_FAULT) := by
      change ¬(t.cause = _ ∨ t.cause = _)
      rw [h.1]
      decide
    rw [failLaunch_of_noFault _ _ hcause]
    have hslots n : (w.passTiles.m.failLaunch w.s.unit.lid (w.failureAt t)).slot n = w.m.slot n := (failLaunch_slot ..).trans (hslot n)
    have hc : (w.passTiles.m.failLaunch w.s.unit.lid (w.failureAt t)).cur = w.m.cur := (failLaunch_cur ..).trans hcur
    exact ⟨by rw [Work.s, hslots, hc]; rfl, hws, hc, hslots⟩
  · exact ⟨hs, hws, hcur, hslot⟩

@[simp] theorem beforeTrap_s (w : Work) (t : Trap) : (w.beforeTrap t).s = w.s := (beforeTrap_keeps w t).1

/-- The three ways in which a slot takes a trap (15 R365 to R367). -/
theorem takeTrap_eq (w : Work) (t : Trap) : w.takeTrap t =
    if w.s.sup.intrap then .ok ((w.beforeTrap t).endUnit t.cause t.stval)
    else if keepBits w.s.sup.stvec 6 51 = 0 then (w.beforeTrap t).noHandler t
    else .ok ((w.beforeTrap t).enterHandler t) := by
  have h : w.takeTrap t = if (w.beforeTrap t).s.sup.intrap then .ok ((w.beforeTrap t).endUnit t.cause t.stval)
      else if keepBits (w.beforeTrap t).s.sup.stvec 6 51 = 0 then (w.beforeTrap t).noHandler t
      else .ok ((w.beforeTrap t).enterHandler t) := by
    simp only [Work.beforeTrap, Work.failureAt, ← passTiles_s w]
    rfl
  rw [h, beforeTrap_s]

theorem takeTrap_handled {w : Work} (t : Trap) (hin : w.s.sup.intrap = false) (hbase : keepBits w.s.sup.stvec 6 51 ≠ 0) :
    w.takeTrap t = .ok ((w.beforeTrap t).enterHandler t) := by
  rw [takeTrap_eq, hin, if_neg Bool.false_ne_true, if_neg hbase]

/-! ### Entry (15 R365) -/

/-- Entry clears the links and keeps the Supervisor registers that it does not name. -/
theorem enterHandler_links (w : Work) (t : Trap) :
    (w.enterHandler t).s.thr.link = none ∧ (w.enterHandler t).s.thr.elinks = [] ∧
    (w.enterHandler t).s.sup.stvec = w.s.sup.stvec ∧ (w.enterHandler t).s.sup.sscratch = w.s.sup.sscratch ∧
    (w.enterHandler t).s.sup.simg = w.s.sup.simg := by
  simp [Work.enterHandler, Slot.clearLinks]

@[simp] theorem enterHandler_cur (w : Work) (t : Trap) : (w.enterHandler t).m.cur = w.m.cur := rfl

theorem enterHandler_slot_ne (w : Work) (t : Trap) {n : Nat} (h : n ≠ w.m.cur) : (w.enterHandler t).m.slot n = w.m.slot n :=
  slot_setSlot_ne _ _ h

/-- A trap taken with a handler and outside one, of work that has written no byte: the machine of the entry, and every byte as it
was. -/
theorem settle_enters {s : State} (i : Option Instr) {w : Work} (t : Trap) (hin : w.s.sup.intrap = false)
    (hbase : keepBits w.s.sup.stvec 6 51 ≠ 0) (hws : w.ws = []) :
    settle s i (.error (.trap w t)) = .next { toMach := ((w.beforeTrap t).enterHandler t).m, mem := s.mem } := by
  rw [settle_trap i (takeTrap_handled t hin hbase), finish_of_no_writes]
  rw [enterHandler_ws, (beforeTrap_keeps w t).2.1, hws]

/-- Where a trap continues (15 R365). -/
theorem handler_pc_eq (x : Word) (n : Nat) :
    (if bitB x 0 then keepBits x 6 51 + BitVec.ofNat 64 n else keepBits x 6 51) =
      keepBits x 6 51 + (if bitB x 0 then BitVec.ofNat 64 n else 0) := by
  split <;> simp

/-- Settles O11: the entry's own rules, on the work that stands before the trap. -/
theorem trapEntry : Obligations.TrapEntry := by
  intro s i w t hin hbase hws hcur
  refine ⟨_, settle_enters i t hin hbase hws, rfl, ?_, ?_⟩
  all_goals obtain ⟨hs, -, hcur', hslot⟩ := beforeTrap_keeps w t
  · exact (enterHandler_cur _ t).trans (hcur'.trans hcur)
  · have ha : ((w.beforeTrap t).enterHandler t).m.slot s.cur = ((w.beforeTrap t).enterHandler t).s := by
      rw [Work.s, enterHandler_cur, hcur', hcur]
    obtain ⟨hlevel, hpc, hspp, hintrap, hscause, hsepc, hstval⟩ := enterHandler_regs (w.beforeTrap t) t
    obtain ⟨hx, hsx, hv, hm, hk, hctl⟩ := enterHandler_files (w.beforeTrap t) t
    obtain ⟨hlink, helinks, hstvec, hsscratch, hsimg⟩ := enterHandler_links (w.beforeTrap t) t
    dsimp only
    rw [ha, ← hs]
    exact ⟨hspp, hintrap, hscause, hstval, hsepc, hlink, helinks, hlevel, hpc.trans (handler_pc_eq _ _), hx, hsx, hv, hm, hk, hctl,
      hstvec, hsscratch, hsimg, fun n hn => (enterHandler_slot_ne _ t (by rwa [hcur', hcur])).trans (hslot n)⟩

/-! ### Inside a handler, and without one (15 R366, R367) -/

theorem settle_inside {s : State} (i : Option Instr) {w : Work} (t : Trap) (hin : w.s.sup.intrap = true) :
    settle s i (.error (.trap w t)) = .next (((w.beforeTrap t).endUnit t.cause t.stval).finish s) :=
  settle_trap i (by rw [takeTrap_eq, hin, if_pos rfl])

/-- A cause that no failure of the launch precedes leaves only the tile operations to be passed. -/
theorem beforeTrap_of_other {w : Work} {t : Trap} (h : ¬(t.cause = cCANCELLED ∧ t.stval = 1)) : w.beforeTrap t = w.passTiles := if_neg h

theorem settle_unhandled {s : State} (i : Option Instr) {w w' : Work} (t : Trap) (hin : w.s.sup.intrap = false)
    (hbase : keepBits w.s.sup.stvec 6 51 = 0) (h : (w.beforeTrap t).noHandler t = .ok w') :
    settle s i (.error (.trap w t)) = .next (w'.finish s) :=
  settle_trap i (by rw [takeTrap_eq, hin, if_neg Bool.false_ne_true, if_pos hbase, h])

theorem hardRestore_restores {w w1 : Work} {mask : Nat} (ven : Bool) (h : w.restoreParts w.s.sup.simg mask = .ok w1) :
    w.hardRestore mask ven = .ok (if ven then w1.mapCtl (fun c => { c with vstate := c.vstate ||| 1 }) else w1).resumeHere := by
  simp only [Work.hardRestore, h]

theorem hardRestore_requests {w w1 : Work} {mask : Nat} {u : Trap} (ven : Bool)
    (h : w.restoreParts w.s.sup.simg mask = .error (.trap w1 u)) (hu : u.cause = cPAGE_FAULT ∧ bitsN u.stval 57 7 = 0) :
    w.hardRestore mask ven = .ok (w.requestPage (keepBits u.stval 0 57) u.cause u.acc) := by
  simp only [Work.hardRestore, h, hu, and_self, if_true]

theorem hardRestore_ends {w w1 : Work} {mask : Nat} {u : Trap} (ven : Bool)
    (h : w.restoreParts w.s.sup.simg mask = .error (.trap w1 u)) (hu : ¬(u.cause = cPAGE_FAULT ∧ bitsN u.stval 57 7 = 0)) :
    w.hardRestore mask ven = .ok (w.endUnit u.cause u.stval) := by
  simp only [Work.hardRestore, h, hu, if_false]

/-! What each cause meets without a handler. -/
section
variable (w : Work) (t : Trap)

theorem noHandler_page (h : t.cause = cPAGE_FAULT ∨ t.cause = cVPAGE_FAULT) (hdetail : bitsN t.stval 57 7 = 0) :
    w.noHandler t = .ok (w.requestPage (keepBits t.stval 0 57) t.cause t.acc) :=
  if_pos ⟨h, hdetail⟩

/-- No cause but a missing page is requested. -/
theorem noHandler_of_present (h : ¬((t.cause = cPAGE_FAULT ∨ t.cause = cVPAGE_FAULT) ∧ bitsN t.stval 57 7 = 0)) :
    w.noHandler t =
      if t.cause = cTILE_DISABLED ∧ t.stval = 1 then
        (match w.ten w.m.cur with | some w => .ok w.resumeHere | none => .ok (w.endUnit t.cause t.stval))
      else if t.cause = cTILE_DISABLED ∧ t.stval = 3 then w.hardRestore 16 false
      else if t.cause = cVECTOR_DISABLED then w.hardRestore 14 true
      else if t.cause = cCANCELLED then .ok w.leave
      else if t.cause = cREPLAY_DIVERGE then
        .ok { w.endUnit t.cause t.stval with m := (w.endUnit t.cause t.stval).m.cancelJob w.ctx.job }
      else .ok (w.endUnit t.cause t.stval) :=
  if_neg h

/-- Every cause for which 15 R367 names nothing else ends the unit. -/
theorem noHandler_ends (hpage : ¬((t.cause = cPAGE_FAULT ∨ t.cause = cVPAGE_FAULT) ∧ bitsN t.stval 57 7 = 0))
    (htile : ¬(t.cause = cTILE_DISABLED ∧ (t.stval = 1 ∨ t.stval = 3)))
    (hother : t.cause ∉ [cVECTOR_DISABLED, cCANCELLED, cREPLAY_DIVERGE]) : w.noHandler t = .ok (w.endUnit t.cause t.stval) := by
  simp only [List.mem_cons, List.not_mem_nil, or_false, not_or] at hother
  obtain ⟨hvector, hcancelled, hdiverge⟩ := hother
  rw [noHandler_of_present w t hpage, if_neg fun h => htile ⟨h.1, .inl h.2⟩, if_neg fun h => htile ⟨h.1, .inr h.2⟩, if_neg hvector,
    if_neg hcancelled, if_neg hdiverge]

end

/-- Settles O12: a trap inside a handler ends the unit; without one, each cause by its branch of `noHandler`. -/
theorem doubleTrap : Obligations.DoubleTrap := by
  refine ⟨fun s i w t hin => ?_, fun s i v t hin hbase => ?_⟩
  · dsimp only
    rw [settle_inside i t hin]
    simp only [Work.beforeTrap]
    rfl
  · obtain ⟨cause, acc, stval⟩ := t
    have unhandled {w' : Work} (hcause : cause ≠ cCANCELLED ∨ stval ≠ 1)
        (h : v.passTiles.noHandler { cause := cause, acc := acc, stval := stval } = .ok w') :
        settle s i (.error (.trap v { cause := cause, acc := acc, stval := stval })) = .next (w'.finish s) := by
      have hbefore := beforeTrap_of_other (w := v) (t := { cause := cause, acc := acc, stval := stval })
        fun h => hcause.elim (absurd h.1) (absurd h.2)
      exact settle_unhandled i _ hin hbase (hbefore ▸ h)
    dsimp only
    refine ⟨?_, ?_, ?_, ?_, ?_, ?_, ?_, ?_, ?_⟩
    · intro hpage hdetail
      exact unhandled (.inl (by rcases hpage with rfl | rfl <;> decide)) (noHandler_page _ _ hpage hdetail)
    · intro hpage hdetail
      refine unhandled (.inl (by rcases hpage with rfl | rfl <;> decide)) (noHandler_ends _ _ (fun h => hdetail h.2) ?_ ?_)
      all_goals rcases hpage with rfl | rfl <;> simp +decide
    · rintro rfl rfl w1 hten
      refine unhandled (.inl (by decide)) ((noHandler_of_present _ _ (by simp +decide)).trans ?_)
      rw [if_pos ⟨rfl, rfl⟩, hten]
    · rintro rfl rfl
      exact unhandled (.inl (by decide)) (noHandler_ends _ _ (by simp +decide) (by simp +decide) (by simp +decide))
    · intro mask ven hwhich
      have hrestore : v.passTiles.noHandler { cause := cause, acc := acc, stval := stval } = v.passTiles.hardRestore mask ven := by
        rcases hwhich with ⟨rfl, rfl, rfl, rfl⟩ | ⟨rfl, rfl, rfl⟩ <;> rw [noHandler_of_present _ _ (by simp +decide)] <;>
          simp +decide
      have hcause : cause ≠ cCANCELLED := by rcases hwhich with ⟨rfl, -⟩ | ⟨rfl, -⟩ <;> decide
      refine ⟨fun w1 hok => ?_, fun w1 u herr hu hdetail => ?_, fun w1 u herr hu => ?_⟩
      · exact unhandled (.inl hcause) (hrestore.trans (hardRestore_restores ven hok))
      · exact unhandled (.inl hcause) (hrestore.trans ((hardRestore_requests ven herr ⟨hu, hdetail⟩).trans (by rw [hu])))
      · exact unhandled (.inl hcause) (hrestore.trans (hardRestore_ends ven herr (by rintro ⟨h1, h2⟩; exact hu.elim (· h1) (· h2))))
    · rintro rfl
      refine unhandled (.inl (by decide)) ((noHandler_of_present _ _ (by simp +decide)).trans ?_)
      simp +decide
    · rintro rfl hdetail
      refine unhandled (.inr hdetail) ((noHandler_of_present _ _ (by simp +decide)).trans ?_)
      simp +decide
    · rintro rfl rfl
      refine settle_unhandled i _ hin hbase ((noHandler_of_present _ _ (by simp +decide)).trans ?_)
      simp +decide [Work.beforeTrap, Work.failureAt]
    · intro hcause
      have hother : ∀ c ∈ [0x01, 0x02, 0x03, 0x04, 0x07, 0x0A, 0x0B, 0x0C, 0x0D, 0x0E, 0x0F, 0x10, 0x11, 0x12, 0x13, 0x14, 0x15, 0x17,
          0x18, 0x1A], ¬(c = cPAGE_FAULT ∨ c = cVPAGE_FAULT) ∧ c ≠ cTILE_DISABLED ∧ c ≠ cCANCELLED ∧
          c ∉ [cVECTOR_DISABLED, cCANCELLED, cREPLAY_DIVERGE] := by decide
      obtain ⟨hpage, htile, hcancelled, hnamed⟩ := hother cause hcause
      exact unhandled (.inl hcancelled) (noHandler_ends _ _ (fun h => hpage h.1) (fun h => htile h.1) hnamed)

/-! ### `trap`, `brk` and `eret` (15 R389; 16 R397) -/

/-- The unit of a slot that may issue runs. -/
theorem runs_of_issues {v : Slot} (h : v.issues = true) : v.unit.st.runs = true := by
  simp only [Slot.issues, Bool.or_eq_true, Bool.and_eq_true, beq_iff_eq] at h
  rcases h with h | ⟨h, -⟩ <;> rw [h] <;> rfl

/-- A trap of a scalar word that begins, outside a handler and with one, whose work has written no byte and is `v`: what O13 says of
the state in which the handler begins. -/
theorem settle_entered {s : State} (i : Instr) {v : Work} {cause : Nat} (b : Word) (hin : v.s.sup.intrap = false)
    (hbase : keepBits v.s.sup.stvec 6 51 ≠ 0) (hws : v.ws = []) (hcur : v.m.cur = s.cur) :
    ∃ s', settle s (some i) (.error (.trap v { cause := cause, acc := 0, stval := b })) = .next s' ∧ s'.mem = s.mem ∧
      s'.work.s.sup.scause = BitVec.ofNat 64 cause ∧ s'.work.s.sup.stval = b ∧
      s'.work.s.sup.sepc = keepBits v.s.regs.pc 2 55 ∧ s'.work.s.sup.intrap = true ∧
      s'.work.s.sup.spp = (v.s.regs.level == .supervisor) ∧ s'.work.s.regs.level = .supervisor ∧
      s'.work.s.regs.pc = keepBits v.s.sup.stvec 6 51 + (if bitB v.s.sup.stvec 0 then BitVec.ofNat 64 (64 * cause) else 0) ∧
      s'.work.s.regs.x = v.s.regs.x ∧ s'.work.s.regs.sx = v.s.regs.sx := by
  obtain ⟨s', hsettle, hmem, hcur', hspp, hintrap, hscause, hstval, hsepc, -, -, hlevel, hpc, hx, hsx, -⟩ :=
    trapEntry s (some i) v { cause := cause, acc := 0, stval := b } hin hbase hws hcur
  have hs : s'.work.s = s'.toMach.slot s.cur := by rw [← hcur']; rfl
  refine ⟨s', hsettle, hmem, ?_⟩
  rw [hs]
  exact ⟨hscause, hstval, hsepc, hintrap, hspp, hlevel, hpc, hx, hsx⟩

/-- The return from a trap leaves every register but the pc, and every Supervisor register but INTRAP. -/
theorem returnFromTrap_s (w : Work) :
    w.returnFromTrap.s.regs = { w.s.regs with level := if w.s.sup.spp then .supervisor else .user, pc := w.s.sup.sepc } ∧
    w.returnFromTrap.s.sup = { w.s.sup with intrap := false } ∧ w.returnFromTrap.s.thr.link = none ∧
    w.returnFromTrap.s.thr.elinks = [] ∧ w.returnFromTrap.s.unit = w.s.unit := by
  cases h : w.s.sup.spp <;> simp [Work.returnFromTrap, Slot.clearLinks, h]

/-- Completion leaves the links as the meaning left them. -/
theorem retire_links (w : Work) (i : Instr) (b : Slot) :
    (w.retire i b).s.thr.link = w.s.thr.link ∧ (w.retire i b).s.thr.elinks = w.s.thr.elinks := by
  unfold Work.retire
  split
  · exact ⟨rfl, rfl⟩
  · simp [(countStrips_only w).thr]

/-- The work on which a scalar word begins: the state in which it issues, with no byte written. -/
theorem begins_scalar_work {i : Instr} {s : State} {w : Work} (hbegins : Begins i s w)
    (hscalar : (infoOf s.work.s.ctl.fmt i).cls = .scalar) :
    w.m = s.toMach ∧ w.s = s.work.s ∧ w.ws = [] ∧ w.npc = s.work.s.regs.pc + 4 := by
  obtain ⟨rfl, -⟩ := begins_of_scalar hbegins hscalar
  exact ⟨rfl, rfl, rfl, rfl⟩

/-- Settles O13: `trap` and `brk` by the entry, of the work that completion leaves and of the work as it began; `eret` by what the
return and the completion leave of the slot. -/
theorem trapsAndReturns : Obligations.TrapsAndReturns := by
  refine ⟨fun s w st b hin hbase => ⟨fun hbegins => ?_, fun hbegins hbh => ?_⟩, fun s w st hbegins => ?_⟩
  all_goals
    obtain ⟨hm, hs, hws, hnpc⟩ := begins_scalar_work hbegins rfl
    have hruns : w.s.unit.st.runs = true := hs ▸ runs_of_issues hbegins.1.1
  · have hraise := exec_of_raise (i := .trap st b) (v := w.retire (.trap st b) w.s) (cause := cSVCALL) ⟨rfl, rfl⟩ rfl rfl
      (by decide) hbegins
    have hsup : (w.retire (.trap st b) w.s).s.sup = s.work.s.sup := (retire_sup ..).trans (by rw [hs])
    have hregs : (w.retire (.trap st b) w.s).s.regs = { s.work.s.regs with pc := s.work.s.regs.pc + 4 } := by
      rw [retire_s_regs _ _ hruns, hs, hnpc]
    have hentered := settle_entered (s := s) (.trap st b) (cause := cSVCALL) (BitVec.ofNat 64 b.val) (by rwa [hsup]) (by rwa [hsup])
      ((retire_ws ..).trans hws) ((retire_cur ..).trans (by rw [hm]))
    rw [← hraise, hsup, hregs] at hentered
    exact hentered
  · rw [exec_of_raise (i := .brk st b) (v := w) (cause := cBREAKPOINT) ⟨rfl, if_neg (by rw [hs, hbh]; decide)⟩ rfl rfl (by decide) hbegins]
    have hentered := settle_entered (s := s) (.brk st b) (v := w) (cause := cBREAKPOINT) (BitVec.ofNat 64 b.val) (by rwa [hs])
      (by rwa [hs]) hws (by rw [hm])
    rw [hs] at hentered
    exact hentered
  · rw [exec_of_runs (i := .eret st) ⟨rfl, rfl⟩ hbegins]
    have hws : w.returnFromTrap.ws = [] := hws
    generalize hv : ({ w.returnFromTrap with npc := w.s.sup.sepc } : Work) = v
    obtain ⟨hregs, hsup, hlink, helinks, hunit⟩ : v.s.regs = _ ∧ v.s.sup = _ ∧ v.s.thr.link = _ ∧ v.s.thr.elinks = _ ∧ v.s.unit = _ := by
      rw [← hv]
      exact returnFromTrap_s w
    have hpc : v.npc = w.s.sup.sepc := by rw [← hv]
    rw [completed_of_no_writes _ _ (by rw [← hv]; exact hws)]
    refine ⟨_, rfl, rfl, ?_⟩
    have ht : (State.work { toMach := (v.retire (.eret st) s.work.s).m, mem := s.mem }).s = (v.retire (.eret st) s.work.s).s := rfl
    obtain ⟨hlink', helinks'⟩ := retire_links v (.eret st) s.work.s
    dsimp only
    rw [ht, retire_s_regs _ _ (by rwa [hunit]), retire_sup, hlink', helinks', hregs, hsup, hlink, helinks, hpc, hs]
    exact ⟨rfl, rfl, rfl, rfl, rfl, rfl, rfl, rfl, rfl, rfl, rfl, rfl, rfl, rfl⟩

end Sys2Proof.Machine
end

section
/-! How units end: what a failure recorded, a unit dropped and a unit stopped leave of the machine, and the links that writes break. -/

namespace Sys2Proof.Machine

/-! ### Folds -/

/-- What every step of a fold keeps, the fold keeps. -/
theorem foldl_keeps {α β γ : Type} {g : α → β → α} (f : α → γ) (h : ∀ a b, f (g a b) = f a) (l : List β) (a : α) :
    f (l.foldl g a) = f a := by
  induction l generalizing a with
  | nil => rfl
  | cons b l ih => exact (ih (g a b)).trans (h a b)

/-- What survives every step of a fold survives the fold. -/
theorem foldl_stays {α β : Type} {g : α → β → α} {P : α → Prop} (hkeep : ∀ a c, P a → P (g a c)) (l : List β) {a : α} (h : P a) :
    P (l.foldl g a) := by
  induction l generalizing a with
  | nil => exact h
  | cons c l ih => exact ih (hkeep a c h)

/-- What holds after one step of a fold, and survives every step, holds after the fold. -/
theorem foldl_reaches {α β : Type} {g : α → β → α} {P : α → Prop} {b : β} (hb : ∀ a, P (g a b)) (hkeep : ∀ a c, P a → P (g a c))
    {l : List β} (hmem : b ∈ l) (a : α) : P (l.foldl g a) := by
  induction l generalizing a with
  | nil => cases hmem
  | cons c l ih =>
    rcases List.mem_cons.1 hmem with rfl | hmem
    · exact foldl_stays hkeep l (hb a)
    · exact ih hmem _

/-- An entry that is not the default is listed. -/
theorem mem_keys_of_tabGet {α : Type} {d : α} {t : Tab α} {n : Nat} (h : tabGet d t n ≠ d) : n ∈ t.map (fun p => p.1) := by
  induction t with
  | nil => exact absurd rfl h
  | cons p t ih =>
    obtain ⟨k, v⟩ := p
    by_cases hk : n = k
    · exact List.mem_cons.2 (.inl hk)
    · exact List.mem_cons.2 (.inr (ih (by rwa [tabGet, if_neg hk] at h)))

/-! ### What a failure leaves (14 R338, R349) -/

/-- A package without its notes about bytes: what is poisoned, and which Almanac writes are not at the persistence point. -/
def Pkg.bare (p : Pkg) : Pkg := { p with poison := [], unsettled := [], nextWrite := 0 }

/-- A machine without what the record of a failure may change: Umante's tables, the counts of the Annals, the notes about bytes, and
the counter of the free values. -/
def Mach.bare (m : Mach) : Mach :=
  { m with fresh := 0, sched := .reset, mgmt := { m.mgmt with annals := [] }, pkg := m.pkg.bare }

theorem slots_of_bare {a b : Mach} (h : a.bare = b.bare) : a.slots = b.slots := (congrArg Mach.slots h :)

theorem slot_of_bare {a b : Mach} (h : a.bare = b.bare) (n : Nat) : a.slot n = b.slot n :=
  congrArg (tabGet Slot.reset · n) (slots_of_bare h)

theorem bare_failLaunch (m : Mach) (lid : Nat) (f : Failure) : (m.failLaunch lid f).bare = m.bare := by
  unfold Mach.failLaunch
  split
  · rfl
  · dsimp only
    split <;> rfl

theorem bare_unitGone (m : Mach) (lid : Nat) : (m.unitGone lid).bare = m.bare := by
  unfold Mach.unitGone
  split
  · split <;> rfl
  · rfl

theorem bare_scrub (w : Work) (x : Nat) : (w.scrub x).m.bare = w.m.bare := by
  unfold Work.scrub
  dsimp only
  split
  · exact foldl_keeps (g := fun (m : Mach) (p : Nat × Nat) => m.countAnnals (.corrected _ _)) Mach.bare (fun _ _ => rfl) _ _
  · rfl

theorem bare_scrubs (l : List Nat) (w : Work) : (l.foldl (fun w x => w.scrub x) w).m.bare = w.m.bare :=
  foldl_keeps (fun w : Work => w.m.bare) bare_scrub l w

theorem bare_noteBytes (w : Work) (lid unit : Nat) (whole : Bool) (l : List (Nat × Byte)) :
    (w.noteBytes lid unit whole l).m.bare = w.m.bare :=
  congrArg (fun p : Pkg => ({ w.m.bare with pkg := p } : Mach))
    (foldl_keeps Pkg.bare (fun p x => by split <;> rfl) l.zipIdx w.m.pkg)

theorem bare_putNoted (w : Work) (lid unit loc : Nat) (data : List Byte) :
    (w.putNoted lid unit loc data).m.bare = w.m.bare := by
  unfold Work.putNoted
  rw [putBytes_m]
  split
  · exact bare_noteBytes _ _ _ _ _
  · rfl

theorem bare_queueError (w : Work) (loc cause : Nat) : (w.queueError loc cause).m.bare = w.m.bare :=
  (bare_putNoted ..).trans ((bare_putNoted ..).trans (bare_scrub ..))

theorem bare_faultQueue (w : Work) (lid : Nat) (f : Failure) : (w.faultQueue lid f).m.bare = w.m.bare := by
  unfold Work.faultQueue
  split
  · split
    · split
      · rfl
      · exact bare_queueError _ _ _
    · rfl
  · rfl

theorem bare_workFailLaunch (w : Work) (lid : Nat) (f : Failure) : (w.failLaunch lid f).m.bare = w.m.bare :=
  (bare_faultQueue ..).trans (bare_failLaunch ..)

/-! ### A unit dropped (14 R346; 15 R366) -/

/-- A machine without what the end of a unit may change: what a failure may, the slots, the cores and their shadows, and the copies. -/
def Mach.frame (m : Mach) : Mach := { m.bare with slots := [], cores := [], shadow := [], engines := [] }

theorem frame_of_bare {a b : Mach} (h : a.bare = b.bare) : a.frame = b.frame :=
  congrArg (fun m : Mach => ({ m with slots := [], cores := [], shadow := [], engines := [] } : Mach)) h

theorem jobs_of_frame {a b : Mach} (h : a.frame = b.frame) : a.jobs = b.jobs := (congrArg Mach.jobs h :)

theorem job_of_frame {a b : Mach} (h : a.frame = b.frame) (n : Nat) : a.job n = b.job n :=
  congrArg (tabGet Job.reset · n) (jobs_of_frame h)

theorem releaseTile_m (w : Work) (n : Nat) : (w.releaseTile n).m.slots = w.m.slots ∧ (w.releaseTile n).m.frame = w.m.frame := by
  unfold Work.releaseTile
  dsimp only
  split <;> exact ⟨rfl, rfl⟩

theorem frame_dropUnit (w : Work) (n : Nat) : (w.dropUnit n).m.frame = w.m.frame := (releaseTile_m w n).2

/-- What a dropped unit leaves in its slot. -/
def Slot.dropped (v : Slot) : Slot :=
  { Slot.reset with unit := { v.unit.cleared with
      st := .save, discard := true, ctx := v.unit.ctx, lid := v.unit.lid, unit := v.unit.unit, remoteOut := v.unit.remoteOut,
      notDurable := v.unit.notDurable } }

theorem slot_dropUnit (w : Work) (n k : Nat) :
    (w.dropUnit n).m.slot k = if k = n then (w.m.slot n).dropped else w.m.slot k := by
  have hslots : (w.dropUnit n).m.slots = tabSet w.m.slots n (w.m.slot n).dropped :=
    congrArg (tabSet · n _) (releaseTile_m w n).1
  rw [Mach.slot, hslots, tabGet_tabSet]
  rfl

theorem frame_killUnit (w : Work) (n : Nat) (f : Failure) : (w.killUnit n f).m.frame = w.m.frame :=
  (frame_dropUnit ..).trans (frame_of_bare (bare_workFailLaunch ..))

theorem slot_killUnit (w : Work) (n : Nat) (f : Failure) (k : Nat) :
    (w.killUnit n f).m.slot k = if k = n then (w.m.slot n).dropped else w.m.slot k := by
  have hslot := slot_of_bare (bare_workFailLaunch w (w.m.slot n).unit.lid f)
  rw [Work.killUnit, slot_dropUnit, hslot, hslot]

/-! ### Units stopped by the part (17 R422, R423) -/

/-- A slot whose unit is gone for good, its discard under way. -/
def Slot.Ended (v : Slot) : Prop := v.unit.st = .save ∧ v.unit.discard = true

theorem dropped_ended (v : Slot) : v.dropped.Ended := ⟨rfl, rfl⟩

/-- A slot without a unit to stop: IDLE, or one that is being discarded. -/
def Slot.still (v : Slot) : Bool := v.unit.st == .idle || v.unit.discard

theorem slot_stopUnit (w : Work) (n k : Nat) :
    (w.stopUnit n).m.slot k = if k = n ∧ (w.m.slot n).still = false then (w.m.slot n).dropped else w.m.slot k := by
  unfold Work.stopUnit Slot.still
  dsimp only
  split
  next h => rw [if_neg (by simp [h])]
  next h =>
    rw [slot_killUnit]
    simp only [Bool.not_eq_true] at h
    simp only [h, and_true]
    rfl

theorem frame_stopUnit (w : Work) (n : Nat) : (w.stopUnit n).m.frame = w.m.frame := by
  unfold Work.stopUnit
  dsimp only
  split
  · rfl
  · exact frame_killUnit _ _ _

theorem ended_stopUnit {w : Work} {n : Nat} (k : Nat) (h : (w.m.slot n).Ended) : ((w.stopUnit k).m.slot n).Ended := by
  rw [slot_stopUnit]
  split
  · exact dropped_ended _
  · exact h

/-- Where some units are stopped one after another, each of them that was not being discarded already has ended. -/
theorem ended_stopUnits {n : Nat} (l : List Nat) (w : Work) (hn : n ∈ l) (hidle : (w.m.slot n).unit.st ≠ .idle)
    (hdiscard : (w.m.slot n).unit.discard = false) : ((l.foldl Work.stopUnit w).m.slot n).Ended := by
  have hstill : (w.m.slot n).still = false := by simp [Slot.still, hidle, hdiscard]
  induction l generalizing w with
  | nil => cases hn
  | cons k l ih =>
    by_cases hk : n = k
    · subst hk
      refine foldl_stays (P := fun w : Work => (w.m.slot n).Ended) (fun _ k => ended_stopUnit k) l ?_
      rw [slot_stopUnit, if_pos ⟨rfl, hstill⟩]
      exact dropped_ended _
    · have hsame : (w.stopUnit k).m.slot n = w.m.slot n := by rw [slot_stopUnit, if_neg fun h => hk h.1]
      exact ih (w.stopUnit k) ((List.mem_cons.1 hn).resolve_left hk) (by rwa [hsame]) (by rwa [hsame]) (by rwa [hsame])

/-- The unit of a slot in shadow storage stopped, and its copies dropped. -/
def Work.stopImage (w : Work) (s : Slot) : Work :=
  let v := w.draw.2.failLaunch s.unit.lid (openFailure (Config.openWord w.draw.1) s)
  let m : Mach := { v.m with engines := v.m.engines.map (fun e =>
    (e.1, { cmds := e.2.cmds.filter (fun c => !(c.lid == s.unit.lid && c.unit == s.unit.unit)) })) }
  { v with m := m.unitGone s.unit.lid }

theorem stopShadow_eq (w : Work) (k : Nat) : w.stopShadow k =
    (([(tabGet CoreImage.reset w.m.shadow k).s0, (tabGet CoreImage.reset w.m.shadow k).s1].filter
      (fun s => s.unit.st != .idle)).foldl Work.stopImage w).clearShadow k := rfl

theorem stopImage_keeps (w : Work) (s : Slot) : (w.stopImage s).m.slots = w.m.slots ∧ (w.stopImage s).m.frame = w.m.frame := by
  have hfail := bare_workFailLaunch w.draw.2 s.unit.lid (openFailure (Config.openWord w.draw.1) s)
  have hslots : _ = w.m.slots := slots_of_bare hfail
  have hframe : _ = w.m.frame := frame_of_bare hfail
  exact ⟨(slots_of_bare (bare_unitGone _ _)).trans hslots, (frame_of_bare (bare_unitGone _ _)).trans hframe⟩

/-- A core's image in shadow storage that is stopped changes no slot, and nothing outside the frame. -/
theorem stopShadow_keeps (w : Work) (k : Nat) :
    (w.stopShadow k).m.slots = w.m.slots ∧ (w.stopShadow k).m.frame = w.m.frame := by
  rw [stopShadow_eq]
  exact ⟨foldl_keeps (fun w : Work => w.m.slots) (fun w s => (stopImage_keeps w s).1) _ w,
    foldl_keeps (fun w : Work => w.m.frame) (fun w s => (stopImage_keeps w s).2) _ w⟩

/-! ### The links that writes break (03 R71; 08 R203) -/

theorem slot_breakLinks (m : Mach) (hit : Nat → Bool) (n : Nat) :
    (m.breakLinks hit).slot n = if (m.slot n).linked hit then (m.slot n).breakLinks hit else m.slot n := by
  have hmap : m.slots.map (fun p => if p.2.linked hit then (p.1, p.2.breakLinks hit) else p) =
      m.slots.map (fun p => (p.1, if p.2.linked hit then p.2.breakLinks hit else p.2)) :=
    List.map_congr_left fun p _ => by split <;> rfl
  rw [Mach.slot, Mach.breakLinks, hmap]
  exact tabGet_map (f := fun v : Slot => if v.linked hit then v.breakLinks hit else v) rfl m.slots n

/-- Broken links leave all of a slot but its links. -/
theorem slot_breakLinks_unit (m : Mach) (hit : Nat → Bool) (n : Nat) : ((m.breakLinks hit).slot n).unit = (m.slot n).unit := by
  rw [slot_breakLinks]
  split <;> rfl

theorem wrote_eq (m : Mach) (ws : List Wr) : ∃ t, m.wrote ws = { m with slots := t } := by
  unfold Mach.wrote
  split <;> exact ⟨_, rfl⟩

theorem slot_wrote_unit (m : Mach) (ws : List Wr) (n : Nat) : ((m.wrote ws).slot n).unit = (m.slot n).unit := by
  unfold Mach.wrote
  split
  · rfl
  · exact slot_breakLinks_unit _ _ _

theorem slot_wrote_reset {m : Mach} {n : Nat} (h : m.slot n = Slot.reset) (ws : List Wr) : (m.wrote ws).slot n = Slot.reset := by
  unfold Mach.wrote
  split
  · exact h
  · rw [slot_breakLinks, h]
    rfl

end Sys2Proof.Machine
end

section
/-! Containment: the reset of a compute die, the failure of a base die, the loss of power, remote accesses and the persistence point. -/

namespace Sys2Proof.Machine

/-! ### Lists kept without a repetition -/

theorem mem_append_unless {α : Type} [BEq α] [LawfulBEq α] (l : List α) (a : α) : a ∈ (if l.contains a then l else l ++ [a]) := by
  split
  next h => exact List.contains_iff_mem.1 h
  next => exact List.mem_append_right l (List.mem_singleton_self a)

/-! ### What an event leaves -/

@[simp] theorem wrote_jobs (m : Mach) (ws : List Wr) : (m.wrote ws).jobs = m.jobs := by unfold Mach.wrote; split <;> rfl
@[simp] theorem wrote_pkg (m : Mach) (ws : List Wr) : (m.wrote ws).pkg = m.pkg := by unfold Mach.wrote; split <;> rfl
@[simp] theorem wrote_mgmt (m : Mach) (ws : List Wr) : (m.wrote ws).mgmt = m.mgmt := by unfold Mach.wrote; split <;> rfl

@[simp] theorem wrote_job (m : Mach) (ws : List Wr) (n : Nat) : (m.wrote ws).job n = m.job n :=
  congrArg (tabGet Job.reset · n) (wrote_jobs m ws)

/-- An event whose work writes no byte leaves the work's machine. -/
theorem event_writes_none {f : Work → M Work} {s : State} {w : Work} (e : f s.work = .ok w) (h : w.ws = []) :
    event f s = .next { toMach := w.m, mem := s.mem } :=
  (event_ok e).trans (congrArg _ (finish_of_no_writes w s h))

/-! ### Umante's part (14 R338, R352) -/

/-- A machine without Umante's tables. -/
def Mach.hardware (m : Mach) : Mach := { m with sched := .reset }

theorem hardware_unitGone (m : Mach) (lid : Nat) : (m.unitGone lid).hardware = m.hardware := by
  unfold Mach.unitGone
  split
  · split <;> rfl
  · rfl

theorem hardware_reap (m : Mach) : m.reap.hardware = m.hardware := by
  unfold Mach.reap
  exact (foldl_keeps Mach.hardware (fun m _ => by exact hardware_unitGone m _) _ _).trans rfl

@[simp] theorem slots_reap (m : Mach) : m.reap.slots = m.slots := (congrArg Mach.slots (hardware_reap m) :)
@[simp] theorem jobs_reap (m : Mach) : m.reap.jobs = m.jobs := (congrArg Mach.jobs (hardware_reap m) :)
@[simp] theorem mgmt_reap (m : Mach) : m.reap.mgmt = m.mgmt := (congrArg Mach.mgmt (hardware_reap m) :)

/-- A change of every entry of a table, by its number too, that leaves the default alone. -/
theorem tabGet_mapWith {α : Type} {d : α} {f : Nat → α → α} {n : Nat} (hd : f n d = d) (t : Tab α) :
    tabGet d (t.map (fun p => (p.1, f p.1 p.2))) n = f n (tabGet d t n) := by
  induction t with
  | nil => exact hd.symm
  | cons p t ih =>
    obtain ⟨k, v⟩ := p
    simp only [List.map_cons, tabGet]
    split
    next h => rw [h]
    · exact ih

/-- Entries changed where a condition on the number and the value holds. -/
theorem tabGet_mapIf {α : Type} {d : α} {p : Nat → α → Prop} [∀ n v, Decidable (p n v)] {f : α → α} {n : Nat}
    (hd : ¬p n d ∨ f d = d) (t : Tab α) :
    tabGet d (t.map (fun e => if p e.1 e.2 then (e.1, f e.2) else e)) n =
      if p n (tabGet d t n) then f (tabGet d t n) else tabGet d t n := by
  have hmap : t.map (fun e => if p e.1 e.2 then (e.1, f e.2) else e) = t.map (fun e => (e.1, if p e.1 e.2 then f e.2 else e.2)) :=
    List.map_congr_left fun e _ => by split <;> rfl
  rw [hmap]
  exact tabGet_mapWith (f := fun k v => if p k v then f v else v) (by rcases hd with h | h <;> simp [h]) t

theorem cancelEntry_keeps (m : Mach) (ix : Nat) : (m.cancelEntry ix).jobs = m.jobs ∧ (m.cancelEntry ix).contexts = m.contexts ∧
    (m.cancelEntry ix).pkg = m.pkg ∧ ∀ n, (m.slot n).unit.st ≠ .idle → (m.cancelEntry ix).slot n = m.slot n := by
  unfold Mach.cancelEntry
  extract_lets hit hitLid gone m1 free m2
  have hhw : (m2.mapCopies (fun c => if hitLid c.lid then { c with cancelled := true } else c)).reap.noteRoom.hardware =
      (m2.mapCopies (fun c => if hitLid c.lid then { c with cancelled := true } else c)).hardware := hardware_reap _
  refine ⟨(congrArg Mach.jobs hhw :), (congrArg Mach.contexts hhw :), (congrArg Mach.pkg hhw :), fun n hn => ?_⟩
  have hslots : (m2.mapCopies (fun c => if hitLid c.lid then { c with cancelled := true } else c)).reap.noteRoom.slots = m2.slots :=
    (congrArg Mach.slots hhw :)
  rw [Mach.slot, hslots]
  refine (tabGet_mapIf (p := fun n v => free n v.unit = true) (f := fun v : Slot => { v with unit := { v.unit with cmd := 0 } })
    (d := Slot.reset) (.inl Bool.false_ne_true) m.slots).trans (if_neg ?_)
  have hidle : ((m.slot n).unit.st == .idle) = false := beq_eq_false_iff_ne.2 hn
  simp only [free, Mach.slot] at hidle ⊢
  simp [hidle]

theorem cancelJob_keeps (m : Mach) (job : Nat) : (m.cancelJob job).jobs = m.jobs ∧ (m.cancelJob job).contexts = m.contexts ∧
    (m.cancelJob job).pkg = m.pkg ∧ ∀ n, (m.slot n).unit.st ≠ .idle → (m.cancelJob job).slot n = m.slot n := by
  unfold Mach.cancelJob
  refine ⟨foldl_keeps Mach.jobs (fun m ix => (cancelEntry_keeps m ix).1) _ m,
    foldl_keeps Mach.contexts (fun m ix => (cancelEntry_keeps m ix).2.1) _ m,
    foldl_keeps Mach.pkg (fun m ix => (cancelEntry_keeps m ix).2.2.1) _ m, fun n hn => ?_⟩
  refine foldl_stays (P := fun m' : Mach => m'.slot n = m.slot n) (fun m' ix h => ?_) _ rfl
  exact ((cancelEntry_keeps m' ix).2.2.2 n (by rwa [h])).trans h

/-! ### The reset of a compute die (13 R316) -/

/-- A unit that is given up, and its local bytes cleared, leave all but the core. -/
theorem loseSlot_mgmt (w : Work) (n : Nat) : (w.loseSlot n).m.mgmt = w.m.mgmt := by
  have hclear (w : Work) (c : Bool) : (w.clearLocal n c).m = w.m := by unfold Work.clearLocal; dsimp only; split <;> rfl
  have hrelease : (w.releaseTile n).m.mgmt = w.m.mgmt := by unfold Work.releaseTile; dsimp only; split <;> rfl
  unfold Work.loseSlot
  rw [hclear]
  unfold Work.giveUp
  dsimp only
  split <;> exact hrelease

theorem settleAlmanac_mgmt (w : Work) (l : List (Nat × Nat)) : (w.settleAlmanac l).m.mgmt = w.m.mgmt :=
  foldl_keeps (fun w : Work => w.m.mgmt) (fun _ _ => by rfl) _ _

theorem clearVaults_m (l : List Nat) (w : Work) :
    (l.foldl Work.clearVault w).m.mgmt = w.m.mgmt ∧ (l.foldl Work.clearVault w).m.jobs = w.m.jobs :=
  ⟨foldl_keeps (fun w : Work => w.m.mgmt) (fun _ _ => by rfl) _ _, foldl_keeps (fun w : Work => w.m.jobs) (fun _ _ => by rfl) _ _⟩

/-- Every one of some jobs stopped. -/
def Mach.stopJobs (m : Mach) (jobs : List Nat) : Mach := jobs.foldl (fun m j => m.setJob j { m.job j with stopped := true }) m

theorem stopJobs_stopped (m : Mach) {jobs : List Nat} {j : Nat} (h : j ∈ jobs) : ((m.stopJobs jobs).job j).stopped = true := by
  refine foldl_reaches (P := fun m : Mach => (m.job j).stopped = true) (fun m => by rw [job_setJob_self]) (fun m k hm => ?_) h m
  by_cases hk : j = k
  · rw [hk, job_setJob_self]
  · rwa [job_setJob_ne _ _ hk]

theorem loseJobs_mgmt (w : Work) (jobs : List Nat) : (w.loseJobs jobs).m.mgmt = w.m.mgmt := by
  refine ((clearVaults_m _ _).1.trans (foldl_keeps Mach.mgmt (fun _ _ => by rfl) _ _)).trans ?_
  refine (foldl_keeps (fun w : Work => w.m.mgmt) (fun _ _ => by rfl) _ _).trans ?_
  refine (foldl_keeps (fun w : Work => w.m.mgmt) loseSlot_mgmt _ _).trans ?_
  exact (foldl_keeps (fun w : Work => w.m.mgmt) (fun _ _ => by rfl) _ _).trans (settleAlmanac_mgmt ..)

theorem loseJobs_stopped (w : Work) {jobs : List Nat} {j : Nat} (h : j ∈ jobs) : ((w.loseJobs jobs).m.job j).stopped = true :=
  (congrArg (fun t => (tabGet Job.reset t j).stopped) (clearVaults_m _ _).2).trans (stopJobs_stopped _ h)

/-- The cores of a die cleared. -/
theorem clearCores_m (l : List Nat) (w : Work) : (l.foldl Work.clearCore w).m.slots = w.m.slots ∧
    (l.foldl Work.clearCore w).m.jobs = w.m.jobs ∧ (l.foldl Work.clearCore w).m.mgmt = w.m.mgmt :=
  ⟨foldl_keeps (fun w : Work => w.m.slots) (fun _ _ => by rfl) _ _, foldl_keeps (fun w : Work => w.m.jobs) (fun _ _ => by rfl) _ _,
    foldl_keeps (fun w : Work => w.m.mgmt) (fun _ _ => by rfl) _ _⟩

theorem resetDie_leaves (die : Nat) (w : Work) : ∃ w', resetDie die w = .ok w' ∧ w'.m.mgmt = w.m.mgmt ∧
    (∀ n, dieOf n = die → w'.m.slot n = Slot.reset) ∧ ∀ j ∈ w.m.jobsOn die, (w'.m.job j).stopped = true := by
  refine ⟨_, rfl, ?_, fun n hn => ?_, fun j hj => ?_⟩
  · exact (clearCores_m _ _).2.2.trans ((mgmt_reap _).trans (loseJobs_mgmt w _))
  · refine (congrArg (tabGet Slot.reset · n) ((clearCores_m _ _).1.trans (slots_reap _))).trans ?_
    exact (tabGet_mapIf (p := fun n _ => dieOf n = die) (f := fun _ => Slot.reset) (.inr rfl) _).trans (if_pos hn)
  · refine (congrArg (fun t => (tabGet Job.reset t j).stopped) ((clearCores_m _ _).2.1.trans (jobs_reap _))).trans ?_
    exact loseJobs_stopped w hj

/-! ### The failure of a base die (17 R422) -/

/-- Every one of some jobs ended for good. -/
def Mach.endJobs (m : Mach) (jobs : List Nat) : Mach :=
  jobs.foldl (fun m j => (m.cancelJob j).setJob j { (m.cancelJob j).job j with
    live := false, stopped := true, ring := none, reference := [] }) m

theorem endJobs_keeps (m : Mach) (jobs : List Nat) : (m.endJobs jobs).pkg = m.pkg ∧
    ∀ n, (m.slot n).unit.st ≠ .idle → (m.endJobs jobs).slot n = m.slot n := by
  refine ⟨foldl_keeps Mach.pkg (fun m j => by exact (cancelJob_keeps m j).2.2.1) _ _, fun n hn => ?_⟩
  refine foldl_stays (P := fun m' : Mach => m'.slot n = m.slot n) (fun m' j h => ?_) _ rfl
  exact ((cancelJob_keeps m' j).2.2.2 n (by rwa [h])).trans h

theorem endJobs_ends (m : Mach) {jobs : List Nat} {j : Nat} (h : j ∈ jobs) :
    ((m.endJobs jobs).job j).live = false ∧ ((m.endJobs jobs).job j).stopped = true := by
  refine foldl_reaches (P := fun m : Mach => (m.job j).live = false ∧ (m.job j).stopped = true)
    (fun m => by simp only [job_setJob_self, and_self]) (fun m k hm => ?_) h m
  by_cases hk : j = k
  · simp only [hk, job_setJob_self, and_self]
  · rw [job_setJob_ne _ _ hk, Mach.job, (cancelJob_keeps m k).1]
    exact hm

/-- Units stopped, in some slots and in shadow storage. -/
def Work.stopAll (w : Work) (slots shadows : List Nat) : Work := shadows.foldl Work.stopShadow (slots.foldl Work.stopUnit w)

theorem stopAll_frame (w : Work) (slots shadows : List Nat) : (w.stopAll slots shadows).m.frame = w.m.frame :=
  (foldl_keeps (fun w : Work => w.m.frame) (fun w k => (stopShadow_keeps w k).2) shadows _).trans
    (foldl_keeps (fun w : Work => w.m.frame) frame_stopUnit slots w)

theorem stopAll_ended {w : Work} {slots : List Nat} {n : Nat} (hn : n ∈ slots) (hidle : (w.m.slot n).unit.st ≠ .idle)
    (hdiscard : (w.m.slot n).unit.discard = false) (shadows : List Nat) : ((w.stopAll slots shadows).m.slot n).Ended := by
  have hslots := foldl_keeps (fun w : Work => w.m.slots) (fun w k => (stopShadow_keeps w k).1) shadows (slots.foldl Work.stopUnit w)
  exact (congrArg (fun t => (tabGet Slot.reset t n).Ended) hslots).mpr (ended_stopUnits slots w hn hidle hdiscard)

theorem vacant_of_failed {m : Mach} {n : Nat} (h : dieOf n ∈ m.pkg.basesFailed) : m.vacant n = false := by
  have hout : m.pkg.inService (dieOf n) = false := by
    rw [Pkg.inService, List.contains_iff_mem.2 h, Bool.not_true, Bool.and_false]
  simp [Mach.vacant, hout]

/-- The failure of a base die, for any lists of jobs, slots and shadows that it is found to end. -/
theorem baseDieFailure_leaves (die : Fin 4) (w : Work) : ∃ w', bodyBaseDieFailure die w = .ok w' ∧
    die.val ∈ w'.m.pkg.basesFailed ∧
    (∀ n, dieOf n = die.val → (w.m.slot n).unit.st ≠ .idle → (w.m.slot n).unit.discard = false → (w'.m.slot n).Ended) ∧
    ∀ j ∈ w.m.jobs, j.2.live = true →
      (∃ r ∈ w.m.outsideAlmanac (w.jobRuns j.1), Config.rangeInDie r.1 r.2 die.val = true) →
      (w'.m.job j.1).live = false ∧ (w'.m.job j.1).stopped = true := by
  unfold bodyBaseDieFailure
  extract_lets p failed hit jobs m src w1 ends shadows
  obtain ⟨hpkg, hslots⟩ := endJobs_keeps w.m jobs
  have hframe := stopAll_frame w1 ((w1.m.slots.map (fun p => p.1)).filter ends) shadows
  refine ⟨w1.stopAll ((w1.m.slots.map (fun p => p.1)).filter ends) shadows, rfl, ?_, fun n hn hidle hdiscard => ?_,
    fun j hj hlive hdie => ?_⟩
  · have hfailed : die.val ∈ failed := mem_append_unless p.basesFailed die.val
    exact (congrArg (fun m : Mach => m.pkg.basesFailed) hframe :).symm ▸ hfailed
  · have hslot : w1.m.slot n = w.m.slot n := hslots n hidle
    have hlisted : n ∈ (w1.m.slots.map (fun p => p.1)).filter ends := by
      refine List.mem_filter.2 ⟨mem_keys_of_tabGet (d := Slot.reset) (fun h => hidle ?_), by simp [ends, hn]⟩
      rw [← hslot]
      exact congrArg (fun v : Slot => v.unit.st) h
    exact stopAll_ended hlisted (by rwa [hslot]) (by rwa [hslot]) shadows
  · rw [job_of_frame hframe]
    refine endJobs_ends w.m (List.mem_map_of_mem (List.mem_filter.2 ⟨hj, ?_⟩))
    simpa [hlive, hit] using hdie

/-! ### The loss of power (17 R422) -/

theorem resetPackage_mem (s : State) {a : Nat} (ha : a < 2 ^ 64) : memGet (s.work.resetPackage.finish s).mem a = 0 := by
  rw [finish_mem]
  exact (memGet_memClear s.mem 0 (2 ^ 64) a).trans (if_pos ⟨a.zero_le, by omega⟩)

/-! ### Reads that write a good copy back (13 R314) -/

theorem scrub_ws (w : Work) (x : Nat) : (w.scrub x).ws = w.ws := by unfold Work.scrub; dsimp only; split <;> rfl

theorem scrubs_ws (l : List Nat) (w : Work) : (l.foldl (fun w x => w.scrub x) w).ws = w.ws :=
  foldl_keeps (fun w : Work => w.ws) scrub_ws l w

theorem scrub_almanac (w : Work) (x l : Nat) : (w.scrub x).m.almanac l = w.m.almanac l :=
  congrArg (fun t : Tab Job => t.any (fun j => j.2.live && j.2.almanac.any (fun r => decide (r.1 ≤ l) && decide (l < r.1 + r.2))))
    (congrArg Mach.jobs (bare_scrub w x) :)

theorem counts_pkg {α : Type} (f : α → AnnalsKey) (l : List α) (m : Mach) : (l.foldl (fun m p => m.countAnnals (f p)) m).pkg = m.pkg :=
  foldl_keeps Mach.pkg (fun _ _ => by rfl) l m

/-- The poison that a read leaves. -/
theorem scrub_poison (w : Work) (x : Nat) : (w.scrub x).m.pkg.poison =
    if w.m.almanac x && !w.m.poisoned x && w.m.pkg.poison.any (fun p => p.1 = lineOf x) then
      w.m.pkg.poison.filter (fun p => p.1 ≠ lineOf x) else w.m.pkg.poison := by
  unfold Work.scrub
  dsimp only
  by_cases h : (w.m.almanac x && !w.m.poisoned x && w.m.pkg.poison.any (fun p => p.1 = lineOf x)) = true
  · rw [if_pos h, if_pos h]
    dsimp only
    rw [counts_pkg]
  · rw [if_neg h, if_neg h]

theorem mem_poison_of_scrub {w : Work} {x : Nat} {p : Nat × Nat} (h : p ∈ (w.scrub x).m.pkg.poison) : p ∈ w.m.pkg.poison := by
  rw [scrub_poison] at h
  split at h
  · exact (List.mem_filter.1 h).1
  · exact h

/-- Whether a line is poisoned rests on the jobs' Almanac regions, the failed base dies and what is poisoned. -/
theorem scrub_poisoned {w : Work} (x : Nat) {l : Nat} (h : w.m.poisoned l = false) : (w.scrub x).m.poisoned l = false := by
  have hbases : (w.scrub x).m.pkg.basesFailed = w.m.pkg.basesFailed := (congrArg (fun m : Mach => m.pkg.basesFailed) (bare_scrub w x) :)
  have hcopy k (hgood : w.m.badCopy (lineOf l) k = false) : (w.scrub x).m.badCopy (lineOf l) k = false := by
    simp only [Mach.badCopy, Bool.or_eq_false_iff, hbases] at hgood ⊢
    refine ⟨Bool.eq_false_iff.2 fun hin => ?_, hgood.2⟩
    exact Bool.false_ne_true (hgood.1.symm.trans (List.contains_iff_mem.2 (mem_poison_of_scrub (List.contains_iff_mem.1 hin))))
  have hlost : (w.scrub x).m.lostWithBase l = w.m.lostWithBase l := by simp only [Mach.lostWithBase, hbases]
  unfold Mach.poisoned at h ⊢
  rw [scrub_almanac]
  split at h
  next ha =>
    rw [if_pos ha]
    rw [Bool.and_eq_false_iff] at h ⊢
    exact h.imp (hcopy 0) (hcopy 1)
  next ha =>
    rw [if_neg ha, hlost]
    rw [Bool.or_eq_false_iff] at h ⊢
    refine ⟨List.any_eq_false.2 fun p hp => List.any_eq_false.1 h.1 p (mem_poison_of_scrub hp), h.2⟩

/-- A read of an Almanac line with a good copy leaves no copy of it bad. -/
theorem scrub_clears {w : Work} {l : Nat} (ha : w.m.almanac l = true) (hp : w.m.poisoned l = false) :
    ∀ p ∈ (w.scrub l).m.pkg.poison, p.1 ≠ lineOf l := by
  intro p hmem hline
  have hbad : w.m.pkg.poison.any (fun p => p.1 = lineOf l) = true :=
    List.any_eq_true.2 ⟨p, mem_poison_of_scrub hmem, decide_eq_true hline⟩
  rw [scrub_poison, ha, hp, hbad, if_pos (by rfl)] at hmem
  exact of_decide_eq_true (List.mem_filter.1 hmem).2 hline

theorem scrubs_clear (locs : List Nat) (w : Work) {l : Nat} (hl : l ∈ locs) (ha : w.m.almanac l = true) (hp : w.m.poisoned l = false) :
    ∀ p ∈ (locs.foldl (fun w x => w.scrub x) w).m.pkg.poison, p.1 ≠ lineOf l := by
  induction locs generalizing w with
  | nil => cases hl
  | cons x locs ih =>
    rcases List.mem_cons.1 hl with rfl | hl
    · exact foldl_stays (P := fun w : Work => ∀ p ∈ w.m.pkg.poison, p.1 ≠ lineOf l) (fun w y h p hp => h p (mem_poison_of_scrub hp))
        locs (scrub_clears ha hp)
    · exact ih (w.scrub x) hl ((scrub_almanac w x l).trans ha) (scrub_poisoned x hp)

/-! ### Remote accesses (12 R299, R303; 16 R409) -/

/-- A load that arrives from another package: its answer is what this one's memory holds, and good Almanac copies are written back. -/
theorem remoteLoad_leaves (s : State) (pkg : Nat) {pa size : Nat} (hsize : size ≤ 64) (hend : pa + size ≤ hbmEnd)
    (hread : readable s.toMach (span (hbmLoc pa) size) = .ok ())
    (hgood : ∀ l ∈ span (hbmLoc pa) size, s.toMach.poisoned l = false) :
    exec (.remoteAccessArrival (.load pkg pa size)) s =
      (let w := (span (hbmLoc pa) size).foldl (fun w x => w.scrub x) s.work
       .next { toMach := { w.m with pkg := { w.m.pkg with remoteReply := s.work.bytes (hbmLoc pa) size } }, mem := s.mem }) := by
  let w := (span (hbmLoc pa) size).foldl (fun w x => w.scrub x) s.work
  have hbytes : w.bytes (hbmLoc pa) size = s.work.bytes (hbmLoc pa) size := bytes_of_byte (scrubs_keep _ _).2.2 _ _
  have hnone : (span (hbmLoc pa) size).any s.work.m.poisoned = false :=
    List.any_eq_false.2 fun l hl => Bool.eq_false_iff.1 (hgood l hl)
  refine event_writes_none (w := { w with m := { w.m with pkg := { w.m.pkg with remoteReply := s.work.bytes (hbmLoc pa) size } } }) ?_
    (scrubs_ws _ _)
  refine (if_neg (show ¬(64 < size ∨ hbmEnd < pa + size) by omega)).trans ?_
  rw [show readable s.work.m _ = .ok () from hread, ← hbytes]
  exact if_neg (Bool.eq_false_iff.1 hnone)

/-- A store that arrives from another package: its bytes. -/
theorem remoteStore_leaves (s : State) (pkg : Nat) {pa : Nat} {bytes : List Byte} (hsize : bytes.length ≤ 64)
    (hend : pa + bytes.length ≤ hbmEnd) (hwrite : writable s.toMach 384 (span (hbmLoc pa) bytes.length) = .ok ()) (hmem : s.MemOk) :
    ∃ t : State, exec (.remoteAccessArrival (.store pkg pa bytes)) s = .next t ∧
      ∀ a, memGet t.mem a =
        if hbmLoc pa ≤ a ∧ a < hbmLoc pa + bytes.length then bytes.getD (a - hbmLoc pa) 0 else memGet s.mem a := by
  let w : Work := s.work.noteBytes 0 0 ([1, 2, 4, 8].contains bytes.length && pa % bytes.length == 0)
    (bytes.zipIdx.map (fun p => (hbmLoc pa + p.2, p.1)))
  refine ⟨_, event_ok (f := bodyRemoteAccessArrival _) (w := w.putBytes (hbmLoc pa) bytes) ?_, fun a => ?_⟩
  · refine (if_neg (show ¬(64 < bytes.length ∨ hbmEnd < pa + bytes.length) by omega)).trans ?_
    rw [show writable s.work.m _ _ = .ok () from hwrite]
    rfl
  · rw [finish_mem, memGet_applyWrs hmem]
    have hbyte := byte_putBytes w (hbmLoc pa) bytes a
    rw [Work.byte, putBytes_base] at hbyte
    exact hbyte

/-- A remote access that is not acknowledged: the list of packages that are unreachable, and the slot. -/
theorem unanswered_leaves (w : Work) (n pkg : Nat) (a : Word) : pkg ∈ (w.unanswered n pkg a).m.pkg.unreachable ∧
    ((w.unanswered n pkg a).m.slot n).unit.remoteOut = 0 ∧
    ((w.m.slot n).unit.st ≠ .idle → (w.m.slot n).unit.discard = false → ((w.unanswered n pkg a).m.slot n).Ended) := by
  unfold Work.unanswered
  extract_lets u w1 p unreachable src w2 w3 v v1 m
  have hslot : w2.m.slot n = w.m.slot n := rfl
  have hpkg : pkg ∈ w2.m.pkg.unreachable := mem_append_unless p.unreachable pkg
  have hframe : w3.m.frame = w2.m.frame := by
    simp only [w3]
    split
    · exact frame_killUnit _ _ _
    · rfl
  have hset : m.slot n = { w3.m.slot n with unit := { (w3.m.slot n).unit with remoteOut := 0 } } := slot_setSlot_self _ _ _
  refine ⟨(congrArg (fun m : Mach => m.pkg.unreachable) hframe :).symm ▸ hpkg, by rw [hset], fun hidle hdiscard => ?_⟩
  have hended : (w3.m.slot n).Ended := by
    have hlive : (u.st != .idle && !u.discard) = true := by simp [u, hidle, hdiscard]
    simp only [w3, if_pos hlive]
    rw [slot_killUnit, if_pos rfl]
    exact dropped_ended _
  rw [hset]
  exact hended

/-- Settles O57: the reset, the failure and the loss of power by what each leaves; the events of remote accesses by their bodies. -/
theorem resetsAndPersistence : Obligations.ResetsAndPersistence := by
  refine ⟨fun s die => ⟨?_, ?_, ?_⟩, fun s n pkg pa size bytes a => ⟨?_, ?_, ?_, ?_, ?_, ?_⟩⟩
  · obtain ⟨w, hw, hmgmt, hslots, hjobs⟩ := resetDie_leaves die.val s.work
    exact ⟨_, event_ok (f := bodyComputeDieReset die) hw, (wrote_mgmt _ _).trans hmgmt, fun n _ hn => slot_wrote_reset (hslots n hn) _,
      fun j hj => (congrArg Job.stopped (wrote_job _ _ j)).trans (hjobs j hj)⟩
  · obtain ⟨w, hw, hdie, hslots, hjobs⟩ := baseDieFailure_leaves die s.work
    have hpkg : die.val ∈ (w.finish s).pkg.basesFailed := (congrArg Pkg.basesFailed (wrote_pkg w.m w.unspent)).symm ▸ hdie
    refine ⟨_, event_ok (f := bodyBaseDieFailure die) hw, hpkg, fun n hn => ⟨vacant_of_failed (hn ▸ hpkg), fun hidle hdiscard => ?_⟩,
      fun j hj hlive hdie => ?_⟩
    · rw [finish_toMach, slot_wrote_unit]
      exact hslots n hn hidle hdiscard
    · rw [finish_toMach, wrote_job]
      exact hjobs j hj hlive hdie
  · exact ⟨_, event_ok (f := bodyPowerLoss) rfl, rfl, rfl, rfl, rfl, rfl, rfl, rfl, rfl, rfl, rfl, rfl,
      fun _ a ha => resetPackage_mem s ha⟩
  · exact event_writes_none (f := bodyRemoteAcknowledgement n) rfl rfl
  · exact fun hn => event_writes_none (f := bodyPersistencePointReached n) (if_neg hn) rfl
  · exact event_writes_none (f := bodyPersistencePointReached 384) rfl rfl
  · intro hsize hend hread hgood
    exact ⟨_, remoteLoad_leaves s pkg hsize hend hread hgood, rfl, rfl, fun l hl ha => scrubs_clear _ s.work hl ha (hgood l hl)⟩
  · intro hsize hend hwrite hmem
    obtain ⟨t, ht, hbyte⟩ := remoteStore_leaves s pkg hsize hend hwrite hmem
    refine ⟨t, ht, fun i hi => ?_, fun x hx => ?_⟩
    · rw [hbyte, if_pos (by omega), Nat.add_sub_cancel_left]
    · rw [hbyte, if_neg (by omega)]
  · intro hwaits
    obtain ⟨hpkg, hout, hend⟩ := unanswered_leaves s.work n pkg a
    refine ⟨_, event_ok (f := bodyRemoteAckTimeout n pkg a) (if_neg fun h => ?_), ?_, ?_, ?_⟩
    · exact hwaits.elim (absurd h.1) h.2
    · exact (congrArg Pkg.unreachable (wrote_pkg _ _)).symm ▸ hpkg
    · rw [finish_toMach, slot_wrote_unit]
      exact hout
    · rw [finish_toMach, slot_wrote_unit]
      exact hend

end Sys2Proof.Machine
end

section
/-! The restore of a job from its records. -/

namespace Sys2Proof.Machine

/-! ### What the reads of a restore leave (13 R314) -/

theorem contexts_of_bare {a b : Mach} (h : a.bare = b.bare) : a.contexts = b.contexts := (congrArg Mach.contexts h :)

theorem bare_scrubWalk (w : Work) (who : Nat) (spt : Word) (va : Nat) : (w.scrubWalk who spt va).m.bare = w.m.bare := by
  unfold Work.scrubWalk
  split
  · rfl
  · exact bare_scrubs _ w

theorem bare_scrubWalks (w : Work) (who : Nat) (spt : Word) (l : List Nat) : (w.scrubWalks who spt l).m.bare = w.m.bare :=
  foldl_keeps (fun w : Work => w.m.bare) (fun w a => bare_scrubWalk w who spt a) l w

theorem bare_scrubRuns (w : Work) (l : List (Nat × Nat)) : (w.scrubRuns l).m.bare = w.m.bare :=
  foldl_keeps (fun w : Work => w.m.bare)
    (fun w _ => foldl_keeps (fun w : Work => w.m.bare) (fun w p => by exact bare_scrub w _) _ w) l w

theorem bare_followPrev (i ctx : Nat) (s : Word) (k : Nat) (w : Work) (h : Word) : (w.followPrev i ctx s h k).2.m.bare = w.m.bare := by
  induction k generalizing w h with
  | zero => rfl
  | succ k ih =>
    unfold Work.followPrev
    split
    · exact bare_scrubWalks ..
    next b block _ =>
      have hread : ((w.scrubCtx ctx h 128).scrubRuns block).m.bare = w.m.bare := (bare_scrubRuns ..).trans (bare_scrubWalks ..)
      dsimp only
      split
      · exact hread
      · split
        · exact hread
        · exact (ih _ _).trans hread

theorem bare_scrubRecord (w : Work) (i ctx : Nat) (h : Word) : (w.scrubRecord i ctx h).m.bare = w.m.bare := by
  unfold Work.scrubRecord
  split
  · exact (bare_scrubWalks ..).trans ((bare_scrubRuns ..).trans (bare_scrubWalks ..))
  · rfl

/-! ### The records followed (13 R332 steps 3 and 4) -/

/-- One context's record sought, and noted. -/
def seekRecord (i : Nat) (s : Word) (p : List (Nat × Option Word) × Work) (c : Nat) : List (Nat × Option Word) × Work :=
  let r := p.2.followPrev i c s (p.2.m.context c).rpbase ((p.2.m.context c).rpseq.toNat + 1)
  (p.1 ++ [(c, r.1)], r.2)

theorem seekRecords_fst (i : Nat) (s : Word) (l : List Nat) (p : List (Nat × Option Word) × Work) :
    (l.foldl (seekRecord i s) p).1.map (fun x => x.1) = p.1.map (fun x => x.1) ++ l := by
  induction l generalizing p with
  | nil => simp
  | cons c l ih => rw [List.foldl_cons, ih]; simp [seekRecord]

theorem bare_seekRecords (i : Nat) (s : Word) (l : List Nat) (p : List (Nat × Option Word) × Work) :
    (l.foldl (seekRecord i s) p).2.m.bare = p.2.m.bare :=
  foldl_keeps (fun p : List (Nat × Option Word) × Work => p.2.m.bare) (fun p _ => bare_followPrev i _ s _ p.2 _) l p

/-! ### The recovery points set (13 R332 step 5) -/

/-- The recovery point of a context at a record. -/
def Mach.recoverAt (s : Word) (m : Mach) (p : Nat × Word) : Mach :=
  let x := m.context p.1
  m.setContext p.1 { x with rpgen := x.rpgen + 1, rpbase := keepBits p.2 7 50, rpseq := s }

theorem recoverAt_other (s : Word) (m : Mach) {p : Nat × Word} {c : Nat} (h : c ≠ p.1) : (m.recoverAt s p).context c = m.context c :=
  context_setContext_ne _ _ h

theorem recoverAll_other (s : Word) {l : List (Nat × Word)} {c : Nat} (h : ∀ p ∈ l, c ≠ p.1) (m : Mach) :
    (l.foldl (Mach.recoverAt s) m).context c = m.context c := by
  induction l generalizing m with
  | nil => rfl
  | cons p l ih => exact (ih (fun q hq => h q (.tail _ hq)) _).trans (recoverAt_other s m (h p (.head _)))

/-- Where no context stands twice, each one's recovery point is the record found for it. -/
theorem recoverAll_context (s : Word) {l : List (Nat × Word)} (hnodup : (l.map (fun p => p.1)).Nodup) (m : Mach) {p : Nat × Word}
    (hp : p ∈ l) : (l.foldl (Mach.recoverAt s) m).context p.1 =
      { m.context p.1 with rpgen := (m.context p.1).rpgen + 1, rpbase := keepBits p.2 7 50, rpseq := s } := by
  induction l generalizing m with
  | nil => cases hp
  | cons q l ih =>
    obtain ⟨hnot, hnodup⟩ := List.nodup_cons.1 hnodup
    rcases List.mem_cons.1 hp with rfl | hp
    · have hrest : ∀ k ∈ l, p.1 ≠ k.1 := fun k hk h => hnot (List.mem_map.2 ⟨k, hk, h.symm⟩)
      exact (recoverAll_other s hrest _).trans (context_setContext_self _ _ _)
    · have hne : p.1 ≠ q.1 := fun h => hnot (List.mem_map.2 ⟨p, hp, h⟩)
      rw [List.foldl_cons, ih hnodup _ hp, recoverAt_other s m hne]

/-! ### The launches bound again (13 R332 steps 6 and 7) -/

theorem hardware_hold (m : Mach) (ix : Nat) : (m.hold ix).hardware = m.hardware := rfl

theorem hardware_marksAgain (m : Mach) (l : Launch) : (m.marksAgain l).2.hardware = m.hardware := by
  unfold Mach.marksAgain
  split
  · rfl
  · exact foldl_keeps Mach.hardware hardware_hold _ _

theorem hardware_newEntry {m m' : Mach} {e : Entry} {ix : Nat} (h : m.newEntry e = some (ix, m')) : m'.hardware = m.hardware := by
  obtain ⟨_, _, heq⟩ := Option.map_eq_some_iff.1 h
  rw [← (Prod.mk.inj heq).2]
  rfl

theorem hardware_recreate (m : Mach) (l : Launch) (units : List (Nat × Word × Nat)) : (m.recreate l units).hardware = m.hardware := by
  have hmarks := hardware_marksAgain m l
  unfold Mach.recreate
  split
  next l' m' heq =>
    rw [heq] at hmarks
    dsimp only at hmarks ⊢
    split
    · split
      · split <;> exact hmarks
      · exact hmarks
    · split
      next hnew => exact (hardware_newEntry hnew).trans hmarks
      · exact hmarks

theorem hardware_rebind (m : Mach) (job : Nat) (named : List ResumeEntry) : (m.rebind job named).hardware = m.hardware := by
  unfold Mach.rebind
  dsimp only
  refine (foldl_keeps Mach.hardware (fun m ix => ?_) _ _).trans (foldl_keeps Mach.hardware (fun m lid => ?_) _ _)
  · split <;> rfl
  · split
    · rfl
    · exact hardware_recreate ..

/-! ### The restore -/

/-- Settles O58: where every record verifies, by the contexts' recovery points, which the launches bound again leave; else by the
report. -/
theorem jobRestore : Obligations.JobRestore := by
  intro s job seq j ctxs hlive hstopped hfailed hagreed hseq i w1 follow walk w2
  have hguard : ¬((!j.live || !j.stopped || j.failedRestore || (j.agreed.isSome && j.agreed != some seq) ||
      ctxs.any (fun c => decide ((s.toMach.context c).rpseq.toNat < seq.toNat))) = true) := by
    have hagree : (j.agreed.isSome && j.agreed != some seq) = false := by rcases hagreed with h | h <;> simp [h]
    have hsmall : ctxs.any (fun c => decide ((s.toMach.context c).rpseq.toNat < seq.toNat)) = false :=
      List.any_eq_false.2 fun c hc => by simpa using hseq c hc
    simp [hlive, hstopped, hfailed, hagree, hsmall]
  have hctxs : walk.1.map (fun p => p.1) = ctxs := (seekRecords_fst i seq ctxs ([], w1)).trans (by simp)
  have hbare : w2.m.bare = w1.m.bare :=
    (foldl_keeps (fun w : Work => w.m.bare) (fun w _ => bare_scrubRecord w ..) walk.1 walk.2).trans
      (bare_seekRecords i seq ctxs ([], w1))
  have hcontexts : w2.m.contexts = w1.m.contexts := contexts_of_bare hbare
  have hcontext c : w2.m.context c = s.toMach.context c := congrArg (tabGet Context.reset · c) hcontexts
  refine ⟨fun hgood => ?_, fun hbad => ?_⟩
  · have hall : ¬(walk.1.any (fun p => match p.2 with | some h => !w2.verifies i p.1 h | none => true) = true) := by
      simp only [List.any_eq_true, not_exists, not_and]
      intro p hp
      obtain ⟨h, hsome, hv⟩ := hgood p hp
      simp [hsome, hv]
    refine ⟨_, event_ok (f := bodyRecoveryRestore job seq) ((if_neg hguard).trans (if_neg hall)), ?_, ?_, fun hnodup p hp => ?_⟩
    · exact congrArg Job.stopped (job_setJob_self _ _ _)
    · exact congrArg Job.agreed (job_setJob_self _ _ _)
    · have hlisted : p.1 ∈ ctxs := hctxs ▸ List.mem_map.2 ⟨p, hp, rfl⟩
      have hheads : (walk.1.map (fun p => (p.1, p.2.getD 0))).map (fun p => p.1) = ctxs := by
        rw [← hctxs, List.map_map]
        rfl
      have hset := recoverAll_context seq (hheads ▸ hnodup) w2.m (List.mem_map_of_mem (f := fun p => (p.1, p.2.getD 0)) hp)
      rw [hcontext] at hset
      have hrebound m named : (Mach.rebind m job named).contexts = m.contexts :=
        (congrArg Mach.contexts (hardware_rebind m job named) :)
      have hfinal (named : List ResumeEntry) (x : Job) : ((((walk.1.map (fun p => (p.1, p.2.getD 0))).foldl (Mach.recoverAt seq) w2.m).rebind
          job named).setJob job x).context p.1 = _ := (congrArg (tabGet Context.reset · p.1) (hrebound _ named)).trans hset
      exact ⟨hlisted, congrArg Context.rpseq (hfinal _ _), congrArg Context.rpgen (hfinal _ _), congrArg Context.rpbase (hfinal _ _)⟩
  · have hany : walk.1.any (fun p => match p.2 with | some h => !w2.verifies i p.1 h | none => true) = true := by
      obtain ⟨p, hp, hnot⟩ := hbad
      refine List.any_eq_true.2 ⟨p, hp, ?_⟩
      split
      next h hsome => rw [hnot h hsome]; rfl
      · rfl
    refine ⟨_, event_ok (f := bodyRecoveryRestore job seq) ((if_neg hguard).trans (if_pos hany)), ?_, ?_⟩
    · exact congrArg Job.failedRestore (job_setJob_self _ _ _)
    · exact (congrArg Job.stopped (job_setJob_self _ _ _)).trans hstopped

end Sys2Proof.Machine
end

section
/-! System instructions: service calls, halts, translations, context images, marks and samples. -/

namespace Sys2Proof.Machine

/-! ### Waits of a unit for what it has outstanding (14 R356; 15 R375) -/

theorem drained_of_none {w : Work} (hcopies : w.m.copiesOf w.s.unit.lid w.s.unit.unit = []) (hmatrix : w.s.mseq.st ≠ .running)
    (hcopy : w.s.cseq.st ≠ .running) (hout : w.s.unit.remoteOut = 0) : w.drained = .ok () := by
  unfold Work.drained
  dsimp only
  rw [if_neg (not_not_intro hcopies), if_neg (by grind)]
  exact performed_of_none hout

theorem contextQuiet_of_none {w : Work}
    (h : ∀ p ∈ w.m.slots, p.2.unit.st.runs = true → p.2.unit.ctx = w.s.unit.ctx → p.2.unit.remoteOut = 0) :
    w.contextQuiet = .ok () := by
  refine if_neg fun hany => ?_
  obtain ⟨p, hp, hbusy⟩ := List.any_eq_true.1 hany
  simp only [Bool.and_eq_true, beq_iff_eq, bne_iff_ne] at hbusy
  exact hbusy.2 (h p hp hbusy.1.1 hbusy.1.2)

/-! ### Observation (16 R394, R397, R399) -/

theorem putBit_true (x : Word) {i : Nat} (hi : i < 64) : putBit x i true = x ||| BitVec.twoPow 64 i := by
  refine BitVec.eq_of_getLsbD_eq fun k hk => ?_
  simp only [putBit, putBits, Bool.toNat_true, Nat.pow_one, BitVec.getLsbD_or, BitVec.getLsbD_and, BitVec.getLsbD_not,
    BitVec.getLsbD_twoPow, BitVec.getLsbD_shiftLeft]
  rcases Nat.lt_trichotomy k i with h | rfl | h
  · simp [hk, h, Nat.ne_of_gt h]
  · simp [hk]
  · have hne : k - i ≠ 0 := by omega
    simp [hk, Nat.not_lt_of_gt h, hne, Nat.ne_of_lt h]

theorem bodyTmark_unmarked {w : Work} (a : Reg) (h : bitB w.s.sup.trcctl 1 = false) : bodyTmark a w = .ok w :=
  if_neg (by rw [h]; exact Bool.false_ne_true)

theorem bodyTmark_marked {w w1 : Work} {a : Reg} (h : bitB w.s.sup.trcctl 1 = true) (hout : w.s.unit.remoteOut = 0)
    (htrace : w.trace 2 (w.s.ctl.vstripno.toNat + 2 ^ 32 - 1) w.s.regs.pc (w.x a.val) 0 0 0 = .ok w1) : bodyTmark a w = .ok w1 := by
  unfold bodyTmark
  rw [if_pos h, performed_of_none hout]
  exact htrace

theorem bodyBrk_halts {w : Work} (b : Reg) (h : bitB w.s.sup.dbgctl 4 = true) (hdrained : w.drained = .ok ()) :
    bodyBrk b w = .ok (w.haltUnit w.s.regs.pc w.s.regs.pc) := by
  unfold bodyBrk
  rw [if_pos h, hdrained]
  rfl

/-- Settles O52: each word by its branch. -/
theorem observation : Obligations.Observation := by
  refine fun s w w1 st a b => ⟨fun hbegins hmark => ?_, fun hbegins hmark hout htrace => ?_, fun hbegins => ?_,
    fun hbegins hbh hcopies hmatrix hcopy hout => ?_⟩
  · exact exec_of_runs ⟨rfl, bodyTmark_unmarked a hmark⟩ hbegins
  · exact exec_of_runs ⟨rfl, bodyTmark_marked hmark hout htrace⟩ hbegins
  · refine exec_of_runs ⟨rfl, ?_⟩ hbegins
    simp only [bodyOf, bodySmpl, putBit_true _ (show 20 < 64 by decide)]
  · exact exec_of_runs ⟨rfl, bodyBrk_halts b hbh (drained_of_none hcopies hmatrix hcopy hout)⟩ hbegins

/-! ### Translation (15 R374, R375, R378) -/

theorem bodyVptwr_of_small {w : Work} {a : Reg} (b : Reg) (ha : (w.x a.val).toNat < 4096) (hquiet : w.contextQuiet = .ok ()) :
    bodyVptwr a b w = .ok (w.setCtx { w.ctx with vpt := tabSet w.ctx.vpt (w.x a.val).toNat (w.x b.val) }) := by
  have hhigh : bitsN (w.x a.val) 12 52 = 0 := by
    simp only [bitsN]
    omega
  unfold bodyVptwr
  dsimp only
  rw [if_neg (not_not_intro hhigh), hquiet]
  rfl

theorem bodyTlbinv_of_scope {w : Work} {b : Reg} (hb : (w.x b.val).toNat < 3) (hquiet : w.contextQuiet = .ok ())
    (hcopies : w.m.copyTranslated w.s.unit.ctx = false) : bodyTlbinv b w = .ok w := by
  have hscope : ¬(bitsN (w.x b.val) 2 62 ≠ 0 ∨ bitsN (w.x b.val) 0 2 = 3) := by
    simp only [bitsN]
    omega
  unfold bodyTlbinv
  dsimp only
  rw [if_neg hscope, hquiet]
  exact if_neg (by rw [hcopies]; exact Bool.false_ne_true)

/-! ### Service calls (15 R381, R382) -/

@[simp] theorem mapThr_ctx (w : Work) (f : SlotThread → SlotThread) : (w.mapThr f).ctx = w.ctx := by
  simp [Work.ctx, Mach.context]

/-- The failure that `mcall` function 2 gives in x25 and x26. -/
def Work.ownFailure (w : Work) : Failure :=
  { cause := bitsN (w.x 25) 0 8, detail := bitsN (w.x 26) 57 7, pc := w.s.sup.sepc, addr := keepBits (w.x 26) 0 57,
    unit := w.s.unit.unit, treg := 0, token := 0 }

theorem ownFailure_eq (w : Work) : w.ownFailure =
    { cause := (w.x 25).toNat % 256, detail := (w.x 26).toNat / 2 ^ 57, pc := w.s.sup.sepc,
      addr := BitVec.ofNat 64 ((w.x 26).toNat % 2 ^ 57), unit := w.s.unit.unit, treg := 0, token := 0 } := by
  have hdetail : bitsN (w.x 26) 57 7 = (w.x 26).toNat / 2 ^ 57 :=
    Nat.mod_eq_of_lt (Nat.div_lt_of_lt_mul (Nat.lt_of_lt_of_eq (w.x 26).isLt (by decide)))
  have haddr : keepBits (w.x 26) 0 57 = BitVec.ofNat 64 ((w.x 26).toNat % 2 ^ 57) := by
    simp only [keepBits, bitsN_zero, Nat.pow_zero, Nat.mul_one]
  have hcause : bitsN (w.x 25) 0 8 = (w.x 25).toNat % 256 := bitsN_zero _ 8
  rw [Work.ownFailure, hcause, hdetail, haddr]

/-- A service call of a unit without accesses outstanding, by its function. -/
theorem bodyMcall_eq {w : Work} (st : Fin 16) (hout : w.s.unit.remoteOut = 0) :
    let v := w.mapThr (fun t => { t with wins := [] })
    bodyMcall st w =
      if v.x 24 = 1 then
        let r := v.retire (.mcall st) v.s
        let q := r.m.postRequest v.s.unit.ctx v.s.unit.lid v.s.unit.unit (some r.m.cur) none none (keepBits (v.x 25) 0 57)
          (bitsN (v.x 26) 0 8) (bitsN (v.x 26) 8 2)
        let asked : Work := Work.mapUnit { r with m := q.2 } (fun u => { u with byCall := true })
        .ok (asked.suspendUnit r.m.cur (some q.1))
      else if v.x 24 = 2 then .ok (v.killUnit v.m.cur v.ownFailure)
      else if v.x 24 = 3 then .ok (v.setX 24 (BitVec.ofNat 64 v.ctx.gen))
      else .ok (v.setX 24 0xFFFFFFFFFFFFFFFF) := by
  intro v
  have hperformed : v.performed = .ok () := performed_of_none (by simpa [v] using hout)
  change (v.performed >>= fun _ => _) = _
  rw [hperformed]
  rfl

theorem bodyHalt_drained {w : Work} (st : Fin 16) (h : w.drained = .ok ()) :
    bodyHalt st w = .ok ((w.retire (.halt st) w.s).haltUnit w.s.regs.pc (w.s.regs.pc + 4)) := by
  unfold bodyHalt
  rw [h]
  rfl

/-- Settles O50: each word by its body's branch. -/
theorem systemInstructions : Obligations.SystemInstructions := by
  intro s w st a b quiet v u
  refine ⟨fun hbegins ha hquiet => ?_, fun hbegins hb hquiet hcopies => ?_, fun hbegins hout hfn => ?_, fun hbegins hout hfn => ?_,
    fun hbegins hout hfn => ?_, fun hbegins hout hfn => ?_, fun hbegins hcopies hmatrix hcopy hout => ?_⟩
  · exact exec_of_runs ⟨rfl, bodyVptwr_of_small b ha (contextQuiet_of_none hquiet)⟩ hbegins
  · exact exec_of_runs ⟨rfl, bodyTlbinv_of_scope hb (contextQuiet_of_none hquiet) hcopies⟩ hbegins
  · refine exec_of_runs ⟨rfl, (bodyMcall_eq st hout).trans ((if_pos hfn).trans ?_)⟩ hbegins
    dsimp only
    rw [retire_cur, mapThr_s_unit, mapThr_cur]
  · refine exec_of_runs ⟨rfl, (bodyMcall_eq st hout).trans ((if_neg (by rw [hfn]; decide)).trans ((if_neg (by rw [hfn]; decide)).trans
      ((if_pos hfn).trans ?_)))⟩ hbegins
    rw [mapThr_ctx]
  · simp only [List.mem_cons, List.not_mem_nil, or_false, not_or] at hfn
    obtain ⟨h1, h2, h3⟩ := hfn
    exact exec_of_runs ⟨rfl, (bodyMcall_eq st hout).trans ((if_neg h1).trans ((if_neg h2).trans (if_neg h3)))⟩ hbegins
  · refine exec_of_runs ⟨rfl, (bodyMcall_eq st hout).trans ((if_neg (by rw [hfn]; decide)).trans ((if_pos hfn).trans ?_))⟩ hbegins
    rw [ownFailure_eq, mapThr_s_sup, mapThr_s_unit]
    rfl
  · exact exec_of_runs ⟨rfl, bodyHalt_drained st (drained_of_none hcopies hmatrix hcopy hout)⟩ hbegins

/-! ### Context images (15 R386) -/

theorem imageMask_eq (a : Word) : imageMask a = a.toNat % 4096 := bitsN_zero a 12

theorem keepBits_page (a : Word) : keepBits a 12 52 = BitVec.ofNat 64 (a.toNat / 4096 * 4096) := by
  have hsmall : a.toNat / 2 ^ 12 % 2 ^ 52 = a.toNat / 4096 := by omega
  exact congrArg (fun k => BitVec.ofNat 64 (k * 4096)) hsmall

/-- A mask below 2^n selects no part from n on. -/
theorem partOn_of_lt {mask n p : Nat} (h : mask < 2 ^ n) (hp : n ≤ p) : partOn mask p = false := by
  have hzero : mask / 2 ^ p = 0 := Nat.div_eq_of_lt (Nat.lt_of_lt_of_le h (Nat.pow_le_pow_right (by decide) hp))
  rw [partOn, hzero]
  rfl

theorem partOn_pS (mask : Nat) : partOn mask pS = true ↔ mask % 2 = 1 := by
  rw [partOn, pS, Nat.pow_zero, Nat.div_one, beq_iff_eq]

theorem maskReserved_of_lt {mask : Nat} (h : mask < 128) : maskReserved mask = false := by
  simp only [maskReserved, partOn_of_lt (n := 7) h (show 7 ≤ 7 by decide), partOn_of_lt (n := 7) h (show 7 ≤ 10 by decide),
    partOn_of_lt (n := 7) h (show 7 ≤ 11 by decide), Bool.or_self]

theorem probed_of_probe {im : ImageAt} {acc mask : Nat} {w w1 : Work} (h : im.probe acc (maskPages mask) w = .ok w1) :
    im.probed acc mask w = .ok w1 := by
  rw [ImageAt.probed, h]

/-- `ctxsave` of register parts whose pages translate and whose lines nothing holds. -/
theorem bodyCtxsave_of_free {w w1 : Work} {a : Reg} {mask : Nat} (hmask : mask = imageMask (w.x a.val)) (hsmall : mask < 16)
    (hwhole : w.whole = true) :
    let base := keepBits (w.x a.val) 12 52
    let im : ImageAt := { base := base, slot := w.m.cur, spt := w.ctx.spt, sup := true }
    im.probe 1 (maskPages mask) w = .ok w1 → im.runsBusy mask false w1 = false →
    let w2 := im.write mask (w1.mapThr (fun t => { t with wins := [] }))
    let m := w2.m.putSide w.m.cur base mask
    let w3 : Work := { w2 with m := if mask % 2 = 1 then m.awaitTokens w.m.cur base else m }
    bodyCtxsave a w = .ok ((w3.setS w3.s.clearLinks).mapThr (fun t => { t with fibre := none })) := by
  intro base im hprobe hbusy w2 m w3
  have hoff {p : Nat} (hp : 4 ≤ p) : partOn mask p = false := partOn_of_lt (n := 4) hsmall hp
  have hwhole1 : (w1.mapThr (fun t => { t with wins := [] })).whole = true := (whole_of_sameRun (probe_sameRun im _ _ hprobe)).trans hwhole
  unfold bodyCtxsave
  dsimp only
  rw [← hmask, maskReserved_of_lt (by omega), if_neg Bool.false_ne_true, show ImageAt.probed _ 1 mask w = .ok w1 from probed_of_probe hprobe]
  simp only [bind, Except.bind, hoff (p := pT) (by decide), hoff (p := pC) (by decide), hoff (p := pL) (by decide),
    hoff (p := 9) (by decide), Bool.false_and, Bool.false_eq_true, if_false]
  rw [show ImageAt.runsBusy _ mask false w1 = false from hbusy, if_neg Bool.false_ne_true, image_writeApart_whole hwhole1]
  simp only [partOn_pS]
  rfl

/-- `ctxrest` of parts that the image holds, without part S and with it. -/
theorem bodyCtxrest_of_restored {w w0 : Work} {a : Reg} {mask : Nat} (hmask : mask = imageMask (w.x a.val)) (hsmall : mask < 128)
    (hrestore : w.restoreParts (keepBits (w.x a.val) 12 52) mask = .ok w0) :
    let w1 := w0.mapThr (fun t => { t with wins := dropRegs (restoresReg mask) t.wins })
    (mask % 2 = 0 → bodyCtxrest a w = .ok w1) ∧
    (mask % 2 = 1 → w1.s.thr.fibre = none → bodyCtxrest a w = .ok
      (Work.mapThr { w1 with m := w1.m.forgetTokens w1.m.cur } (fun t => { t with pend := t.pend.filter (fun p => p.sup) }))) := by
  intro w1
  have hoff {p : Nat} (hp : 7 ≤ p) : partOn mask p = false := partOn_of_lt (n := 7) hsmall hp
  refine ⟨fun heven => ?_, fun hodd hfibre => ?_⟩
  all_goals
    unfold bodyCtxrest
    dsimp only
    rw [← hmask, maskReserved_of_lt hsmall, hoff (p := 9) (by decide), hoff (p := 8) (by decide), hrestore]
  · have hoffS : ¬partOn mask pS = true := by rw [partOn_pS]; omega
    exact if_neg hoffS
  · refine (if_pos ((partOn_pS mask).2 hodd)).trans ?_
    have hnone : (Work.mapThr { w1 with m := w1.m.forgetTokens w1.m.cur }
        (fun t => { t with pend := t.pend.filter (fun p => p.sup) })).s.thr.fibre = none := by
      rw [mapThr_s_thr]
      exact hfibre
    rw [hnone]

/-- Settles O51: each word by its body where nothing holds its pages back, with S by the tokens of the slot. -/
theorem contextImages : Obligations.ContextImages := by
  intro s w w0 w1 st a mask base im
  have hmask : mask = imageMask (w.x a.val) := (imageMask_eq _).symm
  have hbase : base = keepBits (w.x a.val) 12 52 := (keepBits_page _).symm
  refine ⟨fun hbegins hsmall hprobe hbusy => ?_, fun hbegins hsmall hrestore => ?_⟩
  · obtain ⟨hlimit, hmade⟩ := begins_whole hbegins
    have hbody := bodyCtxsave_of_free (w := w) (w1 := w1) (a := a) hmask hsmall (by simp [Work.whole, hlimit, hmade])
    rw [← hbase] at hbody
    exact exec_of_runs ⟨rfl, hbody hprobe hbusy⟩ hbegins
  · have hbody := bodyCtxrest_of_restored hmask hsmall (hbase ▸ hrestore)
    exact ⟨fun heven => exec_of_runs ⟨rfl, hbody.1 heven⟩ hbegins, fun hodd hfibre => exec_of_runs ⟨rfl, hbody.2 hodd hfibre⟩ hbegins⟩

end Sys2Proof.Machine
end

section
/-! Checkpoint records: their beginning, their sealing in two writes, their verification, and the recovery point. -/

namespace Sys2Proof.Machine

/-! ### Steps of an instruction that makes several writes (13 R325, R326) -/

/-- A write that such an instruction makes as it begins: it is counted, and the slot waits for it to be durable. -/
theorem issueStage_of_begins {i : Instr} {f : Work → M Work} {s : State} {w w' : Work} (hbegins : Begins i s w) (h : f s.work = .ok w') :
    issueStage i f s =
      .next ((w'.mapUnit (fun u => { u.await .persist (some i) s.pkg.nextCopy with stage := u.stage + 1 })).finish s) := by
  obtain ⟨⟨hissues, hwindow, hcheck, hblocked⟩, -⟩ := hbegins
  simp [issueStage, hissues, flight_of_empty i hwindow, hcheck, hblocked, h]

theorem recoveryOn_of_enabled {w : Work} (h : bitB w.ctx.ckpctl 0 = true) : w.recoveryOn = .ok () := if_pos h

theorem durable_of_none {w : Work} (hcopies : w.m.copiesOf w.s.unit.lid w.s.unit.unit = []) (hout : w.s.unit.remoteOut = 0)
    (hpersisted : w.s.unit.notDurable = []) : w.durable = .ok () := by
  unfold Work.durable
  dsimp only
  rw [if_neg (not_not_intro hcopies), if_neg (not_not_intro hout), if_neg (not_not_intro hpersisted)]

theorem bodyRelrcv_of_durable {w : Work} (hon : bitB w.ctx.ckpctl 0 = true) (hdurable : w.durable = .ok ()) : bodyRelrcv w = .ok w := by
  unfold bodyRelrcv
  rw [recoveryOn_of_enabled hon, hdurable]
  rfl

theorem bodyCkpabort_of_enabled {w : Work} (hon : bitB w.ctx.ckpctl 0 = true) : bodyCkpabort w = .ok w.dropRecord := by
  unfold bodyCkpabort
  rw [recoveryOn_of_enabled hon]
  rfl

theorem persisted_of_none {w : Work} (h : w.s.unit.notDurable = []) : w.persisted = .ok () := if_pos h

theorem persisted_waits {w : Work} (h : w.s.unit.notDurable ≠ []) : w.persisted = .error (.wait .persist) := if_neg h

/-! ### The beginning of a record (13 R325) -/

/-- The write of `ckpbeg`, where its checks pass. -/
theorem clearSeal_of_sound {w w1 : Work} {a b : Reg} {places : List (Nat × Nat)} (hon : bitB w.ctx.ckpctl 0 = true)
    (hclosed : w.s.unit.record = none) (hseq : w.x a.val ≠ 0) (halign : (w.x b.val).toNat % 128 = 0)
    (hplaces : w.runPlaces 1 (pageRuns (w.x b.val) headerSize) = .ok (places, w1))
    (halmanac : ∀ p ∈ places, w1.m.almanacRun p.1 p.2 = true)
    (hwrite : writable w1.m w1.m.cur ((places.take 1).flatMap (fun p => span p.1 128)) = .ok ()) (hout : w1.s.unit.remoteOut = 0) :
    w.clearSeal a b =
      .ok (w1.putRecord false ((places.take 1).flatMap (fun p => span p.1 128)) (List.replicate 128 0)) := by
  have hall : (!places.all (fun p => w1.m.almanacRun p.1 p.2)) = false := by
    rw [List.all_eq_true.2 halmanac]
    rfl
  unfold Work.clearSeal Work.beginRecord
  rw [recoveryOn_of_enabled hon]
  simp only [bind, Except.bind, Work.record, hclosed, Option.isSome_none, Bool.false_eq_true, if_false, hseq, halign, ne_eq,
    not_true_eq_false, hplaces, Work.noEffect, hall, performed_of_none hout, hwrite, liftMiss]

/-- The record that `ckpbeg` opens. -/
def Work.newRecord (w : Work) (a b : Reg) : OpenRecord :=
  { hdr := w.x b.val, seq := w.x a.val, gen := w.ctx.rpgen, ovf := false, cerr := false, listed := 0, lines := [] }

theorem bodyCkpbeg_opens {w : Work} (a b : Reg) (hstage : w.s.unit.stage ≠ 0) (hpersisted : w.s.unit.notDurable = []) :
    bodyCkpbeg a b w = .ok (w.mapUnit (fun u => { u with record := some (w.newRecord a b) })) := by
  unfold bodyCkpbeg
  rw [if_neg hstage, persisted_of_none hpersisted]
  rfl

theorem bodyCkpbeg_waits {w : Work} (a b : Reg) (hstage : w.s.unit.stage ≠ 0) (hpersisted : w.s.unit.notDurable ≠ []) :
    bodyCkpbeg a b w = .error (.wait .persist) := by
  unfold bodyCkpbeg
  rw [if_neg hstage, persisted_waits hpersisted]
  rfl

/-! ### The sealing of a record (13 R326) -/

theorem toSeal_of_open {w : Work} {r : OpenRecord} (hon : bitB w.ctx.ckpctl 0 = true) (hopen : w.s.unit.record = some r) :
    w.toSeal = .ok r := by
  unfold Work.toSeal Work.record
  rw [recoveryOn_of_enabled hon, ite_self, hopen]
  rfl

/-- A record that `ckpseal` may seal. -/
theorem sealable_of_sound {w : Work} {r : OpenRecord} {resume : Word} (hdurable : w.durable = .ok ()) (hovf : r.ovf = false)
    (hcerr : r.cerr = false) (hlines : ∀ l ∈ r.lines, l.1 + 64 ≤ r.hdr.toNat ∨ r.hdr.toNat + headerSize ≤ l.1)
    (hresume : resume = 0 ∨ w.resumeOk r resume = true) : w.sealable r resume = .ok () := by
  have hapart : r.lines.any (fun l => decide (r.hdr.toNat < l.1 + 64) && decide (l.1 < r.hdr.toNat + headerSize)) = false :=
    List.any_eq_false.2 fun l hl => by
      have := hlines l hl
      simp only [Bool.and_eq_true, decide_eq_true_eq, not_and]
      omega
  have hno : ¬(resume ≠ 0 ∧ (!w.resumeOk r resume) = true) := by
    rintro ⟨hne, hbad⟩
    rw [hresume.resolve_left hne] at hbad
    cases hbad
  unfold Work.sealable
  rw [hdurable]
  simp only [bind, Except.bind, hovf, hcerr, hapart, hno, Bool.false_eq_true, if_false]

theorem recordPlaces_of_writable {w w1 : Work} {h : Word} {off n : Nat} {places : List (Nat × Nat)}
    (hplaces : w.runPlaces 1 (pageRuns (h + BitVec.ofNat 64 off) n) = .ok (places, w1))
    (hwrite : writable w1.m w1.m.cur (runLocs places) = .ok ()) : w.recordPlaces h off n = .ok (runLocs places, w1) := by
  unfold Work.recordPlaces
  rw [hplaces]
  simp only [bind, Except.bind, hwrite, liftMiss]

/-- The first write of `ckpseal`: the footprint list, and all of the seal block but its head. -/
theorem sealStep_body {w w1 : Work} {a : Reg} {r : OpenRecord} {places : List (Nat × Nat)} (htoSeal : w.toSeal = .ok r)
    (hstage : w.s.unit.stage = 0) (hsealable : w.sealable r (w.x a.val) = .ok ())
    (hplaces : w.recordPlaces r.hdr 8 (120 + r.list.length) = .ok (runLocs places, w1)) :
    let w2 := w1.scrubRuns (r.lines.map (fun l => (l.2, 64)))
    w.sealStep a = .ok ((w2.putRecord false (runLocs places) (w2.sealBody r (w.x a.val) ++ r.list)).mapUnit
      (fun u => { u with record := some { r with listed := r.lines.length } })) := by
  unfold Work.sealStep Work.writeSeal
  rw [htoSeal]
  simp only [bind, Except.bind, hstage, if_true, hsealable, hplaces]

/-- Its second write: MAGIC and LINES. -/
theorem sealStep_head {w w1 : Work} (a : Reg) {r : OpenRecord} {places : List (Nat × Nat)} (htoSeal : w.toSeal = .ok r)
    (hstage : w.s.unit.stage = 1) (hpersisted : w.s.unit.notDurable = [])
    (hplaces : w.recordPlaces r.hdr 0 8 = .ok (runLocs places, w1)) :
    w.sealStep a = .ok (w1.putRecord true (runLocs places) (sealHead r.listed)) := by
  unfold Work.sealStep Work.writeMagic
  rw [htoSeal]
  simp only [bind, Except.bind, hstage, Nat.one_ne_zero, if_false, persisted_of_none hpersisted, hplaces]

theorem bodyCkpseal_closes {w : Work} {r : OpenRecord} (a : Reg) (htoSeal : w.toSeal = .ok r) (hstage : 2 ≤ w.s.unit.stage)
    (hpersisted : w.s.unit.notDurable = []) : bodyCkpseal a w = .ok w.dropRecord := by
  unfold bodyCkpseal
  rw [htoSeal]
  simp only [bind, Except.bind, show w.s.unit.stage ≠ 0 by omega, show w.s.unit.stage ≠ 1 by omega, if_false, persisted_of_none hpersisted]

/-! ### What translation leaves (13 R314; 15 R373) -/

/-- A walk that succeeds scrubs what it has read, and sets A and D where they are not set. -/
theorem walkPlace_leaves {w v : Work} {who va acc loc : Nat} {spt : Word} {sup : Bool}
    (h : walkPlace w who spt sup va acc = .ok (loc, v)) :
    v = w.scrubWalk who spt va ∨ ∃ first bits n, v = setAD (w.scrubWalk who spt va) first bits n := by
  unfold walkPlace at h
  cases e : walkLeaf w who spt sup va acc with
  | error x => rw [e] at h; cases x <;> cases h
  | ok l =>
    rw [e] at h
    dsimp only at h
    generalize (if acc = 1 then 0xC0 else 0x40) = bits at h
    split at h
    · cases h
    · simp only [Except.ok.injEq, Prod.mk.injEq] at h
      obtain ⟨-, rfl⟩ := h
      split
      · exact .inr ⟨_, _, _, rfl⟩
      · exact .inl rfl

theorem putNoted_base (w : Work) (a b loc : Nat) (data : List Byte) : (w.putNoted a b loc data).base = w.base := by
  unfold Work.putNoted
  rw [putBytes_base]
  split <;> rfl

theorem setAD_base (n : Nat) (w : Work) (first bits : Nat) : (setAD w first bits n).base = w.base := by
  induction n generalizing w with
  | zero => rfl
  | succ n ih => exact (ih _).trans (putNoted_base ..)

theorem scrubWalk_base (w : Work) (who : Nat) (spt : Word) (va : Nat) : (w.scrubWalk who spt va).base = w.base := by
  unfold Work.scrubWalk
  split
  · rfl
  · exact scrubs_base _ w

theorem scalarPlace_base {w v : Work} {n acc loc : Nat} {spt a : Word} {sup : Bool}
    (h : scalarPlace w n spt sup a acc = .ok (loc, v)) : v.base = w.base := by
  unfold scalarPlace at h
  split at h
  · cases e : localPlace w.m n a.toNat with
    | error _ => rw [e] at h; cases h
    | ok l => rw [e] at h; cases h; rfl
  · rcases walkPlace_leaves h with rfl | ⟨first, bits, n, rfl⟩
    · exact scrubWalk_base ..
    · exact (setAD_base ..).trans (scrubWalk_base ..)

theorem runPlaces_base {acc : Nat} (l : List (Word × Nat)) {w v : Work} {places : List (Nat × Nat)}
    (h : w.runPlaces acc l = .ok (places, v)) : v.base = w.base := by
  induction l generalizing w places with
  | nil => cases h; rfl
  | cons p l ih =>
    obtain ⟨a, n⟩ := p
    obtain ⟨⟨loc, w1⟩, hplace, h⟩ := bind_ok h
    obtain ⟨⟨ls, w2⟩, hrest, h⟩ := bind_ok h
    cases h
    exact (ih hrest).trans (scalarPlace_base (liftMiss_ok hplace))

/-! ### The check of a record (13 R328) -/

theorem bodyCkpverify_of_checked {w w1 w2 : Work} {d a : Reg} {b : SealBlock} {r : Checked} (hon : bitB w.ctx.ckpctl 0 = true)
    (halign : bitsN (w.x a.val) 1 6 = 0) (hcheck : w.checkRecord (putBit (w.x a.val) 0 false) = .ok (b, r, w1))
    (hscrubs : (w1.scrubRuns r.read).scrubWalks w1.m.cur w1.ctx.spt r.pages = w2) :
    (r.status ≠ 0 ∨ bitB (w.x a.val) 0 = false → bodyCkpverify d a w = .ok (w2.setX d.val (BitVec.ofNat 64 r.status))) ∧
    (r.status = 0 → bitB (w.x a.val) 0 = true → bitB w2.ctx.ckpctl 1 = true → b.gen = w2.ctx.rpgen.toNat →
      w2.ctx.rpseq.toNat < b.seq.toNat →
      bodyCkpverify d a w = .ok ((w2.setCtx { w2.ctx with rpbase := putBit (w.x a.val) 0 false, rpseq := b.seq }).setX d.val 16)) := by
  refine ⟨fun hstays => ?_, fun hstatus hask hmay hgen hseq => ?_⟩
  all_goals
    unfold bodyCkpverify
    rw [recoveryOn_of_enabled hon]
    simp only [bind, Except.bind, halign, ne_eq, not_true_eq_false, if_false, hcheck, hscrubs]
  · have hreason : ¬r.status = 0 ∨ (!bitB (w.x a.val) 0) = true := by simpa using hstays
    have hstand : ¬(r.status = 0 ∧ bitB (w.x a.val) 0 = true) := by
      rintro ⟨h0, h1⟩
      rcases hstays with h | h
      · exact h h0
      · exact Bool.false_ne_true (h.symm.trans h1)
    simp only [hreason, hstand, if_true, and_true, if_false, at_, Nat.zero_mul, Nat.add_zero]
  · simp [hstatus, hask, hmay, hgen, Nat.not_le.2 hseq, at_]

/-- What the check of a record finds, where its seal block's lines are free to be read. -/
theorem checkRecord_of_readable {w w1 : Work} {h : Word} {places : List (Nat × Nat)} (hwhole : w.whole = true)
    (hplaces : w.runPlaces 0 (pageRuns h 128) = .ok (places, w1)) (hread : readable w1.m (linesRun places) = .ok ()) :
    let i := w1.draw.1
    let w2 := w1.draw.2
    let k := readSeal (w2.checkRuns i places)
    ((∃ p ∈ places, w2.m.almanac p.1 = false) → w.checkRecord h = .ok (k, { status := 3, read := places, pages := [] }, w2)) ∧
    ((∀ p ∈ places, w2.m.almanac p.1 = true) → k.sealed = false →
      w.checkRecord h = .ok (k, { status := 1, read := places, pages := [] }, w2)) ∧
    ((∀ p ∈ places, w2.m.almanac p.1 = true) → k.sealed = true → ∀ list w3,
      w2.runPlaces 0 (pageRuns (h + 128) (8 * k.count)) = .ok (list, w3) →
      let r := w3.verify i w3.linePlace k places list
      readable w3.m (linesRun r.read) = .ok () → w.checkRecord h = .ok (k, r, w3)) := by
  intro i w2 k
  have hwhole1 : w1.whole = true := (whole_of_sameRun (runPlaces_sameRun _ hplaces)).trans hwhole
  have hwhole2 : w2.whole = true := hwhole1
  have hout : (∃ p ∈ places, w2.m.almanac p.1 = false) → (!places.all (fun p => w2.m.almanac p.1)) = true := by
    rintro ⟨p, hp, hno⟩
    rw [List.all_eq_false.2 ⟨p, hp, by rw [hno]; exact Bool.false_ne_true⟩]
    rfl
  have hin : (∀ p ∈ places, w2.m.almanac p.1 = true) → ¬(!places.all (fun p => w2.m.almanac p.1)) = true := fun h => by
    rw [List.all_eq_true.2 h]
    exact Bool.false_ne_true
  refine ⟨fun hbad => ?_, fun hgood hsealed => ?_, ?_⟩
  · unfold Work.checkRecord
    rw [hplaces]
    simp only [bind, Except.bind, hread, liftMiss, readApart_whole hwhole1]
    rw [if_pos (hout hbad)]
    rfl
  · have hopen : (!k.sealed) = true := by rw [hsealed]; rfl
    unfold Work.checkRecord
    rw [hplaces]
    simp only [bind, Except.bind, hread, liftMiss, readApart_whole hwhole1]
    rw [if_neg (hin hgood), if_pos hopen, Work.verify, if_pos hopen]
    rfl
  · intro hgood hsealed list w3 hlist r hlines
    have hclosed : ¬(!k.sealed) = true := by rw [hsealed]; exact Bool.false_ne_true
    have hwhole3 : w3.whole = true := (whole_of_sameRun (runPlaces_sameRun _ hlist)).trans hwhole2
    have hbase : w1.base = w3.base := (runPlaces_base _ hlist).symm
    unfold Work.checkRecord
    rw [hplaces]
    simp only [bind, Except.bind, hread, liftMiss, readApart_whole hwhole1]
    rw [if_neg (hin hgood), if_neg hclosed, show w1.draw.2.runPlaces 0 _ = .ok (list, w3) from hlist]
    dsimp only
    simp only [readApart_whole hwhole3]
    rw [show readable w3.m _ = .ok () from hlines]
    dsimp only
    rw [hbase]

theorem sealed_iff (k : SealBlock) : k.sealed = true ↔ k.magic = 0x5EA10002 ∧ k.count ≤ 262144 ∧ k.reserved = false := by
  simp [SealBlock.sealed, and_assoc]

@[simp] theorem scrubWalks_nil (w : Work) (who : Nat) (spt : Word) : w.scrubWalks who spt [] = w := rfl

/-- A record whose check translates no line of its list: what it has read is scrubbed, and its STATUS answered. -/
theorem bodyCkpverify_of_unlisted {w w1 : Work} {d a : Reg} {b : SealBlock} {status : Nat} {read : List (Nat × Nat)}
    (hon : bitB w.ctx.ckpctl 0 = true) (halign : bitsN (w.x a.val) 1 6 = 0) (hbad : status ≠ 0)
    (hcheck : w.checkRecord (putBit (w.x a.val) 0 false) = .ok (b, { status := status, read := read, pages := [] }, w1)) :
    bodyCkpverify d a w = .ok ((w1.scrubRuns read).setX d.val (BitVec.ofNat 64 status)) :=
  (bodyCkpverify_of_checked hon halign hcheck (scrubWalks_nil ..)).1 (.inl hbad)

theorem unsealed_of {k : SealBlock} (h : k.magic ≠ 0x5EA10002 ∨ 262144 < k.count ∨ k.reserved = true) : k.sealed = false :=
  Bool.eq_false_iff.2 fun hsealed => by
    obtain ⟨hmagic, hcount, hreserved⟩ := (sealed_iff k).1 hsealed
    rcases h with h | h | h
    · exact h hmagic
    · omega
    · exact Bool.false_ne_true (hreserved.symm.trans h)

/-- Settles O47: each word by its body, the two writes of `ckpseal` and that of `ckpbeg` as stages. -/
theorem recoveryInstructions : Obligations.RecoveryInstructions := by
  intro s w w1 st d a b places u durable w0 wrote
  refine ⟨fun hbegins => exec_of_runs ⟨rfl, rfl⟩ hbegins, fun hon => ⟨?_, ?_, ?_, ?_, ?_, ?_, ?_⟩⟩
  · rintro hbegins ⟨hcopies, hout, hpersisted⟩
    exact exec_of_runs ⟨rfl, bodyRelrcv_of_durable hon (durable_of_none hcopies hout hpersisted)⟩ hbegins
  · exact fun hbegins => exec_of_runs ⟨rfl, bodyCkpabort_of_enabled hon⟩ hbegins
  · intro hbegins hstage hclosed _ hseq halign hplaces halmanac hwrite hout
    obtain ⟨rfl, -⟩ := begins_of_scalar hbegins rfl
    exact (if_pos hstage).trans
      (issueStage_of_begins hbegins (clearSeal_of_sound hon hclosed hseq halign hplaces halmanac hwrite hout))
  · intro hbegins hstage hpersisted
    obtain ⟨rfl, -⟩ := begins_of_scalar hbegins rfl
    exact exec_of_runs ⟨if_neg hstage, bodyCkpbeg_opens a b hstage hpersisted⟩ hbegins
  · intro hbegins hstage hpersisted
    obtain ⟨rfl, -⟩ := begins_of_scalar hbegins rfl
    exact exec_of_wait ⟨if_neg hstage, bodyCkpbeg_waits a b hstage hpersisted⟩ hbegins
  · intro r hopen
    refine ⟨?_, ?_, ?_⟩
    · rintro hbegins hstage ⟨hcopies, hout, hpersisted⟩ hovf hcerr hlines hresume list hplaces hwrite w2 body
      obtain ⟨rfl, -⟩ := begins_of_scalar hbegins rfl
      have hfirst : s.work.s.unit.stage < 2 := lt_of_eq_of_lt hstage (by decide)
      have hsealable := sealable_of_sound (w := s.work) (durable_of_none hcopies hout hpersisted) hovf hcerr hlines hresume
      exact (if_pos hfirst).trans (issueStage_of_begins hbegins
        (sealStep_body (w := s.work) (toSeal_of_open hon hopen) hstage hsealable (recordPlaces_of_writable hplaces hwrite)))
    · intro hbegins hstage hpersisted hplaces hwrite
      obtain ⟨rfl, -⟩ := begins_of_scalar hbegins rfl
      have hsecond : s.work.s.unit.stage < 2 := lt_of_eq_of_lt hstage (by decide)
      rw [← BitVec.add_zero r.hdr] at hplaces
      exact (if_pos hsecond).trans (issueStage_of_begins hbegins
        (sealStep_head (w := s.work) a (toSeal_of_open hon hopen) hstage hpersisted (recordPlaces_of_writable hplaces hwrite)))
    · intro hbegins hstage hpersisted
      obtain ⟨rfl, -⟩ := begins_of_scalar hbegins rfl
      exact exec_of_runs ⟨if_neg (Nat.not_lt.2 hstage), bodyCkpseal_closes a (toSeal_of_open hon hopen) hstage hpersisted⟩ hbegins
  · intro hbegins halign h advance hplaces hread i w2 k answers
    obtain ⟨hlimit, hmade⟩ := begins_whole hbegins
    have hcheck := checkRecord_of_readable (by simp [Work.whole, hlimit, hmade]) hplaces hread
    refine ⟨fun hbad => ?_, fun hgood => ⟨fun hopen => ?_, ?_⟩⟩
    · exact exec_of_runs ⟨rfl, bodyCkpverify_of_unlisted hon halign (by decide) (hcheck.1 hbad)⟩ hbegins
    · exact exec_of_runs ⟨rfl, bodyCkpverify_of_unlisted hon halign (by decide) (hcheck.2.1 hgood (unsealed_of hopen))⟩ hbegins
    · intro hmagic hcount hreserved list w3 hlist r hlines w4 x
      have hfound := hcheck.2.2 hgood ((sealed_iff k).2 ⟨hmagic, hcount, hreserved⟩) list w3 hlist hlines
      obtain ⟨hstays, hadvances⟩ := bodyCkpverify_of_checked (d := d) hon halign hfound rfl
      exact ⟨fun h => exec_of_runs ⟨rfl, hstays h⟩ hbegins, fun hstatus hask hmay hgen hseq =>
        exec_of_runs ⟨rfl, hadvances hstatus hask hmay hgen hseq⟩ hbegins⟩

end Sys2Proof.Machine
end


section
/-! The management core: spares, retrains, heat, boot and the Annals (16 R408, R410; 17 R415, R419, R420, R423). -/

namespace Sys2Proof.Machine

/-! ### A shutdown for heat (17 R423) -/

theorem thermalShutdown_leaves (w : Work) : ∃ w', bodyThermalShutdown w = .ok w' ∧
    w'.m.pkg.diesOff = [0, 1, 2, 3] ∧ w'.m.engines = [] ∧ w'.m.shadow = [] ∧
    (∀ c ∈ w'.m.cores, c.2.queue = [] ∧ c.2.tileOps = []) ∧
    (∃ r, w'.m.mgmt.machineChecks = (r :: w.m.mgmt.machineChecks).take 1024 ∧ r.kind = mcThermal) ∧
    ∀ n, (w.m.slot n).unit.st ≠ .idle → (w.m.slot n).unit.discard = false → (w'.m.slot n).Ended := by
  unfold bodyThermalShutdown
  extract_lets w1 w2 w3
  have hw3 : w3 = w1.stopAll (w1.m.slots.map (fun p => p.1)) (w2.m.shadow.map (fun p => p.1)) := rfl
  refine ⟨_, rfl, rfl, rfl, rfl, fun c hc => ?_,
    ⟨_, (congrArg (fun m : Mach => m.mgmt.machineChecks) (stopAll_frame w1 _ _) :), rfl⟩, fun n hidle hdiscard => ?_⟩
  · obtain ⟨d, -, rfl⟩ := List.mem_map.1 hc
    exact ⟨rfl, rfl⟩
  · have hlisted : n ∈ w1.m.slots.map (fun p => p.1) :=
      mem_keys_of_tabGet (d := Slot.reset) fun h => hidle (congrArg (fun v : Slot => v.unit.st) h)
    exact (congrArg (fun w : Work => (w.m.slot n).Ended) hw3).mpr (stopAll_ended (w := w1) hlisted hidle hdiscard _)

/-! ### Boot (17 R419, R420) -/

theorem verifies_eq_true {g : Mgmt} {i : FirmwareImage} :
    g.verifies i = true ↔ g.fuse ≤ i.version ∧ xmssVerify (g.keyFor i) (imageMessage i) i.signature = true := by
  rw [Mgmt.verifies, Bool.and_eq_true, decide_eq_true_iff]

theorem run_of_good {g : Mgmt} {um l : FirmwareImage} (hl : g.loader = some l) (h : g.verifies l = true) : g.run um =
    { g with stage := 3, version := um.version,
             log := [Config.romVersion, firmwareDigest um, firmwareDigest l, BitVec.ofNat 256 g.fuse] } := by
  have hgood : g.loader.filter g.verifies = some l := by rw [hl, Option.filter_some_pos h]
  unfold Mgmt.run
  rw [hgood]
  rfl

theorem run_of_bad {g : Mgmt} {um : FirmwareImage} (h : ∀ l, g.loader = some l → g.verifies l = false) : g.run um =
    { g with stage := 2, version := um.version, log := [Config.romVersion, firmwareDigest um, BitVec.ofNat 256 g.fuse] } := by
  have hnone : g.loader.filter g.verifies = none :=
    Option.filter_eq_none_iff.2 fun l hl => Bool.eq_false_iff.1 (h l hl)
  unfold Mgmt.run
  rw [hnone]
  rfl

/-- What boot makes of the management core. -/
def Mgmt.boot (g : Mgmt) (um ld : FirmwareImage) : Mgmt :=
  let g := { g with loader := some { ld with loader := true } }
  let um := { um with loader := false }
  if g.verifies um then g.run um else { g with stage := 1, log := [Config.romVersion, BitVec.ofNat 256 g.fuse] }

theorem boot_of_good {g : Mgmt} {um ld : FirmwareImage} (h : g.verifies { um with loader := false } = true) :
    g.boot um ld = Mgmt.run { g with loader := some { ld with loader := true } } { um with loader := false } := if_pos h

theorem boot_of_bad {g : Mgmt} {um ld : FirmwareImage} (h : g.verifies { um with loader := false } = false) :
    g.boot um ld = { g with loader := some { ld with loader := true }, stage := 1,
                            log := [Config.romVersion, BitVec.ofNat 256 g.fuse] } := if_neg (Bool.eq_false_iff.1 h)

theorem powerOnBoot_of_off {s : State} (um ld : FirmwareImage) (h : s.mgmt.stage = 0) :
    exec (.powerOnBoot um ld) s = .next { s with mgmt := s.mgmt.boot um ld } :=
  event_writes_none (f := bodyPowerOnBoot um ld) (w := s.work.mgmt (·.boot um ld))
    (if_neg (not_not_intro (show s.work.m.mgmt.stage = 0 from h))) rfl

/-- Settles O59: each event by its body; the shutdown by what its stops leave, boot by which of its two images verify. -/
theorem packageEvents : Obligations.PackageEvents := by
  intro s k celsius mv lane port die um₀ ld₀ m g runs um ld fuse
  have hlanded (h : m.coreLanded k = true) : ¬(!m.coreLanded k) = true := by rw [h]; exact Bool.false_ne_true
  refine ⟨fun hland hspare => ?_, fun hland hspare => ?_, fun hbad hspare => ?_, ?_, ?_, ?_, fun hstage => ?_, ?_⟩
  · exact event_writes_none (f := bodySpareSwitch (.lane k))
      ((if_neg (hlanded hland)).trans (if_neg (Bool.eq_false_iff.1 hspare))) rfl
  · exact event_writes_none (f := bodySpareSwitch (.lane k)) ((if_neg (hlanded hland)).trans (if_pos hspare)) rfl
  · refine event_writes_none (f := bodySpareSwitch (.linkLane port)) (if_neg ?_) rfl
    obtain ⟨l, hl, hport⟩ := hbad
    rw [Bool.or_eq_true, not_or, Bool.not_eq_true', Bool.not_eq_false]
    exact ⟨List.any_eq_true.2 ⟨l, hl, beq_iff_eq.2 hport⟩, fun h => hspare (List.contains_iff_mem.1 h)⟩
  · refine ⟨_, event_writes_none (f := bodyLinkRetrain port lane) rfl rfl, ?_, rfl⟩
    exact mem_append_unless m.pkg.badLanes (port.val, lane)
  · exact event_writes_none (f := bodyThermalClockReduction) rfl rfl
  · obtain ⟨w, hw, hoff, hengines, hshadow, hcores, hcheck, hends⟩ := thermalShutdown_leaves s.work
    refine ⟨_, event_ok (f := bodyThermalShutdown) hw, ?_⟩
    obtain ⟨t, ht⟩ := wrote_eq w.m w.unspent
    simp only [finish_toMach, slot_wrote_unit]
    rw [ht]
    exact ⟨hoff, hengines, hshadow, hcores, hcheck, hends⟩
  · refine ⟨_, powerOnBoot_of_off um₀ ld₀ hstage, fun hbad => ?_, fun hum => ⟨?_, fun hbad => ?_, fun hld => ?_⟩⟩
    · rw [boot_of_bad (g := s.mgmt) (um := um₀) (Bool.eq_false_iff.2 fun h => hbad (verifies_eq_true.1 h))]
      exact ⟨rfl, rfl, rfl⟩
    · rw [boot_of_good (g := s.mgmt) (um := um₀) (verifies_eq_true.2 hum)]
      rfl
    · rw [boot_of_good (g := s.mgmt) (um := um₀) (verifies_eq_true.2 hum), run_of_bad fun l hl => ?_]
      · exact ⟨rfl, rfl⟩
      · obtain rfl := Option.some.inj hl
        exact Bool.eq_false_iff.2 fun h => hbad (verifies_eq_true.1 h)
    · rw [boot_of_good (g := s.mgmt) (um := um₀) (verifies_eq_true.2 hum), run_of_good (g := { s.mgmt with loader := some ld }) rfl
        (verifies_eq_true.2 hld)]
      exact ⟨rfl, rfl⟩
  · exact event_writes_none (f := bodyAnnalsObservation die celsius mv) rfl rfl

end Sys2Proof.Machine
end


section
/-! The management interface: requests served and refused (13 R332; 15 R389; 16 R391, R393, R405, R410; 17 R418 to R423). -/

namespace Sys2Proof.Machine

/-! ### Requests served and refused (17 R418) -/

/-- What a request that is refused leaves. -/
def State.refused (s : State) : State := { s with mgmt := { s.mgmt with response := none } }

/-- What a request that is served leaves: a machine, and the response's body. -/
def State.answered (s : State) (m : Mach) (r : List Word) : State :=
  { s with toMach := { m with mgmt := { m.mgmt with response := some r } } }

theorem refuses_iff {g : Mgmt} {stage : Nat} : (g.stage < stage ∨ (!g.conns.any (fun c => c.2)) = true) ↔
    ¬(stage ≤ g.stage ∧ ∃ c ∈ g.conns, c.2 = true) := by
  rw [Bool.not_eq_true', Bool.eq_false_iff, ne_eq, List.any_eq_true, ← Nat.not_le, Classical.not_and_iff_not_or_not]

section
variable {s : State} {stage : Nat} {act : Work → Option Work}

theorem itrus_of_down (h : ¬(stage ≤ s.mgmt.stage ∧ ∃ c ∈ s.mgmt.conns, c.2 = true)) :
    event (itrus stage act) s = .next s.refused :=
  event_writes_none (w := s.work.refuse) (if_pos (refuses_iff.2 h)) rfl

theorem itrus_of_none (h : act s.work = none) : event (itrus stage act) s = .next s.refused := by
  refine event_writes_none (w := s.work.refuse) ?_ rfl
  unfold itrus
  rw [h]
  exact ite_self _

theorem itrus_of_some {w : Work} (hup : stage ≤ s.mgmt.stage ∧ ∃ c ∈ s.mgmt.conns, c.2 = true) (h : act s.work = some w) :
    event (itrus stage act) s = .next (w.finish s) := by
  refine event_ok ((if_neg fun hdown => refuses_iff.1 hdown hup).trans ?_)
  rw [h]

theorem itrus_of_answer {m : Mach} {r : List Word} (hup : stage ≤ s.mgmt.stage ∧ ∃ c ∈ s.mgmt.conns, c.2 = true)
    (h : act s.work = some (Work.respond { s.work with m := m } r)) : event (itrus stage act) s = .next (s.answered m r) :=
  (itrus_of_some hup h).trans (congrArg _ (finish_of_no_writes _ s rfl))

end

/-! ### Firmware (17 R419, R420) -/

/-- The fuse counter raised by an image that is taken as an update. -/
def Mgmt.raised (g : Mgmt) (i : FirmwareImage) : Mgmt := { g with fuse := firmwareFuse i g.fuse }

/-- What the management core becomes by an update that is good. -/
def Mgmt.updated (g : Mgmt) (i : FirmwareImage) : Mgmt :=
  if i.loader then
    let given := { g.raised i with loader := some i }
    if g.stage = 2 then { given with stage := 3, log := g.log.take 2 ++ [firmwareDigest i, BitVec.ofNat 256 (g.raised i).fuse] }
    else given
  else if g.stage = 1 then (g.raised i).run i
  else g.raised i

theorem firmwareUpdate_of_good {s : State} {i : FirmwareImage} (hup : 1 ≤ s.mgmt.stage ∧ ∃ c ∈ s.mgmt.conns, c.2 = true)
    (h : s.mgmt.verifies i = true) (hrom : ¬(i.loader = true ∧ s.mgmt.stage = 1)) :
    exec (.itrusFirmwareUpdate i) s = .next { s with mgmt := { s.mgmt.updated i with response := some [] } } := by
  have hact : ¬(!s.mgmt.verifies i || (i.loader && s.mgmt.stage == 1)) = true := by simpa [h] using hrom
  exact itrus_of_answer (m := { s.toMach with mgmt := s.mgmt.updated i }) hup (if_neg hact)

theorem firmwareUpdate_of_bad {s : State} {i : FirmwareImage} (h : s.mgmt.verifies i = false ∨ i.loader = true ∧ s.mgmt.stage = 1) :
    exec (.itrusFirmwareUpdate i) s = .next s.refused := by
  have hact : (!s.mgmt.verifies i || (i.loader && s.mgmt.stage == 1)) = true := by simpa using h
  exact itrus_of_none (if_pos hact)

theorem updated_umante {g : Mgmt} {i : FirmwareImage} (hi : i.loader = false) (hstage : g.stage ≠ 1) : g.updated i = g.raised i := by
  rw [Mgmt.updated, hi, if_neg Bool.false_ne_true, if_neg hstage]

theorem updated_rom {g : Mgmt} {i : FirmwareImage} (hi : i.loader = false) (hstage : g.stage = 1) :
    g.updated i = (g.raised i).run i := by
  rw [Mgmt.updated, hi, if_neg Bool.false_ne_true, if_pos hstage]

theorem updated_loader {g : Mgmt} {i : FirmwareImage} (hi : i.loader = true) :
    (g.updated i).fuse = firmwareFuse i g.fuse ∧ (g.updated i).version = g.version ∧ (g.updated i).loader = some i ∧
    (g.updated i).stage = if g.stage = 2 then 3 else g.stage := by
  rw [Mgmt.updated, if_pos hi]
  dsimp only
  split
  · exact ⟨rfl, rfl, rfl, rfl⟩
  · exact ⟨rfl, rfl, rfl, rfl⟩

theorem updated_fuse (g : Mgmt) (i : FirmwareImage) : (g.updated i).fuse = firmwareFuse i g.fuse := by
  by_cases hi : i.loader = true
  · exact (updated_loader hi).1
  · rw [Bool.not_eq_true] at hi
    by_cases hstage : g.stage = 1
    · rw [updated_rom hi hstage]
      rfl
    · rw [updated_umante hi hstage]
      rfl

/-! ### The request itself (17 R418) -/

theorem serves_of_mem {l : List (Nat × Bool)} {conn : Nat} (h : (conn, true) ∈ l) : ¬(!l.any (fun c => c.1 == conn && c.2)) = true := by
  rw [Bool.not_eq_true', Bool.not_eq_false, List.any_eq_true]
  exact ⟨_, h, by simp⟩

theorem request_of_long {s : State} {conn length cls : Nat} {number : Word} {i : Instr} (hcls : itrusClass i = some cls)
    (hconn : (conn, true) ∈ s.mgmt.conns) (hlong : 2 ^ 20 < length) : plainTurn (.request conn number length i) s =
      .next (s.replied { conn := conn, number := number, cls := cls, success := false, length := 0 }) := by
  unfold plainTurn
  dsimp only
  rw [hcls]
  exact (if_neg (serves_of_mem hconn)).trans (if_pos hlong)

theorem request_of_next {s t : State} {conn length cls : Nat} {number : Word} {i : Instr} (hcls : itrusClass i = some cls)
    (hconn : (conn, true) ∈ s.mgmt.conns) (hlong : length ≤ 2 ^ 20) (ht : exec i s = .next t) :
    plainTurn (.request conn number length i) s = .next (t.replied
      { conn := conn, number := number, cls := cls, success := t.mgmt.response.isSome,
        length := 8 * (t.mgmt.response.getD []).length }) := by
  unfold plainTurn
  dsimp only
  rw [hcls]
  refine ((if_neg (serves_of_mem hconn)).trans (if_neg (Nat.not_lt.2 hlong))).trans ?_
  rw [ht]

/-! ### The classes -/

/-- The base of a trace ring that is good: lines of HBM, with 2^8 to 2^20 records (16 R391). -/
def Work.RingOk (w : Work) (base : Nat) : Prop :=
  let size := w.num (hbmLoc (base + 16)) 1 % 32
  base % 64 = 0 ∧ 8 ≤ size ∧ size ≤ 20 ∧ base + 64 + 64 * 2 ^ size ≤ hbmEnd

section
variable {s : State} (hup : 2 ≤ s.mgmt.stage ∧ ∃ c ∈ s.mgmt.conns, c.2 = true)
include hup

theorem itrusPartition_setProtmode (ctx : Fin 16) (b : Bool) (h : (s.toMach.context ctx.val).resident = true) :
    exec (.itrusPartitionControl (.setProtmode ctx b)) s =
      .next (s.answered (s.toMach.setContext ctx.val { s.toMach.context ctx.val with prot := b }) []) := by
  refine itrus_of_answer hup (if_neg ?_)
  rw [show s.work.m.context ctx.val = s.toMach.context ctx.val from rfl, h]
  exact Bool.false_ne_true

theorem itrusDebug_setControls {lid : Nat} (unit : Nat) (ctl pc : Word) (h : s.toMach.handleIx lid ≠ none) :
    exec (.itrusDebug (.setControls lid unit ctl pc)) s = .next (s.answered (s.toMach.setSched (fun c => { c with
      controls := ((lid, unit), ctl &&& 0xFFFFFFFF0000001F, keepBits pc 2 55) ::
        c.controls.filter (fun d => d.1 ≠ (lid, unit)) })) []) :=
  itrus_of_answer hup (if_neg fun hnone => h (Option.isNone_iff_eq_none.1 hnone))

theorem itrusDebug_resume {lid unit : Nat} {h : Suspended} (hh : s.toMach.haltedUnit lid unit = some h) :
    exec (.itrusDebug (.resume lid unit)) s = .next (s.answered (s.toMach.setSched (fun c => { c with
      suspended := c.suspended.map (fun x => if x = h then { x with halted := false } else x) })) []) := by
  refine itrus_of_answer hup ?_
  simp only [Work.debug]
  rw [show s.work.m.haltedUnit lid unit = some h from hh]
  rfl

theorem itrusDebug_kill {lid unit : Nat} (cause detail : Nat) {h : Suspended} (hh : s.toMach.haltedUnit lid unit = some h) :
    ∃ f : Failure, f.cause = cause % 256 ∧ f.detail = detail % 128 ∧ f.unit = unit ∧
      exec (.itrusDebug (.kill lid unit cause detail)) s = .next (((s.work.endSuspended h f).respond []).finish s) := by
  refine ⟨{ cause := cause % 256, detail := detail % 128, pc := keepBits (h.slot.unit.exitAt.getD 0) 0 57, addr := 0, unit := unit,
            treg := 0, token := 0 }, rfl, rfl, rfl, itrus_of_some hup ?_⟩
  simp only [Work.debug]
  rw [show s.work.m.haltedUnit lid unit = some h from hh]

theorem itrusTrace_of_live {job : Nat} (hlive : (s.toMach.job job).live = true) :
    (∀ base trcctl, s.work.RingOk base →
      exec (.itrusTrace (.setRing job base trcctl)) s =
        .next (s.answered (s.toMach.setJob job { s.toMach.job job with ring := some base, trcctl := trcctl }) [])) ∧
    exec (.itrusTrace (.removeRing job)) s =
      .next (s.answered (s.toMach.setJob job { s.toMach.job job with ring := none, trcctl := 0 }) []) ∧
    ∀ table, exec (.itrusTrace (.setReference job table)) s =
      .next (s.answered (s.toMach.setJob job { s.toMach.job job with reference := table }) []) := by
  have hset : ¬(!(s.work.m.job job).live) = true := by
    rw [show s.work.m.job job = s.toMach.job job from rfl, hlive]
    exact Bool.false_ne_true
  refine ⟨fun base trcctl hring => itrus_of_answer hup ((if_neg ?_).trans (if_neg hset)), itrus_of_answer hup (if_neg hset),
    fun table => itrus_of_answer hup (if_neg hset)⟩
  obtain ⟨hbase, hlow, hhigh, hend⟩ := hring
  omega

theorem itrusAnnals_readRecord {kind : Nat} (ix : Nat) (h : kind ≤ 14) : exec (.itrusAnnals (.readRecord kind ix)) s =
    .next (s.answered s.toMach [BitVec.ofNat 64
      (((s.mgmt.annals.find? (fun e => e.1.place == (kind, ix))).map (fun e => e.2)).getD 0)]) :=
  itrus_of_answer hup (if_neg (Nat.not_lt.2 h))

theorem itrusRecovery_report {job n : Nat} (hn : s.toMach.minSeq job = some n) (hlive : (s.toMach.job job).live = true) :
    exec (.itrusRecovery (.report job)) s = .next (s.answered s.toMach [BitVec.ofNat 64 n, BitVec.ofNat 64 (s.toMach.job job).ignored,
      boolWord (s.toMach.job job).failedRestore, boolWord (s.toMach.job job).stopped]) := by
  refine itrus_of_answer hup ?_
  dsimp only
  rw [show s.work.m.minSeq job = some n from hn, show s.work.m.job job = s.toMach.job job from rfl, hlive]
  rfl

theorem itrusRecovery_agree {job n : Nat} {seq : Word} (hn : s.toMach.minSeq job = some n) (hlive : (s.toMach.job job).live = true)
    (hstopped : (s.toMach.job job).stopped = true) (hseq : seq.toNat ≤ n) : exec (.itrusRecovery (.agree job seq)) s =
      .next (s.answered (s.toMach.setJob job { s.toMach.job job with agreed := some seq }) []) := by
  have hgood : ¬(!(s.toMach.job job).live || decide (n < seq.toNat)) = true := by simpa [hlive] using hseq
  refine itrus_of_answer hup ?_
  dsimp only
  rw [show s.work.m.minSeq job = some n from hn]
  refine (if_neg hgood).trans ?_
  rw [show s.work.m.job job = s.toMach.job job from rfl, if_pos hstopped]
  rfl

end

theorem itrusRecovery_of_none {s : State} {job : Nat} (h : s.toMach.minSeq job = none ∨ (s.toMach.job job).live = false) :
    exec (.itrusRecovery (.report job)) s = .next s.refused ∧
    ∀ seq, exec (.itrusRecovery (.agree job seq)) s = .next s.refused := by
  refine ⟨itrus_of_none ?_, fun seq => itrus_of_none ?_⟩
  all_goals
    dsimp only
    rw [show s.work.m.job job = s.toMach.job job from rfl, show s.work.m.minSeq job = s.toMach.minSeq job from rfl]
    rcases h with h | h
    · rw [h]
    · rw [h]
      cases s.toMach.minSeq job <;> rfl

theorem itrusRecovery_beyond {s : State} {job n : Nat} {seq : Word} (hn : s.toMach.minSeq job = some n) (hseq : n < seq.toNat) :
    exec (.itrusRecovery (.agree job seq)) s = .next s.refused := by
  refine itrus_of_none ?_
  dsimp only
  rw [show s.work.m.minSeq job = some n from hn]
  exact if_pos (Bool.or_eq_true_iff.2 (.inr (decide_eq_true hseq)))

theorem itrusTrace_of_dead {s : State} {job : Nat} (hlive : (s.toMach.job job).live = false) :
    exec (.itrusTrace (.removeRing job)) s = .next s.refused ∧
    ∀ table, exec (.itrusTrace (.setReference job table)) s = .next s.refused := by
  have hset : (!(s.work.m.job job).live) = true := by rw [show s.work.m.job job = s.toMach.job job from rfl, hlive]; rfl
  exact ⟨itrus_of_none (if_pos hset), fun table => itrus_of_none (if_pos hset)⟩

theorem itrusDebug_of_none {s : State} {lid unit : Nat} (h : s.toMach.haltedUnit lid unit = none) :
    exec (.itrusDebug (.resume lid unit)) s = .next s.refused ∧
    ∀ cause detail, exec (.itrusDebug (.kill lid unit cause detail)) s = .next s.refused := by
  refine ⟨itrus_of_none ?_, fun cause detail => itrus_of_none ?_⟩
  all_goals
    simp only [Work.debug]
    rw [show s.work.m.haltedUnit lid unit = none from h]

theorem itrusTrace_of_bad {s : State} {job base : Nat} (trcctl : BitVec 3)
    (h : (s.toMach.job job).live = false ∨ ¬s.work.RingOk base) : exec (.itrusTrace (.setRing job base trcctl)) s = .next s.refused := by
  refine itrus_of_none ?_
  simp only [Work.traceSetup]
  split
  next => rfl
  next hring =>
    refine if_pos (congrArg (!·) (h.resolve_right (not_not_intro ?_)))
    simp only [Work.RingOk]
    omega

theorem itrusAttestation_of_key {s : State} (hup : 2 ≤ s.mgmt.stage ∧ ∃ c ∈ s.mgmt.conns, c.2 = true) (nonce : BitVec 256)
    (hkey : s.mgmt.keyIndex < 2 ^ 20) : ∃ (m : Mach) (r : List Word),
      exec (.itrusAttestation nonce) s = .next { s with toMach := m } ∧ m.mgmt.keyIndex = s.mgmt.keyIndex + 1 ∧
      m.mgmt.response = some (s.mgmt.log.flatMap wordsOf ++ wordsOf nonce ++ r) := by
  let m : Mach := { s.toMach with mgmt := { s.mgmt with keyIndex := s.mgmt.keyIndex + 1 }, fresh := s.toMach.fresh + 1 }
  let r : List Word := [Config.identity] ++ wordsOf (Config.attestationSignature s.toMach.fresh)
  refine ⟨_, r, itrus_of_answer (m := m) (r := s.mgmt.log.flatMap wordsOf ++ wordsOf nonce ++ r) hup ?_, rfl, rfl⟩
  rw [← List.append_assoc]
  exact if_neg (Nat.not_le.2 hkey)

theorem itrusConnection_of_room {s : State} (hstage : s.mgmt.stage ≠ 0) (hroom : s.mgmt.conns.length < 8) :
    exec (.itrusConnection (.openConn true)) s = .next { s with mgmt := { s.mgmt with
      conns := s.mgmt.conns ++ [(s.mgmt.nextConn, true)], nextConn := s.mgmt.nextConn + 1,
      response := some [BitVec.ofNat 64 s.mgmt.nextConn] } } := by
  have hgood : ¬(!true || decide (8 ≤ s.mgmt.conns.length)) = true := by simpa using hroom
  exact event_writes_none (f := bodyItrusConnection (.openConn true)) ((if_neg hstage).trans (if_neg hgood)) rfl

/-- Settles O60: `itrus` by whether a request is served and what its class answers; the name `itrus` is the model's. -/
theorem itrusManagementInterface : Obligations.Itrus := by
  intro s w' img nonce w m g answer no secure up
  refine ⟨itrusConnection_of_room, fun hdown => ?_, fun hup => ?_, ?_, ?_, ?_⟩
  · exact ⟨fun _ => itrus_of_down hdown, fun _ => itrus_of_down hdown, fun _ => itrus_of_down hdown, fun _ => itrus_of_down hdown,
      fun _ => itrus_of_down hdown, fun _ => itrus_of_down hdown, itrus_of_down hdown⟩
  · refine ⟨fun msg h => itrus_of_some hup h, fun msg h => itrus_of_none h, itrusPartition_setProtmode hup,
      fun lid unit ctl pc => ⟨itrusDebug_setControls hup unit ctl pc, fun h => itrus_of_none (if_pos (Option.isNone_iff_eq_none.2 h))⟩,
      fun lid unit cause detail => ⟨fun h hh => ⟨itrusDebug_resume hup hh, itrusDebug_kill hup cause detail hh⟩, fun hnone => ?_⟩,
      fun job base trcctl table => ⟨fun hlive => ?_, fun hbad => ?_, fun hlive => ?_⟩, itrus_of_answer hup rfl,
      fun kind ix => ⟨itrusAnnals_readRecord hup ix, fun h => itrus_of_none (if_pos h)⟩,
      fun job seq => ⟨fun h => ?_, fun n hn hlive => ?_⟩, fun watts => ⟨fun hgood => ?_, fun hbad => ?_⟩,
      itrus_of_answer hup rfl, fun hkey => ?_, fun hkey => itrus_of_none (if_pos hkey)⟩
    · exact ⟨(itrusDebug_of_none hnone).1, (itrusDebug_of_none hnone).2 cause detail⟩
    · obtain ⟨hset, hremove, href⟩ := itrusTrace_of_live hup hlive
      exact ⟨hset base trcctl, hremove, href table⟩
    · exact itrusTrace_of_bad trcctl hbad
    · exact ⟨(itrusTrace_of_dead hlive).1, (itrusTrace_of_dead hlive).2 table⟩
    · exact ⟨(itrusRecovery_of_none h).1, (itrusRecovery_of_none h).2 seq⟩
    · exact ⟨itrusRecovery_report hup hn hlive, itrusRecovery_beyond hn,
        fun hseq hstopped => itrusRecovery_agree hup hn hlive hstopped hseq⟩
    · obtain ⟨hlow, hhigh, hstep⟩ := hgood
      exact itrus_of_answer (m := { m with mgmt := { g with powerCap := watts } }) hup (if_neg (by omega))
    · exact itrus_of_none (if_pos (by omega))
    · exact itrusAttestation_of_key hup nonce hkey
  · intro signed good
    refine ⟨fun hstage hsecure hgood => ?_, fun hbad => ?_⟩
    · obtain ⟨hsigned, hfuse, hrom⟩ := hgood
      refine ⟨_, firmwareUpdate_of_good ⟨hstage, hsecure⟩ (verifies_eq_true.2 ⟨hfuse, hsigned⟩) hrom, updated_fuse g img, rfl,
        fun himg hstage => ?_, fun himg hstage => ?_, fun himg => ?_⟩
      · dsimp only
        rw [updated_rom himg hstage]
        refine ⟨rfl, fun ⟨l, hl, hsigned, hversion⟩ => ?_, fun hnone => ?_⟩
        · rw [run_of_good (g := g.raised img) hl (verifies_eq_true.2 ⟨hversion, hsigned⟩)]
        · rw [run_of_bad (g := g.raised img) fun l hl => nomatch hnone.symm.trans hl]
          exact ⟨rfl, rfl⟩
      · dsimp only
        rw [updated_umante himg hstage]
        exact ⟨rfl, rfl, rfl⟩
      · obtain ⟨-, hversion, hloader, hstage⟩ := updated_loader (g := g) himg
        exact ⟨hversion, hloader, hstage⟩
    · by_cases hgood : good
      · exact itrus_of_down fun hup => hbad.elim (Nat.not_lt.2 hup.1) (·.elim (· hup.2) (· hgood))
      · refine firmwareUpdate_of_bad ?_
        by_cases hver : g.verifies img = true
        · obtain ⟨hfuse, hsigned⟩ := verifies_eq_true.1 hver
          exact .inr (Classical.byContradiction fun hrom => hgood ⟨hsigned, hfuse, hrom⟩)
        · exact .inl (Bool.eq_false_iff.2 hver)
  · exact fun conn number length i cls hcls hconn hlong => request_of_long hcls hconn hlong
  · exact fun conn number length i cls t hcls hconn hlong ht => request_of_next hcls hconn hlong ht

end Sys2Proof.Machine
end


section
/-! Launches, cancels and counters (14 R334 to R336, R351 to R353). -/

namespace Sys2Proof.Machine

/-! ### Packets submitted (14 R351) -/

/-- A packet as it is accepted from the unit of a work: at the lower of its priority and the launch's. -/
def Work.accepts (w : Work) (bytes : List Byte) : Option (Nat × Mach) :=
  w.m.acceptDevice w.origin { readPacket bytes with prio := max (readPacket bytes).prio (w.m.prioOf w.s.unit.lid) }

/-- What a submission answers: the launch ID, and the machine that took the launch. -/
def Work.took (w : Work) (r : Option (Nat × Mach)) : Option Nat × Work := (r.map Prod.fst, { w with m := (r.map Prod.snd).getD w.m })

theorem submit_of_formed {w w1 : Work} {p : Word} {bytes : List Byte} (hlive : w.m.cancelledLid w.s.unit.lid = false)
    (halign : p.toNat % 128 = 0) (hout : w.s.unit.remoteOut = 0) (hload : w.loadRun p 128 = .ok (bytes, w1))
    (hformed : (readPacket bytes).malformed = false) (hvalid : (readPacket bytes).valid = true) :
    w.submit p = .ok (w1.took (w1.accepts bytes)) := by
  have hgood : ¬((readPacket bytes).malformed || !(readPacket bytes).valid) = true := by simp [hformed, hvalid]
  unfold Work.submit Work.accepts
  rw [if_neg (Bool.eq_false_iff.1 hlive), if_neg (not_not_intro halign), performed_of_none hout]
  simp only [bind, Except.bind, hload]
  rw [if_neg hgood]
  split
  next hnone => rw [hnone]; rfl
  next hsome => rw [hsome]; rfl

theorem bodyLaunch_of_accepted {w w1 : Work} {a : Reg} {lid : Nat} (h : w.submit (w.x a.val) = .ok (some lid, w1)) :
    bodyLaunch a w = .ok w1 := by
  simp only [bodyLaunch, bind, Except.bind, h]

theorem bodyLaunch_of_full {w w1 : Work} {a : Reg} (h : w.submit (w.x a.val) = .ok (none, w1)) :
    bodyLaunch a w = raise w1 cLAUNCH_OVERFLOW (w.x a.val) := by
  simp only [bodyLaunch, bind, Except.bind, h]

theorem bodyLaunchn_of_submit {w w1 : Work} {d a : Reg} {r : Option Nat} (h : w.submit (w.x a.val) = .ok (r, w1)) :
    bodyLaunchn d a w = .ok (w1.setX d.val (BitVec.ofNat 64 (r.getD 0))) := by
  simp only [bodyLaunchn, bind, Except.bind, h]

/-! ### Handles (14 R335) -/

/-- Whether a handle names an entry of the completion table that is still the one it was given for (14 R335). -/
def Mach.Names (m : Mach) (h : Nat) : Prop :=
  h ≠ 0 ∧ h < 2 ^ 44 ∧ (m.entry (h % 4096)).serial ≠ 0 ∧ (m.entry (h % 4096)).serial = h / 4096

theorem handleIx_of_names {m : Mach} {h : Nat} (hn : m.Names h) : m.handleIx h = some (h % 4096) := if_pos hn

theorem handleIx_of_stale {m : Mach} {h : Nat} (hn : ¬m.Names h) : m.handleIx h = none := if_neg hn

section
variable {w : Work} {a : Reg}

theorem bodyCancel_of_own {b : Reg} (hout : w.s.unit.remoteOut = 0) (hb : b.val = 0) (hn : w.m.Names (w.x a.val).toNat)
    (hjob : (w.m.entry ((w.x a.val).toNat % 4096)).job = w.ctx.job) :
    bodyCancel a b w = .ok { w with m := w.m.cancelEntry ((w.x a.val).toNat % 4096) } := by
  simp only [bodyCancel, bind, Except.bind, performed_of_none hout, handleIx_of_names hn, hjob, ne_eq, not_true_eq_false, if_false,
    hb, if_true]

theorem bodyCancel_of_stale {b : Reg} (hout : w.s.unit.remoteOut = 0) (hn : ¬w.m.Names (w.x a.val).toNat) :
    bodyCancel a b w = .ok w := by
  simp only [bodyCancel, bind, Except.bind, performed_of_none hout, handleIx_of_stale hn]

theorem bodyCntrd_of_own {d : Reg} (hn : w.m.Names (w.x a.val).toNat)
    (hjob : (w.m.entry ((w.x a.val).toNat % 4096)).job = w.ctx.job) :
    bodyCntrd d a w = .ok (w.setX d.val (BitVec.ofNat 64 (
      let e := w.m.entry ((w.x a.val).toNat % 4096)
      min 0xFFFFFFFF e.count + 2 ^ 32 * e.status + 2 ^ 35 * e.level))) := by
  simp only [bodyCntrd, handleIx_of_names hn, hjob, ne_eq, not_true_eq_false, if_false, at_, Nat.mul_comm]

theorem bodyCntrd_of_stale {d : Reg} (hn : ¬w.m.Names (w.x a.val).toNat) : bodyCntrd d a w = .ok (w.setX d.val 0) := by
  simp only [bodyCntrd, handleIx_of_stale hn]
  rfl

end

/-- Settles O48: the launches by what their packet's submission answers, cancels and counters by whether the handle is live. -/
theorem launchesAndCounters : Obligations.LaunchesAndCounters := by
  refine ⟨fun s w w1 st d a bytes hlive halign hout hload => ?_, fun s w st d a b => ⟨?_, ?_, ?_, ?_⟩⟩
  · intro k hformed hvalid took
    have hsubmit : w.submit (w.x a.val) = .ok (w1.took took) := submit_of_formed hlive halign hout hload hformed hvalid
    refine ⟨fun lid m htook => ?_, fun htook => ?_⟩
    · rw [htook] at hsubmit
      exact ⟨exec_of_runs ⟨rfl, bodyLaunch_of_accepted hsubmit⟩, exec_of_runs ⟨rfl, bodyLaunchn_of_submit hsubmit⟩⟩
    · rw [htook] at hsubmit
      exact ⟨exec_of_runs ⟨rfl, bodyLaunchn_of_submit hsubmit⟩,
        exec_of_raise ⟨rfl, bodyLaunch_of_full hsubmit⟩ rfl rfl (by decide)⟩
  · exact fun hbegins hout hb hn hjob => exec_of_runs ⟨rfl, bodyCancel_of_own hout hb hn hjob⟩ hbegins
  · exact fun hbegins hout hn => exec_of_runs ⟨rfl, bodyCancel_of_stale hout hn⟩ hbegins
  · exact fun hbegins hn hjob => exec_of_runs ⟨rfl, bodyCntrd_of_own hn hjob⟩ hbegins
  · exact fun hbegins hn => exec_of_runs ⟨rfl, bodyCntrd_of_stale hn⟩ hbegins

end Sys2Proof.Machine
end


section
/-! Sequencers started and joined, yield, exit and notify (14 R348, R349, R354 to R358). -/

namespace Sys2Proof.Machine

/-! ### Fork and join (14 R354, R355) -/

/-- A sequencer as `fork` starts it, at p with seven registers from the first: it takes the unit's format, slice, rounding and level. -/
def Work.forked (w : Work) (p : Word) (first : Nat) : Sequencer :=
  { Sequencer.reset with
    fmt := w.s.ctl.fmt, slc := w.s.ctl.slc, rm := w.s.ctl.rm, sup := w.s.regs.level == .supervisor,
    st := if p = 0 then .idle else .running, pc := p, r := (List.range 7).map (fun i => (i + 1, w.x (first + i))) }

theorem bodyFork_of_idle {w : Work} {a b : Reg} (hm : w.s.mseq.st = .idle) (hc : w.s.cseq.st = .idle)
    (ha : (w.x a.val).toNat % 4 = 0) (hb : (w.x b.val).toNat % 4 = 0) (htile : w.x a.val = 0 ∨ tileDetail w.m w.m.cur = none)
    (hout : w.s.unit.remoteOut = 0) (hstarts : w.x a.val ≠ 0 ∨ w.x b.val ≠ 0) :
    bodyFork a b w = .ok (w.setS { w.s with mseq := w.forked (w.x a.val) 17, cseq := w.forked (w.x b.val) 25 }) := by
  have hidle : ¬(w.s.mseq.st ≠ .idle ∨ w.s.cseq.st ≠ .idle) := by simp [hm, hc]
  have hdetail : (if w.x a.val = 0 then none else tileDetail w.m w.m.cur) = none := by
    rcases htile with h | h
    · exact if_pos h
    · rw [h, ite_self]
  unfold bodyFork
  rw [if_neg hidle, if_neg (not_not_intro ha), if_neg (not_not_intro hb), hdetail, performed_of_none hout]
  exact congrArg Except.ok (if_neg fun h => hstarts.elim (absurd h.1) (absurd h.2))

theorem send_of_matrix {s : State} {n : Nat} {rest : List Turn} (st : Fin 16) (hagenda : s.agenda = .matrixSequencer n :: rest)
    (hrun : (s.toMach.slot n).mseq.st = .running) : exec (.send st) s =
      .next { s with toMach := s.toMach.setSlot n { s.toMach.slot n with
        mseq := { (s.toMach.slot n).mseq with st := .arrived } } } := by
  change execSend st s = _
  unfold execSend
  rw [hagenda]
  exact congrArg Host.Outcome.next (if_pos hrun)

theorem send_of_copy {s : State} {n : Nat} {rest : List Turn} (st : Fin 16) (hagenda : s.agenda = .copySequencer n :: rest)
    (hrun : (s.toMach.slot n).cseq.st = .running) : exec (.send st) s =
      .next { s with toMach := s.toMach.setSlot n { s.toMach.slot n with
        cseq := { (s.toMach.slot n).cseq with st := .arrived } } } := by
  change execSend st s = _
  unfold execSend
  rw [hagenda]
  exact congrArg Host.Outcome.next (if_pos hrun)

theorem clearSequencers_s (w : Work) : w.clearSequencers.s.mseq = Sequencer.reset ∧ w.clearSequencers.s.cseq = Sequencer.reset ∧
    w.clearSequencers.s.regs = w.s.regs ∧ w.clearSequencers.s.ctl = w.s.ctl := by
  have hs : w.clearSequencers.s = _ := setS_s w _
  rw [hs]
  exact ⟨rfl, rfl, rfl, rfl⟩

theorem clearSequencers_joined (w : Work) :
    ∀ e ∈ w.clearSequencers.m.engines, ∀ c ∈ e.2.cmds, c.home = .sequencer w.m.cur → c.joined = true := by
  intro e he c hc hhome
  obtain ⟨e, -, rfl⟩ := List.mem_map.1 he
  obtain ⟨c, -, rfl⟩ := List.mem_map.1 hc
  have hsame : c.home = .sequencer w.m.cur := by
    split at hhome
    · assumption
    · exact hhome
  exact congrArg Copy.joined (if_pos hsame)

section
variable {w : Work} (hm : w.s.mseq.st ≠ .running) (hc : w.s.cseq.st ≠ .running)
include hm hc

theorem bodyJoin_of_arrived (hm' : w.s.mseq.st ≠ .stopped) (hc' : w.s.cseq.st ≠ .stopped) : bodyJoin w = .ok w.clearSequencers :=
  (if_neg (not_or_intro hm hc)).trans ((if_neg hm').trans (if_neg hc'))

theorem bodyJoin_of_matrix (hm' : w.s.mseq.st = .stopped) : bodyJoin w =
    raise w.clearSequencers (w.s.mseq.cause % 256) w.s.mseq.stval (w.s.mseq.cause / 256) :=
  (if_neg (not_or_intro hm hc)).trans (if_pos hm')

theorem bodyJoin_of_copy (hm' : w.s.mseq.st ≠ .stopped) (hc' : w.s.cseq.st = .stopped) : bodyJoin w =
    raise w.clearSequencers (w.s.cseq.cause % 256) w.s.cseq.stval (w.s.cseq.cause / 256) :=
  (if_neg (not_or_intro hm hc)).trans ((if_neg hm').trans (if_pos hc'))

end

/-! ### Yield and exit (14 R356, R357) -/

theorem bodyYield_goes {w : Work} {st : Fin 16} (hst : w.s.unit.st ≠ .stop) (hout : w.outranked = false) : bodyYield st w = .ok w :=
  if_neg (by simp [hst, hout])

theorem bodyYield_suspends {w : Work} {st : Fin 16} (h : w.s.unit.st = .stop ∨ w.outranked = true) :
    bodyYield st w = .ok ((w.retire (.yield st) w.s).suspendUnit w.m.cur none true) :=
  if_pos (by simpa using h)

theorem bodyUexit_of_ended {w w1 : Work} (hstrip : w.checkStrip = .ok ()) (hend : w.endStrip = .ok w1) :
    bodyUexit w = .ok w1.leave := by
  simp only [bodyUexit, bind, Except.bind, hstrip, hend]

/-! ### Notify (14 R348, R349, R358) -/

theorem block_of_inside {q : Queue} (h : q.pa + 64 ≤ hbmEnd) : q.block = .ok (hbmLoc q.pa) := if_pos h

theorem setBlockBit_of_free {w : Work} {loc : Nat} (bit : Nat) (b : Bool) (h : w.m.busyLine loc = false) : w.setBlockBit loc bit b =
    .ok ((w.scrub loc).putNoted 0 0 loc (leBytes 8 (putBit (BitVec.ofNat 64 (w.num loc 8)) bit b).toNat)) :=
  if_neg (Bool.eq_false_iff.1 h)

theorem setBlockBit_of_busy {w : Work} {loc : Nat} (bit : Nat) (b : Bool) (h : w.m.busyLine loc = true) :
    w.setBlockBit loc bit b = .error (.wait .ownedLine) := if_pos h

theorem notifyQueue_of_mapped {w : Work} {k : Nat} {q : Queue} (hmapped : q.hwq ≠ none) (hstays : q.unmapping = false) :
    w.notifyQueue k q = .ok { w with m := w.m.setQueue k { q with notified := true } } :=
  if_pos ⟨Option.isSome_iff_ne_none.2 hmapped, by rw [hstays]; rfl⟩

theorem notifyQueue_of_unmapped {w : Work} {k : Nat} {q : Queue} (hmapped : q.hwq = none) (hin : q.pa + 64 ≤ hbmEnd) :
    w.notifyQueue k q = w.setBlockBit (hbmLoc q.pa + 8) 16 true := by
  unfold Work.notifyQueue
  rw [if_neg (by simp [hmapped]), block_of_inside hin]
  rfl

theorem bodyNotify_of_found {w : Work} {a : Reg} {k : Nat} {q : Queue} (hnum : (w.x a.val).toNat ≤ 1023)
    (hout : w.s.unit.remoteOut = 0)
    (hfound : w.m.sched.queues.find? (fun e => e.2.job = w.ctx.job && e.2.num = (w.x a.val).toNat) = some (k, q)) :
    bodyNotify a w = w.notifyQueue k q := by
  unfold bodyNotify
  rw [if_neg (Nat.not_lt.2 hnum), hfound, performed_of_none hout]
  rfl

/-- Settles O49: each word by its body's branch; `join` by what the cleared sequencers had recorded, `send` by its turn. -/
theorem sequencersYieldExit : Obligations.SequencersYieldExit := by
  refine ⟨fun s w st a b n rest => ?_, fun s w w1 st a => ⟨?_, ?_, ?_, fun k q hbegins hnum hout hfound => ⟨?_, ?_⟩⟩⟩
  · intro v q start
    refine ⟨?_, send_of_matrix st, send_of_copy st, ?_⟩
    · exact fun hbegins hm hc ha hb htile hout hstarts => exec_of_runs ⟨rfl, bodyFork_of_idle hm hc ha hb htile hout hstarts⟩ hbegins
    · intro hbegins hm hc w1 raises
      obtain ⟨hmseq, hcseq, hregs, hctl⟩ := clearSequencers_s w
      have htraps (q : Sequencer) (h : bodyJoin w = raise w1 (q.cause % 256) q.stval (q.cause / 256)) : raises q :=
        issue_traps hbegins rfl (.inl rfl) rfl h
      exact ⟨hmseq, hcseq, hregs, hctl, clearSequencers_joined w,
        fun hm' hc' => exec_of_runs ⟨rfl, bodyJoin_of_arrived hm hc hm' hc'⟩ hbegins,
        fun hm' => htraps _ (bodyJoin_of_matrix hm hc hm'), fun hm' hc' => htraps _ (bodyJoin_of_copy hm hc hm' hc')⟩
  · exact fun hbegins hst hout => exec_of_runs ⟨rfl, bodyYield_goes hst hout⟩ hbegins
  · exact fun hbegins h => exec_of_runs ⟨rfl, bodyYield_suspends h⟩ hbegins
  · exact fun hbegins hstrip hend => exec_of_runs ⟨rfl, bodyUexit_of_ended hstrip hend⟩ hbegins
  · exact fun hmapped hstays =>
      exec_of_runs ⟨rfl, (bodyNotify_of_found hnum hout hfound).trans (notifyQueue_of_mapped hmapped hstays)⟩ hbegins
  · intro hmapped hin loc
    have hbody := (bodyNotify_of_found hnum hout hfound).trans (notifyQueue_of_unmapped hmapped hin)
    exact ⟨fun hfree => exec_of_runs ⟨rfl, hbody.trans (setBlockBit_of_free 16 true hfree)⟩ hbegins,
      fun hbusy => exec_of_wait ⟨rfl, hbody.trans (setBlockBit_of_busy 16 true hbusy)⟩ hbegins⟩

end Sys2Proof.Machine
end


section
/-! User queues: notify, service, mapping, unmapping and destruction (14 R341, R348, R349). -/

namespace Sys2Proof.Machine

/-! ### Application cores (17 R411, R419) -/

theorem hosted_none_of_up {w : Work} (f : Work → M Work) (hstage : 3 ≤ w.m.mgmt.stage) (hbase : ∃ d < 4, d ∉ w.m.pkg.basesFailed) :
    w.hosted none f = f w := by
  obtain ⟨d, hd, hin⟩ := hbase
  have hdown : (List.range 4).all (fun d => w.m.pkg.basesFailed.contains d) = false :=
    List.all_eq_false.2 ⟨d, List.mem_range.2 hd, fun h => hin (List.contains_iff_mem.1 h)⟩
  unfold Work.hosted
  dsimp only
  rw [hdown, Bool.or_false]
  exact if_neg (by simpa using hstage)

/-- An event rests on what its work answers here. -/
theorem event_congr {f g : Work → M Work} {s : State} (h : f s.work = g s.work) : event f s = event g s := by
  unfold event
  rw [h]

theorem event_hosted {f : Work → M Work} {s : State} (hup : 3 ≤ s.mgmt.stage ∧ ∃ d < 4, d ∉ s.pkg.basesFailed) :
    event (fun w => w.hosted none f) s = event f s := event_congr (hosted_none_of_up f hup.1 hup.2)

/-! ### Notify and service (14 R348) -/

theorem bodyNotifyRegisterWrite_of_mapped {w : Work} {hwq k : Nat} {q : Queue} (h : w.m.mappedQueue hwq = some (k, q)) :
    bodyNotifyRegisterWrite hwq w = w.notifyQueue k q := by
  unfold bodyNotifyRegisterWrite
  rw [h]

theorem serveOnce_of_ready {w : Work} {k : Nat} {q : Queue} (hq : w.m.queue? k = some q) (hin : q.pa + 64 ≤ hbmEnd)
    (hfailing : q.failing = none) (hfree : w.m.busyLine (hbmLoc q.pa) = false) (hmapped : q.hwq ≠ none) (hlive : q.dead = false)
    (hnotified : q.notified = true) (hsound : w.m.poisoned (hbmLoc q.pa) = false) (hfirst : w.m.firstQueue k q = true)
    (hreads : w.num (hbmLoc q.pa + 16) 8 ≤ w.num (hbmLoc q.pa + 24) 8 ∨ w.m.readsQueues = true) :
    serveOnce k w =
      (Work.scrub { w with m := w.m.setQueue k { q with notified := false } } (hbmLoc q.pa)).serve k (hbmLoc q.pa) 4096 := by
  have hready : ¬(q.hwq.isNone || q.dead || !q.notified || !w.m.firstQueue k q) = true := by
    simp [hmapped, hlive, hnotified, hfirst]
  unfold serveOnce
  rw [hq]
  dsimp only
  rw [if_neg (by simp [hfailing]), if_neg hready, block_of_inside hin]
  simp only [bind, Except.bind]
  rw [if_neg (Bool.eq_false_iff.1 hfree), if_neg (Bool.eq_false_iff.1 hsound), if_pos hreads]

theorem serve_of_empty {w : Work} {k b n : Nat} (h : w.num (b + 16) 8 ≤ w.num (b + 24) 8) : w.serve k b (n + 1) = .ok w :=
  if_pos (.inr h)

theorem num_scrub (w : Work) (x loc n : Nat) : (w.scrub x).num loc n = w.num loc n :=
  congrArg leNat (bytes_of_byte (funext (scrub_byte w x)) loc n)

theorem busyLine_scrub (w : Work) (x loc : Nat) : (w.scrub x).m.busyLine loc = w.m.busyLine loc := by
  have hbare (m : Mach) : m.busyLine loc = m.bare.busyLine loc := rfl
  rw [hbare, bare_scrub, ← hbare]

/-! ### Mapping and destruction (14 R349) -/

theorem bodyQueueMap_of_free {w : Work} {k n : Nat} {q : Queue} (hq : w.m.queue? k = some q) (hin : q.pa + 64 ≤ hbmEnd)
    (hfree : w.m.busyLine (hbmLoc q.pa + 8) = false) (hunmapped : q.hwq = none) (hlive : q.dead = false) (hn : w.m.freeHwq = some n)
    (hstate : bitsN (BitVec.ofNat 64 (w.num (hbmLoc q.pa + 8) 8)) 8 2 ≠ 2) : bodyQueueMap k w =
      (let w0 := w.scrub (hbmLoc q.pa)
       let w1 : Work := { w0 with m := w0.m.setQueue k { q with hwq := some n, unmapping := false, notified := true } }
       .ok ((w1.scrub (hbmLoc q.pa + 8)).putNoted 0 0 (hbmLoc q.pa + 8)
        (leBytes 8 (putBit (BitVec.ofNat 64 (w.num (hbmLoc q.pa + 8) 8)) 16 false).toNat))) := by
  have hnum := num_scrub w (hbmLoc q.pa) (hbmLoc q.pa + 8) 8
  unfold bodyQueueMap
  rw [hq, hn]
  dsimp only
  rw [if_neg (by simp [hunmapped, hlive]), block_of_inside hin]
  simp only [bind, Except.bind]
  rw [hnum, if_neg hstate, ← hnum]
  exact setBlockBit_of_free 16 false ((busyLine_scrub w _ _).trans hfree)

theorem bodyQueueUnmap_begins {w : Work} {k : Nat} {q : Queue} (hq : w.m.queue? k = some q) (hmapped : q.hwq ≠ none)
    (hstays : q.unmapping = false) : bodyQueueUnmap k w = .ok { w with m := w.m.setQueue k { q with unmapping := true } } := by
  unfold bodyQueueUnmap
  rw [hq]
  exact (if_neg (by simp [hmapped])).trans (if_pos (by rw [hstays]; rfl))

theorem bodyQueueUnmap_ends {w : Work} {k : Nat} {q : Queue} (hq : w.m.queue? k = some q) (hin : q.pa + 64 ≤ hbmEnd)
    (hmapped : q.hwq ≠ none) (hgoes : q.unmapping = true) (hnotified : q.notified = false) :
    bodyQueueUnmap k w = .ok { w with m := w.m.setQueue k { q with hwq := none, unmapping := false, notified := false } } := by
  unfold bodyQueueUnmap
  rw [hq]
  dsimp only
  rw [if_neg (by simp [hmapped]), if_neg (by simp [hgoes]), block_of_inside hin]
  simp only [bind, Except.bind]
  exact if_neg (Bool.eq_false_iff.1 hnotified)

theorem bodyQueueDestroy_of_free {w : Work} {k : Nat} {q : Queue} (hq : w.m.queue? k = some q) (hin : q.pa + 64 ≤ hbmEnd)
    (hfree : w.m.busyLine (hbmLoc q.pa) = false) : bodyQueueDestroy k w =
      (let b := hbmLoc q.pa
       let w1 := (w.scrub b).putNoted 0 0 (b + 8) (leBytes 8 (putBits (BitVec.ofNat 64 (w.num (b + 8) 8)) 8 2 2).toNat)
       let mine := (w.m.sched.launches.filter (fun l => l.queue = some k)).map (fun l => l.lid % 4096)
       .ok { w1 with m := mine.foldl (fun m ix => m.cancelEntry ix) w1.m }) := by
  unfold bodyQueueDestroy
  rw [hq]
  dsimp only
  rw [block_of_inside hin]
  simp only [bind, Except.bind]
  exact if_neg (Bool.eq_false_iff.1 hfree)

theorem bodyMapRequest_of_new {w : Work} {pa : Nat} (halign : pa % 64 = 0) (hfree : w.m.busyLine (hbmLoc pa) = false)
    (hnew : ∀ e ∈ w.m.sched.queues, e.2.pa ≠ pa) (hin : pa + 64 ≤ hbmEnd) :
    let j := (w.m.context (w.num (hbmLoc pa + 38) 1 % 16)).job
    let num := (w.m.sched.queues.filter (fun q => q.2.job = j)).length
    let q : Queue :=
      { pa := pa, job := j, num := num, hwq := none, unmapping := false, dead := false, notified := false, failing := none }
    num < 1024 → bodyMapRequest pa w = .ok { w with m := w.m.setQueue w.m.sched.queues.length q } := by
  intro j num q hnum
  have hany : w.m.sched.queues.any (fun q => q.2.pa = pa) = false :=
    List.any_eq_false.2 fun e he => by simpa using hnew e he
  unfold bodyMapRequest
  rw [if_neg (by simp [halign, hany]), if_neg (Nat.not_lt.2 hin), if_neg (Bool.eq_false_iff.1 hfree)]
  exact if_neg (Nat.not_le.2 hnum)

/-- Settles O53: each event by its body's branch. -/
theorem queueEvents : Obligations.QueueEvents := by
  intro s k hwq job n q w' w b ctl up
  refine ⟨fun hup hfound hstays hmapped => ?_, fun hq hin hfailing hfree hfree8 => ⟨?_, ?_, ?_, ?_, ?_⟩, ?_, ?_⟩
  · exact (event_hosted hup).trans (event_writes_none
      ((bodyNotifyRegisterWrite_of_mapped hfound).trans (notifyQueue_of_mapped hmapped hstays)) rfl)
  · intro hmapped hlive hnotified hsound hfirst w0
    have hserve := serveOnce_of_ready hq hin hfailing hfree hmapped hlive hnotified hsound hfirst
    refine ⟨fun hreads h => event_ok (f := bodyServeQueue k) ((hserve (.inr hreads)).trans h), fun hempty => ?_⟩
    refine event_ok (f := bodyServeQueue k) ((hserve (.inl hempty)).trans (serve_of_empty ?_))
    rw [num_scrub, num_scrub]
    exact hempty
  · exact fun hunmapped hlive hn hstate =>
      event_ok (f := bodyQueueMap k) (bodyQueueMap_of_free hq hin hfree8 hunmapped hlive hn hstate)
  · exact fun hmapped hstays => event_writes_none (f := bodyQueueUnmap k) (bodyQueueUnmap_begins hq hmapped hstays) rfl
  · exact fun hmapped hgoes hnotified =>
      event_writes_none (f := bodyQueueUnmap k) (bodyQueueUnmap_ends hq hin hmapped hgoes hnotified) rfl
  · exact event_ok (f := bodyQueueDestroy k) (bodyQueueDestroy_of_free hq hin hfree)
  · exact fun hback => event_writes_none (f := bodySpillReturn job) (if_neg hback) rfl
  · exact fun pa hup halign hfree hnew hin hnum =>
      (event_hosted hup).trans (event_writes_none (bodyMapRequest_of_new halign hfree hnew hin hnum) rfl)

end Sys2Proof.Machine
end


section
/-! Counter command slots and the host interface window (17 R412 to R414). -/

namespace Sys2Proof.Machine

/-! ### Application cores (17 R411, R419, R422) -/

theorem hosted_some_of_up {w : Work} {a : Fin 16} (f : Work → M Work) (hstage : 3 ≤ w.m.mgmt.stage)
    (hbase : a.val / 4 ∉ w.m.pkg.basesFailed) : w.hosted (some a) f = f w := by
  have hdown : w.m.pkg.basesFailed.contains (a.val / 4) = false := Bool.eq_false_iff.2 fun h => hbase (List.contains_iff_mem.1 h)
  unfold Work.hosted
  dsimp only
  rw [hdown, Bool.or_false]
  exact if_neg (by simpa using hstage)

theorem hosted_of_boot {w : Work} (a : Option (Fin 16)) (f : Work → M Work) (hstage : w.m.mgmt.stage < 3) :
    w.hosted a f = .error (.wait .queueRoom) := if_pos (by simp [hstage])

theorem event_hosted_some {f : Work → M Work} {s : State} {a : Fin 16}
    (hup : 3 ≤ s.mgmt.stage ∧ a.val / 4 ∉ s.pkg.basesFailed) : event (fun w => w.hosted (some a) f) s = event f s :=
  event_congr (hosted_some_of_up f hup.1 hup.2)

/-- An event of an application core whose base die is in service is one that no core is named for. -/
theorem up_of_some {s : State} {a : Fin 16} (hup : 3 ≤ s.mgmt.stage ∧ a.val / 4 ∉ s.pkg.basesFailed) :
    3 ≤ s.mgmt.stage ∧ ∃ d < 4, d ∉ s.pkg.basesFailed := ⟨hup.1, a.val / 4, by omega, hup.2⟩

/-! ### Counter command slots (17 R413) -/

/-- Bits of ARG as numbers: its level, its context, and the handle. -/
theorem argFields (arg : Word) : bitsN arg 0 2 = arg.toNat % 4 ∧ bitsN arg 2 4 = arg.toNat / 4 % 16 ∧
    bitsN arg 16 48 = arg.toNat / 2 ^ 16 := by
  have hlt := arg.isLt
  unfold bitsN
  omega

/-- Bit 6 of ARG, which says whether an entry is closed, and its reserved bits. -/
theorem argKind {arg : Word} {k : Nat} (hk : k < 2) (h : arg.toNat / 64 % 1024 = k) :
    bitB arg 6 = decide (k = 1) ∧ bitsN arg 7 9 = 0 := by
  constructor
  · have hbit : arg.toNat / 2 ^ 6 % 2 = k := by omega
    rw [bitB, BitVec.getLsbD, Nat.testBit_eq_decide_div_mod_eq, hbit]
  · unfold bitsN
    omega

/-- The entry that a counter command makes. -/
def counterEntry (arg : Word) (job : Nat) (parent : Option Nat) (cancelled : Bool) : Entry :=
  { Entry.reset with
    job := job, ctx := arg.toNat / 4 % 16, level := arg.toNat % 4, count := 1, status := 1, closed := false, parent := parent,
    cancelled := cancelled }

section
variable {w : Work} {app : Fin 16} {arg : Word}

theorem bodyCounterCreate_of_parent (harg : arg.toNat / 64 % 1024 = 0) {p ix : Nat} {m1 : Mach}
    (hparent : w.m.counterParent (arg.toNat % 4) (arg.toNat / 2 ^ 16) = some (some p))
    (hnew : w.m.newEntry (counterEntry arg (w.m.entry p).job (some p) (w.m.entry p).cancelled) = some (ix, m1)) :
    let m2 := m1.setEntry p { m1.entry p with count := (m1.entry p).count + 1 }
    bodyCounterCreate app arg w =
      .ok { w with m := m2.counterDone app.val (BitVec.ofNat 64 (handleOf ix (m2.entry ix).serial)) } := by
  obtain ⟨hlevel, hctx, hhandle⟩ := argFields arg
  obtain ⟨hbit, hres⟩ := argKind (by decide) harg
  unfold bodyCounterCreate
  simp only [hbit, hres, hlevel, hctx, hhandle, hparent]
  rw [counterEntry] at hnew
  simp [hnew]

theorem bodyCounterCreate_of_job (harg : arg.toNat / 64 % 1024 = 0) (hlevel3 : arg.toNat % 4 = 3) (hnone : arg.toNat / 2 ^ 16 = 0)
    {ix : Nat} {m1 : Mach} (hnew : w.m.newEntry (counterEntry arg (w.m.context (arg.toNat / 4 % 16)).job none false) = some (ix, m1)) :
    bodyCounterCreate app arg w =
      .ok { w with m := m1.counterDone app.val (BitVec.ofNat 64 (handleOf ix (m1.entry ix).serial)) } := by
  obtain ⟨hlevel, hctx, hhandle⟩ := argFields arg
  obtain ⟨hbit, hres⟩ := argKind (by decide) harg
  have hparent : w.m.counterParent (arg.toNat % 4) (arg.toNat / 2 ^ 16) = some none := by rw [hlevel3, hnone]; rfl
  unfold bodyCounterCreate
  simp only [hbit, hres, hlevel, hctx, hhandle, hparent]
  rw [counterEntry] at hnew
  simp [hnew]

theorem bodyCounterCreate_of_launch (harg : arg.toNat / 64 % 1024 = 0) (hlevel0 : arg.toNat % 4 = 0) :
    bodyCounterCreate app arg w = .ok { w with m := w.m.counterDone app.val 0xFFFFFFFFFFFFFFFF } := by
  obtain ⟨hlevel, -, hhandle⟩ := argFields arg
  obtain ⟨hbit, hres⟩ := argKind (by decide) harg
  have hparent : w.m.counterParent (arg.toNat % 4) (arg.toNat / 2 ^ 16) = none := if_pos hlevel0
  unfold bodyCounterCreate
  simp only [hbit, hres, hlevel, hhandle, hparent]
  simp

theorem bodyCounterClose_of_open (harg : arg.toNat / 64 % 1024 = 1) {ix : Nat} (hix : w.m.handleIx (arg.toNat / 2 ^ 16) = some ix)
    (hlevel : (w.m.entry ix).level ≠ 0) (hopen : (w.m.entry ix).closed = false) :
    let e := Entry.settle { w.m.entry ix with closed := true, count := (w.m.entry ix).count - 1 }
    bodyCounterClose app arg w =
      .ok { w with m := (w.m.setEntry ix e).counterDone app.val (BitVec.ofNat 64 (arg.toNat / 2 ^ 16)) } := by
  obtain ⟨-, -, hhandle⟩ := argFields arg
  obtain ⟨hbit, hres⟩ := argKind (by decide) harg
  unfold bodyCounterClose
  simp only [hbit, hres, hhandle, hix]
  simp [hlevel, hopen]

theorem bodyCounterClose_of_closed (harg : arg.toNat / 64 % 1024 = 1) {ix : Nat} (hix : w.m.handleIx (arg.toNat / 2 ^ 16) = some ix)
    (hdone : (w.m.entry ix).level = 0 ∨ (w.m.entry ix).closed = true) : bodyCounterClose app arg w =
      .ok { w with m := w.m.counterDone app.val 0xFFFFFFFFFFFFFFFF } := by
  obtain ⟨-, -, hhandle⟩ := argFields arg
  obtain ⟨hbit, hres⟩ := argKind (by decide) harg
  unfold bodyCounterClose
  simp only [hbit, hres, hhandle, hix]
  simp [hdone]

end

/-! ### Reads and writes of the window (17 Table 17.1) -/

section
variable {w : Work} {a : Fin 16}

theorem hostRead_route {c : Nat} (hc : c < 16) :
    hostRead a (0x2000 + 8 * c) w = .ok (w.hostAnswer a (some ((w.m.context c).route.setWidth 64))) := by
  have hix : (0x2000 + 8 * c - 0x2000) / 8 = c := by omega
  unfold hostRead
  dsimp only
  rw [if_neg (by omega), if_neg (by omega), if_pos (by omega), hix]

theorem hostRead_vpt {c e : Nat} (hc : c < 16) (he : e < 4096) :
    hostRead a (0x100000 + 0x8000 * c + 8 * e) w = .ok (w.hostAnswer a (some (tabGet 0 (w.m.context c).vpt e))) := by
  have hctx : (0x100000 + 0x8000 * c + 8 * e - 0x100000) / 0x8000 = c := by omega
  have hentry : (0x100000 + 0x8000 * c + 8 * e - 0x100000) % 0x8000 / 8 = e := by omega
  unfold hostRead
  dsimp only
  rw [if_neg (by omega), if_neg (by omega), if_neg (by omega), if_pos (by omega), hctx, hentry]

theorem hostRead_hotness {c k : Nat} (hc : c < 16) (hk : k < 6144) :
    hostRead a (0x200000 + 0xC000 * c + 8 * k) w = .ok (w.hostAnswer a (some ((w.m.context c).hotWord k))) := by
  have hctx : (0x200000 + 0xC000 * c + 8 * k - 0x200000) / 0xC000 = c := by omega
  have hword : (0x200000 + 0xC000 * c + 8 * k - 0x200000) % 0xC000 / 8 = k := by omega
  unfold hostRead
  dsimp only
  rw [if_neg (by omega), if_neg (by omega), if_neg (by omega), if_neg (by omega), if_pos (by omega), hctx, hword]

theorem hostRead_result (hnone : tabGet none w.m.sched.counterArg a.val = none) : hostRead a (0x10000 + 64 * a.val + 8) w =
    .ok (Work.hostAnswer { w with m := w.m.counterDone a.val 0xFFFFFFFFFFFFFFFF } a (some 0xFFFFFFFFFFFFFFFF)) := by
  have hslot : Fin.ofNat 16 ((0x10000 + 64 * a.val + 8 - 0x10000) / 64) = a := Fin.ext (by simp only [Fin.val_ofNat]; omega)
  have hresult : readResult a w = .ok { w with m := w.m.counterDone a.val 0xFFFFFFFFFFFFFFFF } := by
    unfold readResult
    rw [hnone]
  unfold hostRead
  dsimp only
  rw [if_pos (by omega), hslot, hresult]
  exact congrArg (fun v => Except.ok (Work.hostAnswer _ a (some v))) (tabGet_tabSet_self _ _ _ _)

theorem hostRead_unassigned {off : Nat} (h : 0x2C0000 ≤ off) : hostRead a off w = .ok (w.hostAnswer a (some 0)) := by
  unfold hostRead
  dsimp only
  rw [if_neg (by omega), if_neg (by omega), if_neg (by omega), if_neg (by omega), if_neg (by omega)]

theorem hostWrite_route {c : Nat} (v : Word) (hc : c < 16) : hostWrite (0x2000 + 8 * c) v w =
    .ok { w with m := w.m.setContext c { w.m.context c with route := v.setWidth 16 } } := by
  have hix : (0x2000 + 8 * c - 0x2000) / 8 = c := by omega
  unfold hostWrite
  dsimp only
  rw [if_neg (by omega), if_neg (by omega), if_pos (by omega), hix]

theorem hostWrite_arg {c : Nat} (v : Word) (hc : c < 16) : hostWrite (0x10000 + 64 * c) v w =
    .ok { w with m := w.m.setSched (fun s => { s with counterArg := tabSet s.counterArg c (some v) }) } := by
  have hix : (0x10000 + 64 * c - 0x10000) / 64 = c := by omega
  unfold hostWrite
  dsimp only
  rw [if_neg (by omega), if_neg (by omega), if_neg (by omega), if_pos (by omega), hix]

theorem hostWrite_unassigned {off : Nat} (v : Word) (h : 0x2C0000 ≤ off) : hostWrite off v w = .ok w := by
  unfold hostWrite
  rw [if_neg (by omega), if_neg (by omega), if_neg (by omega), if_neg (by omega), if_neg (by omega), if_neg (by omega)]

end

/-! ### Accesses of an application core (17 R411, R412) -/

/-- What an access of an application core leaves: a machine, and its answer. -/
def State.hostAnswered (s : State) (a : Fin 16) (m : Mach) (v : Option Word) : State :=
  { s with toMach := m.setSched (fun c => { c with hostReply := tabSet c.hostReply a.val v }) }

theorem access_of_boot {s : State} (a : Fin 16) (x : HostAccess) (h : s.mgmt.stage < 3) : plainTurn (.host a x) s = .next s :=
  event_wait (f := hostAccess a x) (hosted_of_boot (w := s.work) (some a) _ h)

section
variable {s : State} {a : Fin 16} (hup : 3 ≤ s.mgmt.stage ∧ a.val / 4 ∉ s.pkg.basesFailed)
include hup

theorem read_of_bad {off size : Nat} (h : size ≠ 8 ∨ off % 8 ≠ 0 ∨ 0x1000000 ≤ off) :
    plainTurn (.host a (.read off size)) s = .next (s.hostAnswered a s.toMach none) :=
  (event_hosted_some hup).trans (event_writes_none (w := s.work.hostAnswer a none) (if_pos (by simpa [or_assoc] using h)) rfl)

theorem write_of_bad {off size : Nat} (v : Word) (h : size ≠ 8 ∨ off % 8 ≠ 0 ∨ 0x1000000 ≤ off) :
    plainTurn (.host a (.write off size v)) s = .next (s.hostAnswered a s.toMach none) :=
  (event_hosted_some hup).trans (event_writes_none (w := s.work.hostAnswer a none) (if_pos (by simpa [or_assoc] using h)) rfl)

theorem read_of_good {off : Nat} {m : Mach} {v : Option Word} (halign : off % 8 = 0) (hin : off < 0x1000000)
    (h : hostRead a off s.work = .ok (Work.hostAnswer { s.work with m := m } a v)) :
    plainTurn (.host a (.read off 8)) s = .next (s.hostAnswered a m v) :=
  (event_hosted_some hup).trans (event_writes_none (w := Work.hostAnswer { s.work with m := m } a v)
    ((if_neg (by simpa [halign] using hin)).trans h) rfl)

theorem write_of_good {off : Nat} {v : Word} {m : Mach} (halign : off % 8 = 0) (hin : off < 0x1000000)
    (h : hostWrite off v s.work = .ok { s.work with m := m }) :
    plainTurn (.host a (.write off 8 v)) s = .next (s.hostAnswered a m (some 0)) := by
  refine (event_hosted_some hup).trans (event_writes_none (w := Work.hostAnswer { s.work with m := m } a (some 0))
    ((if_neg (by simpa [halign] using hin)).trans ?_) rfl)
  rw [h]
  rfl

end

/-- Settles O54: the counter commands by their fields, the window's accesses by where Table 17.1 puts their offset. -/
theorem hostWindow : Obligations.HostWindow := by
  intro s app arg value ctx e word m level h x done new up
  refine ⟨fun hup harg p ix m1 hparent hnew => ?_, fun hup harg hlevel hh ix m1 hnew => ?_, fun hup harg hlevel => ?_,
    fun hup harg ix hix => ⟨fun hopen => ?_, fun hdone => ?_⟩, fun hup => ?_, fun hup => ?_, ?_⟩
  · exact (event_hosted_some hup).trans (event_writes_none (bodyCounterCreate_of_parent harg hparent hnew) rfl)
  · exact (event_hosted_some hup).trans (event_writes_none (bodyCounterCreate_of_job harg hlevel hh hnew) rfl)
  · exact (event_hosted_some hup).trans (event_writes_none (bodyCounterCreate_of_launch harg hlevel) rfl)
  · exact (event_hosted_some hup).trans (event_writes_none (bodyCounterClose_of_open harg hix hopen.1 hopen.2) rfl)
  · exact (event_hosted_some hup).trans (event_writes_none (bodyCounterClose_of_closed harg hix hdone) rfl)
  · exact (event_hosted (up_of_some hup)).trans (event_writes_none (f := bodyHostVptEntryWrite ctx e value) rfl rfl)
  · exact (event_hosted (up_of_some hup)).trans (event_writes_none (f := bodyHostHotnessClear ctx word) rfl rfl)
  · intro answer read write
    refine ⟨fun hstage off => ⟨access_of_boot app _ hstage, access_of_boot app _ hstage⟩, fun hup =>
      ⟨fun off size hbad => ⟨read_of_bad hup hbad, write_of_bad hup value hbad⟩, ?_, ?_, ?_, fun hnone => ?_, ?_, ?_,
        fun off halign hlow hhigh => ⟨read_of_good hup halign hhigh (hostRead_unassigned hlow),
          write_of_good hup halign hhigh (hostWrite_unassigned value hlow)⟩⟩⟩
    · exact read_of_good hup (by omega) (by omega) (hostRead_route ctx.isLt)
    · exact read_of_good hup (by omega) (by omega) (hostRead_vpt ctx.isLt e.isLt)
    · exact read_of_good hup (by omega) (by omega) (hostRead_hotness ctx.isLt word.isLt)
    · exact ⟨_, read_of_good hup (by omega) (by omega) (hostRead_result hnone), rfl⟩
    · exact write_of_good hup (by omega) (by omega) (hostWrite_route value ctx.isLt)
    · exact write_of_good hup (by omega) (by omega) (hostWrite_arg value app.isLt)

end Sys2Proof.Machine
end


section
/-! Bind records and the states of an issue slot (14 R344 to R346; 01 R17; 15 R387). -/

namespace Sys2Proof.Machine

/-! ### Bind records (14 R345, R346) -/

/-- A record that binds a unit, in a slot that takes one, is not refused outright. -/
theorem refusal_of_bind {u : SlotUnit} (hidle : u.st = .idle) (hcmd : u.cmd = 1) : refusal u = none := by
  unfold refusal
  rw [if_neg (not_not_intro hidle), hcmd]
  rfl

theorem onSlot_of_ok {w r : Work} {n : Nat} {f : Work → M Work} (h : f { w with m := { w.m with cur := n } } = .ok r) :
    w.onSlot n f = .ok { r with m := { r.m with cur := w.m.cur } } := by
  unfold Work.onSlot
  simp only [bind, Except.bind, h]

section
variable {w : Work} {n : Nat} (hidle : (w.m.slot n).unit.st = .idle) (hcmd : (w.m.slot n).unit.cmd = 1)
include hidle hcmd

theorem bindFresh_of_dark (hdie : w.m.pkg.inService (dieOf n) = false) : bindFresh n w = .error (.wait .landing) := by
  unfold bindFresh
  simp [refusal_of_bind hidle hcmd, hdie]

theorem resumeUnit_of_dark (hdie : w.m.pkg.inService (dieOf n) = false) : resumeUnit n w = .error (.wait .landing) := by
  unfold resumeUnit
  simp [refusal_of_bind hidle hcmd, hdie]

variable (hdie : w.m.pkg.inService (dieOf n) = true)
include hdie

theorem bindFresh_of_absent (hfresh : (w.m.slot n).unit.resume = false)
    (hctx : (w.m.context (w.m.slot n).unit.ctx).resident = false) : bindFresh n w = .ok (w.refuseUnit n 3) := by
  unfold bindFresh
  simp [refusal_of_bind hidle hcmd, hcmd, hdie, hfresh, hctx]

theorem bindFresh_of_held (hfresh : (w.m.slot n).unit.resume = false)
    (hctx : (w.m.context (w.m.slot n).unit.ctx).resident = true)
    (hclaim : w.m.claimHeld n (w.m.slot n).unit.clsp (w.m.slot n).unit.ccs = true) : bindFresh n w = .ok (w.refuseUnit n 2) := by
  unfold bindFresh
  simp [refusal_of_bind hidle hcmd, hcmd, hdie, hfresh, hctx, hclaim]

theorem bindFresh_starts {l : Launch} (hfresh : (w.m.slot n).unit.resume = false)
    (hctx : (w.m.context (w.m.slot n).unit.ctx).resident = true)
    (hclaim : w.m.claimHeld n (w.m.slot n).unit.clsp (w.m.slot n).unit.ccs = false)
    (hl : w.m.sched.launches.find? (fun l => l.lid = (w.m.slot n).unit.lid) = some l) :
    bindFresh n w =
      (let u := (w.m.slot n).unit
       let m := (w.m.mapLaunch u.lid (fun l => { l with bound := true })).setSlot n (freshSlot w.m n l u)
       .ok (({ w with m := if u.ccs then m.setCore (coreOf n) (m.core (coreOf n)).emptyStore else m }).clearLocal n u.clsp)) := by
  unfold bindFresh
  simp [refusal_of_bind hidle hcmd, hcmd, hdie, hfresh, hctx, hclaim, hl]

/-- A suspended unit as a BIND record puts it into a slot (15 R387). -/
def SlotUnit.rebound (u : SlotUnit) : SlotUnit :=
  { u with
    st := .load, cmd := 0, result := 0, waiting := none, held := none, lost := [], stage := 0, request := none, byCall := false,
    halted := false, exitAt := none }

theorem resumeUnit_restores {g : Suspended} {w1 : Work} (hresume : (w.m.slot n).unit.resume = true)
    (hctx : (w.m.context (w.m.slot n).unit.ctx).resident = true)
    (hclaim : w.m.claimHeld n (w.m.slot n).unit.clsp (w.m.slot n).unit.ccs = false) (hccs : (w.m.slot n).unit.ccs = false)
    (hg : w.m.sched.suspended.find? (fun g => g.resuming = some n) = some g) (htile : g.hasTile = false)
    (htokens : w.m.imageAwaits (w.m.slot n).unit.ctx g.image = false) :
    let m0 := w.m.setSched (fun c => { c with suspended := c.suspended.filter (fun h => h.resuming ≠ some n) })
    let m1 := m0.setSlot n { g.slot with unit := g.slot.unit.rebound }
    Work.loadImage { w with m := { m1 with cur := n } } g.image = .ok w1 →
    resumeUnit n w =
      (let w2 := w1.setS ((w1.s.takeAnswer g.answered g.success g.slot.unit.byCall).goOn g)
       .ok { w2 with m := { w2.m with cur := w.m.cur } }) := by
  intro m0 m1 hload
  have hready : ¬((w.m.slot n).unit.cmd ≠ 1 ∨ (!(w.m.slot n).unit.resume) = true ∨ (!w.m.pkg.inService (dieOf n)) = true) := by
    simp [hcmd, hresume, hdie]
  unfold resumeUnit
  simp only [refusal_of_bind hidle hcmd]
  rw [if_neg hready, hg]
  dsimp only
  rw [if_neg (by simp [hctx]), if_neg (by simp [hclaim, htile]), if_neg (Bool.eq_false_iff.1 htokens),
    if_neg (Bool.eq_false_iff.1 hccs)]
  refine onSlot_of_ok ?_
  dsimp only
  split
  next w' h =>
    obtain rfl : w' = w1 := Except.ok.inj (h.symm.trans hload)
    exact if_neg (Bool.eq_false_iff.1 htile)
  next h => cases h.symm.trans hload
  next h => cases h.symm.trans hload

end

/-! ### What a previous unit left (01 R17) -/

/-- The bytes that a fresh unit's slot and claim hold. -/
theorem byte_clearLocal (w : Work) (n : Nat) (clsp : Bool) :
    (∀ i < 0x8000, (w.clearLocal n clsp).byte (lspLoc (coreOf n) (0xF0000 + n % 2 * 0x8000 + i)) = 0) ∧
    (clsp = true → ∀ i < 0xF0000, (w.clearLocal n clsp).byte (lspLoc (coreOf n) i) = 0) := by
  unfold Work.clearLocal lspLoc
  refine ⟨fun i hi => ?_, fun hclsp i hi => ?_⟩
  · have hstack : 2 ^ 41 + coreOf n * 2 ^ 20 + (0xF0000 + n % 2 * 0x8000) ≤ 2 ^ 41 + coreOf n * 2 ^ 20 + (0xF0000 + n % 2 * 0x8000 + i) ∧
        2 ^ 41 + coreOf n * 2 ^ 20 + (0xF0000 + n % 2 * 0x8000 + i) < 2 ^ 41 + coreOf n * 2 ^ 20 + (0xF0000 + n % 2 * 0x8000) + 0x8000 := by
      omega
    cases clsp
    · exact if_pos hstack
    · exact (congrArg (ite _ _) (if_pos hstack)).trans (ite_self _)
  · rw [if_pos hclsp]
    exact if_pos (by omega)

/-! ### The slot's states (14 R344, R346) -/

theorem bodyPreempt_of_run {w : Work} {n : Nat} (h : (w.m.slot n).unit.st = .run) : bodyPreempt n w =
    .ok ((w.answer n 0).modSlot n (fun s => { s with unit := { s.unit with st := .stop } })) := congrArg Except.ok (if_pos h)

theorem bodyPreempt_of_other {w : Work} {n : Nat} (h : (w.m.slot n).unit.st ≠ .run) : bodyPreempt n w = .ok (w.answer n 1) :=
  congrArg Except.ok (if_neg h)

theorem slot_modSlot_self (w : Work) (n : Nat) (f : Slot → Slot) : (w.modSlot n f).m.slot n = f (w.m.slot n) := slot_setSlot_self _ _ _

theorem slot_modSlot_ne (w : Work) {n k : Nat} (f : Slot → Slot) (h : k ≠ n) : (w.modSlot n f).m.slot k = w.m.slot k :=
  slot_setSlot_ne _ _ h

theorem preempt_of_run {s : State} {n : Nat} (h : (s.toMach.slot n).unit.st = .run) :
    ∃ m : Mach, exec (.preempt n) s = .next { s with toMach := m } ∧
      m.slot n = { s.toMach.slot n with unit := { (s.toMach.slot n).unit with cmd := 0, result := 0, st := .stop } } ∧
      ∀ k ≠ n, m.slot k = s.toMach.slot k := by
  refine ⟨_, event_writes_none (f := bodyPreempt n) (bodyPreempt_of_run h) rfl, ?_, fun k hk => ?_⟩
  · rw [slot_modSlot_self, Work.answer, slot_modSlot_self]
    rfl
  · rw [slot_modSlot_ne _ _ hk, Work.answer, slot_modSlot_ne _ _ hk]
    rfl

theorem kill_of_run {s : State} {n : Nat} (cause : Nat) (h : (s.toMach.slot n).unit.st = .run) :
    ∃ f : Failure, f.cause = cause ∧ f.unit = (s.toMach.slot n).unit.unit ∧
      exec (.kill n cause) s = .next (((Work.answer { s.work with m := { s.toMach with fresh := s.toMach.fresh + 1 } } n 0).killUnit
        n f).finish s) := by
  let i := s.toMach.fresh
  let f : Failure := {
    cause := cause, detail := bitsN (Config.openWord i) 0 7, pc := keepBits (s.toMach.slot n).regs.pc 0 57, addr := Config.openWord i,
    unit := (s.toMach.slot n).unit.unit, treg := 0, token := 0 }
  exact ⟨f, rfl, rfl, event_ok (f := bodyKill n cause) (if_pos h)⟩

/-! ### Images stored (14 R346; 15 R387) -/

section
variable {w : Work} {n : Nat} (hst : (w.m.slot n).unit.st = .save) (hout : (w.m.slot n).unit.remoteOut = 0)
  (htile : (w.m.core (coreOf n)).owner = some n → (w.m.core (coreOf n)).tileOps = [])
include hst hout htile

theorem finishSave_of_gone (hgone : (w.m.slot n).unit.discard = true ∨ w.m.cancelledLid (w.m.slot n).unit.lid = true)
    (hcopies : w.m.copiesOf (w.m.slot n).unit.lid (w.m.slot n).unit.unit = []) : finishSave n w =
      (let u := (w.m.slot n).unit
       let w1 := w.giveUp n
       .ok { w1 with m := ((w1.m.setSlot n (w1.m.slot n).vacated).dropRequests u.lid u.unit).unitGone u.lid }) := by
  unfold finishSave
  dsimp only
  rw [if_neg (not_not_intro hst), if_neg (not_not_intro hout), if_neg fun h => h.2 (htile h.1), if_pos (by simpa using hgone), if_neg (not_not_intro hcopies)]

/-- The unit whose image is stored, as Umante holds it. -/
def Work.suspended (w : Work) (n : Nat) : Suspended :=
  let u := (w.m.slot n).unit
  let w1 := w.saveUnit n
  { slot := w1.m.slot n, image := saveAreaOf w.m n, hasTile := partOn ((w.m.saveImage n).field w1 0 8) pT, request := u.request,
    answered := w1.m.requestEnded u.request, success := false, halted := u.halted, resuming := none, ended := false }

theorem finishSave_of_stored (hkept : (w.m.slot n).unit.discard = false) (hlive : w.m.cancelledLid (w.m.slot n).unit.lid = false)
    (hfree : (w.m.saveImage n).blocked w (maskPieces (heldParts w.m n)) = false) : finishSave n w =
      (let w1 := w.saveUnit n
       .ok { w1 with m := (w1.m.setSlot n (w1.m.slot n).vacated).setSched (fun c =>
        { c with suspended := c.suspended ++ [w.suspended n] }) }) := by
  unfold finishSave
  dsimp only
  rw [if_neg (not_not_intro hst), if_neg (not_not_intro hout), if_neg fun h => h.2 (htile h.1), if_neg (by simp [hkept, hlive]),
    if_neg (Bool.eq_false_iff.1 hfree)]
  rfl

end

/-- Settles O55: each event by its body where the slot stands in the state that it acts on. -/
theorem slotStates : Obligations.SlotStates := by
  intro s n cause w m v u unit
  refine ⟨fun hidle hcmd hdie => ?_, fun hidle hcmd hdie hfresh => ⟨fun hctx => ?_, fun hctx hclaim => ?_⟩,
    fun hidle hcmd hdie hctx hclaim => ⟨fun hfresh l hl => ?_, fun hresume hccs g w1 hg htile htokens => ?_⟩, fun hload => ?_,
    preempt_of_run, fun hrun => ?_, kill_of_run cause, fun hland => ?_, fun hsave hout htile => ⟨fun hkept hlive hfree => ?_, fun hgone hcopies => ?_⟩⟩
  · exact ⟨event_wait (f := bodyBind n) (bindFresh_of_dark hidle hcmd hdie),
      event_wait (f := bodyBindResume n) (resumeUnit_of_dark hidle hcmd hdie)⟩
  · exact event_ok (f := bodyBind n) (bindFresh_of_absent hidle hcmd hdie hfresh hctx)
  · exact event_ok (f := bodyBind n) (bindFresh_of_held hidle hcmd hdie hfresh hctx hclaim)
  · intro m0 m1 w1
    exact ⟨event_ok (f := bodyBind n) (bindFresh_starts hidle hcmd hdie hfresh hctx hclaim hl), byte_clearLocal _ n u.clsp⟩
  · intro unit m0 m1 hload w2
    exact event_ok (f := bodyBindResume n) (resumeUnit_restores hidle hcmd hdie hresume hctx hclaim hccs hg htile htokens hload)
  · exact event_writes_none (f := bodyUnitLoadComplete n) (if_pos hload) rfl
  · exact event_writes_none (f := bodyPreempt n) (bodyPreempt_of_other hrun) rfl
  · exact event_ok (f := bodyPreemptionLands n) (if_pos hland)
  · exact ⟨w.suspended n, rfl, rfl, rfl, rfl, rfl, rfl,
      event_ok (f := bodySaveComplete n) (finishSave_of_stored hsave hout htile hkept hlive hfree)⟩
  · exact event_ok (f := bodySaveComplete n) (finishSave_of_gone hsave hout htile hgone hcopies)

end Sys2Proof.Machine
end


section
/-! Umante's scheduling, its answers, and what retires and completes (14 R338, R339, R342, R343, R356; 15 R380, R388). -/

namespace Sys2Proof.Machine

/-! ### The next unit (14 R342, R343) -/

/-- The first candidate that a slot of its partition fits, with the first such slot. -/
def Mach.placement (m : Mach) : Option (Candidate × Nat) :=
  m.candidates.findSome? (fun c => (c.slots.find? (m.fits c)).map (fun n => (c, n)))

theorem dispatch_of_place {w : Work} {c : Candidate} {n : Nat} (h : w.m.placement = some (c, n)) : dispatch w = .ok (w.bindTo c n) := by
  rw [Mach.placement] at h
  unfold dispatch
  dsimp only
  rw [h]

theorem dispatch_of_victim {w : Work} {n : Nat} (h : w.m.placement = none) (hn : w.m.victims [] w.m.candidates = some n) :
    dispatch w = .ok (w.modSlot n (fun s => { s with unit := { s.unit with cmd := 2 } })) := by
  rw [Mach.placement] at h
  unfold dispatch
  dsimp only
  rw [h, hn]

/-! ### Page requests answered (15 R380) -/

theorem answerRequest_of_unknown {w : Work} {num : Nat} (gen : Nat) (ok : Bool) (h : ∀ r ∈ w.m.sched.requests, r.num ≠ num) :
    answerRequest num gen ok w = .ok w.staleAnswer := by
  have hnone : w.m.sched.requests.find? (fun r => r.num = num) = none :=
    List.find?_eq_none.2 fun r hr => by simpa using h r hr
  unfold answerRequest
  rw [hnone]

/-- What the answer to its page request makes of a copy. -/
def Copy.answered (k : Nat) (ok : Bool) (c : Copy) : Copy :=
  if c.ident = k then { c with request := none, failedReq := !ok } else c

theorem answerRequest_of_copy {w : Work} {num k : Nat} (ok : Bool) {r : PageRequest}
    (hr : w.m.sched.requests.find? (fun r => r.num = num) = some r) (hk : r.ident = some k)
    (hcopy : ∃ e ∈ w.m.engines, ∃ c ∈ e.2.cmds, c.ident = k) :
    let m := w.m.setSched (fun s => { s with requests := s.requests.filter (fun x => x.num ≠ num) })
    answerRequest num (w.m.context r.ctx).gen ok w = .ok { w with m := m.mapCopies (Copy.answered k ok) } := by
  have hany : w.m.engines.any (fun e => e.2.cmds.any (fun c => c.ident == k)) = true := by simpa using hcopy
  unfold answerRequest
  rw [hr]
  dsimp only
  rw [if_neg (not_not_intro rfl), hk]
  exact if_pos hany

/-! ### Retirement and completion (14 R338, R339, R356) -/

theorem retireUnit_of_drained {w : Work} {n : Nat} (hst : (w.m.slot n).unit.st = .drain) (hout : (w.m.slot n).unit.remoteOut = 0)
    (hcopies : w.m.copiesOf (w.m.slot n).unit.lid (w.m.slot n).unit.unit = []) (hm : (w.m.slot n).mseq.st ≠ .running)
    (hc : (w.m.slot n).cseq.st ≠ .running)
    (htile : (w.m.core (coreOf n)).owner = some n → (w.m.core (coreOf n)).tileOps = []) : retireUnit n w =
      (let v := w.m.slot n
       let w1 := (v.endFailures.foldl (fun w f => w.failLaunch v.unit.lid f) w).giveUp n
       .ok { w1 with m := (w1.m.setSlot n v.vacated).unitGone v.unit.lid }) :=
  if_neg (by grind)

/-- The completion block of an entry written at a place, and noted. -/
def Work.putCompletion (w : Work) (e : Entry) (loc : Nat) : Work :=
  (w.noteBytes 0 0 false (e.blockBytes.zipIdx.map (fun p => (loc + p.2, p.1)))).putBytes loc e.blockBytes

section
variable {w : Work} {ix : Nat} (hstatus : 2 ≤ (w.m.entry ix).status) (hwritten : (w.m.entry ix).written = false)
  (hrequest : (w.m.entry ix).request = none)
include hstatus hwritten hrequest

theorem completeEntry_open : ¬((w.m.entry ix).status < 2 ∨ (w.m.entry ix).written = true ∨ (w.m.entry ix).request.isSome = true) := by
  rw [hwritten, hrequest]
  simp only [Bool.false_eq_true, Option.isSome_none, or_false]
  omega

theorem completeEntry_of_none (h : (w.m.entry ix).target = 0 ∨ (w.m.entry ix).level ≠ 0) :
    completeEntry ix w = .ok (w.closeEntry ix false false) :=
  (if_neg (completeEntry_open hstatus hwritten hrequest)).trans (if_pos h)

variable (htarget : (w.m.entry ix).target ≠ 0) (hlevel : (w.m.entry ix).level = 0)
include htarget hlevel

theorem completeEntry_of_lost (h : inLocal (w.m.entry ix).target.toNat = true ∨ (w.m.entry ix).reqFailed = true) :
    completeEntry ix w = .ok (w.closeEntry ix false true) :=
  (if_neg (completeEntry_open hstatus hwritten hrequest)).trans ((if_neg (not_or_intro htarget (not_not_intro hlevel))).trans (if_pos h))

theorem completeEntry_writes {w1 : Work} {loc : Nat} (hlocal : inLocal (w.m.entry ix).target.toNat = false)
    (hfailed : (w.m.entry ix).reqFailed = false)
    (hwalk : walkPlace w 384 (w.m.context (w.m.entry ix).ctx).spt true (w.m.entry ix).target.toNat 1 = .ok (loc, w1))
    (hwrite : writable w1.m 384 (span loc (w.m.entry ix).blockBytes.length) = .ok ()) (hsound : w1.m.poisoned loc = false) :
    completeEntry ix w = .ok ((w1.putCompletion (w.m.entry ix) loc).closeEntry ix true false) := by
  unfold completeEntry
  dsimp only
  rw [if_neg (completeEntry_open hstatus hwritten hrequest), if_neg (not_or_intro htarget (not_not_intro hlevel)),
    if_neg (by simp [hlocal, hfailed]), hwalk]
  dsimp only
  rw [hwrite]
  exact if_neg (Bool.eq_false_iff.1 hsound)

end

/-- Settles O56: each event by its body's branch. -/
theorem schedulingAndRetirement : Obligations.SchedulingAndRetirement := by
  refine ⟨fun s n num gen job ok => ⟨fun c hplace => ?_, fun hplace hvictim => ?_, fun hnone => ?_, fun r k hr hgen hk hcopy => ?_,
    fun hlanded => ?_⟩, fun s n ix loc w1 => ⟨fun hst hout hcopies hm hc htile => ?_, fun hstatus hwritten hrequest =>
      ⟨fun hnone => ?_, fun htarget hlevel hlost => ?_, fun htarget hlevel hlocal hfailed hwalk hwrite hsound => ?_⟩⟩⟩
  · exact event_ok (f := bodyUmanteDispatch) (dispatch_of_place hplace)
  · exact event_writes_none (f := bodyUmanteDispatch) (dispatch_of_victim hplace hvictim) rfl
  · exact event_writes_none (f := bodyPageRequestAnswer num gen ok) (answerRequest_of_unknown gen ok hnone) rfl
  · subst hgen
    exact event_writes_none (f := bodyPageRequestAnswer num _ ok) (answerRequest_of_copy ok hr hk hcopy) rfl
  · refine event_ok (f := bodyPartitionSwap job) (if_pos (List.all_eq_true.2 fun k hk => ?_))
    rw [Bool.and_eq_true]
    exact hlanded k hk
  · exact event_ok (f := bodyUnitRetire n) (retireUnit_of_drained hst hout hcopies hm hc htile)
  · exact event_ok (f := bodyLaunchCompletion ix) (completeEntry_of_none hstatus hwritten hrequest hnone)
  · exact event_ok (f := bodyLaunchCompletion ix) (completeEntry_of_lost hstatus hwritten hrequest htarget hlevel hlost)
  · exact event_ok (f := bodyLaunchCompletion ix)
      (completeEntry_writes hstatus hwritten hrequest htarget hlevel hlocal hfailed hwalk hwrite hsound)

end Sys2Proof.Machine
end

section
/-! The parts of an instruction word (02 R24 to R28): what each field of a word with given parts reads, and the rows of the
opcode map by OP. -/

namespace Sys2Proof.Laws.Decoding

/-- The word with stall count `st`, convoy bit `c`, OP `op`, register fields `d`, `a`, `b` and bits 5 to 0 `f` (02 Table 2.1). -/
def word (st : Fin 16) (c : Bool) (op : Fin 64) (d a b : Reg) (f : Fin 64) : Nat :=
  st.val * 268435456 + c.toNat * 134217728 + op.val * 2097152 + d.val * 65536 + a.val * 2048 + b.val * 64 + f.val

section
variable (st : Fin 16) (c : Bool) (op : Fin 64) (d a b : Reg) (f : Fin 64)

theorem word_eq : word st c op d a b f = st.val * 268435456 + c.toNat * 134217728 + op.val * 2097152 + d.val * 65536 +
    a.val * 2048 + b.val * 64 + f.val := rfl

@[simp] theorem fld_word_st : fld (word st c op d a b f) 28 4 = st.val := by
  have := c.toNat_lt
  simp only [word_eq, fld]; omega

@[simp] theorem fld_word_c : fld (word st c op d a b f) 27 1 = c.toNat := by
  have := c.toNat_lt
  simp only [word_eq, fld]; omega

theorem fld_word_op : fld (word st c op d a b f) 21 6 = op.val := by
  have := c.toNat_lt
  simp only [word_eq, fld]; omega

@[simp] theorem fld_word_d : fld (word st c op d a b f) 16 5 = d.val := by
  simp only [word_eq, fld]; omega

@[simp] theorem fld_word_a : fld (word st c op d a b f) 11 5 = a.val := by
  simp only [word_eq, fld]; omega

@[simp] theorem fld_word_b : fld (word st c op d a b f) 6 5 = b.val := by
  simp only [word_eq, fld]; omega

/-- The predicate pair of a tile word stands in the upper bits of its D field (02 Table 2.6). -/
@[simp] theorem fld_word_pair : fld (word st c op d a b f) 19 2 = d.val / 8 := by
  simp only [word_eq, fld]; omega

@[simp] theorem fld_word_tile : fld (word st c op d a b f) 16 3 = d.val % 8 := by
  simp only [word_eq, fld]; omega

/-- The function code of a word with OFF9 stands in the upper bits of its B field. -/
@[simp] theorem fld_word_offFn : fld (word st c op d a b f) 9 2 = b.val / 8 := by
  simp only [word_eq, fld]; omega

@[simp] theorem fld_word_off9 : fld (word st c op d a b f) 0 9 = b.val % 8 * 64 + f.val := by
  simp only [word_eq, fld]; omega

@[simp] theorem fld_word_imm11 : fld (word st c op d a b f) 0 11 = b.val * 64 + f.val := by
  simp only [word_eq, fld]; omega

@[simp] theorem fld_word_imm16 : fld (word st c op d a b f) 0 16 = a.val * 2048 + b.val * 64 + f.val := by
  simp only [word_eq, fld]; omega

@[simp] theorem fld_word_off21 : fld (word st c op d a b f) 0 21 = d.val * 65536 + a.val * 2048 + b.val * 64 + f.val := by
  simp only [word_eq, fld]; omega

@[simp] theorem fld_word_csr : fld (word st c op d a b f) 6 10 = a.val * 32 + b.val := by
  simp only [word_eq, fld]; omega

/-- A field inside bits 5 to 0 is the field of `f`. -/
@[simp] theorem fld_word_low {lo n : Nat} (h : lo + n ≤ 6) : fld (word st c op d a b f) lo n = f.val / 2 ^ lo % 2 ^ n := by
  have above : word st c op d a b f = 2 ^ lo * (2 ^ n * (2 ^ (6 - lo - n) * (word st c op d a b f / 64))) + f.val := by
    have hp : 2 ^ lo * 2 ^ n * 2 ^ (6 - lo - n) = 64 := by
      rw [← pow_add, ← pow_add, show lo + n + (6 - lo - n) = 6 by omega]; rfl
    rw [← mul_assoc, ← mul_assoc, hp]
    simp only [word]; omega
  rw [fld, above, Nat.mul_add_div (Nat.two_pow_pos lo), Nat.mul_add_mod]

@[simp] theorem flag_word_c : flag (word st c op d a b f) 27 = c := by
  cases c <;> simp [flag]

@[simp] theorem flag_word_low {lo : Nat} (h : lo + 1 ≤ 6) : flag (word st c op d a b f) lo = (f.val / 2 ^ lo % 2 == 1) := by
  simp [flag, h]

end

/-! ### Values that more than one field holds -/

/-- The D field of a tile word: predicate pair and tile register. -/
def tileField (p : Fin 4) (t : Fin 8) : Reg := ⟨8 * p.val + t.val, by omega⟩

@[simp] theorem tileField_div (p : Fin 4) (t : Fin 8) : (tileField p t).val / 8 = p.val := by simp only [tileField]; omega
@[simp] theorem tileField_mod (p : Fin 4) (t : Fin 8) : (tileField p t).val % 8 = t.val := by simp only [tileField]; omega

/-- The B field of a word with OFF9: the function code and bits 8 to 6 of the offset. -/
def offField (g : Fin 4) (off : BitVec 9) : Reg := ⟨8 * g.val + off.toNat / 64, by have := off.isLt; omega⟩

@[simp] theorem offField_div (g : Fin 4) (off : BitVec 9) : (offField g off).val / 8 = g.val := by
  have := off.isLt
  simp only [offField]; omega

@[simp] theorem offField_mod (g : Fin 4) (off : BitVec 9) : (offField g off).val % 8 = off.toNat / 64 := by
  have := off.isLt
  simp only [offField]; omega

/-- The five bits of a value from bit `lo` up, as a register field. -/
def midField {n : Nat} (v : BitVec n) (lo : Nat) : Reg := Fin.ofNat 32 (v.toNat / 2 ^ lo)

/-- The low six bits of a value. -/
def lowField {n : Nat} (v : BitVec n) : Fin 64 := Fin.ofNat 64 v.toNat

@[simp] theorem ofNat_off9 (off : BitVec 9) : BitVec.ofNat 9 (off.toNat / 64 * 64 + (lowField off).val) = off :=
  BitVec.eq_of_toNat_eq (by simp [lowField]; omega)

@[simp] theorem ofNat_imm11 (imm : BitVec 11) : BitVec.ofNat 11 ((midField imm 6).val * 64 + (lowField imm).val) = imm :=
  BitVec.eq_of_toNat_eq (by simp [lowField, midField]; omega)

@[simp] theorem ofNat_imm16 (imm : BitVec 16) :
    BitVec.ofNat 16 ((midField imm 11).val * 2048 + (midField imm 6).val * 64 + (lowField imm).val) = imm :=
  BitVec.eq_of_toNat_eq (by simp [lowField, midField]; omega)

@[simp] theorem ofNat_off21 (off : BitVec 21) : BitVec.ofNat 21
    ((midField off 16).val * 65536 + (midField off 11).val * 2048 + (midField off 6).val * 64 + (lowField off).val) = off :=
  BitVec.eq_of_toNat_eq (by simp [lowField, midField]; omega)

/-- The A field of `rdc` and `wrc`: bits 9 to 5 of the number of the control register (02 R26). -/
def csrHigh (r : Fin 1024) : Reg := ⟨r.val / 32, by omega⟩

/-- The B field of `rdc` and `wrc`: bits 4 to 0 of the number of the control register. -/
def csrLow (r : Fin 1024) : Reg := ⟨r.val % 32, by omega⟩

@[simp] theorem ofNat_csr (r : Fin 1024) : Fin.ofNat 1024 ((csrHigh r).val * 32 + (csrLow r).val) = r :=
  Fin.ext (by simp [csrHigh, csrLow]; omega)

/-! ### The rows of the opcode map -/

/-- The rows of an OP, none for a reserved one (02 R39, R40). -/
def rowsOf : Nat → Nat → Option Instr
  | 0x01 => decodeOp01
  | 0x02 => decodeOp02
  | 0x03 => decodeOp03
  | 0x04 => decodeOp04
  | 0x05 => decodeOp05
  | 0x06 => decodeOp06
  | 0x07 => decodeOp07
  | 0x08 => decodeOp08
  | 0x09 => decodeOp09
  | 0x0a => decodeOp0A
  | 0x0b => decodeOp0B
  | 0x0c => decodeOp0C
  | 0x0d => decodeOp0D
  | 0x0e => decodeOp0E
  | 0x0f => decodeOp0F
  | 0x10 => decodeOp10
  | 0x11 => decodeOp11
  | 0x12 => decodeOp12
  | 0x13 => decodeOp13
  | 0x14 => decodeOp14
  | 0x18 => decodeOp18
  | 0x19 => decodeOp19
  | 0x1a => decodeOp1A
  | 0x1b => decodeOp1B
  | 0x1c => decodeOp1C
  | 0x1d => decodeOp1D
  | 0x1e => decodeOp1E
  | 0x1f => decodeOp1F
  | 0x20 => decodeOp20
  | 0x21 => decodeOp21
  | 0x22 => decodeOp22
  | 0x23 => decodeOp23
  | 0x26 => decodeOp26
  | 0x27 => decodeOp27
  | 0x28 => decodeOp28
  | 0x2a => decodeOp2A
  | 0x2b => decodeOp2B
  | 0x2c => decodeOp2C
  | 0x2d => decodeOp2D
  | 0x2e => decodeOp2E
  | 0x2f => decodeOp2F
  | 0x30 => decodeOp30
  | 0x31 => decodeOp31
  | 0x32 => decodeOp32
  | 0x33 => decodeOp33
  | 0x36 => decodeOp36
  | 0x37 => decodeOp37
  | 0x39 => decodeOp39
  | 0x3a => decodeOp3A
  | 0x3b => decodeOp3B
  | 0x3c => decodeOp3C
  | 0x3d => decodeOp3D
  | 0x3e => decodeOp3E
  | _ => fun _ => none

/-- A word has the instruction of its row. -/
theorem decodeRow_ok_iff {w : Nat} {i : Instr} : decodeRow w = .ok i ↔ rowsOf (fld w 21 6) w = some i := by
  have pick (op : Nat) (o : Option Instr) : (match o with
      | some i => Except.ok i
      | none => Except.error (DecodeError.unassigned op)) = .ok i ↔ o = some i := by cases o <;> simp
  unfold decodeRow
  generalize fld w 21 6 = op
  dsimp only
  split
  case h_54 =>
    rw [rowsOf]
    · simp
    all_goals assumption
  all_goals exact pick _ _

/-- A word that decodes is one of its row that meets the checks of `Instr.wf` (02 R26, R40). -/
theorem decodeWord_ok_iff {w : Nat} {i : Instr} : decodeWord w = .ok i ↔ decodeRow w = .ok i ∧ i.wf = true := by
  unfold decodeWord
  cases hr : decodeRow w with
  | error e => simp
  | ok j =>
    by_cases hj : j.wf = true
    · simp only [hj, if_true, Except.ok.injEq]
      exact ⟨fun h => ⟨h, h ▸ hj⟩, And.left⟩
    · simp only [hj, Except.ok.injEq]
      exact ⟨fun h => by simp at h, fun h => absurd (h.1 ▸ h.2) hj⟩



/-! ### Each word is read as the instruction that it encodes -/

/-- The instruction's word stands in the instruction's own row. -/
def Reads (i : Instr) : Prop := decodeRow (encode i) = .ok i

/-- An instruction is read back where its word has these parts and the rows of its OP find it there. -/
theorem reads {i : Instr} (rows : Nat → Option Instr) (st : Fin 16) (c : Bool) (op : Fin 64) (d a b : Reg) (f : Fin 64)
    (parts : encode i = word st c op d a b f) (found : rows (word st c op d a b f) = some i)
    (ofOp : rowsOf op.val = rows) : Reads i := by
  rw [Reads, parts, decodeRow_ok_iff, fld_word_op, ofOp]
  exact found

theorem add (st d a b) : Reads (.add st d a b) :=
  reads decodeOp01 st false 0x01 d a b 0 (by show _ + _ = _; simp [word]; omega) (by simp [decodeOp01]) rfl

theorem sub (st d a b) : Reads (.sub st d a b) :=
  reads decodeOp01 st false 0x01 d a b 1 (by show _ + _ = _; simp [word]; omega) (by simp [decodeOp01]) rfl

theorem and (st d a b) : Reads (.and st d a b) :=
  reads decodeOp01 st false 0x01 d a b 2 (by show _ + _ = _; simp [word]; omega) (by simp [decodeOp01]) rfl

theorem or (st d a b) : Reads (.or st d a b) :=
  reads decodeOp01 st false 0x01 d a b 3 (by show _ + _ = _; simp [word]; omega) (by simp [decodeOp01]) rfl

theorem xor (st d a b) : Reads (.xor st d a b) :=
  reads decodeOp01 st false 0x01 d a b 4 (by show _ + _ = _; simp [word]; omega) (by simp [decodeOp01]) rfl

theorem sll (st d a b) : Reads (.sll st d a b) :=
  reads decodeOp01 st false 0x01 d a b 5 (by show _ + _ = _; simp [word]; omega) (by simp [decodeOp01]) rfl

theorem srl (st d a b) : Reads (.srl st d a b) :=
  reads decodeOp01 st false 0x01 d a b 6 (by show _ + _ = _; simp [word]; omega) (by simp [decodeOp01]) rfl

theorem sra (st d a b) : Reads (.sra st d a b) :=
  reads decodeOp01 st false 0x01 d a b 7 (by show _ + _ = _; simp [word]; omega) (by simp [decodeOp01]) rfl

theorem slt (st d a b) : Reads (.slt st d a b) :=
  reads decodeOp01 st false 0x01 d a b 8 (by show _ + _ = _; simp [word]; omega) (by simp [decodeOp01]) rfl

theorem sltn (st d a b) : Reads (.sltn st d a b) :=
  reads decodeOp01 st false 0x01 d a b 9 (by show _ + _ = _; simp [word]; omega) (by simp [decodeOp01]) rfl

theorem min (st d a b) : Reads (.min st d a b) :=
  reads decodeOp01 st false 0x01 d a b 10 (by show _ + _ = _; simp [word]; omega) (by simp [decodeOp01]) rfl

theorem max (st d a b) : Reads (.max st d a b) :=
  reads decodeOp01 st false 0x01 d a b 11 (by show _ + _ = _; simp [word]; omega) (by simp [decodeOp01]) rfl

theorem minn (st d a b) : Reads (.minn st d a b) :=
  reads decodeOp01 st false 0x01 d a b 12 (by show _ + _ = _; simp [word]; omega) (by simp [decodeOp01]) rfl

theorem maxn (st d a b) : Reads (.maxn st d a b) :=
  reads decodeOp01 st false 0x01 d a b 13 (by show _ + _ = _; simp [word]; omega) (by simp [decodeOp01]) rfl

theorem mul (st d a b) : Reads (.mul st d a b) :=
  reads decodeOp01 st false 0x01 d a b 16 (by show _ + _ = _; simp [word]; omega) (by simp [decodeOp01]) rfl

theorem mulh (st d a b) : Reads (.mulh st d a b) :=
  reads decodeOp01 st false 0x01 d a b 17 (by show _ + _ = _; simp [word]; omega) (by simp [decodeOp01]) rfl

theorem mulhn (st d a b) : Reads (.mulhn st d a b) :=
  reads decodeOp01 st false 0x01 d a b 18 (by show _ + _ = _; simp [word]; omega) (by simp [decodeOp01]) rfl

theorem div (st d a b) : Reads (.div st d a b) :=
  reads decodeOp01 st false 0x01 d a b 19 (by show _ + _ = _; simp [word]; omega) (by simp [decodeOp01]) rfl

theorem divn (st d a b) : Reads (.divn st d a b) :=
  reads decodeOp01 st false 0x01 d a b 20 (by show _ + _ = _; simp [word]; omega) (by simp [decodeOp01]) rfl

theorem rem (st d a b) : Reads (.rem st d a b) :=
  reads decodeOp01 st false 0x01 d a b 21 (by show _ + _ = _; simp [word]; omega) (by simp [decodeOp01]) rfl

theorem remn (st d a b) : Reads (.remn st d a b) :=
  reads decodeOp01 st false 0x01 d a b 22 (by show _ + _ = _; simp [word]; omega) (by simp [decodeOp01]) rfl

theorem bext (st d a b) : Reads (.bext st d a b) :=
  reads decodeOp01 st false 0x01 d a b 27 (by show _ + _ = _; simp [word]; omega) (by simp [decodeOp01]) rfl

theorem bins (st d a b) : Reads (.bins st d a b) :=
  reads decodeOp01 st false 0x01 d a b 28 (by show _ + _ = _; simp [word]; omega) (by simp [decodeOp01]) rfl

theorem clz (st d a) : Reads (.clz st d a) :=
  reads decodeOp01 st false 0x01 d a 0 24 (by show _ + _ = _; simp [word]; omega) (by simp [decodeOp01]) rfl

theorem ctz (st d a) : Reads (.ctz st d a) :=
  reads decodeOp01 st false 0x01 d a 0 25 (by show _ + _ = _; simp [word]; omega) (by simp [decodeOp01]) rfl

theorem popc (st d a) : Reads (.popc st d a) :=
  reads decodeOp01 st false 0x01 d a 0 26 (by show _ + _ = _; simp [word]; omega) (by simp [decodeOp01]) rfl

theorem slli (st d a n h) : Reads (.slli st d a n h) :=
  reads decodeOp01 st false 0x01 d a n (Fin.ofNat 64 (32 + h.toNat)) (by have := h.toNat_lt; show _ + _ = _; simp [word]; omega)
    (by cases h <;> simp [decodeOp01]) rfl

theorem srli (st d a n h) : Reads (.srli st d a n h) :=
  reads decodeOp01 st false 0x01 d a n (Fin.ofNat 64 (34 + h.toNat)) (by have := h.toNat_lt; show _ + _ = _; simp [word]; omega)
    (by cases h <;> simp [decodeOp01]) rfl

theorem srai (st d a n h) : Reads (.srai st d a n h) :=
  reads decodeOp01 st false 0x01 d a n (Fin.ofNat 64 (36 + h.toNat)) (by have := h.toNat_lt; show _ + _ = _; simp [word]; omega)
    (by cases h <;> simp [decodeOp01]) rfl

theorem addi (st d a imm) : Reads (.addi st d a imm) :=
  reads decodeOp02 st false 0x02 d a (midField imm 6) (lowField imm) (by show _ + _ = _; simp [word, midField, lowField]; omega)
    (by simp [decodeOp02]) rfl

theorem andi (st d a imm) : Reads (.andi st d a imm) :=
  reads decodeOp03 st false 0x03 d a (midField imm 6) (lowField imm) (by show _ + _ = _; simp [word, midField, lowField]; omega)
    (by simp [decodeOp03]) rfl

theorem ori (st d a imm) : Reads (.ori st d a imm) :=
  reads decodeOp04 st false 0x04 d a (midField imm 6) (lowField imm) (by show _ + _ = _; simp [word, midField, lowField]; omega)
    (by simp [decodeOp04]) rfl

theorem xori (st d a imm) : Reads (.xori st d a imm) :=
  reads decodeOp05 st false 0x05 d a (midField imm 6) (lowField imm) (by show _ + _ = _; simp [word, midField, lowField]; omega)
    (by simp [decodeOp05]) rfl

theorem lih (st d imm) : Reads (.lih st d imm) :=
  reads decodeOp06 st false 0x06 d (midField imm 11) (midField imm 6) (lowField imm)
    (by show _ + _ = _; simp [word, midField, lowField]; omega) (by simp [decodeOp06]) rfl

theorem adpc (st d imm) : Reads (.adpc st d imm) :=
  reads decodeOp07 st false 0x07 d (midField imm 11) (midField imm 6) (lowField imm)
    (by show _ + _ = _; simp [word, midField, lowField]; omega) (by simp [decodeOp07]) rfl

theorem ld8 (st d a off) : Reads (.ld8 st d a off) :=
  reads decodeOp08 st false 0x08 d a (offField 0 off) (lowField off) (by show _ + _ = _; simp [word, offField, lowField]; omega)
    (by simp [decodeOp08]) rfl

theorem ld16 (st d a off) : Reads (.ld16 st d a off) :=
  reads decodeOp08 st false 0x08 d a (offField 1 off) (lowField off) (by show _ + _ = _; simp [word, offField, lowField]; omega)
    (by simp [decodeOp08]) rfl

theorem ld32 (st d a off) : Reads (.ld32 st d a off) :=
  reads decodeOp08 st false 0x08 d a (offField 2 off) (lowField off) (by show _ + _ = _; simp [word, offField, lowField]; omega)
    (by simp [decodeOp08]) rfl

theorem ld64 (st d a off) : Reads (.ld64 st d a off) :=
  reads decodeOp08 st false 0x08 d a (offField 3 off) (lowField off) (by show _ + _ = _; simp [word, offField, lowField]; omega)
    (by simp [decodeOp08]) rfl

theorem ld8N (st d a off) : Reads (.ld8N st d a off) :=
  reads decodeOp09 st false 0x09 d a (offField 0 off) (lowField off) (by show _ + _ = _; simp [word, offField, lowField]; omega)
    (by simp [decodeOp09]) rfl

theorem ld16N (st d a off) : Reads (.ld16N st d a off) :=
  reads decodeOp09 st false 0x09 d a (offField 1 off) (lowField off) (by show _ + _ = _; simp [word, offField, lowField]; omega)
    (by simp [decodeOp09]) rfl

theorem ld32N (st d a off) : Reads (.ld32N st d a off) :=
  reads decodeOp09 st false 0x09 d a (offField 2 off) (lowField off) (by show _ + _ = _; simp [word, offField, lowField]; omega)
    (by simp [decodeOp09]) rfl

theorem st8 (st d a off) : Reads (.st8 st d a off) :=
  reads decodeOp0A st false 0x0a d a (offField 0 off) (lowField off) (by show _ + _ = _; simp [word, offField, lowField]; omega)
    (by simp [decodeOp0A]) rfl

theorem st16 (st d a off) : Reads (.st16 st d a off) :=
  reads decodeOp0A st false 0x0a d a (offField 1 off) (lowField off) (by show _ + _ = _; simp [word, offField, lowField]; omega)
    (by simp [decodeOp0A]) rfl

theorem st32 (st d a off) : Reads (.st32 st d a off) :=
  reads decodeOp0A st false 0x0a d a (offField 2 off) (lowField off) (by show _ + _ = _; simp [word, offField, lowField]; omega)
    (by simp [decodeOp0A]) rfl

theorem st64 (st d a off) : Reads (.st64 st d a off) :=
  reads decodeOp0A st false 0x0a d a (offField 3 off) (lowField off) (by show _ + _ = _; simp [word, offField, lowField]; omega)
    (by simp [decodeOp0A]) rfl

theorem ldl (st d a) : Reads (.ldl st d a) :=
  reads decodeOp0B st false 0x0b d a 0 0 (by show _ + _ = _; simp [word]; omega) (by simp [decodeOp0B]) rfl

theorem stc (st d a b) : Reads (.stc st d a b) :=
  reads decodeOp0B st false 0x0b d a b 1 (by show _ + _ = _; simp [word]; omega) (by simp [decodeOp0B]) rfl

theorem jal (st off) : Reads (.jal st off) :=
  reads decodeOp0C st false 0x0c (midField off 16) (midField off 11) (midField off 6) (lowField off)
    (by show _ + _ = _; simp [word, midField, lowField]; omega) (by simp [decodeOp0C]) rfl

theorem beq (st d a off) : Reads (.beq st d a off) :=
  reads decodeOp0D st false 0x0d d a (offField 0 off) (lowField off) (by show _ + _ = _; simp [word, offField, lowField]; omega)
    (by simp [decodeOp0D]) rfl

theorem bne (st d a off) : Reads (.bne st d a off) :=
  reads decodeOp0D st false 0x0d d a (offField 1 off) (lowField off) (by show _ + _ = _; simp [word, offField, lowField]; omega)
    (by simp [decodeOp0D]) rfl

theorem blt (st d a off) : Reads (.blt st d a off) :=
  reads decodeOp0D st false 0x0d d a (offField 2 off) (lowField off) (by show _ + _ = _; simp [word, offField, lowField]; omega)
    (by simp [decodeOp0D]) rfl

theorem bge (st d a off) : Reads (.bge st d a off) :=
  reads decodeOp0D st false 0x0d d a (offField 3 off) (lowField off) (by show _ + _ = _; simp [word, offField, lowField]; omega)
    (by simp [decodeOp0D]) rfl

theorem bltn (st d a off) : Reads (.bltn st d a off) :=
  reads decodeOp0E st false 0x0e d a (offField 0 off) (lowField off) (by show _ + _ = _; simp [word, offField, lowField]; omega)
    (by simp [decodeOp0E]) rfl

theorem bgen (st d a off) : Reads (.bgen st d a off) :=
  reads decodeOp0E st false 0x0e d a (offField 1 off) (lowField off) (by show _ + _ = _; simp [word, offField, lowField]; omega)
    (by simp [decodeOp0E]) rfl

theorem jalr (st d a) : Reads (.jalr st d a) :=
  reads decodeOp0F st false 0x0f d a 0 0 (by show _ + _ = _; simp [word]; omega) (by simp [decodeOp0F]) rfl

theorem wait (st d a) : Reads (.wait st d a) :=
  reads decodeOp0F st false 0x0f d a 0 1 (by show _ + _ = _; simp [word]; omega) (by simp [decodeOp0F]) rfl

theorem setvl (st d a) : Reads (.setvl st d a) :=
  reads decodeOp0F st false 0x0f d a 0 2 (by show _ + _ = _; simp [word]; omega) (by simp [decodeOp0F]) rfl

theorem setvt (st d a) : Reads (.setvt st d a) :=
  reads decodeOp0F st false 0x0f d a 0 3 (by show _ + _ = _; simp [word]; omega) (by simp [decodeOp0F]) rfl

theorem nop (st) : Reads (.nop st) :=
  reads decodeOp0F st false 0x0f 0 0 0 4 (by show _ + _ = _; simp [word]; omega) (by simp [decodeOp0F]) rfl

theorem rdc (st d r) : Reads (.rdc st d r) :=
  reads decodeOp0F st false 0x0f d (csrHigh r) (csrLow r) 8 (by show _ + _ = _; simp [word, csrHigh, csrLow]; omega)
    (by simp [decodeOp0F, -Fin.ofNat_eq_cast]) rfl

theorem wrc (st d r) : Reads (.wrc st d r) :=
  reads decodeOp0F st false 0x0f d (csrHigh r) (csrLow r) 9 (by show _ + _ = _; simp [word, csrHigh, csrLow]; omega)
    (by simp [decodeOp0F, -Fin.ofNat_eq_cast]) rfl

theorem vadd (st c d a b x) : Reads (.vadd st c d a b x) :=
  reads decodeOp10 st c 0x10 d a b (Fin.ofNat 64 (x.toNat * 32)) (by have := x.toNat_lt; show _ + _ = _; simp [word]; omega)
    (by cases x <;> simp [decodeOp10]) rfl

theorem vsub (st c d a b x) : Reads (.vsub st c d a b x) :=
  reads decodeOp10 st c 0x10 d a b (Fin.ofNat 64 (1 + x.toNat * 32)) (by have := x.toNat_lt; show _ + _ = _; simp [word]; omega)
    (by cases x <;> simp [decodeOp10]) rfl

theorem vmin (st c d a b x) : Reads (.vmin st c d a b x) :=
  reads decodeOp10 st c 0x10 d a b (Fin.ofNat 64 (2 + x.toNat * 32)) (by have := x.toNat_lt; show _ + _ = _; simp [word]; omega)
    (by cases x <;> simp [decodeOp10]) rfl

theorem vmax (st c d a b x) : Reads (.vmax st c d a b x) :=
  reads decodeOp10 st c 0x10 d a b (Fin.ofNat 64 (3 + x.toNat * 32)) (by have := x.toNat_lt; show _ + _ = _; simp [word]; omega)
    (by cases x <;> simp [decodeOp10]) rfl

theorem vaddsat (st c d a b x) : Reads (.vaddsat st c d a b x) :=
  reads decodeOp10 st c 0x10 d a b (Fin.ofNat 64 (4 + x.toNat * 32)) (by have := x.toNat_lt; show _ + _ = _; simp [word]; omega)
    (by cases x <;> simp [decodeOp10]) rfl

theorem vsubsat (st c d a b x) : Reads (.vsubsat st c d a b x) :=
  reads decodeOp10 st c 0x10 d a b (Fin.ofNat 64 (5 + x.toNat * 32)) (by have := x.toNat_lt; show _ + _ = _; simp [word]; omega)
    (by cases x <;> simp [decodeOp10]) rfl

theorem vabs (st c d a) : Reads (.vabs st c d a) :=
  reads decodeOp10 st c 0x10 d a 0 6 (by show _ + _ = _; simp [word]; omega) (by simp [decodeOp10]) rfl

theorem vneg (st c d a) : Reads (.vneg st c d a) :=
  reads decodeOp10 st c 0x10 d a 0 7 (by show _ + _ = _; simp [word]; omega) (by simp [decodeOp10]) rfl

theorem vand (st c d a b x) : Reads (.vand st c d a b x) :=
  reads decodeOp11 st c 0x11 d a b (Fin.ofNat 64 (x.toNat * 32)) (by have := x.toNat_lt; show _ + _ = _; simp [word]; omega)
    (by cases x <;> simp [decodeOp11]) rfl

theorem vor (st c d a b x) : Reads (.vor st c d a b x) :=
  reads decodeOp11 st c 0x11 d a b (Fin.ofNat 64 (1 + x.toNat * 32)) (by have := x.toNat_lt; show _ + _ = _; simp [word]; omega)
    (by cases x <;> simp [decodeOp11]) rfl

theorem vxor (st c d a b x) : Reads (.vxor st c d a b x) :=
  reads decodeOp11 st c 0x11 d a b (Fin.ofNat 64 (2 + x.toNat * 32)) (by have := x.toNat_lt; show _ + _ = _; simp [word]; omega)
    (by cases x <;> simp [decodeOp11]) rfl

theorem vsll (st c d a b x) : Reads (.vsll st c d a b x) :=
  reads decodeOp11 st c 0x11 d a b (Fin.ofNat 64 (3 + x.toNat * 32)) (by have := x.toNat_lt; show _ + _ = _; simp [word]; omega)
    (by cases x <;> simp [decodeOp11]) rfl

theorem vsrl (st c d a b x) : Reads (.vsrl st c d a b x) :=
  reads decodeOp11 st c 0x11 d a b (Fin.ofNat 64 (4 + x.toNat * 32)) (by have := x.toNat_lt; show _ + _ = _; simp [word]; omega)
    (by cases x <;> simp [decodeOp11]) rfl

theorem vsra (st c d a b x) : Reads (.vsra st c d a b x) :=
  reads decodeOp11 st c 0x11 d a b (Fin.ofNat 64 (5 + x.toNat * 32)) (by have := x.toNat_lt; show _ + _ = _; simp [word]; omega)
    (by cases x <;> simp [decodeOp11]) rfl

theorem vmul (st c d a b x) : Reads (.vmul st c d a b x) :=
  reads decodeOp12 st c 0x12 d a b (Fin.ofNat 64 (x.toNat * 32)) (by have := x.toNat_lt; show _ + _ = _; simp [word]; omega)
    (by cases x <;> simp [decodeOp12]) rfl

theorem vmulh (st c d a b x) : Reads (.vmulh st c d a b x) :=
  reads decodeOp12 st c 0x12 d a b (Fin.ofNat 64 (1 + x.toNat * 32)) (by have := x.toNat_lt; show _ + _ = _; simp [word]; omega)
    (by cases x <;> simp [decodeOp12]) rfl

theorem vmadd (st c d a b x) : Reads (.vmadd st c d a b x) :=
  reads decodeOp12 st c 0x12 d a b (Fin.ofNat 64 (2 + x.toNat * 32)) (by have := x.toNat_lt; show _ + _ = _; simp [word]; omega)
    (by cases x <;> simp [decodeOp12]) rfl

theorem vmsub (st c d a b x) : Reads (.vmsub st c d a b x) :=
  reads decodeOp12 st c 0x12 d a b (Fin.ofNat 64 (3 + x.toNat * 32)) (by have := x.toNat_lt; show _ + _ = _; simp [word]; omega)
    (by cases x <;> simp [decodeOp12]) rfl

theorem vnmadd (st c d a b x) : Reads (.vnmadd st c d a b x) :=
  reads decodeOp12 st c 0x12 d a b (Fin.ofNat 64 (4 + x.toNat * 32)) (by have := x.toNat_lt; show _ + _ = _; simp [word]; omega)
    (by cases x <;> simp [decodeOp12]) rfl

theorem vdiv (st c d a b x) : Reads (.vdiv st c d a b x) :=
  reads decodeOp12 st c 0x12 d a b (Fin.ofNat 64 (5 + x.toNat * 32)) (by have := x.toNat_lt; show _ + _ = _; simp [word]; omega)
    (by cases x <;> simp [decodeOp12]) rfl

theorem vwadd (st c d a b x) : Reads (.vwadd st c d a b x) :=
  reads decodeOp12 st c 0x12 d a b (Fin.ofNat 64 (6 + x.toNat * 32)) (by have := x.toNat_lt; show _ + _ = _; simp [word]; omega)
    (by cases x <;> simp [decodeOp12]) rfl

theorem vwmul (st c d a b x) : Reads (.vwmul st c d a b x) :=
  reads decodeOp12 st c 0x12 d a b (Fin.ofNat 64 (7 + x.toNat * 32)) (by have := x.toNat_lt; show _ + _ = _; simp [word]; omega)
    (by cases x <;> simp [decodeOp12]) rfl

theorem vcmp (st c d a b x q) : Reads (.vcmp st c d a b x q) :=
  reads decodeOp13 st c 0x13 d a b (Fin.ofNat 64 (x.toNat * 32 + q.val)) (by have := x.toNat_lt; show _ + _ = _; simp [word]; omega)
    (by cases x <;> fin_cases q <;> simp [decodeOp13] <;> rfl) rfl

theorem vsel (st c d a b x) : Reads (.vsel st c d a b x) :=
  reads decodeOp14 st c 0x14 d a b (Fin.ofNat 64 (x.toNat * 32)) (by have := x.toNat_lt; show _ + _ = _; simp [word]; omega)
    (by cases x <;> simp [decodeOp14]) rfl

theorem vmv (st c d a) : Reads (.vmv st c d a) :=
  reads decodeOp14 st c 0x14 d a 0 1 (by show _ + _ = _; simp [word]; omega) (by simp [decodeOp14]) rfl

theorem vbcast (st c d a) : Reads (.vbcast st c d a) :=
  reads decodeOp14 st c 0x14 d a 0 2 (by show _ + _ = _; simp [word]; omega) (by simp [decodeOp14]) rfl

theorem vaddF (st c d a b x) : Reads (.vaddF st c d a b x) :=
  reads decodeOp18 st c 0x18 d a b (Fin.ofNat 64 (x.toNat * 32)) (by have := x.toNat_lt; show _ + _ = _; simp [word]; omega)
    (by cases x <;> simp [decodeOp18]) rfl

theorem vsubF (st c d a b x) : Reads (.vsubF st c d a b x) :=
  reads decodeOp18 st c 0x18 d a b (Fin.ofNat 64 (1 + x.toNat * 32)) (by have := x.toNat_lt; show _ + _ = _; simp [word]; omega)
    (by cases x <;> simp [decodeOp18]) rfl

theorem vminF (st c d a b x) : Reads (.vminF st c d a b x) :=
  reads decodeOp18 st c 0x18 d a b (Fin.ofNat 64 (2 + x.toNat * 32)) (by have := x.toNat_lt; show _ + _ = _; simp [word]; omega)
    (by cases x <;> simp [decodeOp18]) rfl

theorem vmaxF (st c d a b x) : Reads (.vmaxF st c d a b x) :=
  reads decodeOp18 st c 0x18 d a b (Fin.ofNat 64 (3 + x.toNat * 32)) (by have := x.toNat_lt; show _ + _ = _; simp [word]; omega)
    (by cases x <;> simp [decodeOp18]) rfl

theorem vabsF (st c d a) : Reads (.vabsF st c d a) :=
  reads decodeOp18 st c 0x18 d a 0 6 (by show _ + _ = _; simp [word]; omega) (by simp [decodeOp18]) rfl

theorem vnegF (st c d a) : Reads (.vnegF st c d a) :=
  reads decodeOp18 st c 0x18 d a 0 7 (by show _ + _ = _; simp [word]; omega) (by simp [decodeOp18]) rfl

theorem vmulF (st c d a b x) : Reads (.vmulF st c d a b x) :=
  reads decodeOp19 st c 0x19 d a b (Fin.ofNat 64 (x.toNat * 32)) (by have := x.toNat_lt; show _ + _ = _; simp [word]; omega)
    (by cases x <;> simp [decodeOp19]) rfl

theorem vmaddF (st c d a b x) : Reads (.vmaddF st c d a b x) :=
  reads decodeOp19 st c 0x19 d a b (Fin.ofNat 64 (2 + x.toNat * 32)) (by have := x.toNat_lt; show _ + _ = _; simp [word]; omega)
    (by cases x <;> simp [decodeOp19]) rfl

theorem vmsubF (st c d a b x) : Reads (.vmsubF st c d a b x) :=
  reads decodeOp19 st c 0x19 d a b (Fin.ofNat 64 (3 + x.toNat * 32)) (by have := x.toNat_lt; show _ + _ = _; simp [word]; omega)
    (by cases x <;> simp [decodeOp19]) rfl

theorem vnmaddF (st c d a b x) : Reads (.vnmaddF st c d a b x) :=
  reads decodeOp19 st c 0x19 d a b (Fin.ofNat 64 (4 + x.toNat * 32)) (by have := x.toNat_lt; show _ + _ = _; simp [word]; omega)
    (by cases x <;> simp [decodeOp19]) rfl

theorem vdivF (st c d a b x) : Reads (.vdivF st c d a b x) :=
  reads decodeOp19 st c 0x19 d a b (Fin.ofNat 64 (5 + x.toNat * 32)) (by have := x.toNat_lt; show _ + _ = _; simp [word]; omega)
    (by cases x <;> simp [decodeOp19]) rfl

theorem vwaddF (st c d a b x) : Reads (.vwaddF st c d a b x) :=
  reads decodeOp19 st c 0x19 d a b (Fin.ofNat 64 (6 + x.toNat * 32)) (by have := x.toNat_lt; show _ + _ = _; simp [word]; omega)
    (by cases x <;> simp [decodeOp19]) rfl

theorem vwmulF (st c d a b x) : Reads (.vwmulF st c d a b x) :=
  reads decodeOp19 st c 0x19 d a b (Fin.ofNat 64 (7 + x.toNat * 32)) (by have := x.toNat_lt; show _ + _ = _; simp [word]; omega)
    (by cases x <;> simp [decodeOp19]) rfl

theorem vsqrt (st c d a) : Reads (.vsqrt st c d a) :=
  reads decodeOp1A st c 0x1a d a 0 0 (by show _ + _ = _; simp [word]; omega) (by simp [decodeOp1A]) rfl

theorem vrcpa (st c d a) : Reads (.vrcpa st c d a) :=
  reads decodeOp1A st c 0x1a d a 0 1 (by show _ + _ = _; simp [word]; omega) (by simp [decodeOp1A]) rfl

theorem vrsqa (st c d a) : Reads (.vrsqa st c d a) :=
  reads decodeOp1A st c 0x1a d a 0 2 (by show _ + _ = _; simp [word]; omega) (by simp [decodeOp1A]) rfl

theorem vrcps (st c d a b) : Reads (.vrcps st c d a b) :=
  reads decodeOp1A st c 0x1a d a b 3 (by show _ + _ = _; simp [word]; omega) (by simp [decodeOp1A]) rfl

theorem vrsqs (st c d a b) : Reads (.vrsqs st c d a b) :=
  reads decodeOp1A st c 0x1a d a b 4 (by show _ + _ = _; simp [word]; omega) (by simp [decodeOp1A]) rfl

theorem vclass (st c d a) : Reads (.vclass st c d a) :=
  reads decodeOp1A st c 0x1a d a 0 5 (by show _ + _ = _; simp [word]; omega) (by simp [decodeOp1A]) rfl

theorem vcmpF (st c d a b x q) : Reads (.vcmpF st c d a b x q) :=
  reads decodeOp1B st c 0x1b d a b (Fin.ofNat 64 (x.toNat * 32 + q.val)) (by have := x.toNat_lt; show _ + _ = _; simp [word]; omega)
    (by cases x <;> fin_cases q <;> simp [decodeOp1B] <;> rfl) rfl

theorem vcvt (st c d a b m) : Reads (.vcvt st c d a b m) :=
  reads decodeOp1C st c 0x1c d a b (Fin.ofNat 64 (m.val * 8)) (by show _ + _ = _; simp [word]; omega)
    (by fin_cases m <;> simp [decodeOp1C] <;> rfl) rfl

theorem vldsc (st c d a b) : Reads (.vldsc st c d a b) :=
  reads decodeOp1D st c 0x1d d a b 0 (by show _ + _ = _; simp [word]; omega) (by simp [decodeOp1D]) rfl

theorem vmvscToScale (st c d a) : Reads (.vmvscToScale st c d a) :=
  reads decodeOp1D st c 0x1d d a 0 1 (by show _ + _ = _; simp [word]; omega) (by simp [decodeOp1D]) rfl

theorem vmvscFromScale (st c d a) : Reads (.vmvscFromScale st c d a) :=
  reads decodeOp1D st c 0x1d d a 0 2 (by show _ + _ = _; simp [word]; omega) (by simp [decodeOp1D]) rfl

theorem vapsc (st c d a b) : Reads (.vapsc st c d a b) :=
  reads decodeOp1D st c 0x1d d a b 3 (by show _ + _ = _; simp [word]; omega) (by simp [decodeOp1D]) rfl

theorem mand (st c d a b) : Reads (.mand st c d a b) :=
  reads decodeOp1E st c 0x1e d a b 0 (by show _ + _ = _; simp [word]; omega) (by simp [decodeOp1E]) rfl

theorem mor (st c d a b) : Reads (.mor st c d a b) :=
  reads decodeOp1E st c 0x1e d a b 1 (by show _ + _ = _; simp [word]; omega) (by simp [decodeOp1E]) rfl

theorem mxor (st c d a b) : Reads (.mxor st c d a b) :=
  reads decodeOp1E st c 0x1e d a b 2 (by show _ + _ = _; simp [word]; omega) (by simp [decodeOp1E]) rfl

theorem mnot (st c d a) : Reads (.mnot st c d a) :=
  reads decodeOp1E st c 0x1e d a 0 3 (by show _ + _ = _; simp [word]; omega) (by simp [decodeOp1E]) rfl

theorem msbf (st c d a) : Reads (.msbf st c d a) :=
  reads decodeOp1E st c 0x1e d a 0 4 (by show _ + _ = _; simp [word]; omega) (by simp [decodeOp1E]) rfl

theorem mset (st c d a) : Reads (.mset st c d a) :=
  reads decodeOp1E st c 0x1e d a 0 5 (by show _ + _ = _; simp [word]; omega) (by simp [decodeOp1E]) rfl

theorem mpopc (st c d a) : Reads (.mpopc st c d a) :=
  reads decodeOp1F st c 0x1f d a 0 0 (by show _ + _ = _; simp [word]; omega) (by simp [decodeOp1F]) rfl

theorem mfirst (st c d a) : Reads (.mfirst st c d a) :=
  reads decodeOp1F st c 0x1f d a 0 1 (by show _ + _ = _; simp [word]; omega) (by simp [decodeOp1F]) rfl

theorem viota (st c d a) : Reads (.viota st c d a) :=
  reads decodeOp1F st c 0x1f d a 0 2 (by show _ + _ = _; simp [word]; omega) (by simp [decodeOp1F]) rfl

theorem vld (st c d a o) : Reads (.vld st c d a o) :=
  reads decodeOp20 st c 0x20 d a 0 (Fin.ofNat 64 (o.toNat * 32)) (by have := o.toNat_lt; show _ + _ = _; simp [word]; omega)
    (by cases o <;> simp [decodeOp20]) rfl

theorem vlds (st c d a o) : Reads (.vlds st c d a o) :=
  reads decodeOp20 st c 0x20 d a 0 (Fin.ofNat 64 (1 + o.toNat * 32)) (by have := o.toNat_lt; show _ + _ = _; simp [word]; omega)
    (by cases o <;> simp [decodeOp20]) rfl

theorem vldx (st c d a b o k) : Reads (.vldx st c d a b o k) :=
  reads decodeOp20 st c 0x20 d a b (Fin.ofNat 64 (2 + o.toNat * 32 + k.toNat * 8))
    (by have := o.toNat_lt; have := k.toNat_lt; show _ + _ = _; simp [word]; omega)
    (by cases o <;> cases k <;> simp [decodeOp20]) rfl

theorem vldt (st c d a b o) : Reads (.vldt st c d a b o) :=
  reads decodeOp20 st c 0x20 d a b (Fin.ofNat 64 (3 + o.toNat * 32)) (by have := o.toNat_lt; show _ + _ = _; simp [word]; omega)
    (by cases o <;> simp [decodeOp20]) rfl

theorem vpf (st c a o) : Reads (.vpf st c a o) :=
  reads decodeOp20 st c 0x20 0 a 0 (Fin.ofNat 64 (4 + o.toNat * 32)) (by have := o.toNat_lt; show _ + _ = _; simp [word]; omega)
    (by cases o <;> simp [decodeOp20]) rfl

theorem vst (st c d a o n) : Reads (.vst st c d a o n) :=
  reads decodeOp21 st c 0x21 d a 0 (Fin.ofNat 64 (o.toNat * 32 + n.toNat * 16))
    (by have := o.toNat_lt; have := n.toNat_lt; show _ + _ = _; simp [word]; omega)
    (by cases o <;> cases n <;> simp [decodeOp21]) rfl

theorem vsts (st c d a o n) : Reads (.vsts st c d a o n) :=
  reads decodeOp21 st c 0x21 d a 0 (Fin.ofNat 64 (1 + o.toNat * 32 + n.toNat * 16))
    (by have := o.toNat_lt; have := n.toNat_lt; show _ + _ = _; simp [word]; omega)
    (by cases o <;> cases n <;> simp [decodeOp21]) rfl

theorem vstx (st c d a b o n k) : Reads (.vstx st c d a b o n k) :=
  reads decodeOp21 st c 0x21 d a b (Fin.ofNat 64 (2 + o.toNat * 32 + n.toNat * 16 + k.toNat * 8))
    (by have := o.toNat_lt; have := n.toNat_lt; have := k.toNat_lt; show _ + _ = _; simp [word]; omega)
    (by cases o <;> cases n <;> cases k <;> simp [decodeOp21]) rfl

theorem vstxu (st c d a b o n k) : Reads (.vstxu st c d a b o n k) :=
  reads decodeOp21 st c 0x21 d a b (Fin.ofNat 64 (3 + o.toNat * 32 + n.toNat * 16 + k.toNat * 8))
    (by have := o.toNat_lt; have := n.toNat_lt; have := k.toNat_lt; show _ + _ = _; simp [word]; omega)
    (by cases o <;> cases n <;> cases k <;> simp [decodeOp21]) rfl

theorem vstt (st c d a b o n) : Reads (.vstt st c d a b o n) :=
  reads decodeOp21 st c 0x21 d a b (Fin.ofNat 64 (4 + o.toNat * 32 + n.toNat * 16))
    (by have := o.toNat_lt; have := n.toNat_lt; show _ + _ = _; simp [word]; omega)
    (by cases o <;> cases n <;> simp [decodeOp21]) rfl

theorem vlseg (st c d a b o n) : Reads (.vlseg st c d a b o n) :=
  reads decodeOp22 st c 0x22 d a b (Fin.ofNat 64 (o.toNat * 32 + n.val)) (by have := o.toNat_lt; show _ + _ = _; simp [word]; omega)
    (by cases o <;> fin_cases n <;> simp [decodeOp22] <;> rfl) rfl

theorem vsseg (st c d a b o t n) : Reads (.vsseg st c d a b o t n) :=
  reads decodeOp22 st c 0x22 d a b (Fin.ofNat 64 (8 + o.toNat * 32 + t.toNat * 16 + n.val))
    (by have := o.toNat_lt; have := t.toNat_lt; show _ + _ = _; simp [word]; omega)
    (by cases o <;> cases t <;> fin_cases n <;> simp [decodeOp22] <;> rfl) rfl

theorem vbind (st c d a) : Reads (.vbind st c d a) :=
  reads decodeOp23 st c 0x23 d a 0 0 (by show _ + _ = _; simp [word]; omega) (by simp [decodeOp23]) rfl

theorem vunbind (st c d) : Reads (.vunbind st c d) :=
  reads decodeOp23 st c 0x23 d 0 0 1 (by show _ + _ = _; simp [word]; omega) (by simp [decodeOp23]) rfl

theorem vperm (st c d a b) : Reads (.vperm st c d a b) :=
  reads decodeOp26 st c 0x26 d a b 0 (by show _ + _ = _; simp [word]; omega) (by simp [decodeOp26]) rfl

theorem vslu (st c d a b) : Reads (.vslu st c d a b) :=
  reads decodeOp26 st c 0x26 d a b 1 (by show _ + _ = _; simp [word]; omega) (by simp [decodeOp26]) rfl

theorem vsld (st c d a b) : Reads (.vsld st c d a b) :=
  reads decodeOp26 st c 0x26 d a b 2 (by show _ + _ = _; simp [word]; omega) (by simp [decodeOp26]) rfl

theorem vcompress (st c d a) : Reads (.vcompress st c d a) :=
  reads decodeOp26 st c 0x26 d a 0 3 (by show _ + _ = _; simp [word]; omega) (by simp [decodeOp26]) rfl

theorem vexpand (st c d a) : Reads (.vexpand st c d a) :=
  reads decodeOp26 st c 0x26 d a 0 4 (by show _ + _ = _; simp [word]; omega) (by simp [decodeOp26]) rfl

theorem vred (st c d a b f p) : Reads (.vred st c d a b f p) :=
  reads decodeOp27 st c 0x27 d a b (Fin.ofNat 64 (f.toNat * 8 + p.val)) (by have := f.toNat_lt; show _ + _ = _; simp [word]; omega)
    (by cases f <;> fin_cases p <;> simp [decodeOp27] <;> rfl) rfl

theorem vscan (st c d a b f p) : Reads (.vscan st c d a b f p) :=
  reads decodeOp27 st c 0x27 d a b (Fin.ofNat 64 (16 + f.toNat * 8 + p.val))
    (by have := f.toNat_lt; show _ + _ = _; simp [word]; omega) (by cases f <;> fin_cases p <;> simp [decodeOp27] <;> rfl) rfl

theorem vfetch (st c a) : Reads (.vfetch st c a) :=
  reads decodeOp28 st c 0x28 0 a 0 0 (by show _ + _ = _; simp [word]; omega) (by simp [decodeOp28]) rfl

theorem vpbr (st c a) : Reads (.vpbr st c a) :=
  reads decodeOp28 st c 0x28 0 a 0 1 (by show _ + _ = _; simp [word]; omega) (by simp [decodeOp28]) rfl

theorem vpend (st c) : Reads (.vpend st c) :=
  reads decodeOp28 st c 0x28 0 0 0 2 (by show _ + _ = _; simp [word]; omega) (by simp [decodeOp28]) rfl

theorem vpsend (st c a) : Reads (.vpsend st c a) :=
  reads decodeOp28 st c 0x28 0 a 0 3 (by show _ + _ = _; simp [word]; omega) (by simp [decodeOp28]) rfl

theorem vprecv (st c d) : Reads (.vprecv st c d) :=
  reads decodeOp28 st c 0x28 d 0 0 4 (by show _ + _ = _; simp [word]; omega) (by simp [decodeOp28]) rfl

theorem vconf (st c d a) : Reads (.vconf st c d a) :=
  reads decodeOp2A st c 0x2a d a 0 0 (by show _ + _ = _; simp [word]; omega) (by simp [decodeOp2A]) rfl

theorem vcomb (st c d a b) : Reads (.vcomb st c d a b) :=
  reads decodeOp2A st c 0x2a d a b 1 (by show _ + _ = _; simp [word]; omega) (by simp [decodeOp2A]) rfl

theorem visect (st c d a b) : Reads (.visect st c d a b) :=
  reads decodeOp2A st c 0x2a d a b 2 (by show _ + _ = _; simp [word]; omega) (by simp [decodeOp2A]) rfl

theorem cins (st c d a) : Reads (.cins st c d a) :=
  reads decodeOp2B st c 0x2b d a 0 0 (by show _ + _ = _; simp [word]; omega) (by simp [decodeOp2B]) rfl

theorem clook (st c d a b) : Reads (.clook st c d a b) :=
  reads decodeOp2B st c 0x2b d a b 1 (by show _ + _ = _; simp [word]; omega) (by simp [decodeOp2B]) rfl

theorem cacc (st c a b) : Reads (.cacc st c a b) :=
  reads decodeOp2B st c 0x2b 0 a b 2 (by show _ + _ = _; simp [word]; omega) (by simp [decodeOp2B]) rfl

theorem cdrain (st c d) : Reads (.cdrain st c d) :=
  reads decodeOp2B st c 0x2b d 0 0 3 (by show _ + _ = _; simp [word]; omega) (by simp [decodeOp2B]) rfl

theorem cclr (st c) : Reads (.cclr st c) :=
  reads decodeOp2B st c 0x2b 0 0 0 4 (by show _ + _ = _; simp [word]; omega) (by simp [decodeOp2B]) rfl

theorem vgathl (st c d a b o) : Reads (.vgathl st c d a b o) :=
  reads decodeOp2C st c 0x2c d a b (Fin.ofNat 64 (o.toNat * 32)) (by have := o.toNat_lt; show _ + _ = _; simp [word]; omega)
    (by cases o <;> simp [decodeOp2C]) rfl

theorem vscatc (st c d a b o m) : Reads (.vscatc st c d a b o m) :=
  reads decodeOp2C st c 0x2c d a b (Fin.ofNat 64 (1 + o.toNat * 32 + m.val * 4))
    (by have := o.toNat_lt; show _ + _ = _; simp [word]; omega) (by cases o <;> fin_cases m <;> simp [decodeOp2C] <;> rfl) rfl

theorem fibdef (st c a) : Reads (.fibdef st c a) :=
  reads decodeOp2C st c 0x2c 0 a 0 2 (by show _ + _ = _; simp [word]; omega) (by simp [decodeOp2C]) rfl

theorem fibend (st c) : Reads (.fibend st c) :=
  reads decodeOp2C st c 0x2c 0 0 0 3 (by show _ + _ = _; simp [word]; omega) (by simp [decodeOp2C]) rfl

theorem ten (st) : Reads (.ten st) :=
  reads decodeOp2D st false 0x2d 0 0 0 0 (by show _ + _ = _; simp [word]; omega) (by simp [decodeOp2D]) rfl

theorem tdis (st) : Reads (.tdis st) :=
  reads decodeOp2D st false 0x2d 0 0 0 1 (by show _ + _ = _; simp [word]; omega) (by simp [decodeOp2D]) rfl

theorem tzero (st p t) : Reads (.tzero st p t) :=
  reads decodeOp2D st false 0x2d (tileField p t) 0 0 2 (by show _ + _ = _; simp [word, tileField]; omega) (by simp [decodeOp2D]) rfl

theorem tmop (st p t a b) : Reads (.tmop st p t a b) :=
  reads decodeOp2E st false 0x2e (tileField p t) a b 0 (by show _ + _ = _; simp [word, tileField]; omega) (by simp [decodeOp2E]) rfl

theorem tmma (st p t a b l o) : Reads (.tmma st p t a b l o) :=
  reads decodeOp2E st false 0x2e (tileField p t) a b (Fin.ofNat 64 (1 + l.toNat * 32 + o.toNat * 16))
    (by have := l.toNat_lt; have := o.toNat_lt; show _ + _ = _; simp [word, tileField]; omega)
    (by cases l <;> cases o <;> simp [decodeOp2E]) rfl

theorem tmms (st p t a b l o) : Reads (.tmms st p t a b l o) :=
  reads decodeOp2F st false 0x2f (tileField p t) a b (Fin.ofNat 64 (l.toNat * 32 + o.toNat * 16))
    (by have := l.toNat_lt; have := o.toNat_lt; show _ + _ = _; simp [word, tileField]; omega)
    (by cases l <;> cases o <;> simp [decodeOp2F]) rfl

theorem tmf64 (st p t a b l o) : Reads (.tmf64 st p t a b l o) :=
  reads decodeOp2F st false 0x2f (tileField p t) a b (Fin.ofNat 64 (1 + l.toNat * 32 + o.toNat * 16))
    (by have := l.toNat_lt; have := o.toNat_lt; show _ + _ = _; simp [word, tileField]; omega)
    (by cases l <;> cases o <;> simp [decodeOp2F]) rfl

theorem tld (st t a o) : Reads (.tld st t a o) :=
  reads decodeOp30 st false 0x30 (tileField 0 t) a 0 (Fin.ofNat 64 (o.toNat * 32))
    (by have := o.toNat_lt; show _ + _ = _; simp [word, tileField]; omega) (by cases o <;> simp [decodeOp30]) rfl

theorem tst (st t a o) : Reads (.tst st t a o) :=
  reads decodeOp30 st false 0x30 (tileField 0 t) a 0 (Fin.ofNat 64 (1 + o.toNat * 32))
    (by have := o.toNat_lt; show _ + _ = _; simp [word, tileField]; omega) (by cases o <;> simp [decodeOp30]) rfl

theorem trowmv (st t a b k) : Reads (.trowmv st t a b k) :=
  reads decodeOp31 st false 0x31 (tileField 0 t) a b (Fin.ofNat 64 (k.toNat * 16))
    (by have := k.toNat_lt; show _ + _ = _; simp [word, tileField]; omega) (by cases k <;> simp [decodeOp31]) rfl

theorem tcolmv (st t a b k) : Reads (.tcolmv st t a b k) :=
  reads decodeOp31 st false 0x31 (tileField 0 t) a b (Fin.ofNat 64 (1 + k.toNat * 16))
    (by have := k.toNat_lt; show _ + _ = _; simp [word, tileField]; omega) (by cases k <;> simp [decodeOp31]) rfl

theorem tvmv (st t a k) : Reads (.tvmv st t a k) :=
  reads decodeOp31 st false 0x31 (tileField 0 t) a 0 (Fin.ofNat 64 (2 + k.toNat * 16))
    (by have := k.toNat_lt; show _ + _ = _; simp [word, tileField]; omega) (by cases k <;> simp [decodeOp31]) rfl

theorem wbld (st a b) : Reads (.wbld st a b) :=
  reads decodeOp32 st false 0x32 0 a b 0 (by show _ + _ = _; simp [word]; omega) (by simp [decodeOp32]) rfl

theorem wbfmt (st a) : Reads (.wbfmt st a) :=
  reads decodeOp32 st false 0x32 0 a 0 1 (by show _ + _ = _; simp [word]; omega) (by simp [decodeOp32]) rfl

theorem tchk (st a) : Reads (.tchk st a) :=
  reads decodeOp32 st false 0x32 0 a 0 2 (by show _ + _ = _; simp [word]; omega) (by simp [decodeOp32]) rfl

theorem tchkrd (st a) : Reads (.tchkrd st a) :=
  reads decodeOp32 st false 0x32 0 a 0 3 (by show _ + _ = _; simp [word]; omega) (by simp [decodeOp32]) rfl

theorem cpy (st d a u t) : Reads (.cpy st d a u t) :=
  reads decodeOp33 st false 0x33 d a 0 (Fin.ofNat 64 (u.toNat * 32 + t.toNat * 16))
    (by have := u.toNat_lt; have := t.toNat_lt; show _ + _ = _; simp [word]; omega)
    (by cases u <;> cases t <;> simp [decodeOp33]) rfl

theorem cpy2 (st d a u t) : Reads (.cpy2 st d a u t) :=
  reads decodeOp33 st false 0x33 d a 0 (Fin.ofNat 64 (1 + u.toNat * 32 + t.toNat * 16))
    (by have := u.toNat_lt; have := t.toNat_lt; show _ + _ = _; simp [word]; omega)
    (by cases u <;> cases t <;> simp [decodeOp33]) rfl

theorem cpyt (st d a b u t) : Reads (.cpyt st d a b u t) :=
  reads decodeOp33 st false 0x33 d a b (Fin.ofNat 64 (2 + u.toNat * 32 + t.toNat * 16))
    (by have := u.toNat_lt; have := t.toNat_lt; show _ + _ = _; simp [word]; omega)
    (by cases u <;> cases t <;> simp [decodeOp33]) rfl

theorem cpyr (st d a u t) : Reads (.cpyr st d a u t) :=
  reads decodeOp33 st false 0x33 d a 0 (Fin.ofNat 64 (3 + u.toNat * 32 + t.toNat * 16))
    (by have := u.toNat_lt; have := t.toNat_lt; show _ + _ = _; simp [word]; omega)
    (by cases u <;> cases t <;> simp [decodeOp33]) rfl

theorem cpym (st d a u t) : Reads (.cpym st d a u t) :=
  reads decodeOp33 st false 0x33 d a 0 (Fin.ofNat 64 (4 + u.toNat * 32 + t.toNat * 16))
    (by have := u.toNat_lt; have := t.toNat_lt; show _ + _ = _; simp [word]; omega)
    (by cases u <;> cases t <;> simp [decodeOp33]) rfl

theorem cpyx (st d a u t) : Reads (.cpyx st d a u t) :=
  reads decodeOp33 st false 0x33 d a 0 (Fin.ofNat 64 (5 + u.toNat * 32 + t.toNat * 16))
    (by have := u.toNat_lt; have := t.toNat_lt; show _ + _ = _; simp [word]; omega)
    (by cases u <;> cases t <;> simp [decodeOp33]) rfl

theorem cpyfill (st d a u) : Reads (.cpyfill st d a u) :=
  reads decodeOp33 st false 0x33 d a 0 (Fin.ofNat 64 (6 + u.toNat * 32)) (by have := u.toNat_lt; show _ + _ = _; simp [word]; omega)
    (by cases u <;> simp [decodeOp33]) rfl

theorem cpybc (st d a u t) : Reads (.cpybc st d a u t) :=
  reads decodeOp33 st false 0x33 d a 0 (Fin.ofNat 64 (7 + u.toNat * 32 + t.toNat * 16))
    (by have := u.toNat_lt; have := t.toNat_lt; show _ + _ = _; simp [word]; omega)
    (by cases u <;> cases t <;> simp [decodeOp33]) rfl

theorem fence (st k) : Reads (.fence st k) :=
  reads decodeOp36 st false 0x36 0 0 0 (Fin.ofNat 64 (k.val * 8)) (by show _ + _ = _; simp [word]; omega)
    (by fin_cases k <;> simp [decodeOp36] <;> rfl) rfl

theorem acq (st k) : Reads (.acq st k) :=
  reads decodeOp36 st false 0x36 0 0 0 (Fin.ofNat 64 (1 + k.val * 8)) (by show _ + _ = _; simp [word]; omega)
    (by fin_cases k <;> simp [decodeOp36] <;> rfl) rfl

theorem rel (st k) : Reads (.rel st k) :=
  reads decodeOp36 st false 0x36 0 0 0 (Fin.ofNat 64 (2 + k.val * 8)) (by show _ + _ = _; simp [word]; omega)
    (by fin_cases k <;> simp [decodeOp36] <;> rfl) rfl

theorem barinit (st a b g) : Reads (.barinit st a b g) :=
  reads decodeOp37 st false 0x37 0 a b (Fin.ofNat 64 (g.toNat * 32)) (by have := g.toNat_lt; show _ + _ = _; simp [word]; omega)
    (by cases g <;> simp [decodeOp37]) rfl

theorem bararr (st a b g) : Reads (.bararr st a b g) :=
  reads decodeOp37 st false 0x37 0 a b (Fin.ofNat 64 (1 + g.toNat * 32)) (by have := g.toNat_lt; show _ + _ = _; simp [word]; omega)
    (by cases g <;> simp [decodeOp37]) rfl

theorem barwait (st a g) : Reads (.barwait st a g) :=
  reads decodeOp37 st false 0x37 0 a 0 (Fin.ofNat 64 (2 + g.toNat * 32)) (by have := g.toNat_lt; show _ + _ = _; simp [word]; omega)
    (by cases g <;> simp [decodeOp37]) rfl

theorem wmwait (st a) : Reads (.wmwait st a) :=
  reads decodeOp37 st false 0x37 0 a 0 3 (by show _ + _ = _; simp [word]; omega) (by simp [decodeOp37]) rfl

theorem relrcv (st) : Reads (.relrcv st) :=
  reads decodeOp39 st false 0x39 0 0 0 0 (by show _ + _ = _; simp [word]; omega) (by simp [decodeOp39]) rfl

theorem ckpbeg (st a b) : Reads (.ckpbeg st a b) :=
  reads decodeOp39 st false 0x39 0 a b 1 (by show _ + _ = _; simp [word]; omega) (by simp [decodeOp39]) rfl

theorem ckpseal (st a) : Reads (.ckpseal st a) :=
  reads decodeOp39 st false 0x39 0 a 0 2 (by show _ + _ = _; simp [word]; omega) (by simp [decodeOp39]) rfl

theorem ckpverify (st d a) : Reads (.ckpverify st d a) :=
  reads decodeOp39 st false 0x39 d a 0 3 (by show _ + _ = _; simp [word]; omega) (by simp [decodeOp39]) rfl

theorem ckpabort (st) : Reads (.ckpabort st) :=
  reads decodeOp39 st false 0x39 0 0 0 4 (by show _ + _ = _; simp [word]; omega) (by simp [decodeOp39]) rfl

theorem rprd (st d b) : Reads (.rprd st d b) :=
  reads decodeOp39 st false 0x39 d 0 b 5 (by show _ + _ = _; simp [word]; omega) (by simp [decodeOp39]) rfl

theorem launch (st a) : Reads (.launch st a) :=
  reads decodeOp3A st false 0x3a 0 a 0 0 (by show _ + _ = _; simp [word]; omega) (by simp [decodeOp3A]) rfl

theorem launchn (st d a) : Reads (.launchn st d a) :=
  reads decodeOp3A st false 0x3a d a 0 1 (by show _ + _ = _; simp [word]; omega) (by simp [decodeOp3A]) rfl

theorem cancel (st a b) : Reads (.cancel st a b) :=
  reads decodeOp3A st false 0x3a 0 a b 2 (by show _ + _ = _; simp [word]; omega) (by simp [decodeOp3A]) rfl

theorem cntrd (st d a) : Reads (.cntrd st d a) :=
  reads decodeOp3A st false 0x3a d a 0 3 (by show _ + _ = _; simp [word]; omega) (by simp [decodeOp3A]) rfl

theorem fork (st a b) : Reads (.fork st a b) :=
  reads decodeOp3B st false 0x3b 0 a b 0 (by show _ + _ = _; simp [word]; omega) (by simp [decodeOp3B]) rfl

theorem join (st) : Reads (.join st) :=
  reads decodeOp3B st false 0x3b 0 0 0 1 (by show _ + _ = _; simp [word]; omega) (by simp [decodeOp3B]) rfl

theorem send (st) : Reads (.send st) :=
  reads decodeOp3B st false 0x3b 0 0 0 2 (by show _ + _ = _; simp [word]; omega) (by simp [decodeOp3B]) rfl

theorem yield (st) : Reads (.yield st) :=
  reads decodeOp3B st false 0x3b 0 0 0 3 (by show _ + _ = _; simp [word]; omega) (by simp [decodeOp3B]) rfl

theorem uexit (st) : Reads (.uexit st) :=
  reads decodeOp3B st false 0x3b 0 0 0 4 (by show _ + _ = _; simp [word]; omega) (by simp [decodeOp3B]) rfl

theorem notify (st a) : Reads (.notify st a) :=
  reads decodeOp3B st false 0x3b 0 a 0 5 (by show _ + _ = _; simp [word]; omega) (by simp [decodeOp3B]) rfl

theorem trap (st b) : Reads (.trap st b) :=
  reads decodeOp3C st false 0x3c 0 0 b 0 (by show _ + _ = _; simp [word]; omega) (by simp [decodeOp3C]) rfl

theorem eret (st) : Reads (.eret st) :=
  reads decodeOp3C st false 0x3c 0 0 0 1 (by show _ + _ = _; simp [word]; omega) (by simp [decodeOp3C]) rfl

theorem mcall (st) : Reads (.mcall st) :=
  reads decodeOp3C st false 0x3c 0 0 0 2 (by show _ + _ = _; simp [word]; omega) (by simp [decodeOp3C]) rfl

theorem halt (st) : Reads (.halt st) :=
  reads decodeOp3C st false 0x3c 0 0 0 3 (by show _ + _ = _; simp [word]; omega) (by simp [decodeOp3C]) rfl

theorem vptwr (st a b) : Reads (.vptwr st a b) :=
  reads decodeOp3D st false 0x3d 0 a b 0 (by show _ + _ = _; simp [word]; omega) (by simp [decodeOp3D]) rfl

theorem tlbinv (st a b) : Reads (.tlbinv st a b) :=
  reads decodeOp3D st false 0x3d 0 a b 1 (by show _ + _ = _; simp [word]; omega) (by simp [decodeOp3D]) rfl

theorem ctxsave (st a) : Reads (.ctxsave st a) :=
  reads decodeOp3D st false 0x3d 0 a 0 2 (by show _ + _ = _; simp [word]; omega) (by simp [decodeOp3D]) rfl

theorem ctxrest (st a) : Reads (.ctxrest st a) :=
  reads decodeOp3D st false 0x3d 0 a 0 3 (by show _ + _ = _; simp [word]; omega) (by simp [decodeOp3D]) rfl

theorem brk (st b) : Reads (.brk st b) :=
  reads decodeOp3E st false 0x3e 0 0 b 0 (by show _ + _ = _; simp [word]; omega) (by simp [decodeOp3E]) rfl

theorem tmark (st a) : Reads (.tmark st a) :=
  reads decodeOp3E st false 0x3e 0 a 0 1 (by show _ + _ = _; simp [word]; omega) (by simp [decodeOp3E]) rfl

theorem smpl (st a) : Reads (.smpl st a) :=
  reads decodeOp3E st false 0x3e 0 a 0 2 (by show _ + _ = _; simp [word]; omega) (by simp [decodeOp3E]) rfl

/-- Every instruction word is read as the instruction that it encodes. -/
theorem reads_of_isWord (i : Instr) (isWord : i.isWord = true) : Reads i := by
  cases i with
  | add st d a b => exact add st d a b
  | sub st d a b => exact sub st d a b
  | and st d a b => exact and st d a b
  | or st d a b => exact or st d a b
  | xor st d a b => exact xor st d a b
  | sll st d a b => exact sll st d a b
  | srl st d a b => exact srl st d a b
  | sra st d a b => exact sra st d a b
  | slt st d a b => exact slt st d a b
  | sltn st d a b => exact sltn st d a b
  | min st d a b => exact min st d a b
  | max st d a b => exact max st d a b
  | minn st d a b => exact minn st d a b
  | maxn st d a b => exact maxn st d a b
  | mul st d a b => exact mul st d a b
  | mulh st d a b => exact mulh st d a b
  | mulhn st d a b => exact mulhn st d a b
  | div st d a b => exact div st d a b
  | divn st d a b => exact divn st d a b
  | rem st d a b => exact rem st d a b
  | remn st d a b => exact remn st d a b
  | bext st d a b => exact bext st d a b
  | bins st d a b => exact bins st d a b
  | clz st d a => exact clz st d a
  | ctz st d a => exact ctz st d a
  | popc st d a => exact popc st d a
  | slli st d a n h => exact slli st d a n h
  | srli st d a n h => exact srli st d a n h
  | srai st d a n h => exact srai st d a n h
  | addi st d a imm => exact addi st d a imm
  | andi st d a imm => exact andi st d a imm
  | ori st d a imm => exact ori st d a imm
  | xori st d a imm => exact xori st d a imm
  | lih st d imm => exact lih st d imm
  | adpc st d imm => exact adpc st d imm
  | ld8 st d a off => exact ld8 st d a off
  | ld16 st d a off => exact ld16 st d a off
  | ld32 st d a off => exact ld32 st d a off
  | ld64 st d a off => exact ld64 st d a off
  | ld8N st d a off => exact ld8N st d a off
  | ld16N st d a off => exact ld16N st d a off
  | ld32N st d a off => exact ld32N st d a off
  | st8 st d a off => exact st8 st d a off
  | st16 st d a off => exact st16 st d a off
  | st32 st d a off => exact st32 st d a off
  | st64 st d a off => exact st64 st d a off
  | ldl st d a => exact ldl st d a
  | stc st d a b => exact stc st d a b
  | jal st off => exact jal st off
  | beq st d a off => exact beq st d a off
  | bne st d a off => exact bne st d a off
  | blt st d a off => exact blt st d a off
  | bge st d a off => exact bge st d a off
  | bltn st d a off => exact bltn st d a off
  | bgen st d a off => exact bgen st d a off
  | jalr st d a => exact jalr st d a
  | wait st d a => exact wait st d a
  | setvl st d a => exact setvl st d a
  | setvt st d a => exact setvt st d a
  | nop st => exact nop st
  | rdc st d r => exact rdc st d r
  | wrc st d r => exact wrc st d r
  | vadd st c d a b x => exact vadd st c d a b x
  | vsub st c d a b x => exact vsub st c d a b x
  | vmin st c d a b x => exact vmin st c d a b x
  | vmax st c d a b x => exact vmax st c d a b x
  | vaddsat st c d a b x => exact vaddsat st c d a b x
  | vsubsat st c d a b x => exact vsubsat st c d a b x
  | vabs st c d a => exact vabs st c d a
  | vneg st c d a => exact vneg st c d a
  | vand st c d a b x => exact vand st c d a b x
  | vor st c d a b x => exact vor st c d a b x
  | vxor st c d a b x => exact vxor st c d a b x
  | vsll st c d a b x => exact vsll st c d a b x
  | vsrl st c d a b x => exact vsrl st c d a b x
  | vsra st c d a b x => exact vsra st c d a b x
  | vmul st c d a b x => exact vmul st c d a b x
  | vmulh st c d a b x => exact vmulh st c d a b x
  | vmadd st c d a b x => exact vmadd st c d a b x
  | vmsub st c d a b x => exact vmsub st c d a b x
  | vnmadd st c d a b x => exact vnmadd st c d a b x
  | vdiv st c d a b x => exact vdiv st c d a b x
  | vwadd st c d a b x => exact vwadd st c d a b x
  | vwmul st c d a b x => exact vwmul st c d a b x
  | vcmp st c d a b x q => exact vcmp st c d a b x q
  | vsel st c d a b x => exact vsel st c d a b x
  | vmv st c d a => exact vmv st c d a
  | vbcast st c d a => exact vbcast st c d a
  | vaddF st c d a b x => exact vaddF st c d a b x
  | vsubF st c d a b x => exact vsubF st c d a b x
  | vminF st c d a b x => exact vminF st c d a b x
  | vmaxF st c d a b x => exact vmaxF st c d a b x
  | vabsF st c d a => exact vabsF st c d a
  | vnegF st c d a => exact vnegF st c d a
  | vmulF st c d a b x => exact vmulF st c d a b x
  | vmaddF st c d a b x => exact vmaddF st c d a b x
  | vmsubF st c d a b x => exact vmsubF st c d a b x
  | vnmaddF st c d a b x => exact vnmaddF st c d a b x
  | vdivF st c d a b x => exact vdivF st c d a b x
  | vwaddF st c d a b x => exact vwaddF st c d a b x
  | vwmulF st c d a b x => exact vwmulF st c d a b x
  | vsqrt st c d a => exact vsqrt st c d a
  | vrcpa st c d a => exact vrcpa st c d a
  | vrsqa st c d a => exact vrsqa st c d a
  | vrcps st c d a b => exact vrcps st c d a b
  | vrsqs st c d a b => exact vrsqs st c d a b
  | vclass st c d a => exact vclass st c d a
  | vcmpF st c d a b x q => exact vcmpF st c d a b x q
  | vcvt st c d a b m => exact vcvt st c d a b m
  | vldsc st c d a b => exact vldsc st c d a b
  | vmvscToScale st c d a => exact vmvscToScale st c d a
  | vmvscFromScale st c d a => exact vmvscFromScale st c d a
  | vapsc st c d a b => exact vapsc st c d a b
  | mand st c d a b => exact mand st c d a b
  | mor st c d a b => exact mor st c d a b
  | mxor st c d a b => exact mxor st c d a b
  | mnot st c d a => exact mnot st c d a
  | msbf st c d a => exact msbf st c d a
  | mset st c d a => exact mset st c d a
  | mpopc st c d a => exact mpopc st c d a
  | mfirst st c d a => exact mfirst st c d a
  | viota st c d a => exact viota st c d a
  | vld st c d a o => exact vld st c d a o
  | vlds st c d a o => exact vlds st c d a o
  | vldx st c d a b o k => exact vldx st c d a b o k
  | vldt st c d a b o => exact vldt st c d a b o
  | vpf st c a o => exact vpf st c a o
  | vst st c d a o n => exact vst st c d a o n
  | vsts st c d a o n => exact vsts st c d a o n
  | vstx st c d a b o n k => exact vstx st c d a b o n k
  | vstxu st c d a b o n k => exact vstxu st c d a b o n k
  | vstt st c d a b o n => exact vstt st c d a b o n
  | vlseg st c d a b o n => exact vlseg st c d a b o n
  | vsseg st c d a b o t n => exact vsseg st c d a b o t n
  | vbind st c d a => exact vbind st c d a
  | vunbind st c d => exact vunbind st c d
  | vperm st c d a b => exact vperm st c d a b
  | vslu st c d a b => exact vslu st c d a b
  | vsld st c d a b => exact vsld st c d a b
  | vcompress st c d a => exact vcompress st c d a
  | vexpand st c d a => exact vexpand st c d a
  | vred st c d a b f p => exact vred st c d a b f p
  | vscan st c d a b f p => exact vscan st c d a b f p
  | vfetch st c a => exact vfetch st c a
  | vpbr st c a => exact vpbr st c a
  | vpend st c => exact vpend st c
  | vpsend st c a => exact vpsend st c a
  | vprecv st c d => exact vprecv st c d
  | vconf st c d a => exact vconf st c d a
  | vcomb st c d a b => exact vcomb st c d a b
  | visect st c d a b => exact visect st c d a b
  | cins st c d a => exact cins st c d a
  | clook st c d a b => exact clook st c d a b
  | cacc st c a b => exact cacc st c a b
  | cdrain st c d => exact cdrain st c d
  | cclr st c => exact cclr st c
  | vgathl st c d a b o => exact vgathl st c d a b o
  | vscatc st c d a b o m => exact vscatc st c d a b o m
  | fibdef st c a => exact fibdef st c a
  | fibend st c => exact fibend st c
  | ten st => exact ten st
  | tdis st => exact tdis st
  | tzero st p t => exact tzero st p t
  | tmop st p t a b => exact tmop st p t a b
  | tmma st p t a b l o => exact tmma st p t a b l o
  | tmms st p t a b l o => exact tmms st p t a b l o
  | tmf64 st p t a b l o => exact tmf64 st p t a b l o
  | tld st t a o => exact tld st t a o
  | tst st t a o => exact tst st t a o
  | trowmv st t a b k => exact trowmv st t a b k
  | tcolmv st t a b k => exact tcolmv st t a b k
  | tvmv st t a k => exact tvmv st t a k
  | wbld st a b => exact wbld st a b
  | wbfmt st a => exact wbfmt st a
  | tchk st a => exact tchk st a
  | tchkrd st a => exact tchkrd st a
  | cpy st d a u t => exact cpy st d a u t
  | cpy2 st d a u t => exact cpy2 st d a u t
  | cpyt st d a b u t => exact cpyt st d a b u t
  | cpyr st d a u t => exact cpyr st d a u t
  | cpym st d a u t => exact cpym st d a u t
  | cpyx st d a u t => exact cpyx st d a u t
  | cpyfill st d a u => exact cpyfill st d a u
  | cpybc st d a u t => exact cpybc st d a u t
  | fence st k => exact fence st k
  | acq st k => exact acq st k
  | rel st k => exact rel st k
  | barinit st a b g => exact barinit st a b g
  | bararr st a b g => exact bararr st a b g
  | barwait st a g => exact barwait st a g
  | wmwait st a => exact wmwait st a
  | relrcv st => exact relrcv st
  | ckpbeg st a b => exact ckpbeg st a b
  | ckpseal st a => exact ckpseal st a
  | ckpverify st d a => exact ckpverify st d a
  | ckpabort st => exact ckpabort st
  | rprd st d b => exact rprd st d b
  | launch st a => exact launch st a
  | launchn st d a => exact launchn st d a
  | cancel st a b => exact cancel st a b
  | cntrd st d a => exact cntrd st d a
  | fork st a b => exact fork st a b
  | join st => exact join st
  | send st => exact send st
  | yield st => exact yield st
  | uexit st => exact uexit st
  | notify st a => exact notify st a
  | trap st b => exact trap st b
  | eret st => exact eret st
  | mcall st => exact mcall st
  | halt st => exact halt st
  | vptwr st a b => exact vptwr st a b
  | tlbinv st a b => exact tlbinv st a b
  | ctxsave st a => exact ctxsave st a
  | ctxrest st a => exact ctxrest st a
  | brk st b => exact brk st b
  | tmark st a => exact tmark st a
  | smpl st a => exact smpl st a
  | _ => cases isWord

/-- Settles O1: the word of an instruction stands in the instruction's row, and what is well formed passes the checks. -/
theorem decodeOfEncode : Obligations.DecodeOfEncode :=
  fun i isWord wf => decodeWord_ok_iff.2 ⟨reads_of_isWord i isWord, wf⟩

/-! ### A word is that of the instruction it is read as -/

/-- Whatever instruction is found has the word w. -/
def FindsOf (w : Nat) (o : Option Instr) : Prop := ∀ i, o = some i → i.isWord = true ∧ encode i = w

theorem findsOf_none (w : Nat) : FindsOf w none := nofun

/-- A row that is tested first. -/
theorem findsOf_ite {w : Nat} {c : Bool} {j : Instr} {rest : Option Instr} (here : c = true → j.isWord = true ∧ encode j = w)
    (next : FindsOf w rest) : FindsOf w (if c then some j else rest) := by
  intro i found
  split at found
  case isTrue hc => cases found; exact here hc
  case isFalse => exact next i found

theorem val_ofNat_fld (w lo n : Nat) : (Fin.ofNat (2 ^ n) (fld w lo n)).val = fld w lo n := by simp [fld]

@[simp] theorem val_ofNat_fld2 (w lo : Nat) : (Fin.ofNat 4 (fld w lo 2)).val = fld w lo 2 := val_ofNat_fld w lo 2
@[simp] theorem val_ofNat_fld3 (w lo : Nat) : (Fin.ofNat 8 (fld w lo 3)).val = fld w lo 3 := val_ofNat_fld w lo 3
@[simp] theorem val_ofNat_fld4 (w lo : Nat) : (Fin.ofNat 16 (fld w lo 4)).val = fld w lo 4 := val_ofNat_fld w lo 4
@[simp] theorem val_ofNat_fld5 (w lo : Nat) : (Fin.ofNat 32 (fld w lo 5)).val = fld w lo 5 := val_ofNat_fld w lo 5
@[simp] theorem val_ofNat_fld10 (w lo : Nat) : (Fin.ofNat 1024 (fld w lo 10)).val = fld w lo 10 := val_ofNat_fld w lo 10

@[simp] theorem toNat_ofNat_fld (w lo n : Nat) : (BitVec.ofNat n (fld w lo n)).toNat = fld w lo n := by simp [fld]

@[simp] theorem toNat_flag (w lo : Nat) : (flag w lo).toNat = fld w lo 1 := by
  rcases Nat.mod_two_eq_zero_or_one (w / 2 ^ lo) with h | h <;> simp [flag, fld, h]

theorem fld_split (w : Nat) (lo n k : Nat) : fld w lo (n + k) = fld w (lo + n) k * 2 ^ n + fld w lo n := by
  simp only [fld, Nat.pow_add, Nat.mod_mul, Nat.div_div_eq_div_mul]; ring

/-- A word is the sum of the fields of 02 Table 2.1. -/
theorem word_split {w : Nat} (h : w < 2 ^ 32) : w = fld w 28 4 * 268435456 + fld w 27 1 * 134217728 + fld w 21 6 * 2097152 +
    fld w 16 5 * 65536 + fld w 11 5 * 2048 + fld w 6 5 * 64 + fld w 0 6 := by
  simp only [fld]; omega

/-- The fields of the other formats (02 Tables 2.2 to 2.7) in those of Table 2.1: wide ones above bit 5, and parts of D and B. -/
theorem wide_split (w : Nat) : fld w 0 9 = fld w 6 3 * 64 + fld w 0 6 ∧ fld w 0 11 = fld w 6 5 * 64 + fld w 0 6 ∧
    fld w 0 16 = fld w 11 5 * 2048 + fld w 0 11 ∧ fld w 0 21 = fld w 16 5 * 65536 + fld w 0 16 ∧
    fld w 6 10 = fld w 11 5 * 32 + fld w 6 5 ∧ fld w 6 5 = fld w 9 2 * 8 + fld w 6 3 ∧ fld w 16 5 = fld w 19 2 * 8 + fld w 16 3 :=
  ⟨fld_split w 0 6 3, fld_split w 0 6 5, fld_split w 0 11 5, fld_split w 0 16 5, fld_split w 6 5 5, fld_split w 6 3 2,
    fld_split w 16 3 2⟩

/-- The parts of bits 5 to 0. -/
theorem low_split (w : Nat) : fld w 0 6 = fld w 5 1 * 32 + fld w 0 5 ∧ fld w 0 5 = fld w 4 1 * 16 + fld w 0 4 ∧
    fld w 0 4 = fld w 3 1 * 8 + fld w 0 3 ∧ fld w 0 6 = fld w 3 3 * 8 + fld w 0 3 ∧ fld w 0 6 = fld w 4 2 * 16 + fld w 0 4 ∧
    fld w 3 2 = fld w 4 1 * 2 + fld w 3 1 ∧ fld w 0 5 = fld w 2 3 * 4 + fld w 0 2 ∧ fld w 0 6 = fld w 1 5 * 2 + fld w 0 1 :=
  ⟨fld_split w 0 5 1, fld_split w 0 4 1, fld_split w 0 3 1, fld_split w 0 3 3, fld_split w 0 4 2, fld_split w 3 1 1,
    fld_split w 0 2 3, fld_split w 0 1 5⟩

/-! ### The rows of each OP: a word found in one has all its bits in the fields and checks of the row (02 R26, R40) -/

theorem findsOf_01 {w : Nat} (h : w < 2 ^ 32) (op : fld w 21 6 = 0x01) : FindsOf w (decodeOp01 w) := by
  have whole := word_split h
  have part : fld w 0 6 = fld w 1 5 * 2 + fld w 0 1 := fld_split w 0 1 5
  delta decodeOp01
  repeat' refine findsOf_ite (fun row => ⟨rfl, ?_⟩) ?_
  on_goal -1 => exact findsOf_none w
  all_goals
    show _ + _ = w
    simp only [Bool.and_eq_true, beq_iff_eq, val_ofNat_fld4, val_ofNat_fld5, toNat_flag] at row ⊢
    omega

theorem findsOf_02 {w : Nat} (h : w < 2 ^ 32) (op : fld w 21 6 = 0x02) : FindsOf w (decodeOp02 w) := by
  have whole := word_split h
  have part : fld w 0 11 = fld w 6 5 * 64 + fld w 0 6 := fld_split w 0 6 5
  delta decodeOp02
  repeat' refine findsOf_ite (fun row => ⟨rfl, ?_⟩) ?_
  on_goal -1 => exact findsOf_none w
  all_goals
    show _ + _ = w
    simp only [beq_iff_eq, val_ofNat_fld4, val_ofNat_fld5, toNat_ofNat_fld] at row ⊢
    omega

theorem findsOf_03 {w : Nat} (h : w < 2 ^ 32) (op : fld w 21 6 = 0x03) : FindsOf w (decodeOp03 w) := by
  have whole := word_split h
  have part : fld w 0 11 = fld w 6 5 * 64 + fld w 0 6 := fld_split w 0 6 5
  delta decodeOp03
  repeat' refine findsOf_ite (fun row => ⟨rfl, ?_⟩) ?_
  on_goal -1 => exact findsOf_none w
  all_goals
    show _ + _ = w
    simp only [beq_iff_eq, val_ofNat_fld4, val_ofNat_fld5, toNat_ofNat_fld] at row ⊢
    omega

theorem findsOf_04 {w : Nat} (h : w < 2 ^ 32) (op : fld w 21 6 = 0x04) : FindsOf w (decodeOp04 w) := by
  have whole := word_split h
  have part : fld w 0 11 = fld w 6 5 * 64 + fld w 0 6 := fld_split w 0 6 5
  delta decodeOp04
  repeat' refine findsOf_ite (fun row => ⟨rfl, ?_⟩) ?_
  on_goal -1 => exact findsOf_none w
  all_goals
    show _ + _ = w
    simp only [beq_iff_eq, val_ofNat_fld4, val_ofNat_fld5, toNat_ofNat_fld] at row ⊢
    omega

theorem findsOf_05 {w : Nat} (h : w < 2 ^ 32) (op : fld w 21 6 = 0x05) : FindsOf w (decodeOp05 w) := by
  have whole := word_split h
  have part : fld w 0 11 = fld w 6 5 * 64 + fld w 0 6 := fld_split w 0 6 5
  delta decodeOp05
  repeat' refine findsOf_ite (fun row => ⟨rfl, ?_⟩) ?_
  on_goal -1 => exact findsOf_none w
  all_goals
    show _ + _ = w
    simp only [beq_iff_eq, val_ofNat_fld4, val_ofNat_fld5, toNat_ofNat_fld] at row ⊢
    omega

theorem findsOf_06 {w : Nat} (h : w < 2 ^ 32) (op : fld w 21 6 = 0x06) : FindsOf w (decodeOp06 w) := by
  have whole := word_split h
  have part₁ : fld w 0 11 = fld w 6 5 * 64 + fld w 0 6 := fld_split w 0 6 5
  have part₂ : fld w 0 16 = fld w 11 5 * 2048 + fld w 0 11 := fld_split w 0 11 5
  delta decodeOp06
  repeat' refine findsOf_ite (fun row => ⟨rfl, ?_⟩) ?_
  on_goal -1 => exact findsOf_none w
  all_goals
    show _ + _ = w
    simp only [beq_iff_eq, val_ofNat_fld4, val_ofNat_fld5, toNat_ofNat_fld] at row ⊢
    omega

theorem findsOf_07 {w : Nat} (h : w < 2 ^ 32) (op : fld w 21 6 = 0x07) : FindsOf w (decodeOp07 w) := by
  have whole := word_split h
  have part₁ : fld w 0 11 = fld w 6 5 * 64 + fld w 0 6 := fld_split w 0 6 5
  have part₂ : fld w 0 16 = fld w 11 5 * 2048 + fld w 0 11 := fld_split w 0 11 5
  delta decodeOp07
  repeat' refine findsOf_ite (fun row => ⟨rfl, ?_⟩) ?_
  on_goal -1 => exact findsOf_none w
  all_goals
    show _ + _ = w
    simp only [beq_iff_eq, val_ofNat_fld4, val_ofNat_fld5, toNat_ofNat_fld] at row ⊢
    omega

theorem findsOf_08 {w : Nat} (h : w < 2 ^ 32) (op : fld w 21 6 = 0x08) : FindsOf w (decodeOp08 w) := by
  have whole := word_split h
  have part₁ : fld w 0 9 = fld w 6 3 * 64 + fld w 0 6 := fld_split w 0 6 3
  have part₂ : fld w 6 5 = fld w 9 2 * 8 + fld w 6 3 := fld_split w 6 3 2
  delta decodeOp08
  repeat' refine findsOf_ite (fun row => ⟨rfl, ?_⟩) ?_
  on_goal -1 => exact findsOf_none w
  all_goals
    show _ + _ = w
    simp only [Bool.and_eq_true, beq_iff_eq, val_ofNat_fld4, val_ofNat_fld5, toNat_ofNat_fld] at row ⊢
    omega

theorem findsOf_09 {w : Nat} (h : w < 2 ^ 32) (op : fld w 21 6 = 0x09) : FindsOf w (decodeOp09 w) := by
  have whole := word_split h
  have part₁ : fld w 0 9 = fld w 6 3 * 64 + fld w 0 6 := fld_split w 0 6 3
  have part₂ : fld w 6 5 = fld w 9 2 * 8 + fld w 6 3 := fld_split w 6 3 2
  delta decodeOp09
  repeat' refine findsOf_ite (fun row => ⟨rfl, ?_⟩) ?_
  on_goal -1 => exact findsOf_none w
  all_goals
    show _ + _ = w
    simp only [Bool.and_eq_true, beq_iff_eq, val_ofNat_fld4, val_ofNat_fld5, toNat_ofNat_fld] at row ⊢
    omega

theorem findsOf_0a {w : Nat} (h : w < 2 ^ 32) (op : fld w 21 6 = 0x0a) : FindsOf w (decodeOp0A w) := by
  have whole := word_split h
  have part₁ : fld w 0 9 = fld w 6 3 * 64 + fld w 0 6 := fld_split w 0 6 3
  have part₂ : fld w 6 5 = fld w 9 2 * 8 + fld w 6 3 := fld_split w 6 3 2
  delta decodeOp0A
  repeat' refine findsOf_ite (fun row => ⟨rfl, ?_⟩) ?_
  on_goal -1 => exact findsOf_none w
  all_goals
    show _ + _ = w
    simp only [Bool.and_eq_true, beq_iff_eq, val_ofNat_fld4, val_ofNat_fld5, toNat_ofNat_fld] at row ⊢
    omega

theorem findsOf_0b {w : Nat} (h : w < 2 ^ 32) (op : fld w 21 6 = 0x0b) : FindsOf w (decodeOp0B w) := by
  have whole := word_split h
  delta decodeOp0B
  repeat' refine findsOf_ite (fun row => ⟨rfl, ?_⟩) ?_
  on_goal -1 => exact findsOf_none w
  all_goals
    show _ + _ = w
    simp only [Bool.and_eq_true, beq_iff_eq, val_ofNat_fld4, val_ofNat_fld5] at row ⊢
    omega

theorem findsOf_0c {w : Nat} (h : w < 2 ^ 32) (op : fld w 21 6 = 0x0c) : FindsOf w (decodeOp0C w) := by
  have whole := word_split h
  have part₁ : fld w 0 11 = fld w 6 5 * 64 + fld w 0 6 := fld_split w 0 6 5
  have part₂ : fld w 0 16 = fld w 11 5 * 2048 + fld w 0 11 := fld_split w 0 11 5
  have part₃ : fld w 0 21 = fld w 16 5 * 65536 + fld w 0 16 := fld_split w 0 16 5
  delta decodeOp0C
  repeat' refine findsOf_ite (fun row => ⟨rfl, ?_⟩) ?_
  on_goal -1 => exact findsOf_none w
  all_goals
    show _ + _ = w
    simp only [beq_iff_eq, val_ofNat_fld4, toNat_ofNat_fld] at row ⊢
    omega

theorem findsOf_0d {w : Nat} (h : w < 2 ^ 32) (op : fld w 21 6 = 0x0d) : FindsOf w (decodeOp0D w) := by
  have whole := word_split h
  have part₁ : fld w 0 9 = fld w 6 3 * 64 + fld w 0 6 := fld_split w 0 6 3
  have part₂ : fld w 6 5 = fld w 9 2 * 8 + fld w 6 3 := fld_split w 6 3 2
  delta decodeOp0D
  repeat' refine findsOf_ite (fun row => ⟨rfl, ?_⟩) ?_
  on_goal -1 => exact findsOf_none w
  all_goals
    show _ + _ = w
    simp only [Bool.and_eq_true, beq_iff_eq, val_ofNat_fld4, val_ofNat_fld5, toNat_ofNat_fld] at row ⊢
    omega

theorem findsOf_0e {w : Nat} (h : w < 2 ^ 32) (op : fld w 21 6 = 0x0e) : FindsOf w (decodeOp0E w) := by
  have whole := word_split h
  have part₁ : fld w 0 9 = fld w 6 3 * 64 + fld w 0 6 := fld_split w 0 6 3
  have part₂ : fld w 6 5 = fld w 9 2 * 8 + fld w 6 3 := fld_split w 6 3 2
  delta decodeOp0E
  repeat' refine findsOf_ite (fun row => ⟨rfl, ?_⟩) ?_
  on_goal -1 => exact findsOf_none w
  all_goals
    show _ + _ = w
    simp only [Bool.and_eq_true, beq_iff_eq, val_ofNat_fld4, val_ofNat_fld5, toNat_ofNat_fld] at row ⊢
    omega

theorem findsOf_0f {w : Nat} (h : w < 2 ^ 32) (op : fld w 21 6 = 0x0f) : FindsOf w (decodeOp0F w) := by
  have whole := word_split h
  have part : fld w 6 10 = fld w 11 5 * 32 + fld w 6 5 := fld_split w 6 5 5
  delta decodeOp0F
  repeat' refine findsOf_ite (fun row => ⟨rfl, ?_⟩) ?_
  on_goal -1 => exact findsOf_none w
  all_goals
    show _ + _ = w
    simp only [Bool.and_eq_true, beq_iff_eq, val_ofNat_fld4, val_ofNat_fld5, val_ofNat_fld10] at row ⊢
    omega

theorem findsOf_10 {w : Nat} (h : w < 2 ^ 32) (op : fld w 21 6 = 0x10) : FindsOf w (decodeOp10 w) := by
  have whole := word_split h
  have part : fld w 0 6 = fld w 5 1 * 32 + fld w 0 5 := fld_split w 0 5 1
  delta decodeOp10
  repeat' refine findsOf_ite (fun row => ⟨rfl, ?_⟩) ?_
  on_goal -1 => exact findsOf_none w
  all_goals
    show _ + _ = w
    simp only [Bool.and_eq_true, beq_iff_eq, val_ofNat_fld4, val_ofNat_fld5, toNat_flag] at row ⊢
    omega

theorem findsOf_11 {w : Nat} (h : w < 2 ^ 32) (op : fld w 21 6 = 0x11) : FindsOf w (decodeOp11 w) := by
  have whole := word_split h
  have part : fld w 0 6 = fld w 5 1 * 32 + fld w 0 5 := fld_split w 0 5 1
  delta decodeOp11
  repeat' refine findsOf_ite (fun row => ⟨rfl, ?_⟩) ?_
  on_goal -1 => exact findsOf_none w
  all_goals
    show _ + _ = w
    simp only [beq_iff_eq, val_ofNat_fld4, val_ofNat_fld5, toNat_flag] at row ⊢
    omega

theorem findsOf_12 {w : Nat} (h : w < 2 ^ 32) (op : fld w 21 6 = 0x12) : FindsOf w (decodeOp12 w) := by
  have whole := word_split h
  have part : fld w 0 6 = fld w 5 1 * 32 + fld w 0 5 := fld_split w 0 5 1
  delta decodeOp12
  repeat' refine findsOf_ite (fun row => ⟨rfl, ?_⟩) ?_
  on_goal -1 => exact findsOf_none w
  all_goals
    show _ + _ = w
    simp only [beq_iff_eq, val_ofNat_fld4, val_ofNat_fld5, toNat_flag] at row ⊢
    omega

theorem findsOf_13 {w : Nat} (h : w < 2 ^ 32) (op : fld w 21 6 = 0x13) : FindsOf w (decodeOp13 w) := by
  have whole := word_split h
  have part₁ : fld w 0 6 = fld w 5 1 * 32 + fld w 0 5 := fld_split w 0 5 1
  have part₂ : fld w 0 5 = fld w 2 3 * 4 + fld w 0 2 := fld_split w 0 2 3
  delta decodeOp13
  repeat' refine findsOf_ite (fun row => ⟨rfl, ?_⟩) ?_
  on_goal -1 => exact findsOf_none w
  all_goals
    show _ + _ = w
    simp only [beq_iff_eq, val_ofNat_fld2, val_ofNat_fld4, val_ofNat_fld5, toNat_flag] at row ⊢
    omega

theorem findsOf_14 {w : Nat} (h : w < 2 ^ 32) (op : fld w 21 6 = 0x14) : FindsOf w (decodeOp14 w) := by
  have whole := word_split h
  have part : fld w 0 6 = fld w 5 1 * 32 + fld w 0 5 := fld_split w 0 5 1
  delta decodeOp14
  repeat' refine findsOf_ite (fun row => ⟨rfl, ?_⟩) ?_
  on_goal -1 => exact findsOf_none w
  all_goals
    show _ + _ = w
    simp only [Bool.and_eq_true, beq_iff_eq, val_ofNat_fld4, val_ofNat_fld5, toNat_flag] at row ⊢
    omega

theorem findsOf_18 {w : Nat} (h : w < 2 ^ 32) (op : fld w 21 6 = 0x18) : FindsOf w (decodeOp18 w) := by
  have whole := word_split h
  have part : fld w 0 6 = fld w 5 1 * 32 + fld w 0 5 := fld_split w 0 5 1
  delta decodeOp18
  repeat' refine findsOf_ite (fun row => ⟨rfl, ?_⟩) ?_
  on_goal -1 => exact findsOf_none w
  all_goals
    show _ + _ = w
    simp only [Bool.and_eq_true, beq_iff_eq, val_ofNat_fld4, val_ofNat_fld5, toNat_flag] at row ⊢
    omega

theorem findsOf_19 {w : Nat} (h : w < 2 ^ 32) (op : fld w 21 6 = 0x19) : FindsOf w (decodeOp19 w) := by
  have whole := word_split h
  have part : fld w 0 6 = fld w 5 1 * 32 + fld w 0 5 := fld_split w 0 5 1
  delta decodeOp19
  repeat' refine findsOf_ite (fun row => ⟨rfl, ?_⟩) ?_
  on_goal -1 => exact findsOf_none w
  all_goals
    show _ + _ = w
    simp only [beq_iff_eq, val_ofNat_fld4, val_ofNat_fld5, toNat_flag] at row ⊢
    omega

theorem findsOf_1a {w : Nat} (h : w < 2 ^ 32) (op : fld w 21 6 = 0x1a) : FindsOf w (decodeOp1A w) := by
  have whole := word_split h
  delta decodeOp1A
  repeat' refine findsOf_ite (fun row => ⟨rfl, ?_⟩) ?_
  on_goal -1 => exact findsOf_none w
  all_goals
    show _ + _ = w
    simp only [Bool.and_eq_true, beq_iff_eq, val_ofNat_fld4, val_ofNat_fld5, toNat_flag] at row ⊢
    omega

theorem findsOf_1b {w : Nat} (h : w < 2 ^ 32) (op : fld w 21 6 = 0x1b) : FindsOf w (decodeOp1B w) := by
  have whole := word_split h
  have part₁ : fld w 0 6 = fld w 5 1 * 32 + fld w 0 5 := fld_split w 0 5 1
  have part₂ : fld w 0 5 = fld w 2 3 * 4 + fld w 0 2 := fld_split w 0 2 3
  delta decodeOp1B
  repeat' refine findsOf_ite (fun row => ⟨rfl, ?_⟩) ?_
  on_goal -1 => exact findsOf_none w
  all_goals
    show _ + _ = w
    simp only [beq_iff_eq, val_ofNat_fld2, val_ofNat_fld4, val_ofNat_fld5, toNat_flag] at row ⊢
    omega

theorem findsOf_1c {w : Nat} (h : w < 2 ^ 32) (op : fld w 21 6 = 0x1c) : FindsOf w (decodeOp1C w) := by
  have whole := word_split h
  have part : fld w 0 6 = fld w 3 3 * 8 + fld w 0 3 := fld_split w 0 3 3
  delta decodeOp1C
  repeat' refine findsOf_ite (fun row => ⟨rfl, ?_⟩) ?_
  on_goal -1 => exact findsOf_none w
  all_goals
    show _ + _ = w
    simp only [beq_iff_eq, val_ofNat_fld3, val_ofNat_fld4, val_ofNat_fld5, toNat_flag] at row ⊢
    omega

theorem findsOf_1d {w : Nat} (h : w < 2 ^ 32) (op : fld w 21 6 = 0x1d) : FindsOf w (decodeOp1D w) := by
  have whole := word_split h
  delta decodeOp1D
  repeat' refine findsOf_ite (fun row => ⟨rfl, ?_⟩) ?_
  on_goal -1 => exact findsOf_none w
  all_goals
    show _ + _ = w
    simp only [Bool.and_eq_true, beq_iff_eq, val_ofNat_fld4, val_ofNat_fld5, toNat_flag] at row ⊢
    omega

theorem findsOf_1e {w : Nat} (h : w < 2 ^ 32) (op : fld w 21 6 = 0x1e) : FindsOf w (decodeOp1E w) := by
  have whole := word_split h
  delta decodeOp1E
  repeat' refine findsOf_ite (fun row => ⟨rfl, ?_⟩) ?_
  on_goal -1 => exact findsOf_none w
  all_goals
    show _ + _ = w
    simp only [Bool.and_eq_true, beq_iff_eq, val_ofNat_fld4, val_ofNat_fld5, toNat_flag] at row ⊢
    omega

theorem findsOf_1f {w : Nat} (h : w < 2 ^ 32) (op : fld w 21 6 = 0x1f) : FindsOf w (decodeOp1F w) := by
  have whole := word_split h
  delta decodeOp1F
  repeat' refine findsOf_ite (fun row => ⟨rfl, ?_⟩) ?_
  on_goal -1 => exact findsOf_none w
  all_goals
    show _ + _ = w
    simp only [Bool.and_eq_true, beq_iff_eq, val_ofNat_fld4, val_ofNat_fld5, toNat_flag] at row ⊢
    omega

theorem findsOf_20 {w : Nat} (h : w < 2 ^ 32) (op : fld w 21 6 = 0x20) : FindsOf w (decodeOp20 w) := by
  have whole := word_split h
  have part₁ : fld w 0 6 = fld w 5 1 * 32 + fld w 0 5 := fld_split w 0 5 1
  have part₂ : fld w 0 5 = fld w 4 1 * 16 + fld w 0 4 := fld_split w 0 4 1
  have part₃ : fld w 0 4 = fld w 3 1 * 8 + fld w 0 3 := fld_split w 0 3 1
  delta decodeOp20
  repeat' refine findsOf_ite (fun row => ⟨rfl, ?_⟩) ?_
  on_goal -1 => exact findsOf_none w
  all_goals
    show _ + _ = w
    simp only [Bool.and_eq_true, beq_iff_eq, val_ofNat_fld4, val_ofNat_fld5, toNat_flag] at row ⊢
    omega

theorem findsOf_21 {w : Nat} (h : w < 2 ^ 32) (op : fld w 21 6 = 0x21) : FindsOf w (decodeOp21 w) := by
  have whole := word_split h
  have part₁ : fld w 0 6 = fld w 5 1 * 32 + fld w 0 5 := fld_split w 0 5 1
  have part₂ : fld w 0 5 = fld w 4 1 * 16 + fld w 0 4 := fld_split w 0 4 1
  have part₃ : fld w 0 4 = fld w 3 1 * 8 + fld w 0 3 := fld_split w 0 3 1
  delta decodeOp21
  repeat' refine findsOf_ite (fun row => ⟨rfl, ?_⟩) ?_
  on_goal -1 => exact findsOf_none w
  all_goals
    show _ + _ = w
    simp only [Bool.and_eq_true, beq_iff_eq, val_ofNat_fld4, val_ofNat_fld5, toNat_flag] at row ⊢
    omega

theorem findsOf_22 {w : Nat} (h : w < 2 ^ 32) (op : fld w 21 6 = 0x22) : FindsOf w (decodeOp22 w) := by
  have whole := word_split h
  have part₁ : fld w 0 6 = fld w 5 1 * 32 + fld w 0 5 := fld_split w 0 5 1
  have part₂ : fld w 0 5 = fld w 4 1 * 16 + fld w 0 4 := fld_split w 0 4 1
  have part₃ : fld w 0 4 = fld w 3 1 * 8 + fld w 0 3 := fld_split w 0 3 1
  have part₄ : fld w 3 2 = fld w 4 1 * 2 + fld w 3 1 := fld_split w 3 1 1
  delta decodeOp22
  repeat' refine findsOf_ite (fun row => ⟨rfl, ?_⟩) ?_
  on_goal -1 => exact findsOf_none w
  all_goals
    show _ + _ = w
    simp only [beq_iff_eq, val_ofNat_fld3, val_ofNat_fld4, val_ofNat_fld5, toNat_flag] at row ⊢
    omega

theorem findsOf_23 {w : Nat} (h : w < 2 ^ 32) (op : fld w 21 6 = 0x23) : FindsOf w (decodeOp23 w) := by
  have whole := word_split h
  delta decodeOp23
  repeat' refine findsOf_ite (fun row => ⟨rfl, ?_⟩) ?_
  on_goal -1 => exact findsOf_none w
  all_goals
    show _ + _ = w
    simp only [Bool.and_eq_true, beq_iff_eq, val_ofNat_fld4, val_ofNat_fld5, toNat_flag] at row ⊢
    omega

theorem findsOf_26 {w : Nat} (h : w < 2 ^ 32) (op : fld w 21 6 = 0x26) : FindsOf w (decodeOp26 w) := by
  have whole := word_split h
  delta decodeOp26
  repeat' refine findsOf_ite (fun row => ⟨rfl, ?_⟩) ?_
  on_goal -1 => exact findsOf_none w
  all_goals
    show _ + _ = w
    simp only [Bool.and_eq_true, beq_iff_eq, val_ofNat_fld4, val_ofNat_fld5, toNat_flag] at row ⊢
    omega

theorem findsOf_27 {w : Nat} (h : w < 2 ^ 32) (op : fld w 21 6 = 0x27) : FindsOf w (decodeOp27 w) := by
  have whole := word_split h
  have part₁ : fld w 0 6 = fld w 4 2 * 16 + fld w 0 4 := fld_split w 0 4 2
  have part₂ : fld w 0 4 = fld w 3 1 * 8 + fld w 0 3 := fld_split w 0 3 1
  delta decodeOp27
  repeat' refine findsOf_ite (fun row => ⟨rfl, ?_⟩) ?_
  on_goal -1 => exact findsOf_none w
  all_goals
    show _ + _ = w
    simp only [beq_iff_eq, val_ofNat_fld3, val_ofNat_fld4, val_ofNat_fld5, toNat_flag] at row ⊢
    omega

theorem findsOf_28 {w : Nat} (h : w < 2 ^ 32) (op : fld w 21 6 = 0x28) : FindsOf w (decodeOp28 w) := by
  have whole := word_split h
  delta decodeOp28
  repeat' refine findsOf_ite (fun row => ⟨rfl, ?_⟩) ?_
  on_goal -1 => exact findsOf_none w
  all_goals
    show _ + _ = w
    simp only [Bool.and_eq_true, beq_iff_eq, val_ofNat_fld4, val_ofNat_fld5, toNat_flag] at row ⊢
    omega

theorem findsOf_2a {w : Nat} (h : w < 2 ^ 32) (op : fld w 21 6 = 0x2a) : FindsOf w (decodeOp2A w) := by
  have whole := word_split h
  delta decodeOp2A
  repeat' refine findsOf_ite (fun row => ⟨rfl, ?_⟩) ?_
  on_goal -1 => exact findsOf_none w
  all_goals
    show _ + _ = w
    simp only [Bool.and_eq_true, beq_iff_eq, val_ofNat_fld4, val_ofNat_fld5, toNat_flag] at row ⊢
    omega

theorem findsOf_2b {w : Nat} (h : w < 2 ^ 32) (op : fld w 21 6 = 0x2b) : FindsOf w (decodeOp2B w) := by
  have whole := word_split h
  delta decodeOp2B
  repeat' refine findsOf_ite (fun row => ⟨rfl, ?_⟩) ?_
  on_goal -1 => exact findsOf_none w
  all_goals
    show _ + _ = w
    simp only [Bool.and_eq_true, beq_iff_eq, val_ofNat_fld4, val_ofNat_fld5, toNat_flag] at row ⊢
    omega

theorem findsOf_2c {w : Nat} (h : w < 2 ^ 32) (op : fld w 21 6 = 0x2c) : FindsOf w (decodeOp2C w) := by
  have whole := word_split h
  have part₁ : fld w 0 6 = fld w 5 1 * 32 + fld w 0 5 := fld_split w 0 5 1
  have part₂ : fld w 0 5 = fld w 2 3 * 4 + fld w 0 2 := fld_split w 0 2 3
  delta decodeOp2C
  repeat' refine findsOf_ite (fun row => ⟨rfl, ?_⟩) ?_
  on_goal -1 => exact findsOf_none w
  all_goals
    show _ + _ = w
    simp only [Bool.and_eq_true, beq_iff_eq, val_ofNat_fld3, val_ofNat_fld4, val_ofNat_fld5, toNat_flag] at row ⊢
    omega

theorem findsOf_2d {w : Nat} (h : w < 2 ^ 32) (op : fld w 21 6 = 0x2d) : FindsOf w (decodeOp2D w) := by
  have whole := word_split h
  have part : fld w 16 5 = fld w 19 2 * 8 + fld w 16 3 := fld_split w 16 3 2
  delta decodeOp2D
  repeat' refine findsOf_ite (fun row => ⟨rfl, ?_⟩) ?_
  on_goal -1 => exact findsOf_none w
  all_goals
    show _ + _ = w
    simp only [Bool.and_eq_true, beq_iff_eq, val_ofNat_fld2, val_ofNat_fld3, val_ofNat_fld4] at row ⊢
    omega

theorem findsOf_2e {w : Nat} (h : w < 2 ^ 32) (op : fld w 21 6 = 0x2e) : FindsOf w (decodeOp2E w) := by
  have whole := word_split h
  have part₁ : fld w 16 5 = fld w 19 2 * 8 + fld w 16 3 := fld_split w 16 3 2
  have part₂ : fld w 0 6 = fld w 5 1 * 32 + fld w 0 5 := fld_split w 0 5 1
  have part₃ : fld w 0 5 = fld w 4 1 * 16 + fld w 0 4 := fld_split w 0 4 1
  delta decodeOp2E
  repeat' refine findsOf_ite (fun row => ⟨rfl, ?_⟩) ?_
  on_goal -1 => exact findsOf_none w
  all_goals
    show _ + _ = w
    simp only [Bool.and_eq_true, beq_iff_eq, val_ofNat_fld2, val_ofNat_fld3, val_ofNat_fld4, val_ofNat_fld5, toNat_flag] at row ⊢
    omega

theorem findsOf_2f {w : Nat} (h : w < 2 ^ 32) (op : fld w 21 6 = 0x2f) : FindsOf w (decodeOp2F w) := by
  have whole := word_split h
  have part₁ : fld w 16 5 = fld w 19 2 * 8 + fld w 16 3 := fld_split w 16 3 2
  have part₂ : fld w 0 6 = fld w 5 1 * 32 + fld w 0 5 := fld_split w 0 5 1
  have part₃ : fld w 0 5 = fld w 4 1 * 16 + fld w 0 4 := fld_split w 0 4 1
  delta decodeOp2F
  repeat' refine findsOf_ite (fun row => ⟨rfl, ?_⟩) ?_
  on_goal -1 => exact findsOf_none w
  all_goals
    show _ + _ = w
    simp only [Bool.and_eq_true, beq_iff_eq, val_ofNat_fld2, val_ofNat_fld3, val_ofNat_fld4, val_ofNat_fld5, toNat_flag] at row ⊢
    omega

theorem findsOf_30 {w : Nat} (h : w < 2 ^ 32) (op : fld w 21 6 = 0x30) : FindsOf w (decodeOp30 w) := by
  have whole := word_split h
  have part₁ : fld w 16 5 = fld w 19 2 * 8 + fld w 16 3 := fld_split w 16 3 2
  have part₂ : fld w 0 6 = fld w 5 1 * 32 + fld w 0 5 := fld_split w 0 5 1
  delta decodeOp30
  repeat' refine findsOf_ite (fun row => ⟨rfl, ?_⟩) ?_
  on_goal -1 => exact findsOf_none w
  all_goals
    show _ + _ = w
    simp only [Bool.and_eq_true, beq_iff_eq, val_ofNat_fld3, val_ofNat_fld4, val_ofNat_fld5, toNat_flag] at row ⊢
    omega

theorem findsOf_31 {w : Nat} (h : w < 2 ^ 32) (op : fld w 21 6 = 0x31) : FindsOf w (decodeOp31 w) := by
  have whole := word_split h
  have part₁ : fld w 16 5 = fld w 19 2 * 8 + fld w 16 3 := fld_split w 16 3 2
  have part₂ : fld w 0 6 = fld w 5 1 * 32 + fld w 0 5 := fld_split w 0 5 1
  have part₃ : fld w 0 5 = fld w 4 1 * 16 + fld w 0 4 := fld_split w 0 4 1
  delta decodeOp31
  repeat' refine findsOf_ite (fun row => ⟨rfl, ?_⟩) ?_
  on_goal -1 => exact findsOf_none w
  all_goals
    show _ + _ = w
    simp only [Bool.and_eq_true, beq_iff_eq, val_ofNat_fld3, val_ofNat_fld4, val_ofNat_fld5, toNat_flag] at row ⊢
    omega

theorem findsOf_32 {w : Nat} (h : w < 2 ^ 32) (op : fld w 21 6 = 0x32) : FindsOf w (decodeOp32 w) := by
  have whole := word_split h
  delta decodeOp32
  repeat' refine findsOf_ite (fun row => ⟨rfl, ?_⟩) ?_
  on_goal -1 => exact findsOf_none w
  all_goals
    show _ + _ = w
    simp only [Bool.and_eq_true, beq_iff_eq, val_ofNat_fld4, val_ofNat_fld5] at row ⊢
    omega

theorem findsOf_33 {w : Nat} (h : w < 2 ^ 32) (op : fld w 21 6 = 0x33) : FindsOf w (decodeOp33 w) := by
  have whole := word_split h
  have part₁ : fld w 0 6 = fld w 5 1 * 32 + fld w 0 5 := fld_split w 0 5 1
  have part₂ : fld w 0 5 = fld w 4 1 * 16 + fld w 0 4 := fld_split w 0 4 1
  delta decodeOp33
  repeat' refine findsOf_ite (fun row => ⟨rfl, ?_⟩) ?_
  on_goal -1 => exact findsOf_none w
  all_goals
    show _ + _ = w
    simp only [Bool.and_eq_true, beq_iff_eq, val_ofNat_fld4, val_ofNat_fld5, toNat_flag] at row ⊢
    omega

theorem findsOf_36 {w : Nat} (h : w < 2 ^ 32) (op : fld w 21 6 = 0x36) : FindsOf w (decodeOp36 w) := by
  have whole := word_split h
  have part : fld w 0 6 = fld w 3 3 * 8 + fld w 0 3 := fld_split w 0 3 3
  delta decodeOp36
  repeat' refine findsOf_ite (fun row => ⟨rfl, ?_⟩) ?_
  on_goal -1 => exact findsOf_none w
  all_goals
    show _ + _ = w
    simp only [Bool.and_eq_true, beq_iff_eq, val_ofNat_fld3, val_ofNat_fld4] at row ⊢
    omega

theorem findsOf_37 {w : Nat} (h : w < 2 ^ 32) (op : fld w 21 6 = 0x37) : FindsOf w (decodeOp37 w) := by
  have whole := word_split h
  have part : fld w 0 6 = fld w 5 1 * 32 + fld w 0 5 := fld_split w 0 5 1
  delta decodeOp37
  repeat' refine findsOf_ite (fun row => ⟨rfl, ?_⟩) ?_
  on_goal -1 => exact findsOf_none w
  all_goals
    show _ + _ = w
    simp only [Bool.and_eq_true, beq_iff_eq, val_ofNat_fld4, val_ofNat_fld5, toNat_flag] at row ⊢
    omega

theorem findsOf_39 {w : Nat} (h : w < 2 ^ 32) (op : fld w 21 6 = 0x39) : FindsOf w (decodeOp39 w) := by
  have whole := word_split h
  delta decodeOp39
  repeat' refine findsOf_ite (fun row => ⟨rfl, ?_⟩) ?_
  on_goal -1 => exact findsOf_none w
  all_goals
    show _ + _ = w
    simp only [Bool.and_eq_true, beq_iff_eq, val_ofNat_fld4, val_ofNat_fld5] at row ⊢
    omega

theorem findsOf_3a {w : Nat} (h : w < 2 ^ 32) (op : fld w 21 6 = 0x3a) : FindsOf w (decodeOp3A w) := by
  have whole := word_split h
  delta decodeOp3A
  repeat' refine findsOf_ite (fun row => ⟨rfl, ?_⟩) ?_
  on_goal -1 => exact findsOf_none w
  all_goals
    show _ + _ = w
    simp only [Bool.and_eq_true, beq_iff_eq, val_ofNat_fld4, val_ofNat_fld5] at row ⊢
    omega

theorem findsOf_3b {w : Nat} (h : w < 2 ^ 32) (op : fld w 21 6 = 0x3b) : FindsOf w (decodeOp3B w) := by
  have whole := word_split h
  delta decodeOp3B
  repeat' refine findsOf_ite (fun row => ⟨rfl, ?_⟩) ?_
  on_goal -1 => exact findsOf_none w
  all_goals
    show _ + _ = w
    simp only [Bool.and_eq_true, beq_iff_eq, val_ofNat_fld4, val_ofNat_fld5] at row ⊢
    omega

theorem findsOf_3c {w : Nat} (h : w < 2 ^ 32) (op : fld w 21 6 = 0x3c) : FindsOf w (decodeOp3C w) := by
  have whole := word_split h
  delta decodeOp3C
  repeat' refine findsOf_ite (fun row => ⟨rfl, ?_⟩) ?_
  on_goal -1 => exact findsOf_none w
  all_goals
    show _ + _ = w
    simp only [Bool.and_eq_true, beq_iff_eq, val_ofNat_fld4, val_ofNat_fld5] at row ⊢
    omega

theorem findsOf_3d {w : Nat} (h : w < 2 ^ 32) (op : fld w 21 6 = 0x3d) : FindsOf w (decodeOp3D w) := by
  have whole := word_split h
  delta decodeOp3D
  repeat' refine findsOf_ite (fun row => ⟨rfl, ?_⟩) ?_
  on_goal -1 => exact findsOf_none w
  all_goals
    show _ + _ = w
    simp only [Bool.and_eq_true, beq_iff_eq, val_ofNat_fld4, val_ofNat_fld5] at row ⊢
    omega

theorem findsOf_3e {w : Nat} (h : w < 2 ^ 32) (op : fld w 21 6 = 0x3e) : FindsOf w (decodeOp3E w) := by
  have whole := word_split h
  delta decodeOp3E
  repeat' refine findsOf_ite (fun row => ⟨rfl, ?_⟩) ?_
  on_goal -1 => exact findsOf_none w
  all_goals
    show _ + _ = w
    simp only [Bool.and_eq_true, beq_iff_eq, val_ofNat_fld4, val_ofNat_fld5] at row ⊢
    omega

theorem findsOf_rows {w : Nat} (h : w < 2 ^ 32) : FindsOf w (rowsOf (fld w 21 6) w) := by
  generalize op : fld w 21 6 = n
  unfold rowsOf
  split
  exacts [findsOf_01 h op, findsOf_02 h op, findsOf_03 h op, findsOf_04 h op, findsOf_05 h op,
    findsOf_06 h op, findsOf_07 h op, findsOf_08 h op, findsOf_09 h op, findsOf_0a h op,
    findsOf_0b h op, findsOf_0c h op, findsOf_0d h op, findsOf_0e h op, findsOf_0f h op,
    findsOf_10 h op, findsOf_11 h op, findsOf_12 h op, findsOf_13 h op, findsOf_14 h op,
    findsOf_18 h op, findsOf_19 h op, findsOf_1a h op, findsOf_1b h op, findsOf_1c h op,
    findsOf_1d h op, findsOf_1e h op, findsOf_1f h op, findsOf_20 h op, findsOf_21 h op,
    findsOf_22 h op, findsOf_23 h op, findsOf_26 h op, findsOf_27 h op, findsOf_28 h op,
    findsOf_2a h op, findsOf_2b h op, findsOf_2c h op, findsOf_2d h op, findsOf_2e h op,
    findsOf_2f h op, findsOf_30 h op, findsOf_31 h op, findsOf_32 h op, findsOf_33 h op,
    findsOf_36 h op, findsOf_37 h op, findsOf_39 h op, findsOf_3a h op, findsOf_3b h op,
    findsOf_3c h op, findsOf_3d h op, findsOf_3e h op,
    findsOf_none w]

/-- Settles O2: each row of the decoder takes every bit of its words into a field or a check. -/
theorem encodeOfDecode : Obligations.EncodeOfDecode := by
  intro w i h decodes
  obtain ⟨inRow, wf⟩ := decodeWord_ok_iff.1 decodes
  obtain ⟨isWord, same⟩ := findsOf_rows h i (decodeRow_ok_iff.1 inRow)
  exact ⟨isWord, wf, same⟩

/-! ### Words written out -/

/-- An OP without rows makes a word no instruction (02 R40). -/
theorem decodeWord_of_reservedOp {w op : Nat} (h : fld w 21 6 = op)
    (reserved : op ∈ [0x00, 0x15, 0x16, 0x17, 0x24, 0x25, 0x29, 0x34, 0x35, 0x38, 0x3F]) :
    decodeWord w = .error (.reservedOp op) := by
  unfold decodeWord decodeRow
  rw [h]
  fin_cases reserved <;> rfl

/-- The OP of a word stands above its low 21 bits (02 R24). -/
theorem fld_op_of_sum {st op rest : Nat} (hop : op < 2 ^ 6) (hrest : rest < 2 ^ 21) :
    fld (st * 2 ^ 27 + op * 2 ^ 21 + rest) 21 6 = op := by
  simp only [fld]; omega

/-- Settles O3: the words written out by evaluation, those with a reserved OP by the opcode map. -/
theorem sampleWords : Obligations.SampleWords := by
  refine ⟨⟨rfl, rfl, rfl, rfl, rfl, ?_⟩, rfl, ?_, rfl⟩
  · intro p hp
    fin_cases hp <;> rfl
  · intro op reserved rest hrest st _
    have hop : op < 2 ^ 6 := (by decide : ∀ op ∈ [0x00, 0x15, 0x16, 0x17, 0x24, 0x25, 0x29, 0x34, 0x35, 0x38, 0x3F], op < 2 ^ 6) op reserved
    exact decodeWord_of_reservedOp (fld_op_of_sum hop hrest) reserved

end Sys2Proof.Laws.Decoding
end

section
/-! Scalar integer words, branches and jumps (03 R60 to R66, R74, R75): the value of each operation, and what completion leaves. -/

namespace Sys2Proof.Machine

/-! ### Values of the register forms (03 R61 to R63) -/

theorem boolWord_slt (x y : Word) : boolWord (x.slt y) = if x.toInt < y.toInt then 1 else 0 := by
  simp [boolWord, BitVec.slt]

theorem boolWord_ult (x y : Word) : boolWord (x.ult y) = if x.toNat < y.toNat then 1 else 0 := by
  simp [boolWord, BitVec.ult]

/-- A choice by a signed comparison, by the integers. -/
theorem ite_slt {α : Type} (x y : Word) (a b : α) : (if x.slt y = true then a else b) = if x.toInt < y.toInt then a else b := by
  simp [BitVec.slt]

/-- A choice by an unsigned comparison, by the numbers. -/
theorem ite_ult {α : Type} (x y : Word) (a b : α) : (if x.ult y = true then a else b) = if x.toNat < y.toNat then a else b := by
  simp [BitVec.ult]

/-- The low 64 bits of an integer, as a word. -/
theorem ofNat_intBits (n : Int) : BitVec.ofNat 64 (intBits 64 n) = BitVec.ofInt 64 n := by
  apply BitVec.eq_of_toNat_eq
  simp only [intBits, BitVec.toNat_ofNat, BitVec.toNat_ofInt]
  omega

theorem toInt_eq_zero_iff (y : Word) : y.toInt = 0 ↔ y = 0 :=
  ⟨fun h => BitVec.eq_of_toInt_eq h, fun h => by rw [h]; rfl⟩

theorem natCast_toNat_eq_zero_iff (y : Word) : (y.toNat : Int) = 0 ↔ y = 0 := by
  rw [Int.natCast_eq_zero]
  exact ⟨fun h => BitVec.eq_of_toNat_eq h, fun h => by rw [h]; rfl⟩

theorem ofNat_quotient_signed (x y : Word) :
    BitVec.ofNat 64 (quotient 64 x.toInt y.toInt) =
      if y = 0 then BitVec.allOnes 64 else BitVec.ofInt 64 (x.toInt.tdiv y.toInt) := by
  simp only [quotient, toInt_eq_zero_iff]
  split
  · rfl
  · exact ofNat_intBits _

theorem ofNat_quotient_unsigned (x y : Word) :
    BitVec.ofNat 64 (quotient 64 x.toNat y.toNat) =
      if y = 0 then BitVec.allOnes 64 else BitVec.ofNat 64 (x.toNat / y.toNat) := by
  simp only [quotient, natCast_toNat_eq_zero_iff]
  split
  · rfl
  · rw [ofNat_intBits, ← Int.ofNat_tdiv, BitVec.ofInt_natCast]

theorem ofNat_remainder_signed (x y : Word) :
    BitVec.ofNat 64 (remainder 64 x.toInt y.toInt) = if y = 0 then x else BitVec.ofInt 64 (x.toInt.tmod y.toInt) := by
  simp only [remainder, toInt_eq_zero_iff]
  split
  · rw [ofNat_intBits, BitVec.ofInt_toInt]
  · exact ofNat_intBits _

theorem ofNat_remainder_unsigned (x y : Word) :
    BitVec.ofNat 64 (remainder 64 x.toNat y.toNat) = if y = 0 then x else BitVec.ofNat 64 (x.toNat % y.toNat) := by
  simp only [remainder, natCast_toNat_eq_zero_iff]
  split
  · rw [ofNat_intBits, BitVec.ofInt_natCast, BitVec.ofNat_toNat, BitVec.setWidth_eq]
  · rw [ofNat_intBits, ← Int.ofNat_tmod, BitVec.ofInt_natCast]

theorem fieldPos_eq (y : Word) : fieldPos y = y.toNat % 64 := bitsN_zero y 6

theorem fieldWidth_eq (y : Word) : fieldWidth y = min (y.toNat / 64 % 64 + 1) (64 - y.toNat % 64) := by
  rw [fieldWidth, fieldPos_eq]
  rfl

theorem shiftAmount_eq (n : Fin 32) (h : Bool) : shiftAmount n h = (if h then 32 else 0) + n.val := by
  cases h <;> rfl

/-! ### Words that write X[D] -/

/-- The work that writes X[D] with a value, by what that value is. -/
theorem ok_setX (w : Work) (d : Reg) {u v : Word} (h : u = v) : (.ok (w.setX d.val u) : M Work) = .ok (w.setX d.val v) := by rw [h]

/-- Settles O15: the work of every word writes X[D], with the value that its operation has. -/
theorem scalarIntegerForms : Obligations.ScalarIntegerForms := by
  refine ⟨fun s w st d a b => ?_, fun s w st d a imm imm16 n h => ?_⟩
  · intro x y sh pos len p hp hbegins
    suffices hruns : Runs p.1 s w (.ok (w.setX d.val p.2)) from exec_of_runs hruns hbegins
    clear hbegins
    revert p
    have hsh : bitsN y 0 6 = sh := bitsN_zero y 6
    simp only [List.forall_mem_cons]
    exact ⟨⟨rfl, rfl⟩, ⟨rfl, rfl⟩, -- add, sub
      ⟨rfl, rfl⟩, ⟨rfl, rfl⟩, ⟨rfl, rfl⟩, -- and, or, xor
      ⟨rfl, ok_setX w d (congrArg (x <<< ·) hsh)⟩, ⟨rfl, ok_setX w d (congrArg (x >>> ·) hsh)⟩, -- sll, srl
      ⟨rfl, ok_setX w d (congrArg x.sshiftRight hsh)⟩, -- sra
      ⟨rfl, ok_setX w d (boolWord_slt x y)⟩, ⟨rfl, ok_setX w d (boolWord_ult x y)⟩, -- slt, slt.n
      ⟨rfl, ok_setX w d (ite_slt y x y x)⟩, ⟨rfl, ok_setX w d (ite_slt x y y x)⟩, -- min, max
      ⟨rfl, ok_setX w d (ite_ult y x y x)⟩, ⟨rfl, ok_setX w d (ite_ult x y y x)⟩, -- min.n, max.n
      ⟨rfl, rfl⟩, ⟨rfl, rfl⟩, ⟨rfl, rfl⟩, -- mul, mulh, mulh.n
      ⟨rfl, ok_setX w d (ofNat_quotient_signed x y)⟩, ⟨rfl, ok_setX w d (ofNat_quotient_unsigned x y)⟩, -- div, div.n
      ⟨rfl, ok_setX w d (ofNat_remainder_signed x y)⟩, ⟨rfl, ok_setX w d (ofNat_remainder_unsigned x y)⟩, -- rem, rem.n
      ⟨rfl, ok_setX w d (congrArg₂ (fun p l => BitVec.ofNat 64 (bitsN x p l)) (fieldPos_eq y) (fieldWidth_eq y))⟩, -- bext
      List.forall_mem_nil _⟩
  · intro x i sh
    have hsh : shiftAmount n h = sh := shiftAmount_eq n h
    have hpc (hbegins : Begins (.adpc st d imm16) s w) : w.s.regs.pc = s.work.s.regs.pc := by
      rw [(begins_scalar_work hbegins rfl).2.1]
    simp only [List.forall_mem_cons]
    exact ⟨exec_of_runs ⟨rfl, rfl⟩, exec_of_runs ⟨rfl, rfl⟩, exec_of_runs ⟨rfl, rfl⟩, exec_of_runs ⟨rfl, rfl⟩, -- addi, andi, ori, xori
      exec_of_runs ⟨rfl, ok_setX w d (congrArg (x <<< ·) hsh)⟩, exec_of_runs ⟨rfl, ok_setX w d (congrArg (x >>> ·) hsh)⟩, -- slli, srli
      exec_of_runs ⟨rfl, ok_setX w d (congrArg x.sshiftRight hsh)⟩, exec_of_runs ⟨rfl, rfl⟩, -- srai, lih
      fun hbegins => exec_of_runs ⟨rfl, ok_setX w d (congrArg (target · imm16) (hpc hbegins))⟩ hbegins, -- adpc
      List.forall_mem_nil _⟩

/-! ### Bit fields and counts (03 R63, R64) -/

/-- The bits of a word with a field replaced. -/
theorem getLsbD_putBits {width : Nat} (x : BitVec width) (lo n v : Nat) {k : Nat} (hk : k < width) :
    (putBits x lo n v).getLsbD k = if lo ≤ k ∧ k < lo + n then v.testBit (k - lo) else x.getLsbD k := by
  have hsub : k - lo < width := by omega
  simp only [putBits, BitVec.getLsbD_or, BitVec.getLsbD_and, BitVec.getLsbD_not, BitVec.getLsbD_shiftLeft,
    BitVec.getLsbD_ofNat, Nat.testBit_two_pow_sub_one, Nat.testBit_mod_two_pow, hk, hsub, decide_true, Bool.true_and]
  by_cases hlo : k < lo
  · rw [if_neg (by omega)]
    simp [hlo]
  · by_cases hin : k - lo < n
    · rw [if_pos (by omega)]
      simp [hlo, hin]
    · rw [if_neg (by omega)]
      simp [hlo, hin]

/-- A word but zero has its highest one bit at its binary logarithm. -/
theorem leadingZeros_spec (x : Word) : LeadingZeros x (leadingZeros x) := by
  by_cases hx : x = 0
  · subst hx
    exact ⟨by decide, fun k _ _ => BitVec.getLsbD_zero, fun h => absurd h (Nat.lt_irrefl 64)⟩
  · have hne : x.toNat ≠ 0 := fun h => hx (BitVec.eq_of_toNat_eq h)
    have hlog : x.toNat.log2 < 64 := (Nat.log2_lt hne).2 x.isLt
    rw [leadingZeros, if_neg hx]
    refine ⟨by omega, fun k hlow hk => ?_, fun _ => ?_⟩
    · exact Nat.testBit_lt_two_pow ((Nat.log2_lt hne).1 (by omega))
    · rw [Nat.sub_sub_self (by omega)]
      exact Nat.testBit_log2 hne

/-- The lowest one bit among the highest n bits, or 64. -/
theorem lowestOne_spec (x : Word) : ∀ n, n ≤ 64 → 64 - n ≤ lowestOne x n ∧ lowestOne x n ≤ 64 ∧
    (∀ k, 64 - n ≤ k → k < lowestOne x n → x.getLsbD k = false) ∧
    (lowestOne x n < 64 → x.getLsbD (lowestOne x n) = true)
  | 0, _ => ⟨Nat.le_refl _, Nat.le_refl _, fun k hlow hk => absurd hk (Nat.not_lt.2 hlow), fun h => absurd h (Nat.lt_irrefl 64)⟩
  | n + 1, hn => by
    obtain ⟨hlow, hhigh, hzeros, hone⟩ := lowestOne_spec x n (by omega)
    have hplace : 64 - (n + 1) = 63 - n := by omega
    rw [hplace]
    by_cases hbit : bitB x (63 - n) = true
    · rw [lowestOne, if_pos hbit]
      exact ⟨Nat.le_refl _, by omega, fun k hl hk => absurd hk (Nat.not_lt.2 hl), fun _ => hbit⟩
    · rw [lowestOne, if_neg hbit]
      refine ⟨by omega, hhigh, fun k hl hk => ?_, hone⟩
      by_cases hk0 : k = 63 - n
      · rw [hk0]
        exact Bool.eq_false_iff.2 hbit
      · exact hzeros k (by omega) hk

theorem trailingZeros_spec (x : Word) : TrailingZeros x (lowestOne x 64) := by
  obtain ⟨-, hhigh, hzeros, hone⟩ := lowestOne_spec x 64 (Nat.le_refl _)
  exact ⟨hhigh, fun k hk => hzeros k (by omega) hk, hone⟩

theorem countOnes_eq (x : Word) (n : Nat) : countOnes x n = (List.range n).countP (fun k => x.getLsbD k) := by
  induction n with
  | zero => rfl
  | succ n ih =>
    rw [countOnes, ih, List.range_succ, List.countP_append, List.countP_singleton, bitB]
    cases x.getLsbD n <;> rfl

/-- Settles O14: each work writes X[D] with its function, which has the stated bits or counts them. -/
theorem bitFieldsAndCounts : Obligations.BitFieldsAndCounts := by
  intro s w st d a b pos len
  refine ⟨fun hbegins => ⟨_, exec_of_runs ⟨rfl, rfl⟩ hbegins, fun k hk => ?_⟩,
    fun hbegins => ⟨_, leadingZeros_spec _, exec_of_runs ⟨rfl, rfl⟩ hbegins⟩,
    fun hbegins => ⟨_, trailingZeros_spec _, exec_of_runs ⟨rfl, rfl⟩ hbegins⟩,
    fun hbegins => exec_of_runs ⟨rfl, ok_setX w d (congrArg (BitVec.ofNat 64) (countOnes_eq _ 64))⟩ hbegins⟩
  rw [getLsbD_putBits _ _ _ _ hk, fieldPos_eq, fieldWidth_eq]
  rfl

/-! ### Branches and jumps (03 R74, R75) -/

/-- Settles O21: each work writes its register and sets the place to go on, or raises MISALIGNED; the pc that it reads is that of
the state. -/
theorem jumps : Obligations.Jumps := by
  intro s w st d a off pc
  refine ⟨fun hbegins => ?_, fun hbegins haligned => ?_, fun hbegins hmis => ?_, exec_of_runs ⟨rfl, rfl⟩⟩
  all_goals have hpc : w.s.regs.pc = pc := by rw [(begins_scalar_work hbegins rfl).2.1]
  · exact exec_of_runs ⟨rfl, by rw [← hpc]; rfl⟩ hbegins
  · exact exec_of_runs ⟨rfl, (if_neg (not_not_intro haligned)).trans (by rw [hpc])⟩ hbegins
  · exact exec_of_raise ⟨rfl, if_pos hmis⟩ rfl rfl (by decide) hbegins

/-! ### What a word that writes registers only leaves -/

/-- t has the registers and the place to go on of its own; in all else it is the working state w, which has written no byte. -/
structure RegsOnly (w t : Work) : Prop where
  ws : t.ws = []
  strips : t.strips = []
  rest : ∃ slots, t.m = { w.m with slots := slots }
  others : ∀ n, n ≠ w.m.cur → t.m.slot n = w.m.slot n
  ctl : t.s.ctl = w.s.ctl
  sup : t.s.sup = w.s.sup
  thr : t.s.thr = w.s.thr
  unit : t.s.unit = w.s.unit
  seqs : t.s.mseq = w.s.mseq ∧ t.s.cseq = w.s.cseq

/-- Another place to go on. -/
theorem RegsOnly.withNpc {w : Work} (hws : w.ws = []) (hstrips : w.strips = []) (a : Word) : RegsOnly w { w with npc := a } :=
  ⟨hws, hstrips, ⟨_, rfl⟩, fun _ _ => rfl, rfl, rfl, rfl, rfl, rfl, rfl⟩

/-- An x register written. -/
theorem RegsOnly.withX {w : Work} (hws : w.ws = []) (hstrips : w.strips = []) (n : Nat) (v : Word) : RegsOnly w (w.setX n v) :=
  ⟨hws, hstrips, ⟨_, rfl⟩, fun _ h => slot_setSlot_ne _ _ h, setX_s_ctl .., setX_s_sup .., setX_s_thr .., setX_s_unit ..,
    by simp [Work.setX], by simp [Work.setX]⟩

/-- What completion of a scalar word leaves of the parts of the slot that its work left as they were. -/
theorem RegsOnly.retired {w t : Work} (h : RegsOnly w t) {i : Instr} (hcls : (infoOf w.s.ctl.fmt i).cls = .scalar)
    (htile : (infoOf w.s.ctl.fmt i).tile = false) (hswitch : switchesTile i = false) :
    (t.retire i w.s).s.ctl = w.s.ctl ∧ (t.retire i w.s).s.thr.binds = w.s.thr.binds ∧
    (t.retire i w.s).s.thr.fibre = w.s.thr.fibre ∧ ∃ slots, (t.retire i w.s).m = { w.m with slots := slots } := by
  obtain ⟨slots, hm⟩ := h.rest
  unfold Work.retire
  split
  · exact ⟨h.ctl, congrArg SlotThread.binds h.thr, congrArg SlotThread.fibre h.thr, slots, hm⟩
  · rw [countStrips_none h.strips]
    have hset (x : Slot) : ∃ slots, (t.setS x).m = { w.m with slots := slots } := ⟨tabSet slots t.m.cur x, by rw [Work.setS, hm]; rfl⟩
    refine ⟨?_, ?_, ?_, hset _⟩ <;> simp [hcls, htile, hswitch, h.ctl, h.thr]

/-- A completed scalar word that writes registers only, leaves everything outside its slot, and in its slot all but the registers. -/
theorem RegsOnly.completion {i : Instr} {s : State} {w t : Work} (h : RegsOnly w t) (hbegins : Begins i s w)
    (hcls : (infoOf s.work.s.ctl.fmt i).cls = .scalar) (htile : (infoOf s.work.s.ctl.fmt i).tile = false)
    (hswitch : switchesTile i = false) (hlevel : t.s.regs.level = w.s.regs.level) :
    OnlySlot s (completed i s t) ∧ (completed i s t).work.s.regs = { t.s.regs with pc := t.npc } ∧
    SameSystem s.work.s (completed i s t).work.s ∧ (completed i s t).work.s.ctl = s.work.s.ctl := by
  obtain ⟨hm, hs, -, -⟩ := begins_scalar_work hbegins hcls
  have hruns : t.s.unit.st.runs = true := by
    rw [h.unit, hs]
    exact runs_of_issues hbegins.1.1
  have hregs := retire_s_regs i s.work.s hruns
  obtain ⟨-, hothers⟩ := retire_m t i s.work.s
  obtain ⟨_, ht⟩ := h.rest
  rw [← hs] at hcls htile
  obtain ⟨hctl, hbinds, hfibre, slots, hretired⟩ := h.retired hcls htile hswitch
  obtain ⟨hlink, helinks⟩ := retire_links t i s.work.s
  have hcur : t.m.cur = w.m.cur := by rw [ht]
  have hslot : (completed i s t).work.s = (t.retire i s.work.s).s := by
    rw [completed_of_no_writes i s h.ws]
    rfl
  rw [hs] at hctl hbinds hfibre hretired
  refine ⟨⟨?_, ?_, fun n hn => ?_⟩, hslot ▸ hregs, ?_, hslot ▸ hctl⟩
  · rw [completed_of_no_writes i s h.ws]
  · rw [completed_of_no_writes i s h.ws, hretired, hm]
  · rw [completed_of_no_writes i s h.ws]
    have hn' : n ≠ w.m.cur := by rwa [hm]
    rw [hothers n (hcur ▸ hn'), h.others n hn', hm]
  · rw [hslot]
    refine ⟨?_, ?_, hbinds, hlink.trans ?_, helinks.trans ?_, hfibre, ?_, ?_⟩
    · rw [hregs, hlevel, hs]
    · rw [retire_sup, h.sup, hs]
    · rw [h.thr, hs]
    · rw [h.thr, hs]
    · rw [retire_mseq, h.seqs.1, hs]
    · rw [retire_cseq, h.seqs.2, hs]

/-- The frame of scalar words: the class and the unit of i, and that it keeps the owner of the tile group. -/
def PlainScalar (s : State) (i : Instr) : Prop :=
  (infoOf s.work.s.ctl.fmt i).cls = .scalar ∧ (infoOf s.work.s.ctl.fmt i).tile = false ∧ switchesTile i = false

/-- The work of a conditional branch: it goes on at the target where the condition holds, else at the next word. -/
def Branching (s : State) (w : Work) (off : BitVec 9) (p : Instr × Prop) : Prop :=
  PlainScalar s p.1 ∧
  ∃ b : Bool, (b = true ↔ p.2) ∧ Runs p.1 s w (.ok (if b then { w with npc := target w.s.regs.pc off } else w))

/-- A branch that begins goes on where its condition says and leaves all else. -/
theorem Branching.completion {s : State} {w : Work} {off : BitVec 9} {p : Instr × Prop} (h : Branching s w off p)
    (hbegins : Begins p.1 s w) : ∃ t, exec p.1 s = .next t ∧
      (p.2 → t.work.s.regs.pc = s.work.s.regs.pc + 4 * off.signExtend 64) ∧ (¬p.2 → t.work.s.regs.pc = s.work.s.regs.pc + 4) ∧
      OnlySlot s t ∧ (∀ bank n, t.work.s.regs.getX bank n = s.work.s.regs.getX bank n) ∧ SameVBut [] s.work.s t.work.s ∧
      SameMasks s.work.s t.work.s ∧ SameSystem s.work.s t.work.s ∧ t.work.s.ctl = s.work.s.ctl := by
  obtain ⟨⟨hcls, htile, hswitch⟩, b, hb, hruns⟩ := h
  obtain ⟨rfl, -⟩ := begins_of_scalar hbegins hcls
  have hgoes : (if b then ({ s.work with npc := target s.work.s.regs.pc off } : Work) else { s.work with npc := s.work.s.regs.pc + 4 }) =
      { s.work with npc := if b then target s.work.s.regs.pc off else s.work.s.regs.pc + 4 } := by
    cases b <;> rfl
  obtain ⟨honly, hregs, hsystem, hctl⟩ := (RegsOnly.withNpc (w := { s.work with npc := s.work.s.regs.pc + 4 }) rfl rfl
    (if b then target s.work.s.regs.pc off else s.work.s.regs.pc + 4)).completion hbegins hcls htile hswitch rfl
  refine ⟨_, exec_of_runs (hruns.trans (congrArg Except.ok hgoes)) hbegins, fun htaken => ?_, fun hnot => ?_, honly,
    fun bank n => ?_, fun n _ => ?_, ⟨fun n => ?_, fun n => ?_⟩, hsystem, hctl⟩
  all_goals rw [hregs]
  · rw [hb.2 htaken]
    rfl
  · rw [Bool.eq_false_iff.2 (mt hb.1 hnot)]
    rfl
  all_goals rfl

theorem not_slt_iff (x y : Word) : (!x.slt y) = true ↔ y.toInt ≤ x.toInt := by simp [BitVec.slt]

theorem not_ult_iff (x y : Word) : (!x.ult y) = true ↔ y.toNat ≤ x.toNat := by simp [BitVec.ult]

/-- Settles O20: every branch by its condition. -/
theorem branches : Obligations.Branches := by
  intro s w st d a off x y p hp hbegins
  suffices h : Branching s w off p from h.completion hbegins
  clear hbegins
  revert p
  simp only [List.forall_mem_cons]
  exact ⟨⟨⟨rfl, rfl, rfl⟩, x == y, beq_iff_eq, rfl, rfl⟩, ⟨⟨rfl, rfl, rfl⟩, x != y, bne_iff_ne, rfl, rfl⟩, -- beq, bne
    ⟨⟨rfl, rfl, rfl⟩, x.slt y, BitVec.slt_iff_toInt_lt, rfl, rfl⟩, ⟨⟨rfl, rfl, rfl⟩, !x.slt y, not_slt_iff x y, rfl, rfl⟩, -- blt, bge
    ⟨⟨rfl, rfl, rfl⟩, x.ult y, BitVec.ult_iff_toNat_lt, rfl, rfl⟩, ⟨⟨rfl, rfl, rfl⟩, !x.ult y, not_ult_iff x y, rfl, rfl⟩, -- blt.n, bge.n
    List.forall_mem_nil _⟩

end Sys2Proof.Machine
end

section
/-! Scalar accesses (03 R67 to R72; 15 R371 to R373): what the walk of an access leaves, and what loads, stores and the linked pair
leave of the state. -/

namespace Sys2Proof.Machine

/-! ### What a walk leaves (13 R314, R316; 15 R373) -/

/-- The working state without what a walk may change: the bytes written, and the notes of Almanac lines. -/
def Work.apartFromWalk (w : Work) : Work :=
  { w with
    ws := []
    m := { w.m with
      pkg := { w.m.pkg with poison := [], unsettled := [], nextWrite := 0 }
      mgmt := { w.m.mgmt with annals := [] } } }

theorem apartFromWalk_scrub (w : Work) (x : Nat) : (w.scrub x).apartFromWalk = w.apartFromWalk := by
  have hcounts (l : List (Nat × Nat)) (f : Nat × Nat → AnnalsKey) (m : Mach) :
      (l.foldl (fun m p => m.countAnnals (f p)) m) =
        { m with mgmt := { m.mgmt with annals := (l.foldl (fun m p => m.countAnnals (f p)) m).mgmt.annals } } := by
    induction l generalizing m with
    | nil => rfl
    | cons p l ih => exact ih (m.countAnnals (f p))
  unfold Work.scrub
  dsimp only
  split
  · rw [hcounts]
    rfl
  · rfl

theorem apartFromWalk_scrubWalk (w : Work) (who : Nat) (spt : Word) (va : Nat) :
    (w.scrubWalk who spt va).apartFromWalk = w.apartFromWalk := by
  unfold Work.scrubWalk
  split
  · rfl
  · exact foldl_keeps Work.apartFromWalk apartFromWalk_scrub _ w

theorem apartFromWalk_noteBytes (w : Work) (lid unit : Nat) (whole : Bool) (l : List (Nat × Byte)) :
    (w.noteBytes lid unit whole l).apartFromWalk = w.apartFromWalk :=
  congrArg (fun p : Pkg => ({ w with ws := [], m := { w.m with pkg := p, mgmt := { w.m.mgmt with annals := [] } } } : Work))
    (foldl_keeps (fun p : Pkg => ({ p with poison := [], unsettled := [], nextWrite := 0 } : Pkg)) (fun p x => by split <;> rfl)
      l.zipIdx w.m.pkg)

theorem apartFromWalk_putBytes (bs : List Byte) (w : Work) (loc : Nat) : (w.putBytes loc bs).apartFromWalk = w.apartFromWalk := by
  induction bs generalizing w loc with
  | nil => rfl
  | cons b bs ih => exact ih (w.putByte loc b) (loc + 1)

theorem apartFromWalk_putNoted (w : Work) (lid unit loc : Nat) (bs : List Byte) :
    (w.putNoted lid unit loc bs).apartFromWalk = w.apartFromWalk := by
  rw [Work.putNoted, apartFromWalk_putBytes]
  split
  · exact apartFromWalk_noteBytes ..
  · rfl

theorem apartFromWalk_setAD (n : Nat) (w : Work) (first bits : Nat) : (setAD w first bits n).apartFromWalk = w.apartFromWalk := by
  induction n generalizing w with
  | zero => rfl
  | succ n ih => exact (ih _).trans (apartFromWalk_putNoted ..)

/-- The translation of a scalar access changes bytes of the page tables and the notes of Almanac lines alone. -/
theorem apartFromWalk_scalarPlace {w v : Work} {n acc loc : Nat} {spt a : Word} {sup : Bool}
    (h : scalarPlace w n spt sup a acc = .ok (loc, v)) : v.apartFromWalk = w.apartFromWalk := by
  unfold scalarPlace at h
  split at h
  · cases e : localPlace w.m n a.toNat with
    | error _ => rw [e] at h; cases h
    | ok l => rw [e] at h; cases h; rfl
  · rcases walkPlace_leaves h with rfl | ⟨first, bits, k, rfl⟩
    · exact apartFromWalk_scrubWalk ..
    · exact (apartFromWalk_setAD ..).trans (apartFromWalk_scrubWalk ..)

/-- What such a change leaves of the machine. -/
theorem m_of_apartFromWalk {w v : Work} (h : v.apartFromWalk = w.apartFromWalk) :
    v.m = { w.m with
      pkg := { w.m.pkg with poison := v.m.pkg.poison, unsettled := v.m.pkg.unsettled, nextWrite := v.m.pkg.nextWrite }
      mgmt := { w.m.mgmt with annals := v.m.mgmt.annals } } :=
  (congrArg (fun u : Work => ({ u.m with
    pkg := { u.m.pkg with poison := v.m.pkg.poison, unsettled := v.m.pkg.unsettled, nextWrite := v.m.pkg.nextWrite }
    mgmt := { u.m.mgmt with annals := v.m.mgmt.annals } } : Mach)) h :)

/-! ### The bytes of the page tables (15 R372, R373) -/

/-- Bits set in the low byte of a number. -/
theorem leBytes_or_low (b : Byte) (bs : List Byte) {bits : Nat} (hbits : bits < 256) :
    leBytes (bs.length + 1) (leNat (b :: bs) ||| bits) = (b ||| BitVec.ofNat 8 bits) :: bs := by
  have hb := b.isLt
  have hhigh : (leNat (b :: bs) ||| bits) / 256 = leNat bs := by
    rw [show 256 = 2 ^ 8 from rfl, Nat.or_div_two_pow, Nat.div_eq_of_lt hbits, Nat.or_zero, leNat]
    omega
  have hlow : (leNat (b :: bs)) % 256 = b.toNat := by
    rw [leNat]
    omega
  rw [leBytes, hhigh, leBytes_leNat]
  congr 1
  apply BitVec.eq_of_toNat_eq
  rw [BitVec.toNat_ofNat, BitVec.toNat_or, Nat.or_mod_two_pow, hlow, BitVec.toNat_ofNat]

theorem bytes_succ (w : Work) (loc n : Nat) : w.bytes loc (n + 1) = w.byte loc :: w.bytes (loc + 1) n := rfl

theorem getD_bytes (w : Work) (loc n : Nat) {k : Nat} (hk : k < n) : (w.bytes loc n).getD k 0 = w.byte (loc + k) := by
  induction n generalizing loc k with
  | zero => cases hk
  | succ n ih =>
    cases k with
    | zero => rfl
    | succ k =>
      rw [bytes_succ, List.getD_cons_succ, ih (loc + 1) (Nat.lt_of_succ_lt_succ hk)]
      congr 1
      omega

/-- One entry with A, or A and D, set. -/
theorem byte_putNoted_entry (w : Work) (pa x : Nat) {bits : Nat} (hbits : bits < 256) :
    (w.putNoted 0 0 pa (leBytes 8 (w.num pa 8 ||| bits))).byte x =
      if x = pa then w.byte x ||| BitVec.ofNat 8 bits else w.byte x := by
  have hnoted (v : Work) (bs : List Byte) : (v.putNoted 0 0 pa bs).byte x = (v.putBytes pa bs).byte x := by
    rw [Work.putNoted, byte_putBytes, byte_putBytes]
    split
    · rfl
    · split <;> rfl
  have hbytes : leBytes 8 (w.num pa 8 ||| bits) = (w.byte pa ||| BitVec.ofNat 8 bits) :: w.bytes (pa + 1) 7 :=
    leBytes_or_low _ (w.bytes (pa + 1) 7) hbits
  have hlen : (w.bytes (pa + 1) 7).length = 7 := rfl
  rw [hnoted, hbytes, byte_putBytes, List.length_cons, hlen]
  by_cases hx : x = pa
  · subst hx
    rw [if_pos (by omega), if_pos rfl, Nat.sub_self]
    rfl
  · rw [if_neg hx]
    split
    next hin =>
      obtain ⟨k, rfl⟩ : ∃ k, x = pa + 1 + k := ⟨x - pa - 1, by omega⟩
      rw [show pa + 1 + k - pa = k + 1 by omega, List.getD_cons_succ, getD_bytes _ _ _ (by omega)]
    next => rfl

/-- The entries of a group with A, or A and D, set: the low byte of each, and no other byte. -/
theorem byte_setAD (n : Nat) (w : Work) (first x : Nat) {bits : Nat} (hbits : bits < 256) :
    ((∃ k, k < n ∧ x = hbmLoc (first + 8 * k)) → (setAD w first bits n).byte x = w.byte x ||| BitVec.ofNat 8 bits) ∧
    (¬(∃ k, k < n ∧ x = hbmLoc (first + 8 * k)) → (setAD w first bits n).byte x = w.byte x) := by
  induction n generalizing w with
  | zero => exact ⟨fun ⟨k, hk, _⟩ => absurd hk (Nat.not_lt_zero k), fun _ => rfl⟩
  | succ n ih =>
    obtain ⟨hin, hout⟩ := ih (w.putNoted 0 0 (hbmLoc (first + 8 * n)) (leBytes 8 (w.num (hbmLoc (first + 8 * n)) 8 ||| bits)))
    rw [byte_putNoted_entry w _ x hbits] at hin hout
    refine ⟨fun ⟨k, hk, hx⟩ => ?_, fun hno => ?_⟩
    · by_cases hkn : k = n
      · subst hkn
        exact (hout fun ⟨j, hj, hxj⟩ => by simp only [hbmLoc] at hx hxj; omega).trans (if_pos hx)
      · refine (hin ⟨k, by omega, hx⟩).trans (congrArg (· ||| BitVec.ofNat 8 bits) (if_neg ?_))
        simp only [hbmLoc] at hx ⊢
        omega
    · refine (hout fun ⟨k, hk, hx⟩ => hno ⟨k, by omega, hx⟩).trans (if_neg fun hx => hno ⟨n, by omega, hx⟩)

theorem scrubWalk_byte (w : Work) (who : Nat) (spt : Word) (va : Nat) : (w.scrubWalk who spt va).byte = w.byte := by
  unfold Work.scrubWalk
  split
  · rfl
  · exact (scrubs_keep _ w).2.2

/-- The leaf that a walk which passes all its checks has found. -/
theorem walkFrom_of_walkLeaf {w : Work} {who va acc : Nat} {spt : Word} {sup : Bool} {l : Leaf}
    (h : walkLeaf w who spt sup va acc = .ok l) : walkFrom w who va (walkTop spt) (walkRoot spt) = .ok l := by
  unfold walkLeaf at h
  split at h
  · cases h
  · cases hfrom : walkFrom w who va (walkTop spt) (walkRoot spt) with
    | error e => rw [hfrom] at h; cases h
    | ok k =>
      rw [hfrom] at h
      simp only [bind, Except.bind] at h
      generalize (if acc = 0 then 1 else if acc = 1 then 2 else 4) = need at h
      repeat' split at h
      all_goals cases h
      all_goals rfl

/-- The walk of an access outside the local region: its leaf, and A and D set where the leaf has not both. -/
theorem walkPlace_ok {w v : Work} {who va acc loc : Nat} {spt : Word} {sup : Bool}
    (h : walkPlace w who spt sup va acc = .ok (loc, v)) : ∃ l, walkFrom w who va (walkTop spt) (walkRoot spt) = .ok l ∧
      let bits := if acc = 1 then 0xC0 else 0x40
      v = if l.entry &&& bits ≠ bits then setAD (w.scrubWalk who spt va) (l.first va) bits (groupSize l) else w.scrubWalk who spt va := by
  unfold walkPlace at h
  cases e : walkLeaf w who spt sup va acc with
  | error x => rw [e] at h; cases x <;> cases h
  | ok l =>
    refine ⟨l, walkFrom_of_walkLeaf e, ?_⟩
    rw [e] at h
    dsimp only at h ⊢
    generalize (if acc = 1 then 0xC0 else 0x40) = bits at h ⊢
    split at h
    · cases h
    · simp only [Except.ok.injEq, Prod.mk.injEq, bne_iff_ne] at h
      exact h.2.symm

/-- Settles O17: the words write X[D] alone; the walk by its leaf, and by what setting A and D writes. -/
theorem scalarFrame : Obligations.ScalarFrame := by
  refine ⟨fun s w st d a b imm imm16 n h i hi hbegins => ?_, fun w w1 n spt sup a acc loc hplace => ?_⟩
  · suffices hword : PlainScalar s i ∧ ∃ v, Runs i s w (.ok (w.setX d.val v)) by
      obtain ⟨⟨hcls, htile, hswitch⟩, v, hruns⟩ := hword
      obtain ⟨rfl, -⟩ := begins_of_scalar hbegins hcls
      have hlevel (w : Work) : (w.setX d.val v).s.regs.level = w.s.regs.level := by rw [setX_s_regs, setX_level]
      obtain ⟨honly, hregs, hsystem, hctl⟩ :=
        (RegsOnly.withX (w := { s.work with npc := s.work.s.regs.pc + 4 }) rfl rfl d.val v).completion hbegins hcls htile hswitch
          (hlevel _)
      refine ⟨_, exec_of_runs hruns hbegins, honly, fun bank k hk => ?_, fun k _ => ?_, ⟨fun k => ?_, fun k => ?_⟩, hsystem, hctl, ?_⟩
      all_goals rw [hregs]
      · exact setX_sameXBut _ d.val v bank k hk
      all_goals simp [setX_s_regs, SlotRegs.getV, SlotRegs.getM, SlotRegs.getK]
      all_goals rfl
    clear hbegins
    revert i
    simp only [List.forall_mem_cons]
    refine ⟨?_, ?_, ?_, ?_, ?_, ?_, ?_, ?_, ?_, ?_, ?_, ?_, ?_, ?_, ?_, ?_, ?_, ?_, ?_, ?_, ?_, ?_, ?_, ?_, ?_, ?_, ?_, ?_, ?_, ?_,
      ?_, ?_, ?_, ?_, ?_, List.forall_mem_nil _⟩
    all_goals exact ⟨⟨rfl, rfl, rfl⟩, _, rfl, rfl⟩
  · have happart := apartFromWalk_scalarPlace hplace
    refine ⟨fun hlocal => ?_, (congrArg Work.base happart :), (congrArg Work.npc happart :), m_of_apartFromWalk happart, fun hfar => ?_⟩
    · rw [scalarPlace, if_pos hlocal] at hplace
      cases e : localPlace w.m n a.toNat with
      | error _ => rw [e] at hplace; cases hplace
      | ok l => rw [e] at hplace; cases hplace; rfl
    · rw [scalarPlace, if_neg (by simp [hfar])] at hplace
      obtain ⟨l, hfrom, hwork⟩ := walkPlace_ok hplace
      refine ⟨l, hfrom, ?_⟩
      intro bits size first set x
      obtain ⟨hin, hout⟩ := byte_setAD (groupSize l) (w.scrubWalk n spt a.toNat) (l.first a.toNat) x (bits := bits.toNat) bits.isLt
      rw [scrubWalk_byte, BitVec.ofNat_toNat, BitVec.setWidth_eq] at hin
      rw [scrubWalk_byte] at hout
      have hbits : (if acc = 1 then 0xC0 else 0x40) = bits.toNat := by
        simp only [bits]
        split <;> rfl
      rw [hbits] at hwork
      dsimp only at hwork
      by_cases hunset : l.entry &&& bits.toNat ≠ bits.toNat
      · rw [if_pos hunset] at hwork
        rw [hwork]
        exact ⟨fun hx => hin hx.2, fun hx => hout fun hgroup => hx ⟨hunset, hgroup⟩⟩
      · rw [if_neg hunset] at hwork
        rw [hwork, scrubWalk_byte]
        exact ⟨fun hx => absurd hx.1 hunset, fun _ => rfl⟩

/-! ### Loads (03 R67, R68) -/

/-- Sign-extension through the integers is that of the bit vector. -/
theorem wordOfInt_toSigned {n : Nat} (hn : 0 < n) (v : Nat) : wordOfInt (toSigned n v) = (BitVec.ofNat n v).signExtend 64 := by
  have hpow : 2 ^ n = 2 * 2 ^ (n - 1) := by rw [← Nat.pow_succ', Nat.succ_eq_add_one, Nat.sub_add_cancel hn]
  have hint : toSigned n v = (BitVec.ofNat n v).toInt := by
    rw [toSigned, BitVec.toInt_eq_toNat_cond, BitVec.toNat_ofNat]
    by_cases h : v % 2 ^ n < 2 ^ (n - 1)
    · rw [if_pos h, if_pos (by omega)]
    · rw [if_neg h, if_neg (by omega)]
  rw [hint]
  rfl

/-- A scalar load whose checks pass writes X[D] with what it reads. -/
theorem loadX_of_reads {w w1 : Work} {d a : Reg} {off : BitVec 9} {size loc : Nat} (hlimit : w.limit = none) (hmade : w.made = [])
    (hsize : 0 < size) (hreads : ScalarReads w (w.scalarAddr a off size) size loc w1) (signed : Bool) :
    w.loadX d a off size signed = .ok ((w1.readAt loc size).setX d.val
      (if signed then (BitVec.ofNat (8 * size) (leNat (w1.bytes loc size))).signExtend 64
       else BitVec.ofNat 64 (leNat (w1.bytes loc size)))) := by
  rw [← wordOfInt_toSigned (by omega), Work.loadX, load_of_reads hlimit hmade hreads]
  rfl

/-- Settles O16: each word is the load of its size, sign-extended or not. -/
theorem scalarLoads : Obligations.ScalarLoads := by
  intro s w w1 st d a off loc p hp hbegins hreads
  obtain ⟨hlimit, hmade⟩ := begins_whole hbegins
  suffices hword : 0 < p.2.1 ∧ Runs p.1 s w (w.loadX d a off p.2.1 p.2.2) from
    exec_of_runs (hword.2.trans (loadX_of_reads hlimit hmade hword.1 hreads p.2.2)) hbegins
  clear hbegins hreads
  revert p
  simp only [List.forall_mem_cons]
  exact ⟨⟨by decide, rfl, rfl⟩, ⟨by decide, rfl, rfl⟩, ⟨by decide, rfl, rfl⟩, ⟨by decide, rfl, rfl⟩, -- ld8 to ld64
    ⟨by decide, rfl, rfl⟩, ⟨by decide, rfl, rfl⟩, ⟨by decide, rfl, rfl⟩, -- ld8.n to ld32.n
    List.forall_mem_nil _⟩

/-! ### Stores (03 R67, R68) -/

/-- A scalar write whose checks pass. -/
theorem storeScalar_of_writes {w w1 : Work} {a : Word} {size loc : Nat} (hlimit : w.limit = none) (hmade : w.made = [])
    (hwrites : ScalarWrites w a size loc w1) (v : Nat) : w.storeScalar a size v = .ok (w1.stored a (span loc size) (leBytes size v)) := by
  obtain ⟨halign, hplace, hwritable⟩ := hwrites
  obtain ⟨hlimit1, hmade1, -⟩ := scalarPlace_sameRun hplace
  have hmade1 := hmade1.trans hmade
  simp only [Work.storeScalar, Work.scalar, halign, hplace, hwritable, liftMiss, past_of_made hmade1,
    store_whole (hlimit1.trans hlimit) hmade1, bind, Except.bind, ne_eq, not_true, if_false, if_true]

/-- A misaligned scalar access. -/
theorem scalar_misaligned {w : Work} {a : Word} {size : Nat} (h : a.toNat % size ≠ 0) (acc : Nat) :
    w.scalar a size acc = raise w cMISALIGNED a acc := if_pos h

theorem load_misaligned {w : Work} {a : Word} {size : Nat} (h : a.toNat % size ≠ 0) : w.load a size = raise w cMISALIGNED a 0 := by
  rw [Work.load, scalar_misaligned h]
  rfl

theorem loadX_misaligned {w : Work} {a : Reg} {off : BitVec 9} {size : Nat} (h : (w.scalarAddr a off size).toNat % size ≠ 0) (d : Reg)
    (signed : Bool) : w.loadX d a off size signed = raise w cMISALIGNED (w.scalarAddr a off size) 0 := by
  rw [Work.loadX, load_misaligned h]
  rfl

theorem storeX_misaligned {w : Work} {a : Reg} {off : BitVec 9} {size : Nat} (h : (w.scalarAddr a off size).toNat % size ≠ 0) (d : Reg) :
    w.storeX d a off size = raise w cMISALIGNED (w.scalarAddr a off size) 1 := by
  rw [Work.storeX, Work.storeScalar, scalar_misaligned h]
  rfl

theorem ldl_misaligned {w : Work} {a : Reg} (h : (w.x a.val).toNat % 8 ≠ 0) (d : Reg) :
    bodyLdl d a w = raise w cMISALIGNED (w.x a.val) 0 := by
  rw [bodyLdl, load_misaligned h]
  rfl

theorem stc_misaligned {w : Work} {a : Reg} (h : (w.x a.val).toNat % 8 ≠ 0) (d b : Reg) :
    bodyStc d a b w = raise w cMISALIGNED (w.x a.val) 1 := by
  rw [bodyStc, scalar_misaligned h]
  rfl

/-- What a slot keeps where a word writes memory: its registers and control registers, its Supervisor registers. -/
def SameFiles (s t : Slot) : Prop := t.regs = s.regs ∧ t.ctl = s.ctl ∧ t.sup = s.sup

/-- Writes leave the files of every slot, whatever links they break. -/
theorem wrote_sameFiles (m : Mach) (ws : List Wr) (n : Nat) : SameFiles (m.slot n) ((m.wrote ws).slot n) := by
  unfold Mach.wrote
  split
  · exact ⟨rfl, rfl, rfl⟩
  · rw [slot_breakLinks]
    split <;> exact ⟨rfl, rfl, rfl⟩

/-- t differs from w at most in the threads' and units' notes, in the machine outside the slots' files, and in the bytes written. -/
structure KeepsFiles (w t : Work) : Prop where
  files : SameFiles w.s t.s
  state : t.s.unit.st = w.s.unit.st
  npc : t.npc = w.npc
  strips : t.strips = w.strips
  base : t.base = w.base

theorem KeepsFiles.trans {u v w : Work} (h : KeepsFiles u v) (g : KeepsFiles v w) : KeepsFiles u w where
  files := ⟨g.files.1.trans h.files.1, g.files.2.1.trans h.files.2.1, g.files.2.2.trans h.files.2.2⟩
  state := g.state.trans h.state
  npc := g.npc.trans h.npc
  strips := g.strips.trans h.strips
  base := g.base.trans h.base

/-- A change that leaves the slots, what is written over and where the thread goes on. -/
theorem KeepsFiles.of_slots {w t : Work} (hs : t.s = w.s) (hnpc : t.npc = w.npc) (hstrips : t.strips = w.strips)
    (hbase : t.base = w.base) : KeepsFiles w t :=
  ⟨by rw [hs]; exact ⟨rfl, rfl, rfl⟩, by rw [hs], hnpc, hstrips, hbase⟩

theorem KeepsFiles.mapThr (w : Work) (f : SlotThread → SlotThread) : KeepsFiles w (w.mapThr f) :=
  ⟨⟨mapThr_s_regs w f, mapThr_s_ctl w f, mapThr_s_sup w f⟩, congrArg SlotUnit.st (mapThr_s_unit w f), rfl, rfl, rfl⟩

theorem KeepsFiles.mapUnit (w : Work) {f : SlotUnit → SlotUnit} (h : (f w.s.unit).st = w.s.unit.st) : KeepsFiles w (w.mapUnit f) :=
  ⟨⟨mapUnit_s_regs w f, mapUnit_s_ctl w f, mapUnit_s_sup w f⟩, (congrArg SlotUnit.st (mapUnit_s_unit w f)).trans h, rfl, rfl, rfl⟩

theorem KeepsFiles.storeMarks (w : Work) (a : Word) (locs : List Nat) : KeepsFiles w (w.storeMarks a locs) := by
  have hremote (w : Work) : KeepsFiles w (w.countRemote locs) := by
    unfold Work.countRemote
    split
    · exact KeepsFiles.mapUnit w rfl
    · exact .of_slots rfl rfl rfl rfl
  unfold Work.storeMarks
  split
  · refine (KeepsFiles.mapUnit w ?_).trans (hremote _)
    exact foldl_keeps SlotUnit.st (fun u l => by split <;> rfl) locs w.s.unit
  · exact hremote w

theorem KeepsFiles.feedWrite (w : Work) (a : Word) (data : List Byte) : KeepsFiles w (w.feedWrite a data) := .mapThr w _

theorem KeepsFiles.stored (w : Work) (a : Word) (locs : List Nat) (data : List Byte) : KeepsFiles w (w.stored a locs data) := by
  have hput (l : List (Nat × Byte)) (w : Work) : KeepsFiles w (l.foldl (fun w p => w.putByte p.1 p.2) w) :=
    .of_slots (putAll_s l w) (foldl_keeps Work.npc (fun _ _ => by rfl) l w) (foldl_keeps Work.strips (fun _ _ => by rfl) l w)
      (foldl_keeps Work.base (fun _ _ => by rfl) l w)
  have hnoted : KeepsFiles w (if locs.any (fun l => w.m.almanac l) then w.noteBytes w.s.unit.lid w.s.unit.unit true (locs.zip data) else w) := by
    split <;> exact .of_slots rfl rfl rfl rfl
  exact ((hnoted.trans (hput (locs.zip data) _)).trans (.storeMarks _ a locs)).trans (.feedWrite _ a data)

/-- The translation of a scalar access. -/
theorem KeepsFiles.scalarPlace {w v : Work} {n acc loc : Nat} {spt a : Word} {sup : Bool}
    (h : scalarPlace w n spt sup a acc = .ok (loc, v)) : KeepsFiles w v :=
  have happart := apartFromWalk_scalarPlace h
  .of_slots (congrArg Work.s happart :) (congrArg Work.npc happart :) (congrArg Work.strips happart :) (congrArg Work.base happart :)

/-- A completed scalar word that keeps the files: memory as its work left it, and the files as they were when it began. -/
theorem KeepsFiles.completion {i : Instr} {s : State} {w t : Work} (h : KeepsFiles w t) (hbegins : Begins i s w) (hplain : PlainScalar s i) :
    (completed i s t).work.s.regs = { s.work.s.regs with pc := s.work.s.regs.pc + 4 } ∧
    (completed i s t).work.s.ctl = s.work.s.ctl ∧ (completed i s t).work.s.sup = s.work.s.sup := by
  obtain ⟨hcls, htile, hswitch⟩ := hplain
  obtain ⟨rfl, -⟩ := begins_of_scalar hbegins hcls
  have hruns : t.s.unit.st.runs = true := by
    rw [h.state]
    exact runs_of_issues hbegins.1.1
  have hretired := retire_s_regs i s.work.s hruns
  have hctl : (t.retire i s.work.s).s.ctl = s.work.s.ctl := by
    have hkept : t.s.ctl = s.work.s.ctl := h.files.2.1
    simp [Work.retire, hruns, countStrips_none h.strips, hcls, htile, hswitch, hkept]
  have hcur : (completed i s t).cur = (t.retire i s.work.s).m.cur := by
    obtain ⟨slots, hwrote⟩ := wrote_eq (t.retire i s.work.s).m (t.retire i s.work.s).unspent
    rw [completed, finish_toMach, hwrote]
  have hslot : SameFiles (t.retire i s.work.s).s (completed i s t).work.s := by
    change SameFiles _ ((completed i s t).toMach.slot (completed i s t).cur)
    rw [hcur]
    exact wrote_sameFiles _ _ _
  refine ⟨?_, hslot.2.1.trans hctl, hslot.2.2.trans ((retire_sup ..).trans h.files.2.2)⟩
  rw [hslot.1, hretired, h.npc, h.files.1]
  rfl

theorem span_nodup (loc n : Nat) : (span loc n).Nodup :=
  (List.nodup_range).map fun _ _ h => Nat.add_left_cancel h

theorem mem_span {loc n x : Nat} : x ∈ span loc n ↔ loc ≤ x ∧ x < loc + n := by
  simp only [span, List.mem_map, List.mem_range]
  exact ⟨fun ⟨k, hk, hx⟩ => by omega, fun h => ⟨x - loc, by omega, by omega⟩⟩

theorem leBytes_getElem (n v : Nat) {k : Nat} (hk : k < n) : (leBytes n v)[k]? = some (BitVec.ofNat 8 (v / 256 ^ k)) := by
  induction n generalizing v k with
  | zero => cases hk
  | succ n ih =>
    cases k with
    | zero => simp [leBytes]
    | succ k =>
      rw [leBytes, List.getElem?_cons_succ, ih (v / 256) (Nat.lt_of_succ_lt_succ hk), Nat.pow_succ', Nat.div_div_eq_div_mul]

/-- The bytes of a scalar write: each of its places holds its byte. -/
theorem byte_stored_span (w : Work) (a : Word) (loc n v : Nat) {k : Nat} (hk : k < n) :
    (w.stored a (span loc n) (leBytes n v)).byte (loc + k) = BitVec.ofNat 8 (v / 256 ^ k) := by
  have hbytes := bytes_stored w a (span_nodup loc n) (data := leBytes n v) (by simp [span])
  have hplace := congrArg (·[k]?) hbytes
  simp only [List.getElem?_map, span, List.getElem?_range hk, leBytes_getElem n v hk, Option.map_some] at hplace
  exact Option.some.inj hplace

/-- Settles O18: each word is the store of its size; a misaligned access traps before its walk. -/
theorem scalarStores : Obligations.ScalarStores := by
  refine ⟨fun s w w1 st d a off loc hmem p hp hbegins hwrites => ?_, fun s w st d a b off => ?_⟩
  · suffices hword : PlainScalar s p.1 ∧ Runs p.1 s w (w.storeX d a off p.2) by
      obtain ⟨hplain, hruns⟩ := hword
      obtain ⟨hlimit, hmade⟩ := begins_whole hbegins
      have hkeeps : KeepsFiles w (w1.stored (w.scalarAddr a off p.2) (span loc p.2) (leBytes p.2 (w.x d.val).toNat)) :=
        (KeepsFiles.scalarPlace hwrites.2.1).trans (.stored ..)
      obtain ⟨hregs, hctl, hsup⟩ := hkeeps.completion hbegins hplain
      have hbase : w.base = s.mem := by
        obtain ⟨rfl, -⟩ := begins_of_scalar hbegins hplain.1
        rfl
      refine ⟨_, exec_of_runs (hruns.trans (storeScalar_of_writes hlimit hmade hwrites _)) hbegins, fun k hk => ?_, fun x hx => ?_,
        fun bank n => ?_, fun n _ => ?_, ⟨fun n => ?_, fun n => ?_⟩, hsup, hctl, ?_⟩
      · exact (memGet_completed _ hmem (hkeeps.base.trans hbase) _).trans (byte_stored_span _ _ _ _ _ hk)
      · exact (memGet_completed _ hmem (hkeeps.base.trans hbase) _).trans
          (byte_stored_of_notMem _ _ _ (fun h => by rw [mem_span] at h; omega))
      · exact (congrArg (SlotRegs.getX · bank n) hregs :)
      · exact (congrArg (SlotRegs.getV · n) hregs :)
      · exact (congrArg (SlotRegs.getM · n) hregs :)
      · exact (congrArg (SlotRegs.getK · n) hregs :)
      · exact (congrArg SlotRegs.pc hregs :)
    clear hbegins hwrites
    revert p
    simp only [List.forall_mem_cons]
    exact ⟨⟨⟨rfl, rfl, rfl⟩, rfl, rfl⟩, ⟨⟨rfl, rfl, rfl⟩, rfl, rfl⟩, ⟨⟨rfl, rfl, rfl⟩, rfl, rfl⟩, ⟨⟨rfl, rfl, rfl⟩, rfl, rfl⟩,
      List.forall_mem_nil _⟩
  · intro p hp addr hbegins hmis
    suffices hword : ((infoOf s.work.s.ctl.fmt p.1).cls = .scalar ∧ isRendezvous s.work.s.ctl.fmt p.1 = false) ∧
        Runs p.1 s w (raise w cMISALIGNED addr p.2.2.2) by
      obtain ⟨⟨hcls, hlane⟩, hruns⟩ := hword
      exact hruns.1.trans (issue_traps hbegins hcls (.inr (show cMISALIGNED ≠ cMEMORY_POISON by decide)) hlane hruns.2)
    clear hbegins
    have hbare (x : Word) : x + (0 : BitVec 9).signExtend 64 * BitVec.ofNat 64 8 = x := by simp
    revert p
    simp only [List.forall_mem_cons, hbare]
    refine ⟨fun h => ⟨⟨rfl, rfl⟩, rfl, loadX_misaligned h d true⟩, fun h => ⟨⟨rfl, rfl⟩, rfl, loadX_misaligned h d true⟩, -- ld16, ld32
      fun h => ⟨⟨rfl, rfl⟩, rfl, loadX_misaligned h d true⟩, fun h => ⟨⟨rfl, rfl⟩, rfl, loadX_misaligned h d false⟩, -- ld64, ld16.n
      fun h => ⟨⟨rfl, rfl⟩, rfl, loadX_misaligned h d false⟩, fun h => ⟨⟨rfl, rfl⟩, rfl, storeX_misaligned h d⟩, -- ld32.n, st16
      fun h => ⟨⟨rfl, rfl⟩, rfl, storeX_misaligned h d⟩, fun h => ⟨⟨rfl, rfl⟩, rfl, storeX_misaligned h d⟩, -- st32, st64
      fun h => ⟨⟨rfl, rfl⟩, rfl, ldl_misaligned h d⟩, fun h => ⟨⟨rfl, rfl⟩, rfl, stc_misaligned h d b⟩, -- ldl, stc
      List.forall_mem_nil _⟩

/-! ### The linked pair (03 R70 to R72) -/

/-- Whether a write may take place now does not rest on the links that earlier writes break. -/
theorem writable_spend (w : Work) (slot : Nat) (locs : List Nat) : writable w.spend.m slot locs = writable w.m slot locs := by
  have hrun (n : Nat) : (w.spend.m.slot n).thr.linkRun = (w.m.slot n).thr.linkRun := by
    change ((w.m.wrote w.unspent).slot n).thr.linkRun = _
    unfold Mach.wrote
    split
    · rfl
    · rw [slot_breakLinks]
      split <;> rfl
  obtain ⟨slots, hm⟩ := wrote_eq w.m w.unspent
  have hspend : w.spend.m = { w.m with slots := slots } := hm
  rw [hspend] at hrun ⊢
  have hheld (who line : Nat) : ({ w.m with slots := slots } : Mach).heldFor who line = w.m.heldFor who line := by
    simp only [Mach.heldFor, hrun]
  have hby (who line : Nat) : ({ w.m with slots := slots } : Mach).heldBy who line = w.m.heldBy who line := by
    simp only [Mach.heldBy, hrun]
  have howned (line : Nat) : ({ w.m with slots := slots } : Mach).owned line = w.m.owned line := by
    simp only [Mach.owned, Mach.ownedFor, hby]
  have hreadable : readable { w.m with slots := slots } locs = readable w.m locs := by
    simp only [readable, howned]
    rfl
  simp only [writable, hreadable, hheld]

/-- A scalar access that is aligned and whose address translates. -/
theorem scalar_of_place {w w1 : Work} {a : Word} {size acc loc : Nat} (halign : a.toNat % size = 0)
    (hplace : scalarPlace w w.m.cur w.ctx.spt (w.s.regs.level == .supervisor) a acc = .ok (loc, w1)) :
    w.scalar a size acc = .ok (loc, w1) := by
  rw [Work.scalar, if_neg (not_not_intro halign), hplace]
  rfl

/-- A linked load whose read passes its checks and whose line no other slot's sequence holds. -/
theorem ldl_links {w w1 : Work} {d a : Reg} {loc : Nat} (hlimit : w.limit = none) (hmade : w.made = [])
    (hreads : ScalarReads w (w.x a.val) 8 loc w1) (hfree : (w1.readAt loc 8).spend.unheld [loc / 64] = .ok ()) :
    bodyLdl d a w = .ok ((((w1.readAt loc 8).spend.dropHolds.addHold (loc / 64)).mapThr (fun t =>
      { t with link := some { addr := w.x a.val, line := loc / 64, intact := true } })).setX d.val
        (BitVec.ofNat 64 (leNat (w1.bytes loc 8)))) := by
  simp only [bodyLdl, load_of_reads hlimit hmade hreads, bind, Except.bind, lineOf, hfree]

/-- A linked load waits for a line that another slot's sequence holds. -/
theorem ldl_waits {w w1 : Work} {d a : Reg} {loc : Nat} (hlimit : w.limit = none) (hmade : w.made = [])
    (hreads : ScalarReads w (w.x a.val) 8 loc w1) (hheld : (w1.readAt loc 8).spend.unheld [loc / 64] ≠ .ok ()) :
    bodyLdl d a w = .error (.wait .heldLine) := by
  simp only [bodyLdl, load_of_reads hlimit hmade hreads, bind, Except.bind, lineOf, unheld_waits hheld]

section
variable {w w1 : Work} {d a b : Reg} {loc : Nat} (halign : (w.x a.val).toNat % 8 = 0)
  (hplace : scalarPlace w w.m.cur w.ctx.spt (w.s.regs.level == .supervisor) (w.x a.val) 1 = .ok (loc, w1))
include halign hplace

theorem stc_remote (hremote : isRemote loc = true) :
    bodyStc d a b w = raise w cACCESS_VIOLATION (detailAddr 14 (w.x a.val)) 1 := by
  simp only [bodyStc, scalar_of_place halign hplace, bind, Except.bind, hremote, if_true]

theorem stc_unlinked (hlocal : isRemote loc = false) (hlink : w1.spend.s.linkedTo (w.x a.val) = false) :
    bodyStc d a b w = .ok ((w1.spend.dropHolds.mapThr (fun t => { t with link := none })).setX d.val 1) := by
  simp only [bodyStc, scalar_of_place halign hplace, bind, Except.bind, hlocal, hlink, Bool.false_eq_true, if_false, boolWord, Bool.not_false,
    if_true]

theorem stc_stores (hlimit : w.limit = none) (hmade : w.made = [])
    (hwritable : writable w1.m w1.m.cur (span loc 8) = .ok ()) (hlocal : isRemote loc = false)
    (hlink : w1.spend.s.linkedTo (w.x a.val) = true) :
    bodyStc d a b w = .ok (((w1.spend.stored (w.x a.val) (span loc 8) (leBytes 8 (w.x b.val).toNat)).dropHolds.mapThr (fun t =>
      { t with link := none })).setX d.val 0) := by
  obtain ⟨hlimit1, hmade1, -⟩ := scalarPlace_sameRun hplace
  have hstore := store_whole (w := w1.spend) (hlimit1.trans hlimit) (hmade1.trans hmade) (w.x a.val) (span loc 8)
    (leBytes 8 (w.x b.val).toNat)
  have hcur : w1.spend.m.cur = w1.m.cur := by
    obtain ⟨slots, hm⟩ := wrote_eq w1.m w1.unspent
    exact (congrArg Mach.cur hm :)
  simp only [bodyStc, scalar_of_place halign hplace, bind, Except.bind, hlocal, hlink, hcur, writable_spend, hwritable, liftMiss, hstore,
    Bool.false_eq_true, if_false, if_true, boolWord, Bool.not_true]

end

/-- Settles O19: each word by its work, the walk of its address before the link is set or tested. -/
theorem linkedPair : Obligations.LinkedPair := by
  intro s w w1 st d a b loc
  refine ⟨fun hbegins hreads hfree => ?_, fun hbegins hreads hheld => ?_, fun hbegins halign hplace hremote => ?_,
    fun hbegins hwrites hlocal hlink => ?_, fun hbegins halign hplace hlocal hlink => ?_⟩
  all_goals obtain ⟨hlimit, hmade⟩ := begins_whole hbegins
  · exact exec_of_runs ⟨rfl, ldl_links hlimit hmade hreads hfree⟩ hbegins
  · exact exec_of_wait ⟨rfl, ldl_waits hlimit hmade hreads hheld⟩ hbegins
  · exact (issue_traps hbegins rfl (.inl rfl) rfl (stc_remote halign hplace hremote) :)
  · obtain ⟨halign, hplace, hwritable⟩ := hwrites
    exact exec_of_runs ⟨rfl, stc_stores halign hplace hlimit hmade hwritable hlocal hlink⟩ hbegins
  · exact exec_of_runs ⟨rfl, stc_unlinked halign hplace hlocal hlink⟩ hbegins

end Sys2Proof.Machine
end

section
/-! Vector length and type (03 R77 to R80): when a strip boundary passes, and what the two words write. -/

namespace Sys2Proof.Machine

/-- A scalar word that may issue begins on the state itself. -/
theorem begins_of_mayIssue {i : Instr} {s : State} (h : MayIssue i s) (hscalar : (infoOf s.work.s.ctl.fmt i).cls = .scalar) :
    Begins i s { s.work with npc := s.work.s.regs.pc + 4 } :=
  ⟨h, _, sources_of_unbound (boundSources_of_scalar hscalar), rfl⟩

/-! ### setvt (03 R80) -/

/-- The words that `vtype` takes: an assigned FMT code, BLK from 3, SLC from 3 to 8. -/
def VtypeOk (v : Nat) : Prop := v % 16 ≤ 12 ∧ 3 ≤ v / 16 % 8 ∧ 3 ≤ v / 256 % 16 ∧ v / 256 % 16 ≤ 8

theorem putVtype_of_ok {w : Work} {v : Word} (h : VtypeOk v.toNat) :
    let n := vlmaxBits (fmtBits (BitVec.ofNat 4 v.toNat)) w.prot
    w.putVtype v = some (n, w.mapCtl (fun c => { c with
      fmt := BitVec.ofNat 4 v.toNat, blk := BitVec.ofNat 3 (v.toNat / 16), slc := BitVec.ofNat 4 (v.toNat / 256),
      vl := BitVec.ofNat 12 (min c.vl.toNat n), vstart := 0 })) := by
  obtain ⟨hfmt, hblk, hlow, hhigh⟩ := h
  have hvalid : ¬(12 < (v.setWidth 4).toNat ∨ bitsN v 4 3 < 3 ∨ bitsN v 8 4 < 3 ∨ 8 < bitsN v 8 4) := by
    simp only [BitVec.toNat_setWidth, bitsN]
    omega
  have hfield (k : Nat) (n : Nat) : BitVec.ofNat n (bitsN v k n) = BitVec.ofNat n (v.toNat / 2 ^ k) :=
    BitVec.eq_of_toNat_eq (by simp [bitsN])
  refine (if_neg hvalid).trans ?_
  simp only [hfield, Nat.reducePow]
  rfl

theorem putVtype_of_not_ok {w : Work} {v : Word} (h : ¬VtypeOk v.toNat) : w.putVtype v = none := by
  refine if_pos ?_
  simp only [VtypeOk] at h
  simp only [BitVec.toNat_setWidth, bitsN]
  omega

/-- Settles O23: VLMAX code by code, and `setvt` by whether `vtype` takes the word. -/
theorem vectorLengthAndType : Obligations.VectorLengthAndType := by
  have hlength : ∀ (f : BitVec 4) (prot : Bool), f.toNat ≤ 12 → vlmaxBits (fmtBits f) prot = (if prot then 8192 else 16384) /
      (if f.toNat ∈ [0, 4, 12] then 8 else if f.toNat ∈ [1, 5, 8, 9] then 16 else if f.toNat ∈ [2, 6, 10] then 32 else 64) := by
    decide
  refine ⟨fun w hfmt => hlength _ _ hfmt, rfl, fun s st d a hmay => ?_⟩
  have hbegins := begins_of_mayIssue hmay rfl
  exact ⟨fun hok => exec_of_runs ⟨rfl, by rw [bodyOf, bodySetvt, putVtype_of_ok hok]⟩ hbegins,
    fun hno => exec_of_runs ⟨rfl, by rw [bodyOf, bodySetvt, putVtype_of_not_ok hno]⟩ hbegins⟩

/-! ### setvl (03 R78, R83; 16 R404, R405) -/

/-- A strip boundary of a job that neither records nor compares strips: only the signature begins again, where a strip ends. -/
theorem endStrip_of_uncompared {w : Work} (hrecord : bitB w.job.calmode 1 = false) (hcompare : bitB w.job.calmode 2 = false) :
    w.endStrip = .ok (if w.s.ctl.vstripno = BitVec.ofNat 32 w.s.unit.ord then w
      else w.mapThr (fun t => { t with sig := 0xFFFFFFFFFFFFFFFF })) := by
  have hdiffers : w.differs = false := by simp [Work.differs, hcompare]
  unfold Work.endStrip
  by_cases hfirst : w.s.ctl.vstripno = BitVec.ofNat 32 w.s.unit.ord
  · have hin : w.s.inStrip = false := by simp [Slot.inStrip, hfirst]
    simp [hin, hfirst]
  · have hin : w.s.inStrip = true := by simp [Slot.inStrip, hfirst]
    simp [hin, hfirst, hdiffers, hrecord, bind, Except.bind]

theorem checkStrip_of_uncompared {w : Work} (hcompare : bitB w.job.calmode 2 = false) : w.checkStrip = .ok () := by
  have hdiffers : w.differs = false := by simp [Work.differs, hcompare]
  simp [Work.checkStrip, hdiffers]

section
variable {w : Work} {d a : Reg}

theorem setvl_cancelled (h : w.m.cancelledLid w.s.unit.lid = true) : bodySetvl d a w = raise w cCANCELLED 0 := if_pos h

variable (hlive : w.m.cancelledLid w.s.unit.lid = false)
include hlive

theorem setvl_zero (hzero : (w.x a.val).toNat = 0) :
    bodySetvl d a w = .ok ((w.mapCtl (fun c => { c with vl := 0, vstart := 0 })).setX d.val 0) := by
  simp [bodySetvl, hlive, hzero]

variable (hsome : (w.x a.val).toNat ≠ 0)
include hsome

theorem setvl_preempted (hstop : w.s.unit.st = .stop) : bodySetvl d a w = .error (.wait .landing) := by
  simp [bodySetvl, hlive, hsome, hstop]

variable (hgoes : w.s.unit.st ≠ .stop) (hcompare : bitB w.job.calmode 2 = false)
include hgoes hcompare

theorem setvl_stops (hstops : w.s.stops = true) : bodySetvl d a w = raise w cSTRIP_STOP (w.s.ctl.vstripno.setWidth 64) := by
  simp [bodySetvl, hlive, hsome, hgoes, checkStrip_of_uncompared hcompare, hstops, bind, Except.bind]

theorem setvl_grants {w1 : Work} (hstops : w.s.stops = false)
    (hwms : ∀ k ∈ w.s.unit.wms, k.Passed w.m (w.s.ctl.vcursor.toNat + min (w.x a.val).toNat w.vlmax))
    (hend : w.endStrip = .ok w1) (htrace : bitB w1.s.sup.trcctl 0 = false) :
    let grant := min (w.x a.val).toNat w.vlmax
    bodySetvl d a w = .ok (((w1.mapCtl (fun c => { c with
      vl := BitVec.ofNat 12 grant, vstart := 0, vstripno := c.vstripno + 1,
      vcursor := BitVec.ofNat 64 (w.s.ctl.vcursor.toNat + grant) })).mapSup
        (fun p => { p with dbgctl := putBit p.dbgctl 3 false })).setX d.val (BitVec.ofNat 64 grant)) := by
  simp only [bodySetvl, hlive, hsome, hgoes, checkStrip_of_uncompared hcompare, hstops, passWatermarks_of_passed hwms, hend, htrace,
    bind, Except.bind, Bool.false_eq_true, if_false]

end

/-- Settles O22: each case of the length, and of what stands at the boundary. -/
theorem setVectorLength : Obligations.SetVectorLength := by
  refine ⟨rfl, fun s st d a hmay => ?_⟩
  intro w c avl grant bound traps
  have hbegins : Begins (.setvl st d a) s w := begins_of_mayIssue hmay rfl
  refine ⟨fun hcancelled => ?_, fun hlive => ⟨fun hzero => ?_, fun hsome hstop => ?_, fun hsome hgoes hrecord hcompare =>
    ⟨fun hstops => ?_, fun hstops htrace hwms => ?_⟩⟩⟩
  · exact exec_of_raise ⟨rfl, setvl_cancelled hcancelled⟩ rfl rfl (by decide) hbegins
  · exact exec_of_runs ⟨rfl, setvl_zero hlive hzero⟩ hbegins
  · exact exec_of_wait ⟨rfl, setvl_preempted hlive hsome hstop⟩ hbegins
  · exact exec_of_raise ⟨rfl, setvl_stops hlive hsome hgoes hcompare hstops⟩ rfl rfl (by decide) hbegins
  · have hpassed (k : Watermark) (hk : k ∈ w.s.unit.wms) : k.Passed w.m bound := by
      rcases hwms k hk with hdone | ⟨hlive, hneed⟩
      · exact ⟨by omega, by omega, .inr (by omega)⟩
      · exact ⟨by omega, by omega, .inl hneed⟩
    intro w1
    have hw1 : bitB w1.s.sup.trcctl 0 = false := by
      simp only [w1]
      split
      · exact htrace
      · rwa [mapThr_s_sup]
    exact exec_of_runs ⟨rfl, setvl_grants hlive hsome hgoes hcompare hstops hpassed (endStrip_of_uncompared hrecord hcompare) hw1⟩ hbegins

end Sys2Proof.Machine
end

section
/-! `wait`, and the events that end waits (03 R72, R76, R78; 12 R308, R309). -/

namespace Sys2Proof.Machine

/-! ### wait (03 R76) -/

section
variable {w w1 : Work} {d a : Reg} {loc : Nat} (hlimit : w.limit = none) (hmade : w.made = [])
  (hreads : ScalarReads w (w.x a.val) 8 loc w1)
include hlimit hmade hreads

theorem wait_ends (h : BitVec.ofNat 64 (leNat (w1.bytes loc 8)) ≠ w.x d.val ∨ w.leaving = true) :
    bodyWait d a w = .ok ((w1.readAt loc 8).setX d.val (BitVec.ofNat 64 (leNat (w1.bytes loc 8)))) := by
  simp only [bodyWait, load_of_reads hlimit hmade hreads, bind, Except.bind, if_pos h]

theorem wait_goes_on (hsame : BitVec.ofNat 64 (leNat (w1.bytes loc 8)) = w.x d.val) (hstays : w.leaving = false) :
    bodyWait d a w = .error (.wait .watch) := by
  have h : ¬(BitVec.ofNat 64 (leNat (w1.bytes loc 8)) ≠ w.x d.val ∨ w.leaving = true) := by simp [hsame, hstays]
  simp only [bodyWait, load_of_reads hlimit hmade hreads, bind, Except.bind, if_neg h]

theorem wait_times_out :
    w.timedOut d a = .ok ((w1.readAt loc 8).setX d.val (BitVec.ofNat 64 (leNat (w1.bytes loc 8)))) := by
  simp only [Work.timedOut, load_of_reads hlimit hmade hreads, bind, Except.bind]

end

/-! ### Events that complete what a slot holds (03 R59) -/

/-- An event that ends the wait of slot n completes the word that it holds, where its meaning then can; the current slot stays. -/
theorem heldEvent_completes {s : State} {n : Nat} {why : Waiting → Bool} {meaning : Instr → Option (Work → M Work)} {y : Waiting}
    {i : Instr} {f : Work → M Work} {w w' : Work} (hwaiting : (s.toMach.slot n).unit.waiting = some y) (hwhy : why y = true)
    (hheld : (s.toMach.slot n).unit.held = some i) (hmeaning : meaning i = some f) (hbegins : Begins i { s with cur := n } w)
    (hdone : f w = .ok w') :
    heldEvent n why meaning s = .next { completed i { s with cur := n } w' with cur := s.cur } := by
  obtain ⟨-, w1, hsources, rfl⟩ := hbegins
  have hrun := runMeaning_ok (w := ({ s with cur := n } : State).work) hsources hdone
  simp only [heldEvent, hwaiting, hwhy, hheld, hmeaning, hrun, settle_ok, Bool.not_true, Bool.false_eq_true, if_false]
  rfl

/-- Settles O46: `wait` by whether the word differs or the wait ends; the events by the meaning that they take up again. -/
theorem waits : Obligations.Waits := by
  refine ⟨fun s w w1 st d a loc hbegins hreads => ?_, fun s n line w w' w1 st d a g t loc => ?_⟩
  · obtain ⟨hlimit, hmade⟩ := begins_whole hbegins
    exact ⟨fun h => exec_of_runs ⟨rfl, wait_ends hlimit hmade hreads h⟩ hbegins,
      fun hsame hstays => exec_of_wait ⟨rfl, wait_goes_on hlimit hmade hreads hsame hstays⟩ hbegins⟩
  · refine ⟨fun hwaiting hheld hbegins hdone => ?_, fun hwaiting hheld hbegins hpass hlive => ?_,
      fun hwaiting hheld hbegins hreads => ?_, fun hheld => ?_⟩
    · exact heldEvent_completes hwaiting rfl hheld rfl hbegins hdone
    · exact heldEvent_completes hwaiting rfl hheld rfl hbegins ((bodyWmwait_of_live hlive).trans hpass)
    · obtain ⟨hlimit, hmade⟩ := begins_whole hbegins
      exact ⟨fun h => heldEvent_completes hwaiting rfl hheld rfl hbegins (wait_ends hlimit hmade hreads h),
        fun hfree => heldEvent_completes hwaiting rfl hheld rfl hbegins
          ((if_neg (by simp [hfree])).trans (wait_times_out hlimit hmade hreads))⟩
    · have hany : s.work.m.pkg.holds.any (fun h => h.1 = line) = true := by simpa using hheld
      exact event_writes_none (f := bodyLinkHoldExpiry line) (if_pos hany) rfl

end Sys2Proof.Machine
end

section
/-! Control registers (03 R81 to R87): what a write leaves to be read, and the same writes as events. -/

namespace Sys2Proof.Machine

/-! ### Fields as masks -/

/-- Bits kept are those of a mask. -/
theorem keepBits_eq_and (v : Word) (lo n : Nat) : keepBits v lo n = v &&& BitVec.ofNat 64 ((2 ^ n - 1) * 2 ^ lo) := by
  apply BitVec.eq_of_getLsbD_eq
  intro k hk
  simp only [keepBits, bitsN, BitVec.getLsbD_and, BitVec.getLsbD_ofNat, hk, decide_true, Bool.true_and, Nat.testBit_mul_two_pow,
    Nat.testBit_mod_two_pow, Nat.testBit_div_two_pow, Nat.testBit_two_pow_sub_one]
  by_cases hlo : lo ≤ k
  · rw [Nat.sub_add_cancel hlo, Bool.and_comm (decide (k - lo < n))]
    simp [hlo, BitVec.getLsbD]
  · simp [hlo]

/-- A field of the low n bits, read again. -/
theorem setWidth_setWidth_eq_and (v : Word) (n : Nat) : (v.setWidth n).setWidth 64 = v &&& BitVec.ofNat 64 (2 ^ n - 1) := by
  apply BitVec.eq_of_getLsbD_eq
  intro k hk
  simp only [BitVec.getLsbD_setWidth, BitVec.getLsbD_and, BitVec.getLsbD_ofNat, hk, decide_true, Bool.true_and,
    Nat.testBit_two_pow_sub_one]
  exact Bool.and_comm ..

/-- A field of one bit, read again. -/
theorem boolWord_bit_zero (v : Word) : boolWord (bitB v 0) = v &&& 1 := by
  rw [show (1 : Word) = BitVec.twoPow 64 0 from rfl, BitVec.and_twoPow, boolWord, bitB]
  rfl

/-- Two fields side by side, each the bits of v in its place. -/
theorem low_add_bit (v : Word) (n : Nat) :
    BitVec.ofNat 64 (v.toNat % 2 ^ n + at_ n (bitB v n).toNat) = v &&& BitVec.ofNat 64 (2 ^ (n + 1) - 1) := by
  have hkeep := keepBits_eq_and v 0 (n + 1)
  rw [keepBits, bitsN_zero, Nat.pow_zero, Nat.mul_one, Nat.mul_one, Nat.mod_pow_succ] at hkeep
  rw [at_, Nat.mul_comm, bitB, BitVec.getLsbD, Nat.toNat_testBit]
  exact hkeep

/-- The two lowest bits, each a field of its own. -/
theorem two_bits (v : Word) : BitVec.ofNat 64 ((bitB v 0).toNat + at_ 1 (bitB v 1).toNat) = v &&& 3 := by
  have hlow : (bitB v 0).toNat = v.toNat % 2 ^ 1 := by
    rw [bitB, BitVec.getLsbD, Nat.toNat_testBit, Nat.pow_zero, Nat.div_one, Nat.pow_one]
  rw [hlow]
  exact low_add_bit v 1

/-! ### What is read after a write (03 R82 to R86; 13 R330; 15 R362, R363, R378; 16 R393, R395) -/

section
variable (w : Work)

/-- A control register of the slot's vector unit, read after its fields are written. -/
theorem readCsr_mapCtl {r : Nat} (g : SlotCtl → Word) (hr : ∀ w : Work, w.readCsr r = g w.s.ctl) {f : SlotCtl → SlotCtl} {v m : Word}
    (h : g (f w.s.ctl) = v &&& m) : (w.mapCtl f).readCsr r = v &&& m := by
  rw [hr, mapCtl_s_ctl, h]

/-- A Supervisor register of the slot. -/
theorem readCsr_mapSup {r : Nat} (g : SlotSup → Word) (hr : ∀ w : Work, w.readCsr r = g w.s.sup) {f : SlotSup → SlotSup} {v m : Word}
    (h : g (f w.s.sup) = v &&& m) : (w.mapSup f).readCsr r = v &&& m := by
  rw [hr, mapSup_s_sup, h]

/-- A register of the slot's context. -/
theorem readCsr_setCtx {r : Nat} (g : Context → Word) (hr : ∀ w : Work, w.readCsr r = g w.ctx) {x : Context} {v m : Word}
    (h : g x = v &&& m) : (w.setCtx x).readCsr r = v &&& m := by
  have hctx : (w.setCtx x).ctx = x := by
    change tabGet _ (tabSet w.m.contexts w.s.unit.ctx x) w.s.unit.ctx = x
    rw [tabGet_tabSet, if_pos rfl]
  rw [hr, hctx, h]

theorem and_ones (v : Word) : v = v &&& 0xFFFFFFFFFFFFFFFF := (BitVec.and_allOnes).symm

/-- The registers that a slot writes at any level. -/
theorem readCsr_writeUnitCsr (v : Word) :
    ∀ p ∈ ([(0x02, 0x7FF), (0x03, 0xFFFFFFFFFFFFFFFF), (0x04, 0xF), (0x07, 0x1F), (0x0A, 1)] : List (Nat × Word)),
      (w.writeUnitCsr p.1 v).readCsr p.1 = v &&& p.2 := by
  simp only [List.forall_mem_cons]
  exact ⟨readCsr_mapCtl w (fun c => c.vstart.setWidth 64) (fun _ => rfl) (setWidth_setWidth_eq_and v 11), -- vstart
    readCsr_mapCtl w SlotCtl.vstride (fun _ => rfl) (and_ones v), -- vstride
    readCsr_mapCtl w vmselWord (fun _ => rfl) (low_add_bit v 3), -- vmsel
    readCsr_mapCtl w (fun c => c.fflags.setWidth 64) (fun _ => rfl) (setWidth_setWidth_eq_and v 5), -- fflags
    readCsr_mapCtl w (fun c => boolWord c.chkStall) (fun _ => rfl) (boolWord_bit_zero v), -- chkctl
    List.forall_mem_nil _⟩

/-- The registers that a slot writes at Supervisor level alone. -/
theorem readCsr_writeUnitCsr_supervisor (v : Word) (hlevel : w.s.regs.level = .supervisor) :
    ∀ p ∈ ([(0x08, 0xFFFFFFFF0000001F), (0x0C, 0xFFFFFFFFFFFFFFFF), (0x0D, 0xFFFFFFFF), (0x0E, 0x01FFFFFFFFFFFFF8),
      (0x12, 0xFFFFFFFF00003FFF)] : List (Nat × Word)), (w.writeUnitCsr p.1 v).readCsr p.1 = v &&& p.2 := by
  have hsup : w.sup = true := by rw [Work.sup, hlevel]; rfl
  have hwrites {f : SlotCtl → SlotCtl} {r : Nat} {m : Word} (h : (w.mapCtl f).readCsr r = v &&& m) :
      (if w.sup then w.mapCtl f else w).readCsr r = v &&& m := by rwa [if_pos hsup]
  simp only [List.forall_mem_cons]
  exact ⟨hwrites (readCsr_mapCtl w SlotCtl.vstate (fun _ => rfl) rfl), -- vstate
    hwrites (readCsr_mapCtl w SlotCtl.vcursor (fun _ => rfl) (and_ones v)), -- vcursor
    hwrites (readCsr_mapCtl w (fun c => c.vstripno.setWidth 64) (fun _ => rfl) (setWidth_setWidth_eq_and v 32)), -- vstripno
    hwrites (readCsr_mapCtl w SlotCtl.vprog (fun _ => rfl) (keepBits_eq_and v 3 54)), -- vprog
    hwrites (readCsr_mapCtl w SlotCtl.barseq (fun _ => rfl) rfl), -- barseq
    List.forall_mem_nil _⟩

/-- At User level the same registers keep what they hold. -/
theorem readCsr_writeUnitCsr_user (v : Word) (hlevel : w.s.regs.level = .user) :
    ∀ r ∈ [0x08, 0x0C, 0x0D, 0x0E, 0x12], (w.writeUnitCsr r v).readCsr r = w.readCsr r := by
  have hsup : ¬w.sup = true := by rw [Work.sup, hlevel]; decide
  have hkeeps {u : Work} {r : Nat} : (if w.sup then u else w).readCsr r = w.readCsr r := by rw [if_neg hsup]
  simp only [List.forall_mem_cons]
  exact ⟨hkeeps, hkeeps, hkeeps, hkeeps, hkeeps, List.forall_mem_nil _⟩

/-- The Supervisor registers. -/
theorem readCsr_writeSupCsr (v : Word) :
    ∀ p ∈ ([(0x100, 3), (0x101, 0x3FF), (0x102, 0x01FFFFFFFFFFFFFC), (0x103, 0xFFFFFFFFFFFFFFFF), (0x104, 0x01FFFFFFFFFFFFC1),
      (0x105, 0xFFFFFFFFFFFFFFFF), (0x140, 3), (0x150, 0x01FFFFFFFFFFFF80), (0x151, 0xFFFFFFFFFFFFFFFF), (0x152, 0xFFFFFFFF),
      (0x161, 0x3FFF), (0x163, 0x01FFFFFFFFFFF000), (0x164, 0xFFFFFFFF0000001F), (0x165, 0x01FFFFFFFFFFFFFC), (0x166, 7)] :
        List (Nat × Word)),
      ∃ w', w.writeSupCsr p.1 v = .ok w' ∧ w'.readCsr p.1 = v &&& p.2 := by
  simp only [List.forall_mem_cons]
  exact ⟨⟨_, rfl, readCsr_mapSup w sstatusWord (fun _ => rfl) (two_bits v)⟩, -- sstatus
    ⟨_, rfl, readCsr_mapSup w SlotSup.scause (fun _ => rfl) (keepBits_eq_and v 0 10)⟩, -- scause
    ⟨_, rfl, readCsr_mapSup w SlotSup.sepc (fun _ => rfl) (keepBits_eq_and v 2 55)⟩, -- sepc
    ⟨_, rfl, readCsr_mapSup w SlotSup.stval (fun _ => rfl) (and_ones v)⟩, -- stval
    ⟨_, rfl, readCsr_mapSup w SlotSup.stvec (fun _ => rfl) rfl⟩, -- stvec
    ⟨_, rfl, readCsr_mapSup w SlotSup.sscratch (fun _ => rfl) (and_ones v)⟩, -- sscratch
    ⟨_, rfl, readCsr_setCtx w (fun x => x.ckpctl.setWidth 64) (fun _ => rfl) (setWidth_setWidth_eq_and v 2)⟩, -- ckpctl
    ⟨_, rfl, readCsr_setCtx w Context.rpbase (fun _ => rfl) (keepBits_eq_and v 7 50)⟩, -- rpbase
    ⟨_, rfl, readCsr_setCtx w Context.rpseq (fun _ => rfl) (and_ones v)⟩, -- rpseq
    ⟨_, rfl, readCsr_setCtx w (fun x => x.rpgen.setWidth 64) (fun _ => rfl) (setWidth_setWidth_eq_and v 32)⟩, -- rpgen
    ⟨_, rfl, readCsr_mapSup w SlotSup.vhotsel (fun _ => rfl) (keepBits_eq_and v 0 14)⟩, -- vhotsel
    ⟨_, rfl, readCsr_mapSup w SlotSup.simg (fun _ => rfl) (keepBits_eq_and v 12 45)⟩, -- simg
    ⟨_, rfl, readCsr_mapSup w SlotSup.dbgctl (fun _ => rfl) rfl⟩, -- dbgctl
    ⟨_, rfl, readCsr_mapSup w SlotSup.dbgpc (fun _ => rfl) (keepBits_eq_and v 2 55)⟩, -- dbgpc
    ⟨_, rfl, readCsr_mapSup w SlotSup.trcctl (fun _ => rfl) (keepBits_eq_and v 0 3)⟩, -- trcctl
    List.forall_mem_nil _⟩

end

/-- Settles O24: `rdc` and `wrc` as their works say; each register by the fields that its write keeps. -/
theorem controlRegisters : Obligations.ControlRegisters :=
  ⟨fun _ _ _ _ _ => ⟨exec_of_runs ⟨rfl, rfl⟩, fun hbegins hunit => exec_of_runs ⟨rfl, if_pos hunit⟩ hbegins,
    fun hbegins hsup _ hwrite => exec_of_runs ⟨rfl, (if_neg (Nat.not_lt.2 hsup)).trans hwrite⟩ hbegins⟩,
   fun w v => ⟨readCsr_writeUnitCsr w v, readCsr_writeUnitCsr_supervisor w v, readCsr_writeUnitCsr_user w v, readCsr_writeSupCsr w v⟩⟩

/-! ### Writes as events (03 R82; 06 R145, R147; 09 R214; 15 R378, R383) -/

/-- A way that is cleared leaves the vaults, and every byte that is not its own. -/
theorem clearWay_keeps (w : Work) (vault way : Nat) :
    (w.clearWay vault way).m.vaults = w.m.vaults ∧ (w.clearWay vault way).m.cur = w.m.cur ∧ (w.clearWay vault way).base = w.base ∧
    ∀ x, inWay vault way x = false → (w.clearWay vault way).byte x = w.byte x := by
  refine ⟨rfl, rfl, rfl, fun x hx => ?_⟩
  change (w.clearBytes (vaultLoc vault way 0) (2 ^ 20)).byte x = _
  rw [byte_clearBytes, if_neg]
  simpa [inWay] using hx

theorem clearWays_keep (l : List Nat) (w : Work) (vault : Nat) :
    (l.foldl (fun w n => w.clearWay vault n) w).m.vaults = w.m.vaults ∧ (l.foldl (fun w n => w.clearWay vault n) w).m.cur = w.m.cur ∧
    (l.foldl (fun w n => w.clearWay vault n) w).base = w.base ∧
    ∀ x, (∀ n ∈ l, inWay vault n x = false) → (l.foldl (fun w n => w.clearWay vault n) w).byte x = w.byte x := by
  induction l generalizing w with
  | nil => exact ⟨rfl, rfl, rfl, fun _ _ => rfl⟩
  | cons n l ih =>
    obtain ⟨hvaults, hcur, hbase, hbyte⟩ := ih (w.clearWay vault n)
    obtain ⟨hvaults1, hcur1, hbase1, hbyte1⟩ := clearWay_keeps w vault n
    refine ⟨hvaults.trans hvaults1, hcur.trans hcur1, hbase.trans hbase1, fun x hx => ?_⟩
    rw [List.forall_mem_cons] at hx
    exact (hbyte x hx.2).trans (hbyte1 x hx.1)

/-- A repartition that no copy holds back: the codes of its vault, the other vaults, and every byte of a way whose code stays. -/
theorem writeWaypart_free {w : Work} (v : Word) (hfree : w.m.engines = []) : ∃ w', w.writeWaypart v = .ok w' ∧
    (w'.m.vault (clusterOf w.m.cur)).waypart = v.setWidth 32 ∧
    (∀ k, k ≠ clusterOf w.m.cur → w'.m.vault k = w.m.vault k) ∧ w'.base = w.base ∧
    ∀ x, (∀ n < 16, wayCode (w.m.vault (clusterOf w.m.cur)).waypart n ≠ wayCode (v.setWidth 32) n →
      inWay (clusterOf w.m.cur) n x = false) → w'.byte x = w.byte x := by
  unfold Work.writeWaypart
  simp only [hfree, List.any_nil, Bool.false_eq_true, if_false]
  generalize hways : (changedWays _ _).filter _ = ways
  obtain ⟨hvaults, hcur, hbase, hbyte⟩ := clearWays_keep ways w (clusterOf w.m.cur)
  refine ⟨_, rfl, ?_, fun k hk => ?_, hbase, fun x hx => hbyte x fun n hn => ?_⟩
  · exact congrArg Vault.waypart (tabGet_tabSet_self ..)
  · change tabGet _ (tabSet _ _ _) k = _
    rw [tabGet_tabSet_ne _ _ _ hk, hvaults]
    rfl
  · rw [← hways, List.mem_filter, changedWays, List.mem_filter, List.mem_range, bne_iff_ne] at hn
    exact hx n hn.1.1 hn.1.2

/-- Settles O25: each event by its work; a repartition by the ways that it clears. -/
theorem registerWriteEvents : Obligations.RegisterWriteEvents := by
  intro s v w
  refine ⟨?_, fun hwindow => ?_, fun hwindow => ?_, fun n w' hput => ?_, fun hput => ?_, fun hclear hwindow => ?_, fun hlevel hmay => ?_,
    fun hlevel howner hstate hvalue => ?_, fun k hkey => ?_, fun hlevel => ?_, fun hlevel hfree => ?_⟩
  · exact event_ok (f := bodyWriteVl v) (by rw [bodyWriteVl, Work.writeVl, bitsN_zero]; rfl)
  · exact event_ok (f := bodyWriteFflags v) (if_neg (not_not_intro hwindow))
  · exact event_wait (f := bodyWriteFflags v) (if_pos hwindow)
  · exact event_ok (f := bodyWriteVtype v) (by rw [bodyWriteVtype, Work.writeVtype, hput])
  · exact event_ok (f := bodyWriteVtype v) (by rw [bodyWriteVtype, Work.writeVtype, hput])
  · exact event_wait (f := bodyWriteVstate v) (if_pos (by simpa [hclear] using hwindow))
  · have hsup : w.sup = true := by rw [Work.sup, hlevel]; rfl
    have hgoes : ¬(!bitB v 0 && w.s.thr.window != []) = true := by
      rcases hmay with hset | hempty
      · simp [hset]
      · simp [hempty]
    exact event_ok (f := bodyWriteVstate v) ((if_neg hgoes).trans (congrArg Except.ok (if_pos hsup)))
  · have hsup : w.sup = true := by rw [Work.sup, hlevel]; rfl
    have hown : (w.sup && w.core.owner == some w.m.cur) = true := by rw [hsup, howner]; simp [w]
    have hmoves : 2 ≤ w.core.tstate ∧ 2 ≤ bitsN v 0 2 := ⟨hstate, by rwa [bitsN_zero]⟩
    refine event_ok (f := bodyWriteTstate v) ((congrArg Except.ok (if_pos hown)).trans ?_)
    rw [if_pos hmoves, bitsN_zero]
    rfl
  · refine event_ok (f := bodyWriteVhot v) ?_
    rw [bodyWriteVhot, Work.writeVhot, hkey, bitsN_zero]
  · exact event_ok (f := bodyWriteWaypart v) (if_neg (by rw [Work.sup, hlevel]; decide))
  · have hsup : w.sup = true := by rw [Work.sup, hlevel]; rfl
    obtain ⟨w', hwrite, hcodes, hothers, hbase, hbytes⟩ := writeWaypart_free (w := w) v hfree
    have hvault (k : Nat) : (w'.finish s).toMach.vault k = w'.m.vault k := by
      obtain ⟨slots, hwrote⟩ := wrote_eq w'.m w'.unspent
      rw [finish_toMach, hwrote]
      rfl
    refine ⟨_, event_ok (f := bodyWriteWaypart v) ((if_pos hsup).trans hwrite), ?_, fun k hk => ?_, fun hmem x hx => ?_⟩
    · rw [hvault]
      exact hcodes
    · rw [hvault]
      exact hothers k hk
    · rw [finish_mem, memGet_applyWrs hmem]
      have hview := hbytes x hx
      rw [Work.byte, hbase] at hview
      exact hview

end Sys2Proof.Machine
end

section
/-! Steps: the word that a step runs, how it is fetched, and the checks before it (01 R7; 02 R24, R36 to R43; 15 R371). -/

namespace Sys2Proof.Machine

/-! ### The turn of a step (01 R7; log 4) -/

/-- A step of a slot that goes on, with nothing on the agenda and no turn set before it. -/
theorem step_own {s : State} (hagenda : s.agenda = []) (hruns : s.runs = true) (hgate : s.calendarGate (some (.slot s.cur)) = none) :
    step s = runSlot (s.issuing s.cur) := by
  simp only [step, hagenda, hruns, if_true, ownTurn, hgate, Option.getD_none]

/-- A tie noted leaves every slot, the contexts and which slot is current. -/
theorem tied_keeps (s : State) (n : Nat) : (s.tied n).work.s = s.work.s ∧ (s.tied n).cur = s.cur ∧ (s.tied n).mem = s.mem := by
  unfold State.tied Work.tied
  split <;> exact ⟨rfl, rfl, rfl⟩

section
variable {s : State} (hagenda : s.agenda = []) (hruns : s.runs = true) (hgate : s.calendarGate (some (.slot s.cur)) = none)
  (hwindow : s.work.s.thr.window = [])
include hagenda hruns hgate hwindow

/-- With an empty replay queue the turn is taken in the state in which a tie is noted. -/
theorem step_tied : step s = runSlot (s.tied s.cur) ∧ (s.tied s.cur).work.s.thr.window = [] := by
  have hissuing : s.issuing s.cur = s.tied s.cur := if_pos hwindow
  rw [step_own hagenda hruns hgate, hissuing, (tied_keeps s s.cur).1]
  exact ⟨rfl, hwindow⟩

/-- The word that comes next runs, where it decodes. -/
theorem step_decoded {word : Nat} {w : Work} {i : Instr} (hnext : (s.tied s.cur).work.nextWord = .ok (word, w))
    (hdecode : decodeWord word = .ok i) : step s = exec i (w.finish (s.tied s.cur)) := by
  obtain ⟨hstep, hempty⟩ := step_tied hagenda hruns hgate hwindow
  rw [hstep, runSlot]
  simp only [hempty, hnext, hdecode]

/-- It traps where it does not decode. -/
theorem step_illegal {word : Nat} {w : Work} {e : DecodeError} (hnext : (s.tied s.cur).work.nextWord = .ok (word, w))
    (hdecode : decodeWord word = .error e) : step s =
      settle (s.tied s.cur) none (.error (.trap w { cause := cILLEGAL, acc := 0, stval := memberVal 0 word })) := by
  obtain ⟨hstep, hempty⟩ := step_tied hagenda hruns hgate hwindow
  rw [hstep, runSlot]
  simp only [hempty, hnext, hdecode]

/-- What stops the fetch, or fails a check of a convoy, stops the step. -/
theorem step_stopped {e : Stop} (hnext : (s.tied s.cur).work.nextWord = .error e) : step s = settle (s.tied s.cur) none (.error e) := by
  obtain ⟨hstep, hempty⟩ := step_tied hagenda hruns hgate hwindow
  rw [hstep, runSlot]
  simp only [hempty, hnext]

end

/-- Where entries stand in the replay queue, the turn is the oldest one's. -/
theorem step_oldest {s : State} {f : InFlight} {fs : List InFlight} (hagenda : s.agenda = []) (hruns : s.runs = true)
    (hgate : s.calendarGate (some (.slot s.cur)) = none) (hwindow : s.work.s.thr.window = f :: fs) :
    step s = if s.work.s.toRun f then exec f.instr s else .next (s.work.commitOldest.finish s) := by
  have hfull : (s.toMach.slot s.cur).thr.window ≠ [] := by
    rw [show (s.toMach.slot s.cur).thr.window = f :: fs from hwindow]
    exact List.cons_ne_nil f fs
  have hissuing : s.issuing s.cur = s := if_neg hfull
  rw [step_own hagenda hruns hgate, hissuing, runSlot]
  simp only [hwindow]

/-- The words of a convoy, where the first has C = 0: it alone. -/
theorem members_of_single {w v : Work} {pc : Word} {word : Nat} (hfetch : w.fetch pc = .ok (word, v)) (hc : wordC word = false)
    {k : Nat} (hk : k ≠ 0) : w.members pc k = .ok ([word], v) := by
  obtain ⟨k, rfl⟩ := Nat.exists_eq_succ_of_ne_zero hk
  simp only [Work.members, hfetch, bind, Except.bind, hc, Bool.false_eq_true, if_false]

/-- Outside a convoy, a word with C = 0 stands alone. -/
theorem nextWord_of_single {w v : Work} {word : Nat} (hconvoy : w.s.thr.convoy = []) (hfetch : w.fetch w.s.regs.pc = .ok (word, v))
    (hc : wordC word = false) : w.nextWord = .ok (word, v) := by
  have hmembers := members_of_single hfetch hc (k := 2 ^ 55) (by decide)
  simp only [Work.nextWord, hconvoy, hmembers, bind, Except.bind, hc, Bool.false_eq_true, if_false]

/-- In a convoy, the word that stands first. -/
theorem nextWord_of_convoy {w : Work} {word : Nat} {rest : List Nat} (hconvoy : w.s.thr.convoy = word :: rest) :
    w.nextWord = .ok (word, w) := by
  simp only [Work.nextWord, hconvoy]

/-- The commit point moves over an entry that all lanes have completed and that need not run. -/
theorem commitDone_formed {w : Work} {f : InFlight} {fs : List InFlight} {r : FlightResult} (k : Nat)
    (hwindow : w.s.thr.window = f :: fs) (hresult : f.result = some r) (hlanes : f.lanes = 0xFFFF) (hrun : w.s.toRun f = false) :
    w.commitDone (k + 1) = ((w.applyResult r).putWindow fs).commitDone k := by
  simp only [Work.commitDone, hwindow, hresult, hlanes, hrun, ne_eq, not_true, if_false, Bool.not_false, if_true]

/-- The oldest entry of a window, whose result is formed and which need not run, commits. -/
theorem commitOldest_of_formed {w : Work} {f : InFlight} {fs : List InFlight} {r : FlightResult} (hwindow : w.s.thr.window = f :: fs)
    (hresult : f.result = some r) (hrun : w.s.toRun f = false) :
    w.commitOldest = (((w.putWindow ({ f with lanes := 0xFFFF } :: fs)).applyResult r).putWindow fs).commitDone fs.length := by
  have hput : (w.putWindow ({ f with lanes := 0xFFFF } :: fs)).s.thr.window = { f with lanes := 0xFFFF } :: fs := by
    rw [Work.putWindow, mapThr_s_thr]
  have hstill : (w.putWindow ({ f with lanes := 0xFFFF } :: fs)).s.toRun { f with lanes := 0xFFFF } = false := by
    rw [← hrun, Work.putWindow, Slot.toRun, mapThr_s_thr]
    rfl
  rw [Work.commitOldest, hwindow]
  exact commitDone_formed fs.length hput hresult rfl hstill

/-- Settles O8: the next word is the one fetched, or the convoy's; with entries in the queue the oldest commits or goes on. -/
theorem stepRunsDecoded : Obligations.StepRunsDecoded := by
  refine ⟨fun s word w i hagenda hruns hgate hwindow hconvoy hfetch hc hdecode => ?_,
    fun s word rest i hagenda hruns hgate hwindow hconvoy hdecode => ?_,
    fun s f fs hagenda hruns hgate hwindow => ⟨fun r hresult hrun => ?_, fun hrun => ?_⟩, fun s n hno => ?_⟩
  · have hslot := (tied_keeps s s.cur).1
    exact step_decoded hagenda hruns hgate hwindow (nextWord_of_single (by rw [hslot, hconvoy]) (by rw [hslot, hfetch]) hc) hdecode
  · have hslot := (tied_keeps s s.cur).1
    exact step_decoded hagenda hruns hgate hwindow (nextWord_of_convoy (by rw [hslot, hconvoy])) hdecode
  · rw [step_oldest hagenda hruns hgate hwindow, hrun, commitOldest_of_formed hwindow hresult hrun]
    rfl
  · rw [step_oldest hagenda hruns hgate hwindow, if_pos hrun]
  · simp only [State.calendarGate, Due.calendar, hno, Option.bind_none]

/-! ### Fetching (02 R24; 15 R371) -/

/-- A fetch that succeeds has passed the checks of its access. -/
theorem fetch_ok {w v : Work} {pc : Word} {word : Nat} (h : w.fetch pc = .ok (word, v)) : ∃ loc w1,
    scalarPlace w w.m.cur w.ctx.spt (w.s.regs.level == .supervisor) pc 2 = .ok (loc, w1) ∧ word = w1.num loc 4 := by
  obtain ⟨⟨loc, w1⟩, hplace, h⟩ := bind_ok h
  obtain ⟨-, -, h⟩ := bind_ok h
  refine ⟨loc, w1, liftMiss_ok hplace, ?_⟩
  split at h
  · cases h
  · cases h; rfl

theorem memberVal_zero (v : Nat) : memberVal 0 v = BitVec.ofNat 64 v := by
  rw [memberVal, Nat.zero_mod, Nat.zero_mul, Nat.zero_add]

/-- Settles O9: a fetch by the checks that it passes; a word that decodes to nothing stops its step. -/
theorem illegalWordTraps : Obligations.IllegalWordTraps := by
  refine ⟨fun w w2 pc word hfetch => fetch_ok hfetch, fun s word w e hagenda hruns hgate hwindow hconvoy hfetch hc _ hdecode => ?_⟩
  have hslot := (tied_keeps s s.cur).1
  rw [← memberVal_zero]
  exact step_illegal hagenda hruns hgate hwindow (nextWord_of_single (by rw [hslot, hconvoy]) (by rw [hslot, hfetch]) hc) hdecode

/-! ### The checks of a word outside a convoy (02 R41 to R43) -/

/-- A step of an instruction that holds its slot takes the same trap as any other word that fails a check. -/
theorem issueStage_check {i : Instr} {f : Work → M Work} {s : State} {t : Trap} (h : s.work.s.issues = true)
    (q : s.work.s.thr.window = []) (c : s.work.checkTrap i = some t) :
    issueStage i f s = settle s (some i) (.error (.trap s.work t)) := by
  simp [issueStage, h, c, flight_of_empty i q]

/-- A word that is issued, alone or step by step. -/
def Issued (i : Instr) (s : State) : Prop := ∃ f, exec i s = issue i f s ∨ exec i s = issueStage i f s

/-- Every instruction word is issued; `send` where it is no turn of a sequencer that the agenda names. -/
theorem issued_of_isWord {i : Instr} {s : State} (hword : i.isWord = true) (hagenda : s.agenda = [] ∨ ∀ st, i ≠ .send st) :
    Issued i s := by
  cases i
  case send st =>
    have hempty : s.agenda = [] := hagenda.resolve_right fun h => h st rfl
    refine ⟨bodySend, .inl ?_⟩
    rw [exec, execSend, hempty]
  case ckpbeg st a b =>
    rw [Issued, exec, execCkpbeg]
    split
    · exact ⟨_, .inr rfl⟩
    · exact ⟨_, .inl rfl⟩
  case ckpseal st a =>
    rw [Issued, exec, execCkpseal]
    split
    · exact ⟨_, .inr rfl⟩
    · exact ⟨_, .inl rfl⟩
  all_goals cases hword
  all_goals exact ⟨_, .inl rfl⟩

/-- A word that fails a check of issue takes that trap. -/
theorem exec_of_check {i : Instr} {s : State} {t : Trap} (hword : i.isWord = true) (hagenda : s.agenda = [] ∨ ∀ st, i ≠ .send st)
    (hissues : s.work.s.issues = true) (hwindow : s.work.s.thr.window = []) (hcheck : s.work.checkTrap i = some t) :
    exec i s = settle s (some i) (.error (.trap s.work t)) := by
  obtain ⟨f, h | h⟩ := issued_of_isWord hword hagenda
  · rw [h, issue_check hissues hwindow hcheck]
  · rw [h, issueStage_check hissues hwindow hcheck]

section
variable {w : Work} {i : Instr}

theorem checkTrap_illegal (h : w.legal i = false) :
    w.checkTrap i = some { cause := cILLEGAL, acc := 0, stval := memberVal 0 (encode i) } := by
  simp [Work.checkTrap, h]

variable (hlegal : w.legal i = true)
include hlegal

theorem checkTrap_privileged (h : w.allowed i = false) :
    w.checkTrap i = some { cause := cPRIVILEGED, acc := 0, stval := memberVal 0 (encode i) } := by
  simp [Work.checkTrap, hlegal, h]

variable (hallowed : w.allowed i = true)
include hallowed

theorem checkTrap_disabled {t : Trap} (h : w.enabledTrap i = some t) : w.checkTrap i = some t := by
  simp [Work.checkTrap, hlegal, hallowed, h]

theorem checkTrap_stale {pc : Word} (henabled : w.enabledTrap i = none) (h : w.staleRead i = some pc) :
    w.checkTrap i = some { cause := cSTALL_SHORT, acc := 0, stval := memberVal 0 (bitsN pc 0 57) } := by
  simp [Work.checkTrap, hlegal, hallowed, henabled, h]

end

theorem enabledTrap_vector {w : Work} {i : Instr} (hvec : (infoOf w.s.ctl.fmt i).vec = true) (hoff : bitB w.s.ctl.vstate 0 = false) :
    w.enabledTrap i = some { cause := cVECTOR_DISABLED, acc := 0, stval := 0 } := by
  simp [Work.enabledTrap, hvec, hoff]

theorem enabledTrap_tile {w : Work} {i : Instr} {d : Nat} (hvec : (infoOf w.s.ctl.fmt i).vec = false ∨ bitB w.s.ctl.vstate 0 = true)
    (htile : (infoOf w.s.ctl.fmt i).tile = true) (hdetail : tileDetail w.m w.m.cur = some d) :
    w.enabledTrap i = some { cause := cTILE_DISABLED, acc := 0, stval := BitVec.ofNat 64 d } := by
  have hon : ((infoOf w.s.ctl.fmt i).vec && !bitB w.s.ctl.vstate 0) = false := by
    rcases hvec with h | h <;> simp [h]
  simp [Work.enabledTrap, hon, htile, hdetail]

/-! ### The checks of a convoy (02 R36, R38) -/

/-- Member k of a convoy breaks the limit of code c, its members known by their class and stall count (02 Table 2.11). -/
def Breaks (fs : List Info) (k c : Nat) : Prop :=
  let upTo (p : Info → Bool) : Nat := (fs.take (k + 1)).countP p
  let arith (f : Info) : Bool := f.cls == .va || f.cls == .va0
  let isCls (x : Cls) (f : Info) : Bool := f.cls == x
  ∃ f, fs[k]? = some f ∧
    ((c = 1 ∧ arith f = true ∧ upTo arith = 3) ∨ (c = 2 ∧ isCls .ld f = true ∧ upTo (isCls .ld) = 2) ∨
     (c = 3 ∧ isCls .st f = true ∧ upTo (isCls .st) = 2) ∨ (c = 4 ∧ isCls .sf f = true ∧ upTo (isCls .sf) = 2) ∨
     (c = 5 ∧ isCls .xl f = true ∧ (f.conv = true ∨ upTo (isCls .xl) = 2)) ∨
     (c = 6 ∧ (isCls .none f = true ∨ (isCls .scalar f = true ∧ 0 < k))) ∨ (c = 7 ∧ k = 6) ∨
     (c = 8 ∧ f.conv = true ∧ f.st ≠ 0))

/-- What the model has counted after some members. -/
structure Counted (n : ConvoyCount) (fs : List Info) : Prop where
  arith : n.arith = fs.countP (fun f => f.cls == .va || f.cls == .va0)
  ld : n.ld = fs.countP (fun f => f.cls == .ld)
  st : n.st = fs.countP (fun f => f.cls == .st)
  sf : n.sf = fs.countP (fun f => f.cls == .sf)
  xl : n.xl = fs.countP (fun f => f.cls == .xl)

theorem Counted.add {n : ConvoyCount} {fs : List Info} (h : Counted n fs) (f : Info) : Counted (n.add f.cls) (fs ++ [f]) := by
  obtain ⟨harith, hld, hst, hsf, hxl⟩ := h
  cases hcls : f.cls <;>
    exact ⟨by simp [ConvoyCount.add, List.countP_append, hcls, harith],
      by simp [ConvoyCount.add, List.countP_append, hcls, hld],
      by simp [ConvoyCount.add, List.countP_append, hcls, hst],
      by simp [ConvoyCount.add, List.countP_append, hcls, hsf],
      by simp [ConvoyCount.add, List.countP_append, hcls, hxl]⟩

/-- The code that the model gives member k is one that the member breaks, where no third XL member stands. -/
theorem Breaks.of_breaks {fs : List Info} {n : ConvoyCount} {k : Nat} {f : Info} (hf : fs[k]? = some f)
    (hcounted : Counted n (fs.take (k + 1))) (hxl : n.xl ≤ 2) (h : breaks n k f ≠ 0) : Breaks fs k (breaks n k f) := by
  obtain ⟨harith, hld, hst, hsf, hxls⟩ := hcounted
  refine ⟨f, hf, ?_⟩
  simp only [← harith, ← hld, ← hst, ← hsf, ← hxls]
  generalize hr : breaks n k f = r at h ⊢
  unfold breaks at hr
  simp only [Bool.and_eq_true, Bool.or_eq_true, beq_iff_eq, decide_eq_true_eq, bne_iff_ne] at hr ⊢
  split_ifs at hr with harith hld hst hsf hxlc hplace hlong hconv
  · exact .inl ⟨hr.symm, harith⟩
  · exact .inr (.inl ⟨hr.symm, hld⟩)
  · exact .inr (.inr (.inl ⟨hr.symm, hst⟩))
  · exact .inr (.inr (.inr (.inl ⟨hr.symm, hsf⟩)))
  · exact .inr (.inr (.inr (.inr (.inl ⟨hr.symm, hxlc.1, hxlc.2.imp_right fun h => by omega⟩))))
  · exact .inr (.inr (.inr (.inr (.inr (.inl ⟨hr.symm, hplace⟩)))))
  · exact .inr (.inr (.inr (.inr (.inr (.inr (.inl ⟨hr.symm, hlong⟩))))))
  · exact .inr (.inr (.inr (.inr (.inr (.inr (.inr ⟨hr.symm, hconv⟩))))))
  · exact absurd hr.symm h

/-- A limit that member k breaks is one that the model finds, by that code or a lower one. -/
theorem breaks_le {fs : List Info} {n : ConvoyCount} {k c : Nat} {f : Info} (hf : fs[k]? = some f)
    (hcounted : Counted n (fs.take (k + 1))) (h : Breaks fs k c) : breaks n k f ≠ 0 ∧ breaks n k f ≤ c := by
  obtain ⟨harith, hld, hst, hsf, hxls⟩ := hcounted
  obtain ⟨g, hg, h⟩ := h
  obtain rfl : f = g := Option.some.inj (hf.symm.trans hg)
  simp only [← harith, ← hld, ← hst, ← hsf, ← hxls] at h
  unfold breaks
  simp only [Bool.and_eq_true, Bool.or_eq_true, beq_iff_eq, decide_eq_true_eq, bne_iff_ne] at h ⊢
  grind

/-- The model finds the first member that breaks a limit, with the lowest code of those that it breaks: `pre` are the members already
counted, none of which has broken one, so that at most one of them is an XL member. -/
theorem conflict_of_breaks {fs : List Info} {m r : Nat} (hbreaks : Breaks fs m r)
    (hfirst : ∀ k c, Breaks fs k c → m < k ∨ (m = k ∧ r ≤ c)) (rest : List Info) {pre : List Info} {n : ConvoyCount}
    (hfs : fs = pre ++ rest) (hcounted : Counted n pre) (hxl : n.xl ≤ 1) (hm : pre.length ≤ m) :
    conflict n pre.length rest = some (m, r) := by
  induction rest generalizing pre n with
  | nil =>
    obtain ⟨f, hf, -⟩ := hbreaks
    rw [hfs, List.append_nil, List.getElem?_eq_none hm] at hf
    cases hf
  | cons f rest ih =>
    have hf : fs[pre.length]? = some f := by simp [hfs]
    have htake : fs.take (pre.length + 1) = pre ++ [f] := by simp [hfs, List.take_append]
    have hadd := hcounted.add f
    rw [← htake] at hadd
    have hxl2 : (n.add f.cls).xl ≤ 2 := by
      cases hcls : f.cls <;> simp only [ConvoyCount.add] <;> omega
    rw [conflict]
    by_cases h0 : breaks (n.add f.cls) pre.length f = 0
    · have hlater : pre.length ≠ m := fun heq => by
        rw [← heq] at hbreaks
        exact (breaks_le hf hadd hbreaks).1 h0
      have hxl1 : (n.add f.cls).xl ≤ 1 := by
        by_contra hmore
        have hcls : f.cls = .xl := by
          by_contra hcls
          cases h : f.cls <;> simp_all [ConvoyCount.add]
        rw [hcls] at h0 hmore
        have htwo : 2 ≤ (n.add .xl).xl := by omega
        simp [breaks, hcls, htwo] at h0
      rw [if_neg (not_not_intro h0)]
      have := ih (pre := pre ++ [f]) (n := n.add f.cls) (by simp [hfs]) (htake ▸ hadd) hxl1
        (by rw [List.length_append, List.length_singleton]; omega)
      rwa [List.length_append, List.length_singleton] at this
    · have hhere := hfirst _ _ (Breaks.of_breaks hf hadd hxl2 h0)
      have heq : m = pre.length := by omega
      subst heq
      have hle := (breaks_le hf hadd hbreaks).2
      have hcode : breaks (n.add f.cls) pre.length f = r := by omega
      rw [if_pos h0, hcode]

theorem firstMember_none {α β : Type} {p : α → Option β} {l : List α} (h : ∀ x ∈ l, p x = none) (m : Nat) : firstMember p m l = none := by
  induction l generalizing m with
  | nil => rfl
  | cons x l ih =>
    rw [List.forall_mem_cons] at h
    simp only [firstMember, h.1, ih h.2]

/-- A convoy whose members all decode and are legal, allowed and enabled, traps for the first limit that one breaks. -/
theorem convoyTrap_of_conflict {w : Work} {words : List Nat} {code : List Instr} {m r : Nat}
    (hdecode : words.map decodeWord = code.map Except.ok)
    (hpass : ∀ i ∈ code, w.legal i = true ∧ w.allowed i = true ∧ w.enabledTrap i = none)
    (hconflict : conflict .zero 0 (code.map (infoOf w.s.ctl.fmt)) = some (m, r)) :
    w.convoyTrap words = some { cause := cCONVOY_CONFLICT, acc := 0, stval := memberVal m r } := by
  have htoOption : decodedWord = Except.toOption ∘ decodeWord := by
    funext x
    simp only [decodedWord, Function.comp_apply]
    cases decodeWord x <;> rfl
  have hmembers : words.map decodedWord = code.map some := by
    rw [htoOption, ← List.map_map, hdecode, List.map_map]
    rfl
  have hcode : (words.map (fun x => (x, decodedWord x))).filterMap (fun p => p.2) = code := by
    rw [List.filterMap_map]
    exact (List.filterMap_map (f := decodedWord) (g := id)).symm.trans (by rw [hmembers, List.filterMap_map]; simp)
  unfold Work.convoyTrap
  dsimp only
  rw [firstMember_none]
  · simp only [hcode]
    rw [firstMember_none fun i hi => by rw [if_pos (hpass i hi).2.1]]
    dsimp only
    rw [firstMember_none fun i hi => (hpass i hi).2.2]
    dsimp only
    rw [hconflict]
  · intro p hp
    obtain ⟨x, hx, rfl⟩ := List.mem_map.1 hp
    obtain ⟨i, hi, hsome⟩ := List.mem_map.1 (hmembers ▸ List.mem_map_of_mem (f := decodedWord) hx)
    simp only [← hsome, (hpass i hi).1, if_true]

/-- A convoy of two or more words that traps at a check. -/
theorem nextWord_of_convoyTrap {w v : Work} {words : List Nat} {t : Trap} (hconvoy : w.s.thr.convoy = [])
    (hmembers : w.members w.s.regs.pc (2 ^ 55) = .ok (words, v)) (hlength : 2 ≤ words.length) (htrap : v.convoyTrap words = some t) :
    w.nextWord = .error (.trap v t) := by
  match words, hlength with
  | a :: b :: rest, _ => simp only [Work.nextWord, hconvoy, hmembers, bind, Except.bind, htrap]

/-- Settles O10: a word by the first check that it fails; a convoy by the first limit that a member breaks. -/
theorem checkOrder : Obligations.CheckOrder := by
  refine ⟨fun i s hword hissues hwindow hagenda => ?_,
    fun s w words code m r hagenda hruns hgate hwindow hconvoy hmembers hlength hdecode hpass => ?_⟩
  · intro takes word
    have htakes {t : Trap} : s.work.checkTrap i = some t → takes t := exec_of_check hword hagenda hissues hwindow
    refine ⟨fun h => htakes (checkTrap_illegal h), fun hlegal hlevel hsup => htakes (checkTrap_privileged hlegal ?_),
      fun hlegal hallowed => ⟨fun hvec hoff => ?_, fun hvec htile d hdetail => ?_, fun henabled pc hstale => ?_⟩⟩
    · rw [Work.allowed, hlevel, hsup]
      rfl
    · exact htakes (checkTrap_disabled hlegal hallowed (enabledTrap_vector hvec hoff))
    · exact htakes (checkTrap_disabled hlegal hallowed (enabledTrap_tile hvec htile hdetail))
    · exact htakes (checkTrap_stale hlegal hallowed henabled hstale)
  · intro info arith isCls upTo breaks hbreaks hfirst
    have hslot := (tied_keeps s s.cur).1
    have hsame (k c : Nat) : breaks k c ↔ Breaks (code.map info) k c := by
      simp only [Breaks, ← List.map_take, List.countP_map, List.getElem?_map, Option.map_eq_some_iff]
      exact ⟨fun ⟨i, hi, h⟩ => ⟨_, ⟨i, hi, rfl⟩, h⟩, fun ⟨_, ⟨i, hi, rfl⟩, h⟩ => ⟨i, hi, h⟩⟩
    have hconflict : conflict .zero 0 (code.map info) = some (m, r) :=
      conflict_of_breaks ((hsame m r).1 hbreaks) (fun k c h => hfirst k c ((hsame k c).2 h)) _ (pre := []) rfl
        ⟨rfl, rfl, rfl, rfl, rfl⟩ (Nat.zero_le 1) (Nat.zero_le m)
    exact step_stopped hagenda hruns hgate hwindow (nextWord_of_convoyTrap (by rw [hslot, hconvoy]) (by rw [hslot, hmembers]) hlength
      (convoyTrap_of_conflict hdecode hpass hconflict))

end Sys2Proof.Machine
end

section
/-! The events of the lanes' queues (03 R57; 04 R94; 07 R175 to R177; 09 R219, R238; 15 R365, R370; 16 R406, R407): what an event that
takes the oldest entry of a slot's window leaves, the arrivals of a lane, and the accepted operations of a tile unit. O42 follows. -/

namespace Sys2Proof.Machine

/-! ### The oldest entry of a window -/

/-- The state that a work of slot `n` leaves, the current slot still current. -/
def Work.leftBy (w : Work) (n : Nat) (s : State) : State := { w.finish { s with cur := n } with cur := s.cur }

section
variable {s : State} {n : Nat} {f : InFlight} {w w' : Work} (h : Work.inFlight (State.work { s with cur := n }) = some (f, w))
include h

/-- An entry that lacks only its last lane commits where the event is one of it. -/
theorem commitFlight_commits {p : InFlight → Bool} (hp : p f = true) (hr : w.s.toRun f = false) :
    commitFlight n p s = .next (w.commitOldest.leftBy n s) := by
  simp [commitFlight, asSlot, h, hp, hr, Work.leftBy]

/-- An entry that has still to be run is run to its end where the event is one of it. -/
theorem commitFlight_runs {p : InFlight → Bool} (hp : p f = true) (hr : w.s.toRun f = true)
    (e : w.runFlight f (meaningOf f.instr) = .ok w') : commitFlight n p s = .next (w'.leftBy n s) := by
  simp [commitFlight, asSlot, h, hp, hr, e, Work.leftBy]

/-- A window changes where the event is one of its oldest entry. -/
theorem onFlight_acts {p : Work → InFlight → Bool} {act : Work → InFlight → Work} (hp : p w f = true) :
    onFlight n p act s = .next ((act w f).leftBy n s) := by
  simp [onFlight, asSlot, h, hp, Work.leftBy]

end

/-- The entries that windows replay, as the obligation names them. -/
theorem replays_of_class {i : Info} (h : i.cls ≠ .scalar ∨ i.tile = true) : (i.cls != .scalar || i.tile) = true := by
  simpa using h

/-! ### Arrivals -/

/-- A lane that has completed the entries `fs` and not `g` arrives at `g`, a rendezvous. -/
theorem arriveAt_append {lane : Nat} {g : InFlight} {gs : List InFlight} (hg : g.lanes.getLsbD lane = false)
    (hm : isRendezvous g.ctl.fmt g.instr = true) (fs : List InFlight) (hfs : ∀ e ∈ fs, e.lanes.getLsbD lane = true) :
    arriveAt lane (fs ++ g :: gs) = fs ++ { g with arrivals := g.arrivals ||| BitVec.twoPow 16 lane } :: gs := by
  induction fs with
  | nil => simp [arriveAt, bitB, hg, hm]
  | cons e es ih =>
    obtain ⟨he, hes⟩ := List.forall_mem_cons.mp hfs
    simp [arriveAt, bitB, he, ih hes]

/-- A window that holds a rendezvous has an entry behind its oldest one, or its oldest one is the rendezvous. -/
theorem window_meets {l fs gs : List InFlight} {f g : InFlight} (hl : l = fs ++ g :: gs)
    (hm : isRendezvous g.ctl.fmt g.instr = true) : (l != [f] || isRendezvous f.ctl.fmt f.instr) = true := by
  by_cases hf : l = [f]
  · have hg : g = f := by
      have : g ∈ [f] := hf ▸ hl ▸ by simp
      simpa using this
    simp [← hg, hm]
  · simp [hf]

/-! ### Mismatches -/

/-- The first mismatch at an entry is counted and reissues the window. -/
theorem mismatch_first {w : Work} {f : InFlight} {kind place : Nat} {key : AnnalsKey} {avoid : List Nat}
    (h : f.mismatched = false) : w.mismatch f kind place key avoid =
      (({ w with m := w.m.countAnnals key } : Work).putWindow ({ f with mismatched := true } :: w.s.thr.window.drop 1)).replay := by
  simp only [Work.mismatch, h]; rfl

/-- The second one stops the slot. -/
theorem mismatch_second {w : Work} {f : InFlight} {kind place : Nat} {key : AnnalsKey} {avoid : List Nat}
    (h : f.mismatched = true) : w.mismatch f kind place key avoid = w.stopAt kind place avoid := by
  simp [Work.mismatch, h]

/-- The first mismatch of an accepted operation is counted, and the operation runs again. -/
theorem tileMismatch_first {w : Work} {op : TileOp} {lane : Nat} (h : op.mismatched = false) :
    w.tileMismatch op lane = ({ w with m := w.m.countAnnals (.laneMismatch (coreOf w.m.cur) lane) } : Work).replayLaneOp
      w.m.cur { op with mismatched := true } := by
  simp [Work.tileMismatch, h]

/-- The second one undoes its acceptance and stops the slot. -/
theorem tileMismatch_second {w : Work} {op : TileOp} {lane : Nat} (h : op.mismatched = true) :
    w.tileMismatch op lane =
      (w.undoLaneOps w.m.cur).stopAt mcLane (coreOf w.m.cur * 16 + lane) [coreOf w.m.cur] := by
  simp [Work.tileMismatch, h]

/-! ### The accepted operations of a tile unit -/

/-- The operation in the queues of a slot's lanes is the first that the tile unit of its core holds, and that core is the slot's. -/
theorem laneOp_some {m : Mach} {n : Nat} {op : TileOp} (h : m.laneOp n = some op) :
    (m.core (coreOf n)).owner = some n ∧ (∃ ops, (m.core (coreOf n)).tileOps = op :: ops) ∧ (m.slot n).tileReached op = true := by
  dsimp only [Mach.laneOp] at h
  split at h
  next ho =>
    obtain ⟨hhead, hp⟩ := Option.filter_eq_some_iff.mp h
    simp only [Bool.and_eq_true] at hp
    exact ⟨ho, List.head?_eq_some_iff.mp hhead, hp.2⟩
  next => cases h

section
variable {w0 w : Work} {n : Nat} {op : TileOp} {t : Trap} (h : w0.m.laneOp n = some op)
include h

/-- Its end, where its work is done. -/
theorem finishTile_done (e : w0.tileWork n op = .ok w) :
    finishTile (coreOf n) w0 = .ok (w.tileEnd (coreOf n) n op none) := by
  obtain ⟨ho, ⟨ops, hops⟩, hr⟩ := laneOp_some h
  simp [finishTile, ho, hops, hr, e]

/-- Its end by a fault that no replay answers. -/
theorem finishTile_fault (e : w0.tileWork n op = .error (.trap w t)) (ht : t.cause ≠ 0x10 ∨ t.stval ∈ op.consumed) :
    finishTile (coreOf n) w0 = .ok (w.tileEnd (coreOf n) n op (some t)) := by
  obtain ⟨ho, ⟨ops, hops⟩, hr⟩ := laneOp_some h
  have hc : ¬(t.cause = cMEMORY_POISON ∧ t.stval ∉ op.consumed) := by simpa [cMEMORY_POISON, imp_iff_not_or] using ht
  simp [finishTile, ho, hops, hr, e, hc]

/-- An uncorrectable error that it consumes for the first time leaves it to run again, which the Annals count. -/
theorem finishTile_again (e : w0.tileWork n op = .error (.trap w t)) (hc : t.cause = 0x10) (hs : t.stval ∉ op.consumed) :
    finishTile (coreOf n) w0 = .ok { w0 with
      m := (w0.setTileOp (coreOf n) { op with arrivals := 0, consumed := t.stval :: op.consumed }).m.countAnnals
        (.windowReplay (coreOf n)) } := by
  obtain ⟨ho, ⟨ops, hops⟩, hr⟩ := laneOp_some h
  simp [finishTile, ho, hops, hr, e, hc, hs, cMEMORY_POISON, Work.setTileOp]

end

/-- With all lanes arrived the event is that end. -/
theorem tileOpComplete_ends {s : State} {n : Nat} {op : TileOp} {w : Work} (h : s.toMach.laneOp n = some op)
    (ha : op.arrivals = 0xFFFF) (e : finishTile (coreOf n) s.work = .ok w) :
    exec (.tileOpComplete (coreOf n)) s = .next (w.finish s) := by
  obtain ⟨ho, -, -⟩ := laneOp_some h
  calc exec (.tileOpComplete (coreOf n)) s
      = event (finishTile (coreOf n)) s := by simp [exec, execTileOpComplete, ho, h, ha]
    _ = .next (w.finish s) := event_ok e

/-- A mismatch of paired lanes in protected mode is one of the accepted operation in their queues. -/
theorem laneMismatch_of_op {s : State} {n : Nat} {op : TileOp} {low : Fin 8} (h : s.toMach.laneOp n = some op)
    (hp : (State.work { s with cur := n }).prot = true) (hst : (State.work { s with cur := n }).s.unit.st = .run) :
    exec (.laneMismatch n low) s = .next (((State.work { s with cur := n }).tileMismatch op low.val).leftBy n s) := by
  have hr : (State.work { s with cur := n }).s.unit.st.runs = true := by rw [hst]; rfl
  simp [exec, execLaneMismatch, h, asSlot, hp, hr, Work.leftBy]

/-! ### O42 -/

/-- Settles O42, event by event: an entry of the slot's window is committed, run or replayed by the rules above, an accepted tile
operation in the lanes' queues by those of the tile unit, and a trap by `settle`. -/
theorem inFlightEvents : Obligations.InFlightEvents := by
  refine ⟨fun s n => ⟨fun f w h => ⟨fun hr hc hm => ?_, fun hr w1 e => ⟨fun hc hm => ?_, fun hc ht hm hl hw => ?_,
    fun hm ht ha => ?_, fun hm ht ha ho hl => ?_⟩⟩, fun op h ha => ⟨fun w e => ?_, fun w t e => ⟨fun ht => ?_, fun hc hs => ?_⟩⟩⟩,
    fun s n lane low => ⟨fun hl f w h => ⟨fun fs g gs hw hfs hg hm => ?_, fun hc => ?_, fun hp hc => ⟨fun hf => ?_, fun hf => ?_⟩,
      fun hp => ⟨fun hf => ?_, fun hf => ?_⟩⟩, fun op h => ⟨?_, ?_, fun hp hst hm => ?_, fun hp hst hm => ?_⟩⟩,
    fun s n w w' t h e => ?_⟩
  -- the oldest entry of the window commits, or is run to its end
  · exact commitFlight_commits h (by simp_all [InFlight.info]) hr
  · exact commitFlight_runs h (by simp_all [InFlight.info]) hr e
  · exact commitFlight_runs h (by simp_all [InFlight.info]) hr e
  · exact commitFlight_runs h (by simp_all [InFlight.info]) hr e
  · calc exec (.tileOpComplete (coreOf n)) s
        = commitFlight n (fun f => f.info.tile && isRendezvous f.ctl.fmt f.instr && f.arrivals == 0xFFFF) s := by
          simp [exec, execTileOpComplete, ho, hl]
      _ = .next (w1.leftBy n s) := commitFlight_runs h (by simp_all [InFlight.info]) hr e
  -- an accepted tile operation ends, or runs again
  · exact tileOpComplete_ends h ha (finishTile_done h e)
  · exact tileOpComplete_ends h ha (finishTile_fault h e ht)
  · exact tileOpComplete_ends h ha (finishTile_again h e hc hs)
  -- arrivals, replays and mismatches of the slot's own window
  · calc exec (.rendezvousArrival n lane) s
        = .next ((w.putWindow (arriveAt lane.val w.s.thr.window)).leftBy n s) := by
          simp only [exec, execRendezvousArrival, hl]
          exact onFlight_acts h (window_meets hw hm)
      _ = _ := by rw [hw, arriveAt_append hg hm fs hfs]; rfl
  · simp only [exec, execWindowReplay, hl]
    exact onFlight_acts h (replays_of_class hc)
  · simp only [exec, execLaneMismatch, hl]
    rw [onFlight_acts h (by rw [hp, Bool.true_and]; exact replays_of_class hc), mismatch_first hf]; rfl
  · simp only [exec, execLaneMismatch, hl]
    rw [onFlight_acts h (by rw [hp, Bool.true_and]; exact replays_of_class hc), mismatch_second hf]; rfl
  · simp only [exec, execLockstepMismatch]
    rw [onFlight_acts h hp, mismatch_first hf]; rfl
  · simp only [exec, execLockstepMismatch]
    rw [onFlight_acts h hp, mismatch_second hf]; rfl
  -- the same of an accepted tile operation in the lanes' queues
  · simp only [exec, execRendezvousArrival, h]; rfl
  · simp only [exec, execWindowReplay, h]; rfl
  · rw [laneMismatch_of_op h hp hst, tileMismatch_first hm]; rfl
  · rw [laneMismatch_of_op h hp hst, tileMismatch_second hm]; rfl
  -- the trap of the oldest entry is taken
  · simp only [exec, execTrapEntry, asSlot, h, settle_trap none e]

end Sys2Proof.Machine
end
